-- ==== Sys2Proof/Word.lean ====
section
/-! DEFINITION. The word types of the NST-8064 model. -/

namespace Sys2Proof

/-- A byte of device memory, SRAM, or a record (R9). -/
abbrev Byte := BitVec 8

/-- A register of BAR0 (R12). -/
abbrev W32 := BitVec 32

/-- A 64-bit value: a register pair, a seed, a mask of class numbers. -/
abbrev W64 := BitVec 64

end Sys2Proof
end

