-- ==== Sys2Proof/Config.lean ====
section
/-! DEFINITION. What a part or an implementation fixes (R1, R2, R24, R119, R124, R331, R380), and the free values:
constants without a body that stand for values the spec does not state. -/

namespace Sys2Proof

/-- The four parts of R2. -/
inductive Part where
  | nst8064 | nst8048 | nst8032 | nst8016
  deriving DecidableEq, Repr

namespace Config

/-- Part number as DEV_PART.PART (R331). -/
def partNumber : Part → Nat
  | .nst8064 => 0x8064 | .nst8048 => 0x8048 | .nst8032 => 0x8032 | .nst8016 => 0x8016

/-- Enabled compute dies (R331). -/
def computeDies : Part → Nat
  | .nst8064 => 8 | .nst8048 => 6 | .nst8032 => 4 | .nst8016 => 2

/-- Enabled I/O dies (R331). -/
def ioDies : Part → Nat
  | .nst8064 => 4 | .nst8048 => 3 | .nst8032 => 2 | .nst8016 => 1

/-- Logical cores, 32 to a compute die (R2). -/
def logicalCores (p : Part) : Nat := 32 * computeDies p

/-- Physical cores, 34 to a compute die (R329). -/
def physicalCores (p : Part) : Nat := 34 * computeDies p

/-- Memory controllers, update units and GDDR7 devices (R2). -/
def memDevices (p : Part) : Nat := 4 * ioDies p

/-- Embedding engines (R331). -/
def embEngines (p : Part) : Nat := 2 * ioDies p

/-- Peer links (R24). -/
def peerLinks (p : Part) : Nat := 6 * ioDies p

/-- GDDR7 channels (R124). -/
def channels (p : Part) : Nat := 16 * ioDies p

/-- Bytes of GDDR7: 96 GiB to a device (R119). -/
def capacity (p : Part) : Nat := memDevices p * 96 * 2 ^ 30

/-- First address of the reserved region, the top 4 GiB (R119). -/
def reservedBase (p : Part) : Nat := capacity p - 4 * 2 ^ 30

/-- Class sizes the part allows (R2, R20). -/
def sizeAllowed (p : Part) (n : Nat) : Bool :=
  match p with
  | .nst8016 => n == 16
  | _ => n == 16 || n == 32 || n == 48 || n == 64

/-- Longest ring of an attention sequence (R199). -/
def maxRing : Part → Nat
  | .nst8064 => 64 | .nst8048 => 64 | .nst8032 => 1 | .nst8016 => 1

/-- Fuse word DIES of R380. -/
def fuseDies : Part → Nat
  | .nst8064 => 0x0FFF | .nst8048 => 0x073F | .nst8032 => 0x030F | .nst8016 => 0x0103

/-- Fuse word LINKS of R380. -/
def fuseLinks : Part → Nat
  | .nst8064 => 0x00FFFFFF | .nst8048 => 0x0003FFFF | .nst8032 => 0x0FFF | .nst8016 => 0x003F

/-- Fuse word MEMORY of R380. -/
def fuseMemory : Part → Nat
  | .nst8064 => 0xFFFF | .nst8048 => 0x0FFF | .nst8032 => 0x00FF | .nst8016 => 0x000F

/-! ### Free values -/

/-- SHA-256 of R403 (FIPS 180-4): the spec names it and does not define it (DESIGN CHOICE, log 8). -/
opaque sha256 : List Byte → List Byte

/-- RSASSA-PSS verification of R404 over modulus, message and signature (DESIGN CHOICE, log 8). -/
opaque rsaVerify : List Byte → List Byte → List Byte → Bool

/-- RSASSA-PSS signature of R404 with the identity key of the module (DESIGN CHOICE, log 8). -/
opaque rsaSign : List Byte → List Byte

/-- Whether the wrapped identity key passes the integrity check of its unwrap under the fuse key (R411; DESIGN CHOICE, log 8). -/
opaque identityUnwraps : Bool

/-- The free values of plain numbers: the n-th value drawn (DESIGN CHOICE, log 7). -/
opaque freeNat : Nat → Nat

/-- The free nonces of R418: the n-th draw of the random source of the security block (DESIGN CHOICE, log 7). -/
opaque freeNonce : Nat → List Byte

end Config
end Sys2Proof
end

