-- ==== Sys2Proof/Syntax.lean ====
section
/-! DEFINITION. The commands of the block, one constructor per row of spec/opcode_table.json, and the types of their
operands. A row that reads host memory or a physical quantity carries what the device reads as an operand (DESIGN CHOICE, log 2). -/

namespace Sys2Proof

/-- Element formats of R47. -/
inductive Fmt where
  | fp64 | fp32 | fp16 | bf16 | e4m3 | e5m2 | fp4 | int8 | int4 | t2 | e8m0
  deriving DecidableEq, Repr

/-- Numeric modes of R57. -/
inductive NumMode where
  | fast | strict | legacy
  deriving DecidableEq, Repr

/-- Rounding directions of R57. -/
inductive Rounding where
  | rne | rtz | rup | rdn
  deriving DecidableEq, Repr

/-- Tensor kinds of R99. -/
inductive Kind where
  | w | a | g | wg | e | kv | m
  deriving DecidableEq, Repr

/-- Pair states of R39. -/
inductive PairState where
  | unformed | paired | sole | enrollingSource | enrollingTarget | detached
  deriving DecidableEq, Repr

/-- A submission slot, decoded under R291. The payload is bytes 0x40 to 0xFF as read. -/
structure Slot where
  opcode : Nat
  sequence : Nat
  ctl : Nat
  inlineBytes : Nat
  reserved6 : Nat
  requestId : Nat
  step : Nat
  operand : Nat
  param0 : Nat
  param1 : Nat
  param2 : Nat
  reserved38 : Nat
  payload : List Byte
  deriving DecidableEq, Repr

/-- A consumed command: where its slot stood, the completion ring in force then, and the slot (R290, R291). -/
structure HostCmd where
  fn : Nat
  queue : Nat
  index : Nat
  cqBase : Nat
  slot : Slot
  deriving DecidableEq, Repr

/-- What a read of a 64-byte sector of GDDR7 meets (R125, R126): which of the 68 bytes of its code word are wrong, whether it came
from a wrong address, and how many retries it took after a CRC error. -/
structure SectorRead where
  addr : Nat
  wrong : List Nat
  misplaced : Bool
  retries : Nat
  deriving DecidableEq, Repr

/-- What scrub meets at the sector it reads (R125, R128): the wrong bytes of its code word, whether it came from a wrong address, and its
retries. -/
structure ScrubRead where
  wrong : List Nat
  misplaced : Bool
  retries : Nat
  deriving DecidableEq, Repr

/-- A read of registers (R17): offset and width in bytes. -/
structure ReadAt where
  offset : Nat
  width : Nat
  deriving DecidableEq, Repr

/-- A CXL.mem read: its bytes, and what its sectors meet. -/
structure LineRead where
  bytes : Nat
  met : List SectorRead
  deriving DecidableEq, Repr

/-- What a read of a 64-bit SRAM word meets (R122): its offset, and how many of its bits are wrong. -/
structure WordRead where
  off : Nat
  wrongBits : Nat
  deriving DecidableEq, Repr

/-- Header of a message (R239). crcOk says that HEADER_CRC and PAYLOAD_CRC hold, twinned that the message is one of twinned
state, which both ends read from the descriptor of TENSOR_ID (R31, R241), and met what the sectors that its receiver reads for it
hold (R125). -/
structure MsgHdr where
  kind : Nat := 0
  job : Nat := 0
  layoutEpoch : Nat := 0
  tableEpoch : Nat := 0
  last : Bool := false
  multicast : Bool := false
  direction : Bool := false
  step : Nat := 0
  sequence : Nat := 0
  srcClass : Nat := 0
  srcChannel : Nat := 0
  owner : Nat := 0
  dstPoint : Nat := 0
  ringId : Nat := 0
  tensorId : Nat := 0
  offset : Nat := 0
  srcPosition : Nat := 0
  crcOk : Bool := true
  twinned : Bool := false
  met : List SectorRead := []
  deriving DecidableEq, Repr

/-- A stream of R241: sender, sending channel, receive point, OWNER. The multicast messages of twinned state are numbered apart
from all other traffic of the same OWNER, so that the marks of both twins stay equal (DEDUCED, log 83). -/
structure StreamKey where
  src : Nat
  channel : Nat
  point : Nat
  owner : Nat
  twinned : Bool := false
  deriving DecidableEq, Repr

/-- A class command as it is relayed (R299): the accepting module, a tag, the slot, and what its operand named. -/
structure ClassCmd where
  accepter : Nat
  tag : Nat
  fn : Nat
  slot : Slot
  data : List Byte
  withdraw : Bool
  deriving DecidableEq, Repr

/-- A key of a table: shard and slot (R150). -/
structure RowKey where
  shard : Nat
  slot : Nat
  deriving DecidableEq, Repr

/-- One entry of a look-up reply (R154); fail carries the status and details of a key that could not be answered. -/
structure ReplyEntry where
  key : RowKey
  weights : List Byte
  version : Nat
  fail : Option (Nat × Nat × Nat)
  deriving DecidableEq, Repr

/-- One gradient row on the wire (R160). -/
structure GradRow where
  key : RowKey
  elems : List Nat
  deriving DecidableEq, Repr

/-- The step-close contribution of R253. pending names what this module holds for the next step boundary that every module has
reached: tables (R144), rings from 2^16 up (R247), tensors to restart from 2^17 up (R107) (DEDUCED, log 84). -/
structure CloseContribution where
  histories : List (Nat × Int)
  drainedTables : List Nat
  reshardDrained : Bool
  permuteDone : Bool
  pendingHands : Nat
  pending : List Nat := []
  deriving DecidableEq, Repr

/-- The gradebook contribution of one tracked tensor (R272). -/
structure GradeContribution where
  tensor : Nat
  updated : Nat
  changed : Nat
  answered : Bool
  lift : Nat
  deriving DecidableEq, Repr

/-- One module's part in an exchange of the class, with the module it comes from: the step-close exchange, the gradebook
exchange, the drain and the permute-done all-reduce of a re-shard (R253, R272, R261, R262). -/
inductive ExchangePart where
  | close (origin : Nat) (c : CloseContribution)
  | grade (origin : Nat) (c : List GradeContribution)
  | drained (origin : Nat) (epoch : Nat)
  | permuted (origin : Nat) (epoch : Nat)
  deriving DecidableEq, Repr

/-- A record or tile as it lies in device memory, with its check word where it has one. -/
structure StoredItem where
  addr : Nat
  bytes : List Byte
  checkAddr : Nat
  checkWord : Nat
  deriving DecidableEq, Repr

/-- What an enrolment segment carries (R43): the bytes of the segment, forwarded writes in their order, and the step that has ended. -/
structure SegmentContent where
  cells : List (Nat × Byte)
  forwards : List StoredItem
  stepEnd : Option Nat
  deriving DecidableEq, Repr

/-- What a member tells the ring before an attention run (R205): the formats of its keys and values, its STRICT_FORMAT and
MIN_KEY (DEDUCED, log 44). -/
structure OpenFormats where
  kFormat : Nat
  vFormat : Nat
  strict : Bool
  minKey : Nat
  backward : Bool := false
  deriving DecidableEq, Repr

/-- A parcel of R212: its identity of R215 and its tiles. -/
structure ParcelId where
  step : Nat
  ringId : Nat
  tensorId : Nat
  backward : Bool
  source : Nat
  clockwise : Bool
  returning : Bool
  layoutEpoch : Nat
  job : Nat := 0
  deriving DecidableEq, Repr

/-- Where an item of a routed command takes effect (R166, R163, R40, R45). -/
inductive RoutedItem where
  | roll (table : Nat) (index : Nat) (version : Nat) (zeroState : Bool) (weights : List Byte) (fixed : Option Nat)
  | stage (table : Nat) (index : Nat) (record : List Byte) (last : Bool)
  | detach (leaving : Nat)
  | attach (joiner : Nat) (part : Nat) (size : Nat) (seed : W64) (reports : Bool)
  deriving DecidableEq, Repr

/-- A registered ring (R247). -/
structure Ring where
  members : List Nat
  linkSet : Nat
  broken : Bool
  deriving DecidableEq, Repr

/-- A table descriptor (R145). -/
structure TableDesc where
  table : Nat
  tag : Nat
  twinned : Bool
  hashMap : Bool
  beside : Bool
  momentFp32 : Bool
  optimiser : Nat
  elements : Nat
  stride : Nat
  shards : Nat
  replaceMode : Nat
  active : Nat
  layoutEpoch : Nat
  tensor : Nat
  rows : Nat
  seed : Nat
  mask : Nat
  shardBytes : Nat
  slot0 : Nat
  slot1 : Nat
  check0 : Nat
  check1 : Nat
  aux : Nat
  epoch0 : Nat
  epoch1 : Nat
  switchStep : Nat
  deriving DecidableEq, Repr

/-- A dense shard descriptor (R174). -/
structure ShardDesc where
  tensor : Nat
  tag : Nat
  twinned : Bool
  momentFp32 : Bool
  optimiser : Nat
  layoutEpoch : Nat
  tiles : Nat
  weightBase : Nat
  stateBase : Nat
  weightStride : Nat
  stateStride : Nat
  deriving DecidableEq, Repr

/-- An optimiser parameter record (R176); the FP32 fields are codes. -/
structure Params where
  tensor : Nat
  mode : NumMode
  lr : Nat
  beta1 : Nat
  beta2 : Nat
  epsilon : Nat
  decay : Nat
  gscale : Nat
  start : Nat
  effective : Nat
  deriving DecidableEq, Repr

/-- The scaling record of a tracked tensor with its silent-layer state (R106, R116, R277). own is this module's entry
of the open step; waitP says that a pre-scale hand holds the G conversions; silentHand says that a silent-layer hand
stands, silentItems what it carries and answer the answer it has; resetAsked says that a SCALE_RESET waits for its common
step boundary and resetDue names the step at whose close it acts,
liftDue the LIFT and effective step of a GRADEBOOK_LIFT. -/
structure ScaleRec where
  p : Int
  count : Nat
  lift : Nat
  step : Nat
  hist : List Int
  own : Int
  silentRun : Nat
  silentHand : Bool
  silentItems : List Nat
  answer : Option Nat
  waitP : Bool
  resetAsked : Bool
  resetDue : Option Nat
  liftDue : Option (Nat × Nat)
  deriving DecidableEq, Repr

/-- Outlier channels of a W tensor (R111 to R114): the current and the pending list with its effective step, the list the
host supplied, a proposal with its selection step while its hand stands, the channel maxima as FP32 codes, and the maxima
of other modules by selection step. -/
structure Outliers where
  current : List Nat
  next : Option (List Nat × Nat)
  host : Option (List Nat)
  proposed : List Nat
  proposedStep : Nat
  hand : Bool
  stats : List (Nat × Nat)
  peers : List (Nat × Nat × Nat)
  deriving DecidableEq, Repr

/-- The job state that a source sends (R45): job, layout epoch and open step, members, descriptors, rings, scaling
records, outlier lists with their statistics, and the receive marks of every stream. -/
structure JobStateMsg where
  job : Nat
  layoutEpoch : Nat
  openStep : Nat
  members : W64
  descs : List (Nat × TableDesc)
  factors : List (Nat × List Nat)
  shards : List (Nat × ShardDesc)
  params : List (Nat × Params)
  rings : List (Nat × Ring)
  scaling : List (Nat × ScaleRec)
  outliers : List (Nat × Outliers)
  marks : List (StreamKey × Nat)
  deriving DecidableEq, Repr

/-- A message body, as the module sends it. -/
inductive Body where
  | partialSum (elems : List Nat) (bf16 : Bool := false)
  | chunk (bytes : List Byte)
  | block (bytes : List Byte)
  | batch (keys : List RowKey)
  | reply (entries : List ReplyEntry)
  | gradRows (rows : List GradRow)
  | gradTile (line depth : Nat) (elems : List Nat)
  | parcel (pid : ParcelId) (items : List (List Byte))
  | ringOpen (f : OpenFormats)
  | move (addr : Nat) (bytes : List Byte)
  | mark
  | exchange (p : ExchangePart)
  | ack (stream : StreamKey) (upTo : Nat)
  | reject (stream : StreamKey) (sequence : Nat)
  | abort (cls : Nat) (addr : Nat)
  | removal (lost : Nat) (step : Nat)
  | readmission (target : Nat) (step : Nat)
  | relay (c : ClassCmd)
  | answer (tag : Nat) (status : Nat) (detail0 detail1 : Nat)
  | routed (item : RoutedItem) (tag : Nat)
  | heartbeat
  | recoveryNotice (state : PairState) (channelLost : Bool)
  | digests (step : Nat) (ds : List (Nat × Nat))
  | granuleHashes (segment : Nat) (step : Nat) (hashes : List Nat)
  | repairStep (addr : Nat) (u : Nat) (isAnswer : Bool) (act : Nat)
  | repairCopy (item : StoredItem) (ok offered : Bool)
  | serveRequest (addr bytes step : Nat) (byUpdate : Bool)
  | servedCopy (item : StoredItem) (ownResult : Bool)
  | enrolRequest
  | jobState (j : JobStateMsg)
  | segment (base length : Nat) (cells : List (Nat × Byte)) (forwards : List StoredItem) (stepEnd : Option Nat)
  | recessNotice
  | wakeNotice
  deriving DecidableEq, Repr

/-- The way that a message takes off the module (R27, R28, R246): the module it goes to next, the links it is spread over, and
whether it is a detour. -/
structure Route where
  hop : Nat
  links : List Nat
  detour : Bool
  deriving DecidableEq, Repr

/-- A message as sent: destination class number, header, body, and its way off the module once it is launched. -/
structure Msg where
  dst : Nat
  hdr : MsgHdr
  body : Body
  via : Route := ⟨0, [], false⟩
  deriving DecidableEq, Repr

/-- One operand of a matrix pass in SRAM (R71): format tag, base of line 0, bytes from line to line, base of the scales
of line 0, bytes from line to line of scales. How a program names it is the compiler's (DESIGN CHOICE, log 11). -/
structure MatOperand where
  tag : Nat
  base : Nat
  stride : Nat
  scaleBase : Nat
  scaleStride : Nat
  deriving DecidableEq, Repr

/-- A matrix pass (R71), with what its SRAM words turn out to hold (R122). -/
structure MatPass where
  tileRow : Nat
  tileCol : Nat
  a : MatOperand
  b : MatOperand
  k : Nat
  rows : Nat
  cols : Nat
  mode : NumMode
  rounding : Rounding
  accIn : Option Nat
  weights : Option (Nat × Nat) := none
  sideBase : Nat
  tensorId : Nat
  outFormat : Nat
  words : List WordRead := []
  deriving DecidableEq, Repr

/-- Where an operand of a vector operation comes from (R92): row r of a buffer or of the tray head holds elements n*r up,
where n is the number of lanes; an SRAM operand has a format tag and, with group scales, the offset of its scales. -/
inductive VecSrc where
  | buffer (n row : Nat)
  | tray (row : Nat)
  | broadcast (code : Nat)
  | sram (offset tag scaleOffset : Nat)
  deriving DecidableEq, Repr

/-- A broadcast (R90): one lane's value for every lane, or one value for each tile row. -/
inductive Spread where
  | one (lane : Nat)
  | perRow (lane : Nat)
  deriving DecidableEq, Repr

/-- An operand with its modifiers (R90): negate, absolute value, lane exchange distance (0 for none), broadcast. -/
structure VecOperand where
  src : VecSrc
  neg : Bool
  abs : Bool
  exchange : Nat
  spread : Option Spread := none
  deriving DecidableEq, Repr

/-- The native operations of R88, and the pass-through store of R93. -/
inductive VecFn where
  | add | mul | fma | min | max | select (mask : Nat) | cmpEq (mask : Nat) | cmpNe (mask : Nat) | cmpLt (mask : Nat)
  | cmpGt (mask : Nat) | pass
  deriving DecidableEq, Repr

/-- Where the result goes (R92, R93): a tile buffer row, or SRAM under a format tag with the recipe of a tensor kind,
its scales at an offset of their own, and where the value passes from another tracked tensor, that tensor (R105). -/
inductive VecDst where
  | buffer (n row : Nat)
  | sram (offset tag : Nat) (kind : Kind) (scaleOffset : Nat) (handOver : Option Nat)
  deriving DecidableEq, Repr

/-- A vector operation on one row of lanes (R88), with what its SRAM words turn out to hold (R122). release frees the tray head after
it (R86). -/
structure VecOp where
  fn : VecFn
  lane : Fmt
  args : List VecOperand
  dst : VecDst
  mode : NumMode
  rounding : Rounding
  tensorId : Nat
  release : Bool
  words : List WordRead := []
  deriving DecidableEq, Repr

/-- The functions of R94. -/
inductive SpecialFn where
  | exp2 | log2 | recip | rsqrt
  deriving DecidableEq, Repr

/-- A transfer of R137: identifier, buffer, ends, and whether the data are a tile with a header (R136). data are the
bytes read where the source is host memory or the peers of a gather; met and words what the sectors and SRAM words it reads turn out
to hold (R122, R125). -/
structure Transfer where
  ident : Nat
  buffer : Nat
  sramOffset : Nat
  addr : Nat
  bytes : Nat
  inHost : Bool
  isTile : Bool
  twinned : Bool
  layoutEpoch : Nat
  data : List Byte
  met : List SectorRead := []
  words : List WordRead := []
  deriving DecidableEq, Repr

/-- What a step program declares (R30, R158): its step, the look-ups and backward passes of each table, the tensors
whose dense gradients it sends, the receive log of R368, and the transfers of its restore list (R367). -/
structure StepDecl where
  step : Nat
  lookups : List (Nat × Nat)
  backwards : List (Nat × Nat)
  denseTiles : Nat
  restoreList : List Transfer
  deriving DecidableEq, Repr

/-- What roll call, the BISTs and training find at power-on or in device recovery (R384 to R395): physical cores that
fail logic BIST once and twice, cores that fail memory BIST, soft repairs made per core, cores that fail the firmware
load, links that fail training, the rate each channel settles at (0: out of service), other units that fail, sectors
that read back wrong. -/
structure TestReport where
  lbistOnce : List Nat
  lbistTwice : List (Nat × Nat)
  mbistFail : List Nat
  softRepairs : List (Nat × Nat)
  firmwareFail : List Nat
  linkFail : List Nat
  channelRates : List (Nat × Nat)
  unitFail : List (Nat × Nat)
  sweepFail : List Nat
  durationTicks : Nat
  deriving DecidableEq, Repr

/-- The commands of the block. -/
inductive Instr where
  -- commands of submission slots (R298, R412, R345)
  | nop (c : HostCmd)
  | queueCreate (c : HostCmd)
  | queueDelete (c : HostCmd)
  | hostRingsSet (c : HostCmd)
  | functionMap (c : HostCmd)
  | biasSet (c : HostCmd)
  | classForm (c : HostCmd) (joining : Bool)
  | twinDetach (c : HostCmd)
  | twinAttach (c : HostCmd)
  | jobStart (c : HostCmd)
  | jobEnd (c : HostCmd)
  | gradebookSet (c : HostCmd)
  | recessEnter (c : HostCmd)
  | secAttest (c : HostCmd)
  | secIdentityRead (c : HostCmd)
  | secFirmwareStage (c : HostCmd) (image : List Byte)
  | secRollbackCommit (c : HostCmd)
  | secDebugChallenge (c : HostCmd)
  | secDebugUnlock (c : HostCmd) (token : List Byte)
  | secDebugLock (c : HostCmd)
  | programRun (c : HostCmd) (image : List Byte) (decl : StepDecl)
  | dmaCopy (c : HostCmd) (data : List Byte)
  | objectPlace (c : HostCmd) (data : List Byte)
  | objectFree (c : HostCmd)
  | tableDefine (c : HostCmd)
  | tableSwitch (c : HostCmd)
  | tableStage (c : HostCmd) (data : List Byte)
  | tableRoll (c : HostCmd) (data : List Byte)
  | embLookup (c : HostCmd)
  | embBackward (c : HostCmd)
  | shardDefine (c : HostCmd)
  | optimSet (c : HostCmd)
  | scaleReset (c : HostCmd)
  | outlierSet (c : HostCmd) (data : List Byte)
  | attRun (c : HostCmd) (data : List Byte)
  | attDecode (c : HostCmd)
  | kvPoolDefine (c : HostCmd)
  | kvSeqOpen (c : HostCmd) (data : List Byte)
  | kvShare (c : HostCmd) (data : List Byte)
  | kvRelease (c : HostCmd) (data : List Byte)
  | colRingDefine (c : HostCmd)
  | colRun (c : HostCmd) (data : List Byte)
  | reshard (c : HostCmd) (plan : List Byte)
  | gradebookLift (c : HostCmd)
  | gradebookCompare (c : HostCmd) (data : List Byte)
  -- host interface
  | doorbell (fn queue : Nat) (value : W64)
  | slotRead (fn queue : Nat) (bytes : List Byte)
  | slotReRead (fn queue : Nat) (bytes : List Byte)
  | completionPost (fn queue : Nat)
  | classCommandRelay (h : MsgHdr) (c : ClassCmd)
  | memberAnswer (h : MsgHdr) (tag status detail0 detail1 : Nat)
  | adminQueueEnable (fn : Nat) (value : W32)
  | adminQueueDisable (fn : Nat) (value : W32)
  | resumeGo (fn : Nat)
  | eventHeadWrite (fn : Nat) (value : W32)
  | handHeadWrite (fn : Nat) (value : W32)
  | transcriptHeadWrite (fn : Nat) (value : W64)
  | twinRepairAnswer (fn : Nat) (value : W32)
  | prescaleAnswer (fn : Nat) (value : W32)
  | outlierAnswer (fn : Nat) (value : W32)
  | silentLayerAnswer (fn : Nat) (value : W32)
  | tableSwitchAnswer (fn : Nat) (value : W32)
  | memRetrainAnswer (fn unit : Nat) (value : W32)
  | linkRetrainAnswer (fn link : Nat) (value : W32)
  | substitutionAnswer (fn : Nat) (value : W32)
  | hangEscalationAnswer (fn : Nat) (value : W32)
  | staggeringAnswer (fn : Nat) (value : W32)
  | thermalStepAnswer (fn : Nat) (value : W32)
  | deviceRecoveryRequest (fn : Nat)
  | functionResetRequest (fn offset : Nat)
  | memRetrainRequest (fn unit : Nat)
  | linkRetrainRequest (fn link : Nat)
  | registerWrite (fn offset width : Nat) (value : W64)
  | pairLowHalfRead (fn : Nat) (read : ReadAt)
  | i3cRegisterRead (address offset : Nat)
  | i3cRegisterWrite (address offset : Nat) (value : W32)
  | smbusReadPart
  | smbusReadSerial
  | smbusReadJunction
  | smbusReadPower
  | smbusReadState
  | smbusReadTstStat
  | cxlMemRead (addr : Nat) (read : LineRead)
  | cxlMemWrite (addr : Nat) (data : List Byte)
  | cxlSnoop (addr : Nat)
  | hostLinkTrained (rate width : Nat)
  | hostLinkLoss
  | selfReset
  | hostLinkReattach
  | flrComputeFunction (fn : Nat)
  | flrPf0
  -- pins and supplies
  | perstAsserted
  | perstDeasserted (report : TestReport)
  | pwrbrkAsserted
  | pwrbrkReleased
  | auxPowerGood
  | mainPgAsserted (report : TestReport)
  | mainPgLost
  | ioRailFault (die : Nat)
  | ioRailRestore (die : Nat) (restored : Bool)
  -- peer links
  | peerLinkTrainingDone (link : Nat) (aligned : Bool)
  | identityExchange (link farClass farLink farPart : Nat) (farFormed : Bool)
  | linkBlockLockLoss (link : Nat)
  | linkReplayRate (link frames : Nat)
  | linkRetrainDone (link : Nat) (ok : Bool)
  -- messages
  | reductionPartial (h : MsgHdr) (elems : List Nat)
  | gatherChunk (h : MsgHdr) (bytes : List Byte)
  | allToAllBlock (h : MsgHdr) (bytes : List Byte)
  | lookUpBatch (h : MsgHdr) (keys : List RowKey)
  | lookUpReply (h : MsgHdr) (entries : List ReplyEntry)
  | gradientRows (h : MsgHdr) (rows : List GradRow)
  | reducedGradientTile (h : MsgHdr) (line depth : Nat) (elems : List Nat)
  | updateSecondWrite (addr : Nat)
  | parcel (h : MsgHdr) (pid : ParcelId) (items : List (List Byte))
  | ringOpen (h : MsgHdr) (f : OpenFormats)
  | permuteMove (h : MsgHdr) (addr : Nat) (bytes : List Byte)
  | lookUpMark (h : MsgHdr)
  | stepCloseContribution (h : MsgHdr) (p : ExchangePart)
  | acknowledgement (h : MsgHdr) (stream : StreamKey) (dst upTo : Nat)
  | reject (h : MsgHdr) (stream : StreamKey) (dst sequence held : Nat)
  | abortNotice (h : MsgHdr) (cls addr : Nat)
  | removalNotice (h : MsgHdr) (lost step : Nat)
  | reAdmissionNotice (h : MsgHdr) (target step : Nat)
  | reservedMessage (h : MsgHdr)
  | twinHeartbeat (h : MsgHdr)
  | heartbeatSend
  | twinLossTimeout
  | recoveryNotice (h : MsgHdr) (state : PairState) (channelLost : Bool)
  | digest (h : MsgHdr) (step : Nat) (ds : List (Nat × Nat))
  | granuleHashes (h : MsgHdr) (segment step : Nat) (hashes : List Nat)
  | repairStepProposal (h : MsgHdr) (addr u : Nat) (isAnswer : Bool) (act : Nat)
  | repairCopy (h : MsgHdr) (item : StoredItem) (ok offered : Bool)
  | twinServeRequest (h : MsgHdr) (addr bytes step : Nat) (byUpdate : Bool)
  | enrolmentStart
  | jobState (h : MsgHdr) (j : JobStateMsg)
  | enrolmentSegment (h : MsgHdr) (base length : Nat) (content : SegmentContent)
  | enrolmentCutOver
  | recessNotice (h : MsgHdr)
  | wakeNotice (h : MsgHdr)
  | retryTimeout (stream : StreamKey) (dst : Nat)
  -- cores
  | matrixPass (core : Nat) (p : MatPass)
  | tileCopy (core : Nat)
  | vectorOperation (core : Nat) (v : VecOp)
  | specialFunction (core : Nat) (f : SpecialFn) (src : VecSrc) (dstBuffer dstRow : Nat) (mode : NumMode) (rounding : Rounding)
  | trayRelease (core : Nat)
  | streamIn (core : Nat) (t : Transfer)
  | gather (core : Nat) (t : Transfer)
  | offload (core : Nat) (t : Transfer)
  | fetch (core : Nat) (t : Transfer)
  | send (core dst : Nat) (ordinal srcOffset bytes buffer dstOffset : Nat)
  | transferComplete (core ident : Nat)
  | boundary (core position restoreAddr : Nat)
  | coreFault (physical : Nat)
  | substituteSeat (logical : Nat)
  | coreSubstituted (logical : Nat)
  | hallPassGrant (die : Nat)
  | hallPassRelease (physical : Nat)
  | domainClockStop (domain : Nat)
  -- timers and engines
  | powerReading (watts : Nat)
  | thermalReading (temps : List Int)
  | reportCard
  | autoRecess
  | wake
  | hallMonitorCheck
  | functionReset (fn cause : Nat)
  | deviceRecovery (cause : Nat) (report : TestReport)
  | recoveryReturn
  | crcRetryExhausted (channel addr : Nat)
  | channelRetrainDone (channel rate : Nat)
  | patrolScrub (addr : Nat) (read : ScrubRead)
  | stepClose
  | stepCloseExchangeDone (step : Nat)
  | gradebookExchangeDone (step : Nat)
  | outlierSelection (tensor step : Nat)
  | stampRenewal (unit count : Nat)
  | reshardDrain
  | reshardPermute
  | reshardDone
  | transcriptSweep (budget : Nat)
  | auxPowerLost
  | assertionNotTaken (pin : Nat)
  | servedCopy (h : MsgHdr) (item : StoredItem) (ownResult : Bool)
  | routedItem (h : MsgHdr) (item : RoutedItem) (tag : Nat)
  | enrolmentAgree (h : MsgHdr)
  | i3cDynamicAddress (address : Nat)
  deriving DecidableEq, Repr

end Sys2Proof
end

