-- ==== Sys2Proof/Machine/State.lean ====
section
/-! DEFINITION. The state of one NST-8064 module, as plain data, and State.reset. Steps, epochs and sequence numbers are
Nat (the step wraps at 2^64, and sequence numbers do not: DEDUCED, log 9); registers are 32-bit words kept by BAR0 offset. -/

namespace Sys2Proof.Machine

/-- No command of this block stops the machine: every failure the spec describes is a completion status, an event, a
hand or a sticky bit. The constructor is raised by nobody; it is safe. -/
inductive Fault where
  | unused
  deriving DecidableEq, Repr

/-- Refusals. notModelled is raised by an arm of exec that has no meaning yet; it is safe. -/
inductive Refusal where
  | notModelled (mnemonic : String)
  deriving DecidableEq, Repr

/-! ### Host interface -/

/-- A completion record (R295). -/
structure Completion where
  fn : Nat
  queue : Nat
  requestId : Nat
  status : Nat
  original : Nat
  phase : Bool
  sqHead : Nat
  slot : Nat
  detail0 : Nat
  detail1 : Nat
  deriving DecidableEq, Repr

/-- An entry of a request history: the identifier and, once complete, status and details (R294). -/
structure HistEntry where
  ident : Nat
  done : Option (Nat × Nat × Nat)
  deriving DecidableEq, Repr

/-- A queue (R290 to R295). tail is SQ_TAIL and cqHead CQ_HEAD of the latest doorbell; cqTail is the index of the next
record; written counts records written since the queue started; reReads, stopped and again follow R293. -/
structure Queue where
  fn : Nat
  queue : Nat
  log2 : Nat
  sqBase : Nat
  cqBase : Nat
  head : Nat
  tail : Nat
  expected : Nat
  cqHead : Nat
  cqTail : Nat
  phase : Bool
  highest : Nat
  history : List HistEntry
  reReads : Nat
  stopped : Bool
  again : Bool
  held : List Completion
  deriving DecidableEq, Repr

/-- An event record (R304). -/
structure EventRec where
  seq : Nat
  code : Nat
  block : Nat
  inst : Nat
  tick : Nat
  step : Nat
  items : List Nat
  deriving DecidableEq, Repr

/-- A standing hand (R305). -/
structure Hand where
  seq : Nat
  page : Nat
  bit : Nat
  items : List Nat
  deriving DecidableEq, Repr

/-- A hand record (R305). withdrawn names the HAND_SEQ of a hand that is lowered without an answer. -/
structure HandRec where
  seq : Nat
  page : Nat
  bit : Nat
  withdrawn : Option Nat
  step : Nat
  items : List Nat
  tick : Nat
  deriving DecidableEq, Repr

/-- The report card (R306) without its CRC and padding. -/
structure Card where
  seq : Nat
  tick : Nat
  state : Nat
  pair : Nat
  classNumber : Nat
  openStep : Nat
  closedStep : Nat
  layoutEpoch : Nat
  job : Nat
  junction : Nat
  power : Nat
  eventSeq : Nat
  handSeq : Nat
  handsPending : Nat
  linksUp : Nat
  channelsUp : Nat
  coresAbsent : List Nat
  substitutes : List Nat
  backlog : Nat
  queues : List (Nat × Nat × Nat × Nat)
  deriving DecidableEq, Repr

/-- The resume area (R310): header and one entry per existing queue. -/
structure Resume where
  seq : Nat
  cause : Nat
  dropped : Nat
  entries : List (Nat × Nat × Nat × Nat × Nat × Nat)
  deriving DecidableEq, Repr

/-- A transcript item (R307) with its payload. -/
structure TranscriptItem where
  seq : Nat
  kind : Nat
  tensor : Nat
  tableEpoch : Nat
  layoutEpoch : Nat
  record : Nat
  stamp : Nat
  payload : List Byte
  deriving DecidableEq, Repr

/-- One write to host memory, as the module issues it (R308). -/
inductive HostWrite where
  | completion (addr : Nat) (c : Completion)
  | event (addr : Nat) (e : EventRec)
  | hand (addr : Nat) (h : HandRec)
  | card (addr : Nat) (c : Card)
  | resume (addr : Nat) (r : Resume)
  | transcript (addr : Nat) (t : TranscriptItem)
  | data (addr : Nat) (bytes : List Byte)
  deriving DecidableEq, Repr

/-- The host rings of R303. -/
structure Rings where
  eventBase : Nat
  eventLog2 : Nat
  handBase : Nat
  handLog2 : Nat
  card : Nat
  resume : Nat
  trBase : Nat
  trMib : Nat
  rateCap : Nat
  deriving DecidableEq, Repr

/-- Answers to accesses that return data to their sender: CXL.mem, snoops, I3C, SMBus, register pairs (R18, R282,
R289, R434). nack is the NACK of R434. -/
inductive Reply where
  | value (v : Nat) (bytes : Nat)
  | bytes (bs : List Byte)
  | rspIHitI
  | ack
  | nack
  deriving DecidableEq, Repr

/-- The host interface and the command processor. sweep is a sweep under way: the address it goes on from and the open step at
its start; trWait is TRANSCRIPT_WAIT. -/
structure Hif where
  queues : List Queue
  running : List HostCmd
  duplicates : List HostCmd
  rings : Option Rings
  eventSeq : Nat
  eventsHeld : List EventRec
  eventUnread : List Nat
  eventPos : Nat
  lostNow : Nat
  handSeq : Nat
  hands : List Hand
  handsHeld : List HandRec
  handUnread : List Nat
  handPos : Nat
  cardSeq : Nat
  itemSeq : Nat
  trOffset : Nat
  sweep : Option (Nat × Nat)
  trWait : Bool
  detached : Bool
  waitGo : Bool
  cause : Nat
  resumeSeq : Nat
  dropped : Nat
  pf0Resume : Bool
  adminPending : Bool
  dies : List Nat
  sharedPages : List Nat
  deriving DecidableEq, Repr

/-! ### Links, class and twins -/

/-- LNK_STAT.STATE (R333). -/
inductive LinkState where
  | down | training | inService | detention | retraining | lowPower
  deriving DecidableEq, Repr

/-- A peer link (R25, R26, R333, R396). fails counts failed attempts in a row, cause is that of the retrain under way
(R397), and retest says that a retrain is under way that ends in the identity exchange. -/
structure Link where
  state : LinkState
  aligned : Bool
  farLink : Nat
  farClass : Nat
  standIn : Nat
  fails : Nat
  cause : Nat
  retest : Bool
  deriving DecidableEq, Repr

/-- A difference between the twins under repair (R36 to R38): its segment, or its item's address, the step whose digests
mismatched, whether this module detected it, the granule hashes sent and received, the repair step and whether it is
agreed, what the host answered (0 nothing, 1 copy from the senior, 2 from the junior), whether step u has closed, the
items not yet compared, the items whose own copy has been sent, and the divergent items of a hand with the lowest differing bit
and the count. -/
structure Repair where
  key : Nat
  step : Nat
  mine : Bool
  sent : List Nat
  got : Option (List Nat)
  u : Nat
  agreed : Bool
  act : Nat
  closed : Bool
  items : List Nat
  waiting : List Nat
  offered : List Nat
  divergent : List (Nat × Nat × Nat)
  hand : Option Nat
  deriving DecidableEq, Repr

/-- An item whose reader waits for the twin's copy (R130, R191); refused once the twin can no longer serve it. -/
structure ServeWait where
  addr : Nat
  bytes : Nat
  byUpdate : Bool
  torn : Bool
  refused : Bool
  deriving DecidableEq, Repr

/-- An enrolment (R43, R45): the partner, the next segment to send, the cut-over step once fixed, and the routed
command that waits for it. -/
structure Enrolment where
  partner : Nat
  nextSegment : Nat
  copied : Bool
  cutOver : Option Nat
  attach : Option (Nat × Nat)
  deriving DecidableEq, Repr

/-- Class membership and the twin pair. partials are the maintained partial digests by 16 * segment + memory controller (R35);
forward is what the source of an enrolment has written since it last forwarded, and endMark the last step whose end-of-step mark
the target has (R43). -/
structure Twin where
  pair : PairState
  number : Nat
  size : Nat
  seed : W64
  noticeSent : Bool
  startPair : PairState
  notedRecovery : Option PairState
  notedRemoval : Bool
  removals : List (Nat × Nat × Nat)
  twinRecess : Bool
  digestsOff : Bool
  snapshots : List (Nat × List (Nat × Nat))
  partials : List (Nat × Nat)
  forward : List StoredItem
  endMark : Option Nat
  dirty : List Nat
  rotation : Nat
  repairs : List Repair
  waits : List ServeWait
  enrolment : Option Enrolment
  detachAt : Option (Nat × Nat × Nat)
  held : List Msg
  deriving DecidableEq, Repr

/-! ### Collectives -/

/-- A collective identity with the numbers it holds on one stream (R241). -/
structure IdentBlock where
  op : Nat
  ringId : Nat
  tensor : Nat
  step : Nat
  stream : StreamKey
  first : Nat
  used : Nat
  deriving DecidableEq, Repr

/-- A class command that waits for its members' answers at the accepting module (R299). -/
structure Relay where
  tag : Nat
  cmd : HostCmd
  waiting : List Nat
  refusal : Option (Nat × Nat × Nat × Nat)
  deriving DecidableEq, Repr

/-- A collective descriptor (R249). -/
structure ColDesc where
  operation : Nat
  toUpdate : Bool
  twinCopy : Bool
  wire : Nat
  reduceOp : Nat
  ringId : Nat
  tensor : Nat
  layoutEpoch : Nat
  sourceSram : Bool
  destSram : Bool
  sourceCore : Nat
  destCore : Nat
  chunkBytes : Nat
  sourceBase : Nat
  destBase : Nat
  ownerMask : Nat
  deriving DecidableEq, Repr

/-- A segment of a chunk that is in: kind and ordinal of the chunk, its offset in it, whether it is the last, and its payload (R245). -/
structure Piece where
  kind : Nat
  ordinal : Nat
  offset : Nat
  last : Bool
  body : Body
  deriving DecidableEq, Repr

/-- A collective that runs on this module: its command and descriptor, its ring position and the ring's size, the messages
still to come (kind and ordinal of the chunk, or source position), the blocks of an all-to-all by source position, the slices that its
segments go through, and the segments in of messages that are not whole yet (R245). -/
structure ColJob where
  cmd : HostCmd
  desc : ColDesc
  position : Nat
  ring : List Nat
  expect : List (Nat × Nat)
  blocks : List (Nat × List Byte)
  slices : List Nat := []
  pieces : List Piece := []
  deriving DecidableEq, Repr

/-- A re-shard that is pending (R260 to R262). -/
structure Reshard where
  epoch : Nat
  boundary : Nat
  plan : List Byte
  drained : Bool
  switched : Bool
  permuteDone : Bool
  marksIn : List Nat
  deriving DecidableEq, Repr

/-- The collective engine. early holds chunks that arrived before the command they belong to; parts holds the
contributions to the exchanges of the class, by step. -/
structure Col where
  members : W64
  outbox : List Msg
  retry : List Msg
  nextSeq : List (StreamKey × Nat)
  idents : List IdentBlock
  marks : List (StreamKey × Nat)
  rings : List (Nat × Ring)
  newRings : List (Nat × Ring)
  jobs : List ColJob
  early : List Msg
  relays : List Relay
  parts : List (Nat × ExchangePart)
  nextTag : Nat
  reshard : Option Reshard
  maxima : List (Nat × Nat) := []
  unsent : List Msg := []
  ways : List ((StreamKey × Nat) × Nat) := []
  deriving DecidableEq, Repr

/-! ### Tables and updates -/

/-- A look-up of this module as requester (R152 to R157): its command, fields, the key of every occurrence, the unique
keys in order of admission, the replies in, the passes not yet served (the first of them is under way) with their number
so far, and whether it has completed. -/
structure Lookup where
  cmd : HostCmd
  table : Nat
  step : Nat
  epoch : Nat
  pooling : Nat
  outFormat : Nat
  mode : NumMode
  rounding : Rounding
  bags : List Nat
  occurrences : List RowKey
  keys : List RowKey
  replies : List ReplyEntry
  output : Nat
  report : Nat
  scratch : Nat
  pass : Nat
  todo : List (List RowKey)
  done : Bool
  deriving DecidableEq, Repr

/-- A batch that waits for R158. -/
structure HeldBatch where
  hdr : MsgHdr
  keys : List RowKey
  deriving DecidableEq, Repr

/-- Gradient rows of one requester's engine for one table and step, with its end mark (R160, R161). -/
structure GradSet where
  table : Nat
  step : Nat
  epoch : Nat
  requester : Nat
  engine : Nat
  rows : List GradRow
  ended : Bool
  deriving DecidableEq, Repr

/-- An update or a renewal between its first and second write (R189, R188): what the second write writes. -/
structure Open2 where
  addr : Nat
  unit : Nat
  isTile : Bool
  weightsAt : Nat
  weights : List Byte
  checkAddr : Nat
  checkBytes : List Byte
  renewal : Bool
  deriving DecidableEq, Repr

/-- A rolled row that waits for its roll step (R166). -/
structure Roll where
  table : Nat
  key : RowKey
  version : Nat
  zeroState : Bool
  weights : List Byte
  step : Nat
  deriving DecidableEq, Repr

/-- A routed command of this module that waits for its items (R166, R163): the modules that still owe an answer, one entry for
each item, lowest and highest r. -/
structure Routed where
  tag : Nat
  cmd : HostCmd
  owed : List Nat
  low : Nat
  high : Nat
  refusal : Option (Nat × Nat × Nat)
  deriving DecidableEq, Repr

/-- Conversion statistics of R109; s and q are FP64 codes, amax an FP32 code. -/
structure ConvStat where
  n : Nat
  s : Nat
  q : Nat
  amax : Nat
  deriving DecidableEq, Repr

/-- One partial of an update unit in the open step: measurements of R194, conversion statistics of R109, the invalid count
and the underflow count of R183 and R178, and the column sums of R182 with their row count. sumDelta and sumW are FP64 codes, colSums FP32 codes. -/
structure UpdStat where
  updated : Nat
  changed : Nat
  sumDelta : Nat
  sumW : Nat
  roundedUp : Nat
  saturated : Nat
  skipped : Nat
  invalid : Nat
  underflow : Nat
  conv : ConvStat
  colSums : List Nat
  colRows : Nat
  deriving DecidableEq, Repr

/-- A reduced gradient row whose record waits for its twin's copy (R130, R191). -/
structure PendRow where
  table : Nat
  engine : Nat
  key : RowKey
  step : Nat
  slot : Nat
  elems : List Nat
  unit : Nat := 0
  deriving DecidableEq, Repr

/-- An accepted reduced gradient tile that waits: for its twin's copy, or for the answer to an outlier hand (R114). -/
structure PendTile where
  hdr : MsgHdr
  line : Nat
  depth : Nat
  elems : List Nat
  unit : Nat := 0
  deriving DecidableEq, Repr

/-- Column sums of a factored table at the close of a step (R182): this module's own, with the row count, and a partial
that arrived before them. -/
structure ColumnSum where
  table : Nat
  step : Nat
  own : Option (List Nat × Nat)
  early : Option (List Nat × Nat)
  deriving DecidableEq, Repr

/-- A retired table epoch: look-ups of steps below the switch step carry it (R162, R164). -/
structure RetiredEpoch where
  table : Nat
  switchStep : Nat
  epoch : Nat
  deriving DecidableEq, Repr

/-- Tables, dense shards and update units. lookupsDone and backwardsDone count completed commands by table and step;
applied is the last step whose rows a table has taken; frozenSwitch names tables whose switch hand stands (R165). -/
structure Tables where
  descs : List (Nat × TableDesc)
  newDescs : List (Nat × TableDesc)
  factors : List (Nat × List Nat)
  shards : List (Nat × ShardDesc)
  params : List (Nat × Params)
  lookups : List Lookup
  backwards : List (Nat × Nat × HostCmd)
  lookupsDone : List (Nat × Nat × Nat)
  backwardsDone : List (Nat × Nat × Nat)
  marks : List (Nat × Nat × Nat)
  batches : List HeldBatch
  grads : List GradSet
  applied : List (Nat × Nat)
  staged : List (Nat × Nat)
  frozenSwitch : List Nat
  rolls : List Roll
  routed : List Routed
  open2 : List Open2
  pendRows : List PendRow
  pendTiles : List PendTile
  columns : List ColumnSum
  retired : List RetiredEpoch
  markSent : List (Nat × Nat)
  endSent : List (Nat × Nat)
  torn : List Nat
  stats : List (Nat × UpdStat)
  decls : List StepDecl
  tilesDone : List (Nat × Nat)
  renewal : List (Nat × Nat × Nat)
  deriving DecidableEq, Repr

/-! ### Scaling, outliers, gradebook -/

/-- Counts of R64. -/
structure Counts where
  invalid : Nat := 0
  overflow : Nat := 0
  saturation : Nat := 0
  underflow : Nat := 0
  deriving DecidableEq, Repr

/-- The first invalid product of a tensor in a step (R270). -/
structure FirstInvalid where
  commandTag : Nat
  tileRow : Nat
  tileCol : Nat
  row : Nat
  col : Nat
  side : Bool
  group : Nat
  core : Nat
  deriving DecidableEq, Repr

/-- What one source adds to the gradebook record of a tensor in the open step (R268, R269). -/
structure GradeRec where
  counts : Counts
  replayFirst : Nat
  replaySecond : Nat
  narrowKey : Nat
  narrowValue : Nat
  fwd : ConvStat
  bwd : ConvStat
  first : Option FirstInvalid
  deriving DecidableEq, Repr

/-- What a closed step left for its gradebook exchange: step, records, update measurements, exponents, and the gradebook area that was
set while it was open (R280). -/
structure Closing where
  step : Nat
  recs : List (Nat × GradeRec)
  stats : List (Nat × UpdStat)
  exps : List (Nat × Int)
  base : Nat
  count : Nat
  deriving DecidableEq, Repr

/-- The gradebook (R266 to R281): area, the setting that comes into force at the next step boundary, records of the open
step, and those of closed steps whose exchange is due. -/
structure Gradebook where
  base : Nat
  count : Nat
  pending : Option (Nat × Nat)
  recs : List (Nat × GradeRec)
  closings : List Closing
  deriving DecidableEq, Repr

/-! ### KV pages and attention -/

/-- A pool descriptor (R222). -/
structure Pool where
  tag : Nat
  headDim : Nat
  group : Nat
  first : Nat
  count : Nat
  stride : Nat
  base : Nat
  deriving DecidableEq, Repr

/-- STATE of a page-table entry (R220). -/
inductive PageState where
  | unused | free | held | live
  deriving DecidableEq, Repr

/-- A page-table entry (R220). -/
structure PageEntry where
  next : Nat
  state : PageState
  pool : Nat
  valid : Nat
  kScale : Nat
  vScale : Nat
  refs : Nat
  deriving DecidableEq, Repr

/-- The KV page manager. heads names the first free page of each pool. -/
structure Kvp where
  pools : List (Nat × Pool)
  entries : List (Nat × PageEntry)
  heads : List (Nat × Nat)
  pins : List (Nat × Nat)
  deriving DecidableEq, Repr

/-- An attention descriptor (R201). -/
structure AttDesc where
  tensor : Nat
  qTag : Nat
  kTag : Nat
  vTag : Nat
  outTag : Nat
  strictFormat : Bool
  minKey : Nat
  causal : Bool
  backward : Bool
  headDim : Nat
  qHeads : Nat
  kvHeads : Nat
  ringSize : Nat
  ringPosition : Nat
  ringId : Nat
  layoutEpoch : Nat
  chunk : Nat
  valid : Nat
  scale : Nat
  coreFirst : Nat
  coreCount : Nat
  stateOffset : Nat
  hostBases : Nat
  qBase : Nat
  qdBase : Nat
  kBase : Nat
  kdBase : Nat
  vBase : Nat
  vtBase : Nat
  oBase : Nat
  lseBase : Nat
  ringBase : Nat
  gradBase : Nat
  deriving DecidableEq, Repr

/-- Running softmax state of one query row (R207), FP32 codes; rows without a block yet are not listed. -/
structure RowState where
  m : Nat
  l : Nat
  o : List Nat
  deriving DecidableEq, Repr

/-- An ATT_RUN under way (R197): command, descriptor, ring members in position order, the arrays it reads, what the ring
open exchange brought by class number, the ordinal of the source to work next, row states and gradient sums by (head, row),
and the module sums of dK and dV of its own shard. -/
structure AttJob where
  cmd : HostCmd
  desc : AttDesc
  ring : List Nat
  data : List (List Byte)
  heard : List (Nat × OpenFormats)
  opened : Bool
  source : Nat
  rows : List (Nat × RowState)
  dq : List (Nat × List Nat)
  own : List (List Nat)
  deriving DecidableEq, Repr

/-- An ATT_DECODE under way (R232): its command, whether its appends have run, whether a pin of it waits (R227), the pages
it has pinned and those it still holds, its own partial of every row, the ring position that merges each row, the rings its rows use, and the
partials of other members by ring and member (R235). -/
structure DecodeJob where
  cmd : HostCmd
  appended : Bool
  pinWait : Bool
  pinned : List Nat
  held : List Nat
  own : List (Option RowState)
  merge : List Nat
  rings : List Nat
  heard : List Msg
  deriving DecidableEq, Repr

/-! ### Cores -/

/-- A finished tile with its descriptor (R85). elems are the FP32 codes of the valid rows and columns; the elements that
the device discards (R72) read the free numbers from free up (DESIGN CHOICE, log 7). -/
structure Tile where
  elems : List (List Nat)
  free : Nat
  commandTag : Nat
  tileRow : Nat
  tileCol : Nat
  mode : NumMode
  channelScaled : Bool
  sidePass : Bool
  accumulator : Nat
  shift : Nat
  replay : Nat
  outFormat : Nat
  counts : Counts
  first : Option FirstInvalid
  cycles : Nat
  tensorId : Nat
  deriving DecidableEq, Repr

/-- A transfer issued by a core and not complete (R137). kind: 0 STREAM_IN, 1 GATHER, 2 OFFLOAD, 3 FETCH, 4 SEND. -/
structure OpenTransfer where
  kind : Nat
  t : Transfer
  deriving DecidableEq, Repr

/-- Engines and stores of one physical core (R78, R86, R90, R92, R137, R367, R368). vecWait is a vector operation that waits: the tile
buffers it names, and whether it waits on the tray (R98); meWait says that an issued pass waits (R97). -/
structure Core where
  accA : Option Tile
  accB : Option Tile
  lastB : Bool
  tray : List Tile
  buffers : List Host.Cell
  masks : List (Nat × List Bool)
  transfers : List OpenTransfer
  sendsIn : List (Nat × Nat)
  receiveLog : List (Nat × Nat × List Byte)
  resumePoint : Option (Nat × Nat)
  uncommitted : List (Nat × GradeRec)
  command : Option HostCmd
  vecWait : Option (Nat × Bool)
  meWait : Bool
  deriving DecidableEq, Repr

/-- Where a physical core stands (R330). -/
inductive Seat where
  | seated (logical : Nat) | reserve | detention | outOfService
  deriving DecidableEq, Repr

/-- The cores of the module. seats and cores are by physical number; failedAt names the physical core that last held a
logical number whose substitution is open; recomputing pairs a logical number with the failed core;
corrected counts the SRAM errors corrected by logical core (R122), for which the spec names no register (DESIGN CHOICE, log 90). -/
structure Cores where
  seats : List (Nat × Seat)
  cores : List (Nat × Core)
  substituting : List (Nat × Nat)
  recomputing : List (Nat × Nat)
  sram : List Host.Cell
  badWords : List Nat
  corrected : List (Nat × Nat)
  deriving DecidableEq, Repr

/-! ### Power, reset, bring-up, security -/

/-- Power, clocks, recess and the sideband inputs (R336 to R347, R435 to R441). -/
structure Pwr where
  auxGood : Bool
  mainPg : Bool
  perst : Bool
  pwrbrk : Bool
  releasing : Bool
  braked : Bool
  thermalStep : Bool
  tripped : Bool
  widened : Nat
  below : Nat
  cool : Nat
  coolHand : Nat
  recess : Bool
  recessing : Bool
  sleeping : Bool
  noticed : Bool
  passes : List Nat
  requests : List (Nat × Nat)
  lastGrant : List (Nat × Nat)
  running : List Nat
  deriving DecidableEq, Repr

/-- A unit the hall monitor watches (R354): its page, plus 1 more than the queue number for a queue; the counters it read
last, the milliseconds they have stood still, ignored (R375). -/
structure HallUnit where
  key : Nat
  progress : List Nat
  stalled : Nat
  ignored : Bool
  deriving DecidableEq, Repr

/-- Reset, recovery and the hall monitor (R354 to R377). resetEnds: tick at which the last function reset ended, by
function; recovery: step of R362 under way, 0 for none, and recoveryStart its first tick; afterReturn: hands to raise again;
railDie: I/O die whose rail is out of regulation. -/
structure Rel where
  hall : List HallUnit
  resetEnds : List (Nat × Nat)
  recovery : Nat
  recoveryCause : Nat
  recoveryStart : Nat
  afterReturn : List Hand
  railDie : Option Nat
  deriving DecidableEq, Repr

/-- A firmware image in the boot store (R407): its bytes. -/
structure BootSlot where
  image : List Byte
  deriving DecidableEq, Repr

/-- Bring-up and the security block (R379 to R423). Slots are A (false) or B (true): current as the control block names them,
in use as booted; running holds the SECURITY_VERSION of an image in use. -/
structure Boot where
  fuses : List (Nat × Nat)
  softRepairs : List (Nat × Nat)
  failed : Bool
  stopped : Bool
  mgmtA : BootSlot
  mgmtB : BootSlot
  coreA : BootSlot
  coreB : BootSlot
  mgmtCurrent : Bool
  coreCurrent : Bool
  mgmtSlot : Bool
  coreSlot : Bool
  mgmtRunning : Nat
  coreRunning : Nat
  certificate : List Byte
  identityModulus : List Byte
  m0 : List Byte
  m1 : List Byte
  cacheFull : Bool
  challenge : Option (List Byte)
  granted : Nat
  scan : Bool
  clearFail : Bool
  reports : Nat
  i3cAddress : Option Nat
  deriving DecidableEq, Repr

/-- A CXL.mem access (R287, R289). -/
inductive CxlAccess where
  | read (addr bytes : Nat) (met : List SectorRead)
  | write (addr : Nat) (data : List Byte)
  deriving DecidableEq, Repr

/-- GDDR7 beside its contents: channels in service with their rate, channels that wait for retraining, those among them whose
waiting transfer is tried again without it (R127), addresses of transfers that wait, the host's accesses that wait in their order
(R126), uncorrectable sectors, those among them that no twin can serve (R36), ranges and descriptors written and not
swept (R307), objects (R132). -/
structure Gddr where
  rates : List (Nat × Nat)
  retraining : List Nat
  attempts : List (Nat × Nat)
  waiting : List (Nat × Nat)
  retrying : List Nat
  held : List CxlAccess
  badSectors : List Nat
  unserved : List Nat
  marks : List (Nat × Nat)
  descMarks : List (Nat × Nat)
  objects : List (Nat × List Byte)
  selfRefresh : Bool
  deriving DecidableEq, Repr

/-- The job that runs and the steps of the module (R11, R30, R239); firstStep is the first one of the job here. -/
structure Job where
  running : Bool
  number : Nat
  layoutEpoch : Nat
  openStep : Nat
  closedStep : Nat
  exchangesDue : List Nat
  firstStep : Nat
  deriving DecidableEq, Repr

/-- What a member keeps to take an installed class command back (R299): accepting module, tag, state before. -/
structure UndoImage where
  accepter : Nat
  tag : Nat
  tables : Tables
  scaling : List (Nat × ScaleRec)
  outliers : List (Nat × Outliers)
  col : Col
  job : Job
  deriving DecidableEq, Repr

/-- The whole machine. freeCtr is the model's own: the number of free values drawn so far (DESIGN CHOICE, log 7). -/
structure State where
  pending : List Instr
  part : Part
  tick : Nat
  freeCtr : Nat
  regs : List (Nat × W32)
  latch : List (Nat × W32)
  replies : List Reply
  hostOut : List HostWrite
  mem : List Host.Cell
  gddr : Gddr
  hif : Hif
  links : List (Nat × Link)
  twin : Twin
  col : Col
  job : Job
  tables : Tables
  scaling : List (Nat × ScaleRec)
  outliers : List (Nat × Outliers)
  grade : Gradebook
  kvp : Kvp
  att : List AttJob
  decodes : List DecodeJob
  cores : Cores
  pwr : Pwr
  rel : Rel
  boot : Boot
  undo : List UndoImage
  deriving DecidableEq, Repr

/-! ### Reset -/

/-- Fuse words of an unused module of a part (R379, R380); every core good, every other word 0 (DESIGN CHOICE, log 6). -/
def resetFuses (p : Part) : List (Nat × Nat) :=
  [(0x000, Config.partNumber p * 2 ^ 16 + 0x0100), (0x001, Config.fuseDies p), (0x002, Config.fuseLinks p),
   (0x003, Config.fuseMemory p), (0x004, 0xFFFFFFFF), (0x005, 0xFFFFFFFF), (0x006, 0xFFFFFFFF), (0x007, 0xFFFFFFFF),
   (0x008, 0xFFFFFFFF), (0x009, 0xFFFFFFFF), (0x00A, 0xFFFFFFFF), (0x00B, 0xFFFFFFFF), (0x00C, 0x0000FFFF)]

/-- The host interface with nothing set: functions as R285 gives by default. -/
def Hif.reset : Hif where
  queues := []
  running := []
  duplicates := []
  rings := none
  eventSeq := 0
  eventsHeld := []
  eventUnread := []
  eventPos := 0
  lostNow := 0
  handSeq := 0
  hands := []
  handsHeld := []
  handUnread := []
  handPos := 0
  cardSeq := 0
  itemSeq := 0
  trOffset := 0
  sweep := none
  trWait := false
  detached := false
  waitGo := false
  cause := 0
  resumeSeq := 0
  dropped := 0
  pf0Resume := false
  adminPending := false
  dies := [1, 2, 3, 4, 5, 6, 7, 8]
  sharedPages := []

/-- A link before training (R333). -/
def Link.reset : Link where
  state := .down
  aligned := false
  farLink := 0x1F
  farClass := 0x3F
  standIn := 0x1F
  fails := 0
  cause := 0
  retest := false

/-- A module outside any class (R39). -/
def Twin.reset : Twin where
  pair := .unformed
  number := 0
  size := 0
  seed := 0
  noticeSent := false
  startPair := .unformed
  notedRecovery := none
  notedRemoval := false
  removals := []
  twinRecess := false
  digestsOff := false
  snapshots := []
  partials := []
  forward := []
  endMark := none
  dirty := []
  rotation := 0
  repairs := []
  waits := []
  enrolment := none
  detachAt := none
  held := []

/-- The collective engine with nothing registered. -/
def Col.reset : Col where
  members := 0
  outbox := []
  retry := []
  nextSeq := []
  idents := []
  marks := []
  rings := []
  newRings := []
  jobs := []
  early := []
  relays := []
  parts := []
  nextTag := 0
  reshard := none

/-- No table, shard or parameter record. -/
def Tables.reset : Tables where
  descs := []
  newDescs := []
  factors := []
  shards := []
  params := []
  lookups := []
  backwards := []
  lookupsDone := []
  backwardsDone := []
  marks := []
  batches := []
  grads := []
  applied := []
  staged := []
  frozenSwitch := []
  rolls := []
  routed := []
  open2 := []
  pendRows := []
  pendTiles := []
  columns := []
  retired := []
  markSent := []
  endSent := []
  torn := []
  stats := []
  decls := []
  tilesDone := []
  renewal := []

/-- The gradebook with COUNT 0. -/
def Gradebook.reset : Gradebook where
  base := 0
  count := 0
  pending := none
  recs := []
  closings := []

/-- A core with nothing in it; the first pass uses accumulator A (DESIGN CHOICE, log 5). -/
def Core.reset : Core where
  accA := none
  accB := none
  lastB := true
  tray := []
  buffers := []
  masks := []
  transfers := []
  sendsIn := []
  receiveLog := []
  resumePoint := none
  uncommitted := []
  command := none
  vecWait := none
  meWait := false

/-- Power and sideband before any supply is good. -/
def Pwr.reset : Pwr where
  auxGood := false
  mainPg := false
  perst := false
  pwrbrk := false
  releasing := false
  braked := false
  thermalStep := false
  tripped := false
  widened := 1
  below := 0
  cool := 0
  coolHand := 0
  recess := false
  recessing := false
  sleeping := false
  noticed := false
  passes := []
  requests := []
  lastGrant := []
  running := []

/-- Bring-up before power-on step 1 has read the fuses. The boot store holds no image (DESIGN CHOICE, log 6). -/
def Boot.reset (p : Part) : Boot where
  fuses := resetFuses p
  softRepairs := []
  failed := false
  stopped := false
  mgmtA := ⟨[]⟩
  mgmtB := ⟨[]⟩
  coreA := ⟨[]⟩
  coreB := ⟨[]⟩
  mgmtCurrent := false
  coreCurrent := false
  mgmtSlot := false
  coreSlot := false
  mgmtRunning := 0
  coreRunning := 0
  certificate := []
  identityModulus := []
  m0 := []
  m1 := []
  cacheFull := false
  challenge := none
  granted := 0
  scan := false
  clearFail := false
  reports := 0
  i3cAddress := none

/-- A module of part p as it stands when auxiliary power is first applied (R14, R382). -/
def State.resetOf (p : Part) : State where
  pending := []
  part := p
  tick := 0
  freeCtr := 0
  regs := []
  latch := []
  replies := []
  hostOut := []
  mem := []
  gddr := ⟨[], [], [], [], [], [], [], [], [], [], [], false⟩
  hif := Hif.reset
  links := []
  twin := Twin.reset
  col := Col.reset
  job := ⟨false, 0, 0, 0, 0, [], 0⟩
  tables := Tables.reset
  scaling := []
  outliers := []
  grade := Gradebook.reset
  kvp := ⟨[], [], [], []⟩
  att := []
  decodes := []
  cores := ⟨[], [], [], [], [], [], []⟩
  pwr := Pwr.reset
  rel := ⟨[], [], 0, 0, 0, [], none⟩
  boot := Boot.reset p
  undo := []

/-- The machine right after reset: an NST-8064 (DESIGN CHOICE, log 1). -/
def State.reset : State := State.resetOf .nst8064

end Sys2Proof.Machine
end

