-- ==== Sys2Proof/Machine/Map.lean ====
section
/-! DEFINITION. Sorted maps by number, device memory over them, bit fields, byte strings, and the checks the spec names. -/

namespace Sys2Proof.Machine

/-! ### Sorted maps -/

/-- The value under a key. -/
def mget {α : Type} : List (Nat × α) → Nat → Option α
  | [], _ => none
  | (k, v) :: t, a => if k = a then some v else mget t a

/-- The map with a value under a key; keys stay strictly rising. -/
def mput {α : Type} : List (Nat × α) → Nat → α → List (Nat × α)
  | [], a, x => [(a, x)]
  | (k, v) :: t, a, x => if a < k then (a, x) :: (k, v) :: t else if a = k then (a, x) :: t else (k, v) :: mput t a x

/-- The map without a key. -/
def mdel {α : Type} : List (Nat × α) → Nat → List (Nat × α)
  | [], _ => []
  | (k, v) :: t, a => if k = a then t else (k, v) :: mdel t a

/-- The map with the value under a key changed, where there is one. -/
def mmod {α : Type} (m : List (Nat × α)) (a : Nat) (f : α → α) : List (Nat × α) :=
  match mget m a with
  | none => m
  | some v => mput m a (f v)

/-- Whether the keys rise strictly from a bound on. -/
def risingFrom {α : Type} : Nat → List (Nat × α) → Bool
  | _, [] => true
  | lo, (k, _) :: t => decide (lo ≤ k) && risingFrom (k + 1) t

/-! ### Memory: a byte that is not listed reads 0 (R395, DESIGN CHOICE, log 3) -/

/-- One byte of a memory. -/
def readByte (m : List Host.Cell) (a : Nat) : Byte := (mget m a).getD 0

/-- A memory with one byte written; 0 is not listed. -/
def writeByte (m : List Host.Cell) (a : Nat) (b : Byte) : List Host.Cell :=
  if b = 0 then mdel m a else mput m a b

/-- n bytes from an address up. -/
def readBytes (m : List Host.Cell) : Nat → Nat → List Byte
  | _, 0 => []
  | a, n + 1 => readByte m a :: readBytes m (a + 1) n

/-- A memory with bytes written from an address up. -/
def writeBytes (m : List Host.Cell) (a : Nat) : List Byte → List Host.Cell
  | [] => m
  | b :: t => writeBytes (writeByte m a b) (a + 1) t

/-- The canonical form: addresses rise strictly and no listed byte is 0. -/
def Memory.wf (m : List Host.Cell) : Bool := risingFrom 0 m && m.all fun c => c.2 != 0

/-- The listed bytes of a range, moved down by the range's base. -/
def memSlice (m : List Host.Cell) (base n : Nat) : List Host.Cell :=
  (m.filter fun c => base ≤ c.1 && c.1 < base + n).map fun c => (c.1 - base, c.2)

/-- A memory with every byte of a range 0 (R395). -/
def zeroRange (m : List Host.Cell) (base n : Nat) : List Host.Cell :=
  m.filter fun c => c.1 < base || base + n ≤ c.1

/-! ### Byte strings, little-endian (R9) -/

def byteOf (n : Nat) : Byte := BitVec.ofNat 8 n

/-- The low k bytes of a number, lowest first. -/
def leBytes : Nat → Nat → List Byte
  | 0, _ => []
  | k + 1, n => byteOf n :: leBytes k (n / 256)

/-- The number of a byte string, lowest byte first. -/
def leNat : List Byte → Nat
  | [] => 0
  | b :: t => b.toNat + 256 * leNat t

/-- k bytes of a string from an offset, as a number. A byte beyond its end reads 0. -/
def leAt (bs : List Byte) (off k : Nat) : Nat := leNat ((bs.drop off).take k)

/-- Bits lo to lo + w - 1 of a number. -/
def bitsOf (n lo w : Nat) : Nat := n / 2 ^ lo % 2 ^ w

/-- Whether a bit of a number is 1. -/
def bitOf (n i : Nat) : Bool := n / 2 ^ i % 2 == 1

/-- A number with bits lo to lo + w - 1 replaced. -/
def setBits (n lo w v : Nat) : Nat := n - bitsOf n lo w * 2 ^ lo + (v % 2 ^ w) * 2 ^ lo

/-- A bit as a number. -/
def b2n (b : Bool) : Nat := if b then 1 else 0

/-- Two's complement of w bits. -/
def signedOf (w n : Nat) : Int := if n % 2 ^ w ≥ 2 ^ (w - 1) then (n % 2 ^ w : Nat) - (2 : Int) ^ w else (n % 2 ^ w : Nat)

/-- A signed number in w bits. -/
def unsignedOf (w : Nat) (i : Int) : Nat := (i % (2 : Int) ^ w).toNat

/-- The step after a step, in 64 bits (R11). -/
def nextStep (n : Nat) : Nat := (n + 1) % 2 ^ 64

/-- n saturated at the largest number of w bits (R13). -/
def satN (w n : Nat) : Nat := if n < 2 ^ w then n else 2 ^ w - 1

/-- Numbers a, a + 1, ... (k of them). -/
def rangeFrom (a : Nat) : Nat → List Nat
  | 0 => []
  | k + 1 => a :: rangeFrom (a + 1) k

/-- A list in blocks of n (n not 0), at most fuel of them. -/
def chunksOf {α : Type} (n : Nat) : Nat → List α → List (List α)
  | 0, _ => []
  | k + 1, l => if l.isEmpty then [] else l.take n :: chunksOf n k (l.drop n)

/-- A list with its element at an index replaced. -/
def setAt {α : Type} : List α → Nat → α → List α
  | [], _, _ => []
  | _ :: t, 0, x => x :: t
  | h :: t, n + 1, x => h :: setAt t n x

/-- A list with an element put in its place by a number. -/
def insertBy {α : Type} (f : α → Nat) (x : α) : List α → List α
  | [] => [x]
  | y :: t => if f x < f y then x :: y :: t else y :: insertBy f x t

/-- A list sorted by a number; equal numbers keep their order. -/
def sortBy {α : Type} (f : α → Nat) (l : List α) : List α := l.foldl (fun acc x => insertBy f x acc) []

/-- Whether a list of numbers rises strictly. -/
def strictlyRising : List Nat → Bool
  | [] => true
  | [_] => true
  | a :: b :: t => decide (a < b) && strictlyRising (b :: t)

/-- A rising list of numbers with one more. -/
def insertNat : List Nat → Nat → List Nat
  | [], a => [a]
  | k :: t, a => if a < k then a :: k :: t else if a = k then k :: t else k :: insertNat t a

/-- A list without repeats, first occurrences kept. -/
def dedup {α : Type} [BEq α] : List α → List α → List α
  | seen, [] => seen.reverse
  | seen, x :: t => if seen.contains x then dedup seen t else dedup (x :: seen) t

/-! ### Check words -/

/-- One bit of a reflected CRC. -/
def crcStep (poly c : Nat) : Nat := if c % 2 = 1 then (c / 2) ^^^ poly else c / 2

/-- A reflected CRC register after one byte. -/
def crcByte (poly c b : Nat) : Nat :=
  (List.range 8).foldl (fun x _ => crcStep poly x) (c ^^^ b)

/-- A reflected CRC over bytes. -/
def crcReflected (poly init : Nat) (bs : List Byte) : Nat := bs.foldl (fun c b => crcByte poly c b.toNat) init

/-- CRC-32C with the reflected polynomial 0x82F63B78, all ones in and out (PRESUMED, log 13). -/
def crc32c (bs : List Byte) : Nat := crcReflected 0x82F63B78 0xFFFFFFFF bs ^^^ 0xFFFFFFFF

/-- The CRC-64 of granule hashes: ECMA-182, reflected, all ones in and out (R34). -/
def crc64 (bs : List Byte) : Nat := crcReflected 0xC96C5795D7870F42 0xFFFFFFFFFFFFFFFF bs ^^^ 0xFFFFFFFFFFFFFFFF

/-- One byte of the CRC-16, most significant bit first. -/
def crc16Byte (c b : Nat) : Nat :=
  (List.range 8).foldl (fun x _ => if x ≥ 0x8000 then (x * 2 ^^^ 0x1021) % 65536 else x * 2) (c ^^^ (b * 256))

/-- The CRC-16 of record heads: polynomial 0x1021, start 0xFFFF (R147). -/
def crc16 (bs : List Byte) : Nat := bs.foldl (fun c b => crc16Byte c b.toNat) 0xFFFF

end Sys2Proof.Machine
end

