-- ==== Sys2Proof/Machine/Roles.lean ====
section
/-! DEFINITION. Peer link roles and the grid of study groups (R21 to R24, R246). -/

namespace Sys2Proof.Machine

/-- The torus directions of R22. -/
inductive TorusDir where
  | east | west | north | south
  deriving DecidableEq, Repr

/-- The role of a peer link (R23): mesh names how many positions on the peer stands. -/
inductive LinkRole where
  | mesh (ahead : Nat)
  | twin
  | torus (d : TorusDir)
  | spare
  deriving DecidableEq, Repr

/-- The role of PLn (R23). -/
def linkRole (n : Nat) : LinkRole :=
  if n < 18 && n % 6 < 3 then .mesh (n % 3 + 1)
  else
    match n with
    | 3 => .twin | 4 => .torus .east | 5 => .torus .west
    | 9 => .torus .north | 10 => .torus .south
    | 15 => .twin | 16 => .torus .east | 17 => .torus .west
    | 18 => .torus .north | 19 => .torus .south | 20 => .torus .east | 21 => .torus .west
    | 22 => .torus .north | 23 => .torus .south
    | _ => .spare

/-- The link that PLn meets at the far end (R23). -/
def farLinkOf (n : Nat) : Nat :=
  match linkRole n with
  | .mesh k => n + 4 - 2 * k
  | .twin => n
  | .torus .east => n + 1
  | .torus .west => n - 1
  | .torus .north => n + 1
  | .torus .south => n - 1
  | .spare => 0x1F

/-- Rows and columns of the grid (R22). -/
def gridOf (p : Part) (size : Nat) : Nat × Nat :=
  match size with
  | 16 => if p = .nst8016 then (1, 4) else (2, 2)
  | 32 => (2, 4)
  | 48 => (3, 4)
  | _ => (4, 4)

/-- The group next to group g in a direction (R22). -/
def groupNext (p : Part) (size g : Nat) (d : TorusDir) : Nat :=
  let r := gridOf p size
  let row := g / r.2
  let col := g % r.2
  match d with
  | .east => row * r.2 + (col + 1) % r.2
  | .west => row * r.2 + (col + r.2 - 1) % r.2
  | .north => (row + 1) % r.1 * r.2 + col
  | .south => (row + r.1 - 1) % r.1 * r.2 + col

/-- The module at the same position in the neighbouring group (R23). -/
def torusNext (p : Part) (size c : Nat) (d : TorusDir) : Nat := 4 * groupNext p size (c / 4) d + c % 4

/-- Class number and link that the role of PLn of module c requires at the far end; none for the spare (R23). -/
def requiredFar (p : Part) (size c n : Nat) : Option (Nat × Nat) :=
  match linkRole n with
  | .mesh k => some (4 * (c / 4) + (c % 4 + k) % 4, farLinkOf n)
  | .twin => some (c ^^^ 4, farLinkOf n)
  | .torus d => some (torusNext p size c d, farLinkOf n)
  | .spare => none

/-- The links of a role on a part (R24). -/
def linksOf (p : Part) (r : LinkRole) : List Nat := (List.range (Config.peerLinks p)).filter fun n => linkRole n = r

end Sys2Proof.Machine
end

