-- ==== Sys2Proof/Machine/Regs.lean ====
section
/-! DEFINITION. BAR0: block pages (R314 to R335), reset values, read values, and writable fields. -/

namespace Sys2Proof.Machine

/-- The blocks of R315; coreL and coreP are the two CORE windows. -/
inductive Blk where
  | dev | hif | cmd | emb | upd | mem | att | kvp | col | pwr | rel | sec | mgt | tst | lnk | coreL | coreP | vec
  deriving DecidableEq, Repr

/-- Block bases (R315). -/
def blkBase : Blk → Nat
  | .dev => 0x0 | .hif => 0x10000 | .cmd => 0x20000 | .emb => 0x30000 | .upd => 0x40000 | .mem => 0x50000
  | .att => 0x60000 | .kvp => 0x70000 | .col => 0x80000 | .pwr => 0x90000 | .rel => 0xA0000 | .sec => 0xB0000
  | .mgt => 0xC0000 | .tst => 0xD0000 | .lnk => 0xE0000 | .coreL => 0x100000 | .coreP => 0x200000 | .vec => 0x400000

/-- Instances of the table of R315, which are those of the NST-8064. -/
def blkMax : Blk → Nat
  | .dev => 1 | .hif => 1 | .cmd => 9 | .emb => 8 | .upd => 16 | .mem => 16 | .att => 8 | .kvp => 1 | .col => 4
  | .pwr => 13 | .rel => 1 | .sec => 1 | .mgt => 4 | .tst => 13 | .lnk => 24 | .coreL => 256 | .coreP => 272 | .vec => 256

/-- Whether an instance is present on a part: the highest-numbered dies are fused off with all on them (R316). -/
def blkPresent (p : Part) (b : Blk) (i : Nat) : Bool :=
  match b with
  | .emb => i < Config.embEngines p
  | .upd => i < Config.memDevices p
  | .mem => i < Config.memDevices p
  | .att => i < Config.computeDies p
  | .col => i < Config.ioDies p
  | .pwr => i = 0 || (1 ≤ i && i < 1 + Config.computeDies p) || (9 ≤ i && i < 9 + Config.ioDies p)
  | .tst => i = 0 || (1 ≤ i && i < 1 + Config.computeDies p) || (9 ≤ i && i < 9 + Config.ioDies p)
  | .lnk => i < Config.peerLinks p
  | .coreL => i < Config.logicalCores p
  | .coreP => i < Config.physicalCores p
  | .vec => i < Config.logicalCores p
  | b => i < blkMax b

/-- Instances present on a part, as BLK_CAP reads (R319). -/
def blkCount (p : Part) (b : Blk) : Nat := ((List.range (blkMax b)).filter (blkPresent p b)).length

/-- Block types (R318). -/
def blkType : Blk → Nat
  | .dev => 1 | .hif => 2 | .cmd => 3 | .coreL => 4 | .coreP => 4 | .vec => 5 | .emb => 6 | .upd => 7 | .mem => 8
  | .att => 9 | .kvp => 0xA | .col => 0xB | .lnk => 0xC | .pwr => 0xD | .rel => 0xE | .sec => 0xF | .mgt => 0x10
  | .tst => 0x11

def allBlks : List Blk :=
  [.dev, .hif, .cmd, .emb, .upd, .mem, .att, .kvp, .col, .pwr, .rel, .sec, .mgt, .tst, .lnk, .coreL, .coreP, .vec]

/-- Page offset of an instance (R314). -/
def pageOf (b : Blk) (i : Nat) : Nat := blkBase b + i * 0x1000

/-- Block, instance and register offset of a mapped BAR0 offset; none where nothing answers (R316). -/
def locate (p : Part) (off : Nat) : Option (Blk × Nat × Nat) :=
  (allBlks.find? fun b => blkBase b ≤ off && off < blkBase b + blkMax b * 0x1000).bind fun b =>
    let i := (off - blkBase b) / 0x1000
    if blkPresent p b i then some (b, i, off % 0x1000) else none

/-- Number of defined bits of BLK_MODE (R319, R322). -/
def modeBits (b : Blk) (i : Nat) : Nat :=
  match b with
  | .mem => 1
  | .lnk => 1
  | .emb => if i = 0 then 1 else 0
  | .rel => 3
  | .mgt => if i = 0 then 3 else 0
  | .pwr => if i = 0 then 2 else 0
  | _ => 0

/-- Physical core seated at a logical number. -/
def physOf (s : State) (n : Nat) : Option Nat :=
  (s.cores.seats.find? fun e => e.2 = .seated n).map (·.1)

/-- Logical number that a physical core holds. -/
def logicalOf (s : State) (c : Nat) : Option Nat :=
  match mget s.cores.seats c with
  | some (.seated n) => some n
  | _ => none

/-- Where the vector engine of a physical core keeps its registers: past the VEC window, which shows the engines of seated cores. -/
def vecPage (c : Nat) : Nat := 0x800000 + c * 0x1000

/-- Key under which a register is kept: a logical CORE page shows the seated physical core, and a VEC page its engine (R329). -/
def regKey (s : State) (b : Blk) (i off : Nat) : Nat :=
  match b with
  | .coreL => (match physOf s i with
    | some c => pageOf .coreP c + off
    | none => pageOf .coreL i + off)
  | .vec => (match physOf s i with
    | some c => vecPage c + off
    | none => pageOf .vec i + off)
  | b => pageOf b i + off

/-- Reset value of a register that is kept by offset (R14, and the tables of each block). -/
def resetReg (b : Blk) (i off : Nat) : Nat :=
  match b, off with
  | .hif, 0x104 => 0x08
  | .mem, 0x11C => 0x18
  | .emb, 0x104 => 0x1
  | .col, 0x104 => 0xC8
  | .mgt, 0x200 => if i = 0 then 0x400000 else 0
  | .mgt, 0x204 => if i = 0 then 0x01000023 else 0
  | .mgt, 0x214 => if i = 0 then 0x4090 else 0
  | .pwr, 0x104 => if i = 0 then 0x401 else 0
  | .pwr, 0x108 => if i = 0 then 0x5DC else 0
  | .rel, 0x100 => 0x1901
  | .rel, 0x10C => 0x0A0A0A
  | .tst, 0x100 => if i = 0 then 0x01000000 else 0
  | .tst, 0x104 => if i = 0 then 0x5 else 0
  | _, _ => 0

/-- A kept register: its last value, or its reset value. -/
def kept (s : State) (b : Blk) (i off : Nat) : Nat :=
  match mget s.regs (regKey s b i off) with
  | some v => v.toNat
  | none => resetReg b i off

/-- The state with a kept register set. -/
def setReg (s : State) (b : Blk) (i off v : Nat) : State :=
  { s with regs := mput s.regs (regKey s b i off) (BitVec.ofNat 32 v) }

/-- Kept registers back at their reset values. -/
def clearRegs (s : State) (b : Blk) (i : Nat) (offs : List Nat) : State :=
  { s with regs := offs.foldl (fun m o => mdel m (regKey s b i o)) s.regs }

/-- A field of a kept register. -/
def field (s : State) (b : Blk) (i off lo w : Nat) : Nat := bitsOf (kept s b i off) lo w

/-- A field of a kept register set. -/
def setField (s : State) (b : Blk) (i off lo w v : Nat) : State :=
  setReg s b i off (setBits (kept s b i off) lo w v)

/-- A saturating counter field raised by n (R13, and "Counters saturate" of each block). -/
def bump (s : State) (b : Blk) (i off lo w n : Nat) : State :=
  setField s b i off lo w (satN w (field s b i off lo w + n))

/-- A 32-bit counter that wraps, raised by n (R324). -/
def bumpWrap (s : State) (b : Blk) (i off n : Nat) : State := setReg s b i off (kept s b i off + n)

/-- A 64-bit counter pair. -/
def pair64 (s : State) (b : Blk) (i off : Nat) : Nat := kept s b i off + kept s b i (off + 4) * 2 ^ 32

/-- A 64-bit counter pair set. -/
def setPair64 (s : State) (b : Blk) (i off v : Nat) : State :=
  setReg (setReg s b i off (v % 2 ^ 32)) b i (off + 4) (v / 2 ^ 32)

/-- A 64-bit counter pair raised by n, saturating. -/
def bump64 (s : State) (b : Blk) (i off n : Nat) : State := setPair64 s b i off (satN 64 (pair64 s b i off + n))

/-- Progress of a page (R324). -/
def progress (s : State) (b : Blk) (i n : Nat) : State := bumpWrap s b i 0x28 n

/-- A sticky bit of BLK_ERR set (R325): 0 ACCESS, 1 ANSWER, 2 RESERVED_ENCODING. -/
def stick (s : State) (b : Blk) (i bit : Nat) : State := setField s b i 0x1C bit 1 1

/-! ### Clock domains (R337), numbered in the order of its table -/

def domAtt (d : Nat) : Nat := 272 + d
def domMem (m : Nat) : Nat := 300 + m
def domUpd (m : Nat) : Nat := 316 + m
def domEmb (e : Nat) : Nat := 332 + e
def domCol (i : Nat) : Nat := 340 + i
def domLnk (n : Nat) : Nat := 344 + n
def domIoNet (j : Nat) : Nat := 296 + j
def domHif : Nat := 368
def domKvp : Nat := 369
def domSec : Nat := 370
def domMgt (i : Nat) : Nat := 371 + i

/-- Clock domain of a page; DEV, PWR, REL and TST have none of their own (DEDUCED, log 14). -/
def domOf (s : State) (b : Blk) (i : Nat) : Option Nat :=
  match b with
  | .hif => some domHif
  | .cmd => some domHif
  | .emb => some (domEmb i)
  | .upd => some (domUpd i)
  | .mem => some (domMem i)
  | .att => some (domAtt i)
  | .kvp => some domKvp
  | .col => some (domCol i)
  | .sec => some domSec
  | .mgt => some (domMgt i)
  | .lnk => some (domLnk i)
  | .coreP => some i
  | .coreL => physOf s i
  | .vec => physOf s i
  | _ => none

/-- Domains of the I/O die networks, and of the memory controllers, of the part. -/
def ioNetDomains (s : State) : List Nat := (List.range (Config.ioDies s.part)).map domIoNet

def memDomains (s : State) : List Nat := (List.range (Config.memDevices s.part)).map domMem

/-- Domains of the four management processors, which every part has on IOD0 (R315) and which run whenever the module is up
and awake (R338). -/
def mgtDomains : List Nat := (List.range 4).map domMgt

/-- A domain whose clock starts because work arrives (R338). -/
def startDomain (s : State) (d : Nat) : State := { s with pwr := { s.pwr with running := insertNat s.pwr.running d } }

/-! ### Values that follow the state -/

/-- Codes of the pair state (R46). -/
def pairCode : PairState → Nat
  | .unformed => 0 | .paired => 1 | .sole => 2 | .enrollingSource => 3 | .enrollingTarget => 4 | .detached => 5

/-- Codes of the class size (R46). -/
def sizeCode (n : Nat) : Nat := if n ≥ 16 then n / 16 - 1 else 0

/-- The twin of a module: the same position in the partner group (R21). -/
def twinOfNumber (c : Nat) : Nat := c ^^^ 4

def twinOf (s : State) : Nat := twinOfNumber s.twin.number

def inClass (s : State) : Bool := s.twin.pair != .unformed

/-- The senior twin is the one in the even-numbered group (R21). -/
def senior (s : State) : Bool := inClass s && s.twin.number / 4 % 2 = 0

def linkOf (s : State) (n : Nat) : Link := (mget s.links n).getD Link.reset

/-- Whether no link carries the role of PLn any more: it is in detention, and PL11 does not stand in for it (R26, R27). -/
def linkDead (s : State) (n : Nat) : Bool :=
  (linkOf s n).state = .detention && !((linkOf s 11).state = .inService && (linkOf s 11).standIn = n)

/-! ### The way of a message (R26 to R28, R246, R247) -/

/-- The link whose role a link has now: PL11 has that of the link it stands in for (R26). -/
def roleLink (s : State) (n : Nat) : Nat := if n = 11 then (linkOf s 11).standIn else n

/-- The module that a link leads to by its role (R23). -/
def leadsTo (s : State) (n : Nat) : Option Nat := (requiredFar s.part s.twin.size s.twin.number (roleLink s n)).map (·.1)

/-- The links of a set, by role, that lead to a module. -/
def linksTo (s : State) (set : List Nat) (m : Nat) : List Nat :=
  (List.range (Config.peerLinks s.part)).filter fun n => set.contains (roleLink s n) && leadsTo s n = some m

/-- Those of them that work: the traffic is spread over them (R27). -/
def workingTo (s : State) (set : List Nat) (m : Nat) : List Nat :=
  (linksTo s set m).filter fun n => (linkOf s n).state = .inService

/-- Whether every link of a set that leads to a module has failed (R27). -/
def failedTo (s : State) (set : List Nat) (m : Nat) : Bool :=
  ((linksTo s set m).filter (· != 11)).all (linkDead s)

/-- Links of a link set by role (R23, R247). -/
def setLinks (set : Nat) : List Nat :=
  match set with
  | 0 => [0, 1, 2, 6, 7, 8, 12, 13, 14]
  | 1 => [9, 10, 18, 19, 22, 23]
  | 2 => [4, 5, 16, 17, 20, 21]
  | _ => [0, 1, 2, 4, 5, 6, 7, 8, 9, 10, 12, 13, 14, 16, 17, 18, 19, 20, 21, 22, 23]

/-- The neighbour that a shortest way to a module starts with: along the row, then the column, then the mesh (R247, DESIGN
CHOICE, log 82). -/
def nextHop (s : State) (dst : Nat) : Nat :=
  let g := gridOf s.part s.twin.size
  let me := s.twin.number
  let e := (dst / 4 % g.2 + g.2 - me / 4 % g.2) % g.2
  let n := (dst / 4 / g.2 + g.1 - me / 4 / g.2) % g.1
  let go := torusNext s.part s.twin.size me
  if e != 0 then go (if 2 * e ≤ g.2 then .east else .west)
  else if n != 0 then go (if 2 * n ≤ g.1 then .north else .south)
  else dst

/-- First hops of the detours round a failed torus set, in order (R246). -/
def detourStarts (p : Part) (d : TorusDir) : List TorusDir :=
  match p, d with
  | .nst8016, .east => [.west]
  | .nst8016, _ => [.east]
  | _, .east => [.north, .south]
  | _, .west => [.north, .south]
  | _, _ => [.east, .west]

/-- The detour to a torus neighbour whose sets have all failed. -/
def detourRoute (s : State) (hop : Nat) : Route :=
  let next := torusNext s.part s.twin.size s.twin.number
  let d := ([TorusDir.east, .west, .north, .south].find? fun d => next d = hop).getD .east
  let starts := detourStarts s.part d
  let first := (starts.find? fun x => !failedTo s (setLinks 3) (next x)).getD (starts.headD d)
  ⟨next first, workingTo s (setLinks 3) (next first), true⟩

/-- The way of a message: to the twin over the twin links, or the east or west set (R27); to a mesh peer, or through the
remaining peer with the lower position; to a torus neighbour, or by a detour. -/
def routeOf (s : State) (dst : Nat) (h : MsgHdr) : Route :=
  let me := s.twin.number
  let set := if h.ringId = 0 then 3 else ((mget s.col.rings h.ringId).map (·.linkSet)).getD 3
  if !inClass s || dst = me then ⟨dst, [], false⟩
  else if dst = twinOf s && (h.kind = 0x0C || h.multicast) then
    (if failedTo s [3, 15] dst then ⟨dst, workingTo s (setLinks 2) dst, false⟩ else ⟨dst, workingTo s [3, 15] dst, false⟩)
  else
    let hop := nextHop s dst
    if !failedTo s (setLinks set) hop then ⟨hop, workingTo s (setLinks set) hop, false⟩
    else if hop / 4 = me / 4 then
      let peer := ((rangeFrom (me / 4 * 4) 4).filter fun x => x != me && x != hop).headD hop
      ⟨peer, workingTo s (setLinks 0) peer, false⟩
    else detourRoute s hop

/-- The stream of a header (R241). -/
def streamOf (h : MsgHdr) : StreamKey := ⟨h.srcClass, h.srcChannel, h.dstPoint, h.owner, h.twinned⟩

/-- I/O die of a sending channel (R238). -/
def channelDie (ch : Nat) : Nat := if ch < 8 then ch / 2 else ch - 8

/-- Slice that a channel sends through, folded onto the slices of the part. -/
def channelSlice (s : State) (ch : Nat) : Nat := channelDie ch % Config.ioDies s.part

/-- The link of a stream to a module among those its traffic may take: the one it is on while that works, else one of its slice's die
(R245; which of several is a DESIGN CHOICE, log 82). -/
def streamLink (s : State) (h : MsgHdr) (dst : Nat) (links : List Nat) : Option Nat :=
  let i := channelSlice s h.srcChannel
  match (s.col.ways.find? fun w => w.1 = (streamOf h, dst)).map (·.2) with
  | some l => if links.contains l then some l else (links.find? fun x => x / 6 = i).or links.head?
  | none => (links.find? fun x => x / 6 = i).or links.head?

/-- Messages that no acknowledgement has covered: in the retry store, or held back while it is full (R242). -/
def unacked (s : State) : List Msg := s.col.retry ++ s.col.unsent

/-- Payload bytes of a message (R239). Where the spec gives a payload no layout the figure is the model's (DESIGN CHOICE, log 107). -/
def payloadBytes (b : Body) : Nat :=
  match b with
  | .partialSum xs bf => (if bf then 2 else 4) * xs.length
  | .chunk bs => bs.length
  | .block bs => bs.length
  | .move _ bs => bs.length
  | .batch ks => 8 * ks.length
  | .reply es => (es.map fun e => e.weights.length + 4).sum
  | .gradRows rs => (rs.map fun r => 8 + 4 * r.elems.length).sum
  | .gradTile _ _ xs => 4 * xs.length
  | .parcel _ items => (items.map (·.length)).sum
  | .granuleHashes _ _ hs => 8 * hs.length
  | .digests _ ds => 8 * ds.length
  | .repairCopy i _ _ => i.bytes.length
  | .servedCopy i _ => i.bytes.length
  | .segment _ n _ _ _ => n
  | _ => 0

/-- The messages in the retry store of a slice (R242). -/
def retryOf (s : State) (i : Nat) : List Msg := s.col.retry.filter fun m => channelSlice s m.hdr.srcChannel = i

/-- Whether a slice's retry store of 64 MiB has no room for another message of the longest kind (R239, R242). -/
def retryFull (s : State) (i : Nat) : Bool :=
  ((retryOf s i).map fun m => 64 + payloadBytes m.body).sum + 65600 > 64 * 2 ^ 20

/-- Collectives of a slice (R264). -/
def jobsOf (s : State) (i : Nat) : List ColJob := s.col.jobs.filter fun j => j.slices.contains i

/-- COL_STAT (R264). -/
def colStat (s : State) (i : Nat) : Nat :=
  let ms := (unacked s).filter fun m => channelSlice s m.hdr.srcChannel = i
  let wait := (jobsOf s i).any fun j => j.desc.operation = 6 && !j.expect.isEmpty
  b2n wait * 32 + b2n (s.col.reshard.any fun r => r.switched) * 16
    + b2n (s.col.reshard.any fun r => !r.switched && s.job.openStep ≥ r.boundary) * 8 + b2n (retryFull s i) * 4
    + b2n (ms.any fun m => (routeOf s m.dst m.hdr).detour) * 2 + b2n (!(jobsOf s i).isEmpty || !ms.isEmpty)

/-- Codes of LNK_STAT.STATE (R333). -/
def linkCode : LinkState → Nat
  | .down => 0 | .training => 1 | .inService => 2 | .detention => 3 | .retraining => 4 | .lowPower => 5

/-- LNK_STAT (R333). -/
def linkStat (l : Link) : Nat :=
  l.farLink * 2 ^ 24 + l.farClass * 2 ^ 18 + l.standIn * 2 ^ 13 + linkCode l.state * 2 ^ 10

/-- Hands that stand on a page, oldest first. -/
def handsOn (s : State) (page : Nat) : List Hand := s.hif.hands.filter (·.page = page)

/-- CORE_SEAT (R330). -/
def seatWord (st c n : Nat) : Nat := st * 2 ^ 30 + c * 2 ^ 16 + n

def coreAt (s : State) (c : Nat) : Core := (mget s.cores.cores c).getD Core.reset

/-- State of an accumulator in CORE_ME_STAT (R97): free, or closed and waiting for the tray. -/
def accCode (a : Option Tile) : Nat := match a with
  | none => 0
  | some _ => 2

/-- The effective pass interval (R339). -/
def effInterval (s : State) : Nat :=
  max (max (field s .pwr 0 0x104 0 5) (if s.pwr.braked then 4 else 0)) s.pwr.widened

/-- PWR_STAT.INTERVAL: its reset value until power-on has ended (step 8) and passes are issued (R14, R382). -/
def shownInterval (s : State) : Nat := if field s .tst 0 0x100 24 4 = 9 then effInterval s else 1

/-- Channels of a controller that carry traffic, as four bits (R142). -/
def channelsUp (s : State) (m : Nat) : Nat :=
  ((List.range 4).map fun k => if ((mget s.gddr.rates (4 * m + k)).getD 0) > 0 && !s.gddr.retraining.contains (4 * m + k)
    then 2 ^ k else 0).sum

/-- The rate of a device: the lowest of its channels in service (R123). -/
def deviceRate (s : State) (m : Nat) : Nat :=
  (((List.range 4).filterMap fun k => mget s.gddr.rates (4 * m + k)).filter (· > 0)).foldl
    (fun a r => if a = 0 then r else min a r) 0

/-- Pages of a pool, or of all, in a state of R220. -/
def pagesIn (s : State) (pool : Option Nat) (st : PageState) : Nat :=
  (s.kvp.entries.filter fun e => e.2.state = st && (pool.isNone || pool = some e.2.pool)).length

/-- The update unit of a device memory address: the controller of its channel (R124). -/
def foldBits (k : Nat) : Nat → Nat → Nat
  | 0, _ => 0
  | n + 1, x => (x % 2 ^ k) ^^^ foldBits k n (x / 2 ^ k)

/-- Channel of an address (R124). -/
def channelOf (p : Part) (a : Nat) : Nat :=
  let g := a / 256
  match p with
  | .nst8064 => foldBits 6 6 g
  | .nst8048 => 16 * (g % 3) + foldBits 4 9 (g / 3)
  | .nst8032 => foldBits 5 7 g
  | .nst8016 => foldBits 4 9 g

/-- Channel-local granule number of an address (R124). -/
def localGranule (p : Part) (a : Nat) : Nat :=
  let g := a / 256
  match p with
  | .nst8064 => g / 64
  | .nst8048 => g / 3 / 16
  | .nst8032 => g / 32
  | .nst8016 => g / 16

/-- Memory controller of an address. -/
def memOf (p : Part) (a : Nat) : Nat := channelOf p a / 4

/-- A fuse word (R379). -/
def fuseWord (s : State) (w : Nat) : Nat := (mget s.boot.fuses w).getD 0

/-- A core tested good at manufacture (R381). -/
def goodCore (s : State) (c : Nat) : Bool := bitOf (fuseWord s (4 + c / 32)) (c % 32)

/-- TST_FUSE_DATA: its reset value until step 1 has read the fuses, then a fuse word, 0 in the security region from word 0x200
on (R14, R379, R382, R400). -/
def fuseData (s : State) (w : Nat) : Nat := if !s.pwr.auxGood || w ≥ 0x200 then 0 else fuseWord s w

/-- TST_DIE_STAT (R401): units tested at roll call, in service, in detention and out of service; a vector engine counts as in service
whatever its core is (DEDUCED, log 56). -/
def dieStat (s : State) (i : Nat) : Nat :=
  let t := field s .tst i 0x100 24 8
  let cores := s.cores.seats.filter fun e => i ≤ 8 && e.1 / 34 + 1 = i
  let links := s.links.filter fun e => i > 8 && e.1 / 6 + 9 = i && e.2.state = .detention
  let det := (cores.filter (·.2 = .detention)).length + links.length
  let out := cores.filter (·.2 = .outOfService)
  let up := t - det - (out.filter fun e => goodCore s e.1).length
  t * 2 ^ 24 + satN 8 up * 2 ^ 16 + satN 8 det * 2 ^ 8 + satN 8 out.length

/-- Bits set in the security version region: the number of fuse bits is the minimum version (R409). -/
def popcount : Nat → Nat → Nat
  | 0, _ => 0
  | k + 1, n => n % 2 + popcount k (n / 2)

/-- Whether power-on has ended and no trip, recovery or boot failure holds the module (R343, R362, R382, R409). -/
def isUp (s : State) : Bool :=
  field s .tst 0 0x100 24 4 = 9 && !s.boot.stopped && !s.pwr.tripped && s.rel.recovery = 0

/-! ### How far a table has come -/

def tableAt (s : State) (t : Nat) : Option TableDesc := mget s.tables.descs t

/-- The step whose gradient rows a table takes next; before any, the first of the job. For a table without an optimiser it is the
step whose look-up marks are not all in. -/
def nextApply (s : State) (t : Nat) : Nat := ((mget s.tables.applied t).map (· + 1)).getD s.job.firstStep

/-- Whether rows of a table wait at their unit. -/
def rowsPending (s : State) (t : Nat) : Bool := s.tables.pendRows.any (·.table = t)

/-- Whether every reduced row of a step and before has been applied to a table (R158). -/
def appliedThrough (s : State) (d : TableDesc) (step : Nat) : Bool :=
  d.optimiser = 0 || (nextApply s d.table > step && !rowsPending s d.table)

/-- EMB_STAT of an engine (R169). Pooling ends with the command that starts it, so that no read finds it under way. -/
def embStat (s : State) (i : Nat) : Nat :=
  let here := fun (e : Nat) => e % Config.embEngines s.part = i
  let routed := s.tables.lookups.find? fun l => !l.done && (l.todo.headD []).any fun k => here ((k.shard + k.slot) % 8)
  let apply := s.tables.batches.any fun b => here b.hdr.dstPoint && (tableAt s b.hdr.tensorId).any fun d =>
    b.hdr.step > 0 && !appliedThrough s d (b.hdr.step - 1)
  let marks := s.tables.grads.any fun g => here g.engine && nextApply s g.table ≤ g.step
  let batch := s.tables.batches.any fun b => here b.hdr.dstPoint
  (routed.elim 0 fun l => satN 8 l.pass) * 2 ^ 16 + b2n marks * 8 + b2n apply * 4 + b2n (routed.isSome || batch || marks)

/-- UPD_STAT of a unit (R196): accepted updates not through their second write, those that wait for their record or tile among them. The
sweep of R190 ends with the command that starts it, so that no read finds it under way. -/
def updStat (s : State) (i : Nat) : Nat :=
  let n := (s.tables.open2.filter fun o => o.unit = i && !o.renewal).length + (s.tables.pendRows.filter (·.unit = i)).length
    + (s.tables.pendTiles.filter (·.unit = i)).length
  let mend := s.twin.waits.any fun w => w.torn && !w.refused && memOf s.part w.addr = i
  satN 16 n * 2 ^ 16 + b2n mend * 4 + b2n (s.rel.recovery = 2 && n > 0) * 2 + b2n (n > 0)

/-- MEM_STAT of a controller (R142). A scrub pass is under way whenever scrub runs: one pass follows the other (DEDUCED, log 96). -/
def memStat (s : State) (i : Nat) : Nat :=
  let scrub := isUp s && !s.pwr.recess && !s.gddr.selfRefresh && field s .mem i 0x11C 0 16 != 0
  deviceRate s i * 2 ^ 16 + channelsUp s i * 2 ^ 8 + b2n s.gddr.selfRefresh * 8
    + b2n ((List.range 4).any fun k => s.gddr.retraining.contains (4 * i + k)) * 4 + b2n scrub * 2 + b2n (channelsUp s i = 15)

/-- ATT_STAT of a sequencer (R218). Rows are finished and written by the command that works the last source, so that no read finds
FINISHING set. -/
def attStat (s : State) (i : Nat) : Nat :=
  match s.att.find? fun a => a.desc.coreFirst / 32 ≤ i && i ≤ (a.desc.coreFirst + a.desc.coreCount - 1) / 32 with
  | none => 0
  | some a => min a.source (a.ring.length - 1) * 2 ^ 16 + b2n a.opened * 8 + b2n a.desc.backward * 4 + b2n (!a.opened) * 2 + 1

/-- VEC_STAT of a logical core (R98): an operation that waits is in flight. -/
def vecStat (s : State) (i : Nat) : Nat :=
  match (physOf s i).bind fun p => (coreAt s p).vecWait with
  | none => 0
  | some w => w.1 % 16 * 16 + b2n w.2 * 4 + 1

/-- CORE_ME_STAT of a physical core (R97). Passes, side passes and copies end with the command that runs them, so that no read finds
an accumulator filling or copying. -/
def meStat (s : State) (c : Nat) : Nat :=
  let k := coreAt s c
  k.tray.length * 2 ^ 16 + accCode k.accA * 2 ^ 10 + accCode k.accB * 2 ^ 8 + b2n k.meWait

/-- BLK_STAT.RESETTING (R321): device recovery, or a retraining that BLK_RESET has asked for (R323), which BLK_RESET's own register
keeps. A function reset ends with the command that starts it, so that no read finds it under way. -/
def resetting (s : State) (b : Blk) (i : Nat) : Bool :=
  s.rel.recovery != 0 || (kept s b i 0x014 = 1 && match b with
    | .mem => (List.range 4).any fun k => s.gddr.retraining.contains (4 * i + k)
    | .lnk => (linkOf s i).retest
    | _ => false)

/-- The registers whose values follow the state; none for a kept register. -/
def derived (s : State) (b : Blk) (i off : Nat) : Option Nat :=
  match off with
  | 0x000 => some (blkType b * 2 ^ 24 + 2 ^ 16 + i)
  | 0x004 => some (blkCount s.part b * 2 ^ 16 + (if b = .coreP then 256 else 0) + modeBits b i)
  | 0x00C => some (
      b2n (s.pwr.recess) * 16
      + b2n (resetting s b i) * 8
      + b2n (match b with
        | .coreP => mget s.cores.seats i = some .detention
        | .lnk => (linkOf s i).state = .detention
        | _ => false) * 4
      + b2n (b = .coreL && !s.cores.seats.isEmpty && (physOf s i).isNone) * 2
      + b2n (match domOf s b i with
        | some d => s.pwr.running.contains d
        | none => false)
      + (if b = .dev then b2n (s.rel.recovery != 0) * 2 ^ 16 + b2n s.hif.detached * 2 ^ 17 else 0))
  | 0x014 => some 0
  | 0x020 => some ((match handsOn s (pageOf b i) with
      | h :: _ => h.bit * 2 ^ 16
      | [] => 0) + satN 16 (handsOn s (pageOf b i)).length)
  | 0x024 => some 0
  | 0x02C => some (s.tick % 2 ^ 32)
  | _ =>
    match b, off with
    | .dev, 0x100 => some (Config.partNumber s.part * 2 ^ 16 + 0x100)
    | .dev, 0x104 => some (Config.logicalCores s.part * 2 ^ 16 + Config.computeDies s.part * 2 ^ 8 + Config.ioDies s.part)
    | .dev, 0x108 => some (Config.peerLinks s.part * 2 ^ 24 + Config.memDevices s.part * 2 ^ 16
        + Config.embEngines s.part * 2 ^ 8 + Config.ioDies s.part)
    | .dev, 0x110 => some (s.tick % 2 ^ 32)
    | .dev, 0x114 => some (s.tick / 2 ^ 32 % 2 ^ 32)
    | .hif, 0x128 => some (b2n s.hif.detached * 2)
    | .hif, 0x12C => some (b2n (s.hif.rings.any fun r => s.hif.eventUnread.length ≥ 2 ^ r.eventLog2)
        + b2n (s.hif.rings.any fun r => s.hif.handUnread.length ≥ 2 ^ r.handLog2) * 2 + b2n s.hif.trWait * 4)
    | .cmd, 0x100 =>
      let run := satN 16 (s.hif.running.filter (·.fn = i)).length
      let qs := s.hif.queues.filter (·.fn = i)
      some (run * 2 ^ 16 + qs.length * 2 ^ 8 + b2n (qs.any (·.stopped)) * 2 + b2n (run > 0))
    | .cmd, 0x104 => some (((List.range 8).map fun d => if i != 0 && s.hif.dies.getD d 0 = i then 2 ^ d else 0).sum)
    | .emb, 0x100 => some (embStat s i)
    | .upd, 0x100 => some (updStat s i)
    | .mem, 0x100 => some (memStat s i)
    | .att, 0x100 => some (attStat s i)
    | .kvp, 0x100 => some ((s.kvp.pools.map fun e => 2 ^ e.1).sum * 2 ^ 16 + b2n (s.decodes.any (·.pinWait)) * 5)
    | .kvp, 0x104 => some (pagesIn s none .free)
    | .kvp, 0x108 => some (pagesIn s none .live)
    | .kvp, 0x10C => some (pagesIn s none .held)
    | .col, 0x100 => some (colStat s i)
    | .col, 0x124 =>
      some ((jobsOf s i).length + ((unacked s).filter fun m => channelSlice s m.hdr.srcChannel = i).length)
    | .col, 0x128 => some s.job.layoutEpoch
    | .col, 0x130 => if i = 0 then some (s.col.members.toNat % 2 ^ 32) else none
    | .col, 0x134 => if i = 0 then some (s.col.members.toNat / 2 ^ 32) else none
    | .lnk, 0x100 => some (linkStat (linkOf s i))
    | .pwr, 0x100 => if i = 0 then
        some (field s .pwr 0 0x100 16 16 * 2 ^ 16 + shownInterval s * 2 ^ 11 + b2n s.pwr.tripped * 32
          + b2n ((handsOn s (pageOf .pwr 0)).any (·.bit = 0)) * 16 + b2n s.pwr.thermalStep * 8 + b2n s.pwr.braked * 4
          + b2n s.pwr.recessing * 2 + b2n s.pwr.recess)
      else
        let lo := if i ≤ 8 then 34 * (i - 1) else 0
        let hi := if i ≤ 8 then lo + 34 else 0
        let held := (s.pwr.passes.filter fun c => lo ≤ c && c < hi).length
        let net := if i ≤ 8 then [domAtt (i - 1), 280 + 2 * (i - 1), 281 + 2 * (i - 1)]
          else [domIoNet (i - 9)] ++ ((List.range 4).flatMap fun k => [domMem (4 * (i - 9) + k), domUpd (4 * (i - 9) + k)])
            ++ [domEmb (2 * (i - 9)), domEmb (2 * (i - 9) + 1), domCol (i - 9)]
            ++ (List.range 6).map (fun k => domLnk (6 * (i - 9) + k))
            ++ (if i = 9 then [domHif, domKvp, domSec] ++ mgtDomains else [])
        some (field s .pwr i 0x100 16 16 * 2 ^ 16 + satN 8 (held + (net.filter s.pwr.running.contains).length) * 2 ^ 8
          + held)
    | .pwr, 0x118 => if i = 0 then
        some (field s .pwr 0 0x118 16 16 * 2 ^ 16 + b2n s.pwr.releasing * 16 + b2n s.pwr.tripped * 8 + b2n s.pwr.mainPg * 4
          + b2n s.pwr.pwrbrk * 2 + b2n s.pwr.perst)
      else none
    | .rel, 0x104 => some (pairCode s.twin.pair * 2 ^ 25 + b2n (senior s) * 2 ^ 24
        + (if inClass s then twinOf s else 0) * 2 ^ 18 + s.twin.number * 2 ^ 12 + sizeCode s.twin.size * 2 ^ 10
        + b2n ((linkOf s 15).state = .inService) * 512 + b2n ((linkOf s 3).state = .inService) * 256)
    | .rel, 0x114 => some (s.rel.recoveryCause * 2 ^ 24 + s.rel.recovery * 2 ^ 20 + field s .rel 0 0x114 0 20)
    | .tst, 0x100 => if i = 0 then none else some (dieStat s i)
    | .tst, 0x10C => if i = 0 then some (fuseData s (field s .tst 0 0x108 0 10)) else none
    | .sec, 0x100 => some (b2n s.boot.clearFail * 128 + b2n s.boot.scan * 64 + b2n s.boot.cacheFull * 32
        + b2n s.boot.coreSlot * 16 + b2n s.boot.mgmtSlot * 8 + field s .sec 0 0x100 2 1 * 4)
    | .sec, 0x108 => some (b2n s.boot.challenge.isSome * 8 + s.boot.granted)
    | .vec, 0x100 => some (vecStat s i)
    | b, o =>
      if b = .coreL || b = .coreP then
        let c := if b = .coreP then some i else physOf s i
        match o with
        | 0x100 => some (c.elim 0 (meStat s))
        | 0x124 => some (match c with
          | none => 0xC1FF01FF
          | some c =>
            match mget s.cores.seats c with
            | none => 0xC1FF01FF
            | some (.seated n) => seatWord 0 c n
            | some .reserve => seatWord 1 c 0x1FF
            | some .detention => seatWord 2 c 0x1FF
            | some .outOfService => seatWord 3 c 0x1FF)
        | _ => none
      else if b = .kvp && 0x140 ≤ o && o < 0x180 && o % 4 = 0 then some (pagesIn s (some ((o - 0x140) / 4)) .free)
      else none

/-- Whether a logical core page is absent once seats are known (R329). -/
def absentPage (s : State) (b : Blk) (i : Nat) : Bool :=
  (b = .coreL || b = .vec) && !s.cores.seats.isEmpty && (physOf s i).isNone

/-- Value of a register as an aligned 32-bit read returns it, before the pair latch of R18. Offsets that no rule defines
are never written and read 0 (R317). -/
def regValue (s : State) (b : Blk) (i off : Nat) : Nat :=
  match derived s b i off with
  | some v => v
  | none => if absentPage s b i && off ≠ 0x1C then 0 else kept s b i off

/-! ### Writable fields -/

/-- How a register takes a write: mask of its RW bits, mask of its W1C bits, and the reserved-encoding check on the
written RW bits (R13, R15, R16). -/
structure Writable where
  rw : Nat
  w1c : Nat
  ok : Bool
  deriving DecidableEq, Repr

/-- Masks and checks of every RW or W1C register, for a written value v. -/
def writable (b : Blk) (i off v : Nat) : Writable :=
  match off with
  | 0x010 => ⟨2 ^ modeBits b i - 1, 0, true⟩
  | 0x01C => ⟨0, 7, true⟩
  | _ =>
    match b, off with
    | .hif, 0x104 => ⟨0x3F, 0, 4 ≤ bitsOf v 1 5 && bitsOf v 1 5 ≤ 16⟩
    | .hif, 0x108 => ⟨0xFFFFF000, 0, true⟩
    | .hif, 0x10C => ⟨0xFFFFFFFF, 0, true⟩
    | .hif, 0x110 => ⟨0xFFFFF000, 0, true⟩
    | .hif, 0x114 => ⟨0xFFFFFFFF, 0, true⟩
    | .hif, 0x118 => ⟨0xFFFFFFFF, 0, true⟩
    | .hif, 0x11C => ⟨0xFFFFFFFF, 0, true⟩
    | .hif, 0x120 => ⟨0xFFFFFFFF, 0, true⟩
    | .hif, 0x124 => ⟨0xFFFFFFFF, 0, true⟩
    | .mem, 0x110 => ⟨0, 1, true⟩
    | .mem, 0x11C => ⟨0xFFFF, 0, true⟩
    | .emb, 0x104 => ⟨7, 0, bitsOf v 1 2 != 3⟩
    | .col, 0x104 => ⟨0xFFFF, 0, bitsOf v 0 16 != 0⟩
    | .rel, 0x100 => ⟨0xFF03, 0, bitsOf v 8 8 != 0⟩
    | .rel, 0x10C => ⟨0xFFFFFF, 0, bitsOf v 0 8 != 0 && bitsOf v 8 8 != 0 && bitsOf v 16 8 != 0⟩
    | .mgt, 0x200 => if i = 0 then ⟨0x7FFF00, 0, -64 ≤ signedOf 8 (bitsOf v 8 8) && signedOf 8 (bitsOf v 8 8) ≤ 96⟩
        else ⟨0, 0, true⟩
    | .mgt, 0x204 => if i = 0 then ⟨0xFFFF003F, 0, bitsOf v 4 2 != 3 && bitsOf v 0 4 != 0⟩ else ⟨0, 0, true⟩
    | .mgt, 0x214 => if i = 0 then ⟨0xFFFF, 0, bitsOf v 8 8 != 0 && bitsOf v 5 3 ≤ 4 && 1 ≤ bitsOf v 0 5
        && bitsOf v 0 5 ≤ 24⟩ else ⟨0, 0, true⟩
    | .pwr, 0x104 => if i = 0 then ⟨0xFFFF0F1F, 0, bitsOf v 8 4 != 0 && 1 ≤ bitsOf v 0 5 && bitsOf v 0 5 ≤ 16⟩
        else ⟨0, 0, true⟩
    | .pwr, 0x108 => if i = 0 then ⟨0xFFFF, 0, 600 ≤ bitsOf v 0 16 && bitsOf v 0 16 ≤ 1500⟩ else ⟨0, 0, true⟩
    | .tst, 0x104 => if i = 0 then ⟨7, 0, bitsOf v 0 2 != 3⟩ else ⟨0, 0, true⟩
    | .tst, 0x108 => if i = 0 then ⟨0x3FF, 0, true⟩ else ⟨0, 1, true⟩
    | _, _ => ⟨0, 0, true⟩

/-- Low halves of the 64-bit pairs (R18). -/
def isPairLow (b : Blk) (i off : Nat) : Bool :=
  match b with
  | .dev => off = 0x110
  | .cmd => off = 0x108
  | .coreL => off = 0x108 || off = 0x118
  | .coreP => off = 0x108 || off = 0x118
  | .mem => off = 0x110
  | .emb => off = 0x108 || off = 0x110
  | .upd => off = 0x108
  | .att => off = 0x108
  | .kvp => off = 0x110
  | .col => off = 0x108 || (i = 0 && off = 0x130)
  | .mgt => i = 0 && off = 0x218
  | .hif => off = 0x108 || off = 0x110 || off = 0x120
  | .tst => i = 0 && off = 0x118
  | _ => false

/-- An access to nothing: BLK_ERR.ACCESS of the DEV page and DEV_UNMAPPED (R316). -/
def unmapped (s : State) : State := bump (stick s .dev 0 0) .dev 0 0x118 0 32 1

/-- An aligned 32-bit read: the latched half of a pair, or the register; reading a low half latches the high one (R18). Each
pair has a latch of its own, for all functions (DESIGN CHOICE, log 81). -/
def read32 (s : State) (off : Nat) : State × Nat :=
  match locate s.part off with
  | none => (unmapped s, 0)
  | some (b, i, o) =>
    match mget s.latch off with
    | some v => ({ s with latch := mdel s.latch off }, v.toNat)
    | none =>
      if isPairLow b i o then
        ({ s with latch := mput s.latch (off + 4) (BitVec.ofNat 32 (regValue s b i (o + 4))) }, regValue s b i o)
      else (s, regValue s b i o)

/-- An aligned 64-bit read: both words as they stand at one instant, past any latch (R18). -/
def read64 (s : State) (off : Nat) : State × Nat :=
  match locate s.part off with
  | none => (unmapped s, 0)
  | some (b, i, o) => (s, regValue s b i o + regValue s b i (o + 4) * 2 ^ 32)

/-- Whether a function may write a page (R284, R315). A compute function writes the CORE, VEC and ATT pages of its dies. -/
def mayWrite (s : State) (fn : Nat) (b : Blk) (i : Nat) : Bool :=
  if fn = 0 then true else
  match b with
  | .att => s.hif.dies.getD i 0 = fn
  | .coreL => s.hif.dies.getD (i / 32) 0 = fn
  | .vec => s.hif.dies.getD (i / 32) 0 = fn
  | .coreP => s.hif.dies.getD (i / 34) 0 = fn
  | _ => false

end Sys2Proof.Machine
end

