-- ==== Sys2Proof/Machine/Ops.lean ====
section
/-! DEFINITION. The shared operations: free values, events, hands, completions, running commands, and device memory. -/

namespace Sys2Proof.Machine

/-! ### Free values (DESIGN CHOICE, log 7) -/

/-- The next free number, and the state with the draw counted. -/
def drawFree (s : State) : State × Nat := ({ s with freeCtr := s.freeCtr + 1 }, Config.freeNat s.freeCtr)

/-! ### Host memory -/

/-- One write to host memory, recorded in issue order (R308). -/
def hostWrite (s : State) (w : HostWrite) : State := { s with hostOut := s.hostOut ++ [w] }

def setHif (s : State) (f : Hif → Hif) : State := { s with hif := f s.hif }

/-- Whether the host takes no write now (R309). -/
def hostAway (s : State) : Bool := s.hif.detached

/-! ### Events (R304) -/

/-- a at or above b, modulo 2^32 (R304). -/
def seqGe (a b : Nat) : Bool := (a + 2 ^ 32 - b % 2 ^ 32) % 2 ^ 32 < 2 ^ 31

/-- Written event records that the host has not read. -/
def eventUnread (s : State) : List Nat := s.hif.eventUnread.filter fun q => seqGe q (kept s .hif 0 0x118)

/-- Whether the event ring is full. -/
def eventFull (s : State) (r : Rings) : Bool := (eventUnread s).length ≥ 2 ^ r.eventLog2

/-- An event record written into the ring. -/
def writeEvent (s : State) (r : Rings) (e : EventRec) : State :=
  setHif (hostWrite s (.event (r.eventBase + 64 * s.hif.eventPos) e)) fun h =>
    { h with eventPos := (h.eventPos + 1) % 2 ^ r.eventLog2, eventUnread := h.eventUnread ++ [e.seq] }

/-- An event that finds no room: dropped and counted (R303, R304). -/
def loseEvent (s : State) : State :=
  bump (setHif s fun h => { h with lostNow := h.lostNow + 1 }) .hif 0 0x140 0 32 1

/-- An event record on its way to the host: held with no ring or detached, dropped into a full ring. -/
def putEvent (s : State) (e : EventRec) : State :=
  match s.hif.rings with
  | none => if s.hif.eventsHeld.length < 1024 then setHif s fun h => { h with eventsHeld := h.eventsHeld ++ [e] }
            else loseEvent s
  | some r =>
    if hostAway s then
      if s.hif.eventsHeld.length < 1024 then setHif s fun h => { h with eventsHeld := h.eventsHeld ++ [e] }
      else loseEvent s
    else if eventFull s r then loseEvent s
    else writeEvent s r e

/-- An event posted by a page (R304, R324). -/
def post (s : State) (b : Blk) (i code : Nat) (items : List Nat) : State :=
  let e : EventRec := ⟨s.hif.eventSeq, code, blkType b, i % 256, s.tick % 2 ^ 32, s.job.openStep, items⟩
  putEvent (setHif (bumpWrap s b i 0x18 1) fun h => { h with eventSeq := h.eventSeq + 1 }) e

/-- EVENTS_LOST once room has returned (R304). -/
def postLost (s : State) : State :=
  match s.hif.rings with
  | none => s
  | some r =>
    if s.hif.lostNow > 0 && !hostAway s && !eventFull s r then
      post (setHif s fun h => { h with lostNow := 0 }) .hif 0 0x0002 [s.hif.lostNow]
    else s

/-! ### Hands (R305, R326) -/

def handUnread (s : State) : List Nat := s.hif.handUnread.filter fun q => seqGe q (kept s .hif 0 0x11C)

/-- Held hand records written in order while the ring takes them. -/
def drainHands : Nat → State → State
  | 0, s => s
  | n + 1, s =>
    match s.hif.rings, s.hif.handsHeld with
    | some r, e :: rest =>
      if hostAway s || (handUnread s).length ≥ 2 ^ r.handLog2 then s
      else drainHands n (setHif (hostWrite s (.hand (r.handBase + 64 * s.hif.handPos) e)) fun h =>
        { h with handPos := (h.handPos + 1) % 2 ^ r.handLog2, handUnread := h.handUnread ++ [e.seq], handsHeld := rest })
    | _, _ => s

def drainAllHands (s : State) : State := drainHands s.hif.handsHeld.length s

/-- A hand record, behind those held. -/
def putHandRec (s : State) (page bit : Nat) (withdrawn : Option Nat) (items : List Nat) : State :=
  drainAllHands (setHif s fun h =>
    { h with handSeq := h.handSeq + 1
             handsHeld := h.handsHeld ++ [⟨h.handSeq, page, bit, withdrawn, s.job.openStep, items, s.tick % 2 ^ 32⟩] })

/-- A hand raised by a page (R305). -/
def raise (s : State) (b : Blk) (i bit : Nat) (items : List Nat) : State :=
  let hnd : Hand := ⟨s.hif.handSeq, pageOf b i, bit, items⟩
  putHandRec (setHif s fun h => { h with hands := h.hands ++ [hnd] }) hnd.page bit none items

/-- A hand lowered by its answer: no further record (R326). -/
def lower (s : State) (hnd : Hand) : State :=
  setHif s fun h => { h with hands := h.hands.filter (·.seq != hnd.seq) }

/-- A hand withdrawn (R305). -/
def withdraw (s : State) (hnd : Hand) : State := putHandRec (lower s hnd) hnd.page hnd.bit (some hnd.seq) []

/-- The oldest standing hand of a page. -/
def oldest (s : State) (page : Nat) : Option Hand := (handsOn s page).head?

/-- An answer to the oldest hand of a page (R326): with no hand, or a value its rule refuses, it is discarded and
BLK_ERR.ANSWER is set. -/
def answer (s : State) (b : Blk) (i : Nat) (act : Hand → State → Option State) : State :=
  match oldest s (pageOf b i) with
  | none => stick s b i 1
  | some h =>
    match act h (lower s h) with
    | none => stick s b i 1
    | some s' => s'

/-! ### Queues and completions (R290 to R297) -/

def queueOf (s : State) (fn q : Nat) : Option Queue := s.hif.queues.find? fun x => x.fn = fn && x.queue = q

def setQueue (s : State) (x : Queue) : State :=
  setHif s fun h => { h with queues := h.queues.map fun y => if y.fn = x.fn && y.queue = x.queue then x else y }

/-- Records written and unread, from the CQ_HEAD of the latest doorbell (R295). -/
def cqUnread (q : Queue) : Nat := (q.cqTail + 2 ^ q.log2 - q.cqHead) % 2 ^ q.log2

/-- A completion record written into its ring (R295). -/
def writeCompletion (s : State) (q : Queue) (base : Nat) (c : Completion) : State :=
  let c' := { c with phase := q.phase, sqHead := q.head }
  let next := (q.cqTail + 1) % 2 ^ q.log2
  let s1 := hostWrite s (.completion (base + 32 * q.cqTail) c')
  bump64 (progress (setQueue s1 { q with cqTail := next, phase := if next = 0 then !q.phase else q.phase }) .cmd q.fn 1)
    .cmd q.fn 0x108 1

/-- A completion posted: discarded while detached (R309) or when its queue is gone (R311), held while its ring has no
room. -/
def postCompletion (s : State) (base : Nat) (c : Completion) : State :=
  match queueOf s c.fn c.queue with
  | none => s
  | some q =>
    if hostAway s then s
    else if !q.held.isEmpty || cqUnread q ≥ 2 ^ q.log2 - 1 then setQueue s { q with held := q.held ++ [c] }
    else writeCompletion s q base c

/-- Held completions written while the ring has room. -/
def drainCompletions : Nat → Nat → Nat → State → State
  | 0, _, _, s => s
  | n + 1, fn, qn, s =>
    match queueOf s fn qn with
    | none => s
    | some q =>
      match q.held with
      | [] => s
      | c :: rest =>
        if hostAway s || cqUnread q ≥ 2 ^ q.log2 - 1 then s
        else drainCompletions n fn qn (writeCompletion s { q with held := rest } q.cqBase c)

/-- A completion record of a command. -/
def completionOf (c : HostCmd) (status original d0 d1 : Nat) : Completion :=
  ⟨c.fn, c.queue, c.slot.requestId, status, original, true, 0, c.index, d0, d1⟩

/-- The history with the completion of an identifier. -/
def histSet (hs : List HistEntry) (ident : Nat) (d : Option (Nat × Nat × Nat)) : List HistEntry :=
  hs.map fun e => if e.ident = ident then { e with done := d } else e

/-- The history with an identifier as the most recently accepted, at most 4,096 in all; an open identifier that is accepted again moves
to the end (R294). -/
def histAdd (hs : List HistEntry) (ident : Nat) : List HistEntry :=
  let rest := hs.filter (·.ident != ident)
  (rest ++ [(⟨ident, none⟩ : HistEntry)]).drop (if rest.length ≥ 4096 then 1 else 0)

/-- A queue started afresh: head 0, SEQUENCE 0 next, PHASE 1, empty history (R290). -/
def freshQueue (fn qn k sq cq : Nat) : Queue :=
  ⟨fn, qn, k, sq, cq, 0, 0, 0, 0, 0, true, 0, [], 0, false, false, []⟩

/-- The admin queue started from its registers (R290). -/
def startAdmin (s : State) : State :=
  let q := freshQueue 0 0 (field s .hif 0 0x104 1 5) (pair64 s .hif 0 0x108) (pair64 s .hif 0 0x110)
  setHif s fun h =>
    { h with queues := (h.queues.filter fun x => !(x.fn = 0 && x.queue = 0)) ++ [q], adminPending := false }

/-- Whether a command of the admin queue has not completed. -/
def adminBusy (s : State) : Bool := s.hif.running.any fun c => c.fn = 0 && c.queue = 0

/-- A delayed start of the admin queue, once no command of its earlier start runs (R290). -/
def adminCheck (s : State) : State := if s.hif.adminPending && !adminBusy s then startAdmin s else s

/-- A command runs no more. -/
def unrun (s : State) (c : HostCmd) : State := setHif s fun h => { h with running := h.running.filter (· != c) }

/-- What the history of a command's queue holds for its identifier: its completion, or none when it is accepted again. -/
def remember (s : State) (c : HostCmd) (d : Option (Nat × Nat × Nat)) : State :=
  match queueOf s c.fn c.queue with
  | none => s
  | some q =>
    let hs := if d.isSome then histSet q.history c.slot.requestId d else histAdd q.history c.slot.requestId
    setQueue s { q with history := hs }

/-- Held duplicates of a command (R294). -/
def duplicatesOf (s : State) (c : HostCmd) : List HostCmd :=
  s.hif.duplicates.filter fun d => d.fn = c.fn && d.queue = c.queue && d.slot.requestId = c.slot.requestId

/-- Duplicates no longer held. -/
def dropDuplicates (s : State) (ds : List HostCmd) : State :=
  setHif s fun h => { h with duplicates := h.duplicates.filter fun d => !ds.contains d }

/-- A duplicate completed with DONE_DUPLICATE, and counted. -/
def postDuplicate (st d0 d1 : Nat) (s : State) (d : HostCmd) : State :=
  bump (postCompletion s d.cqBase (completionOf d 1 st d0 d1)) .hif 0 0x134 0 16 1

/-- After ABORTED_BY_RESET the first held duplicate is the command, and the others are its duplicates (R294). -/
def reopen (s : State) (c : HostCmd) (dups : List HostCmd) : State :=
  match dups with
  | [] => s
  | d :: ds => setHif (remember s c none) fun h => { h with running := h.running ++ [d], duplicates := h.duplicates ++ ds }

/-- The completion of a command in its history and in its ring. -/
def recorded (s : State) (c : HostCmd) (status d0 d1 : Nat) : State :=
  postCompletion (remember (unrun s c) c (some (status, d0, d1))) c.cqBase (completionOf c status status d0 d1)

/-- The end of a command: history, completion record, then its held duplicates (R294, R295). -/
def finish (s : State) (c : HostCmd) (status d0 d1 : Nat) : State :=
  let s1 := recorded s c status d0 d1
  let dups := duplicatesOf s1 c
  let s2 := dropDuplicates s1 dups
  if status = 0x30 then reopen s2 c dups else adminCheck (dups.foldl (postDuplicate status d0 d1) s2)

/-- DONE. -/
def done (s : State) (c : HostCmd) : State := finish s c 0 0 0

/-- OPERAND_RANGE naming a field (R442). -/
def refuse (s : State) (c : HostCmd) (d0 : Nat) : State := finish s c 0x12 d0 0

/-- DETAIL0 of a refusal that rests on a condition (R442). -/
def condition : Nat := 2 ^ 64 - 1

/-- DETAIL0 of a field of a descriptor, record, inline block or plan (R442). -/
def blockField (off : Nat) : Nat := 0x100 + off

/-- Work of a step that a pending re-shard holds back: no step b work is opened before the new epoch (R261). -/
def heldByReshard (s : State) (c : HostCmd) : Bool :=
  [0x0100, 0x0114, 0x0115, 0x0120, 0x0121, 0x0131].contains c.slot.opcode
    && s.col.reshard.any fun r => r.boundary ≤ c.slot.step

/-- Whether a command was placed in its queue before another: slots are taken in order of their SEQUENCE, which counts modulo
2^16 (R292), and far fewer than 2^15 commands of a queue stand open at once (DEDUCED, log 9). -/
def placedBefore (d c : HostCmd) : Bool :=
  let k := (c.slot.sequence + 65536 - d.slot.sequence) % 65536
  d.fn = c.fn && d.queue = c.queue && 0 < k && k < 32768

/-- Whether a command may run now: consumed and not complete, its opcode this one, no earlier command of its queue in
the way of its FENCE (R296), and the device up. -/
def ready (s : State) (op : Nat) (c : HostCmd) : Bool :=
  s.hif.running.contains c && c.slot.opcode = op && isUp s && !heldByReshard s c
    && (!bitOf c.slot.ctl 5
      || (s.hif.running ++ s.hif.duplicates).all fun d => !placedBefore d c)

/-- The effect of a command of a slot: nothing until it may run. -/
def runCmd (s : State) (op : Nat) (c : HostCmd) (body : State → State) : Host.Outcome State Fault Refusal :=
  .next (if ready s op c then body s else s)

/-- Mode of a slot (R57); the reserved encoding was refused when the slot was consumed. -/
def modeOf (ctl : Nat) : NumMode :=
  match bitsOf ctl 0 2 with
  | 0 => .fast
  | 1 => .strict
  | _ => .legacy

/-- Rounding of a slot (R57). -/
def roundingOf (ctl : Nat) : Rounding :=
  match bitsOf ctl 2 3 with
  | 1 => .rtz
  | 2 => .rup
  | 3 => .rdn
  | _ => .rne

/-- Bytes padded with zeros to a length. -/
def padTo (n : Nat) (bs : List Byte) : List Byte := bs ++ List.replicate (n - bs.length) 0

/-- The inline payload of a slot: bytes beyond INLINE_BYTES are ignored and read 0 here (R291). -/
def inlineOf (sl : Slot) (n : Nat) : List Byte :=
  let bs := (sl.payload.take sl.inlineBytes).take n
  bs ++ List.replicate (n - bs.length) 0

/-! ### Device memory (R119, R124 to R130) -/

/-- Whether two ranges meet. -/
def overlaps (a n b m : Nat) : Bool := a < b + m && b < a + n

/-- Whether n bytes from an address lie below the reserved region (R119). -/
def devRange (s : State) (a n : Nat) : Bool := a + n ≤ Config.reservedBase s.part

/-- Whether any 64 KiB page of a range is shared (R287, R288). -/
def inShared (s : State) (a n : Nat) : Bool :=
  s.hif.sharedPages.any fun pg => pg * 65536 < a + max n 1 && a < (pg + 1) * 65536

/-- Channels out of service (R394): trained to no rate. -/
def deadChannels (s : State) : List Nat := (s.gddr.rates.filter fun e => e.2 = 0).map (·.1)

/-- The first sector of a range that no read can return: uncorrectable, or on a channel out of service (R129, R394). -/
def badSector (s : State) (a n : Nat) : Option Nat :=
  let dead := deadChannels s
  let d := if dead.isEmpty then none else
    ((List.range ((a + n + 255) / 256 - a / 256)).map fun k => (a / 256 + k) * 256).find? fun g =>
      dead.contains (channelOf s.part g)
  let b := (s.gddr.badSectors.filter fun x => x < a + n && a < x + 64).foldl
    (fun m x => some (match m with
      | none => x
      | some y => min x y)) none
  match b, d with
  | none, d => d
  | some x, none => some x
  | some x, some y => some (min x (max a y))

/-- Whether a range touches a channel whose traffic waits for retraining (R126, R127). -/
def memWaits (s : State) (a n : Nat) : Bool :=
  !s.gddr.retraining.isEmpty &&
    (List.range ((a + n + 255) / 256 - a / 256)).any fun k =>
      s.gddr.retraining.contains (channelOf s.part ((a / 256 + k) * 256))

/-- Sector address of a byte. -/
def sectorOf (a : Nat) : Nat := a / 64 * 64

/-- An uncorrectable read counted, latched where nothing is latched, and posted (R129). -/
def noteUE (s : State) (a : Nat) : State :=
  let m := memOf s.part a
  let x := sectorOf a
  let s1 := bump s .mem m 0x108 0 32 1
  let s2 := if bitOf (kept s1 .mem m 0x110) 0 then s1 else
    setReg (setReg s1 .mem m 0x110 (x % 2 ^ 32 / 64 * 64 + 1)) .mem m 0x114 (x / 2 ^ 32)
  post s2 .mem m 0x0200 [x]

/-- What the decoder makes of a sector. -/
inductive EccRead where
  | clean | corrected | uncorrectable
  deriving DecidableEq, Repr

/-- How the controller decodes a sector (R125): it corrects one wrong byte, and detects two or three and a sector from a wrong
address. For more wrong bytes the rule states no outcome: none (DESIGN CHOICE, log 90). -/
def decodeSector (r : SectorRead) : Option EccRead :=
  if r.misplaced then some .uncorrectable
  else
    match r.wrong.eraseDups.length with
    | 0 => some .clean
    | 1 => some .corrected
    | 2 => some .uncorrectable
    | 3 => some .uncorrectable
    | _ => none

/-- Whether a write of an update to a sector is queued (R128, R141). -/
def writeQueued (s : State) (a : Nat) : Bool :=
  s.tables.open2.any fun o => overlaps o.weightsAt o.weights.length a 64 || overlaps o.checkAddr o.checkBytes.length a 64

/-- A sector taken for correctable though it is not: its bytes are free values, and the write-back stores them unless another
write is queued (R128, DESIGN CHOICE, log 90). -/
def miscorrect (s : State) (a : Nat) : State :=
  let bs := (List.range 64).map fun i => byteOf (Config.freeNat (s.freeCtr + i))
  let s1 := bump { s with freeCtr := s.freeCtr + 64 } .mem (memOf s.part a) 0x104 0 32 1
  if writeQueued s a then s1 else { s1 with mem := writeBytes s1.mem a bs }

/-- A sector that its decoder cannot correct. -/
def spoil (s : State) (a : Nat) : State :=
  { s with gddr := { s.gddr with badSectors := insertNat s.gddr.badSectors a } }

/-- One sector as a read meets it: its retries counted (R126), then decoded (R125, R128). A channel that retrains answers nothing. -/
def meetSector (s : State) (r : SectorRead) : State :=
  let a := sectorOf r.addr
  let m := memOf s.part a
  if memWaits s a 64 then s
  else
    let s1 := bump s .mem m 0x118 0 16 (min r.retries 3)
    match decodeSector r with
    | some .clean => s1
    | some .corrected => bump s1 .mem m 0x104 0 32 1
    | some .uncorrectable => spoil s1 a
    | none =>
      let d := drawFree s1
      if d.2 % 2 = 0 then spoil d.1 a else miscorrect d.1 a

/-- The sectors that a read meets, in order. -/
def meet (s : State) (rs : List SectorRead) : State := rs.foldl meetSector s

/-- The sectors met that a read of a range takes. -/
def metIn (rs : List SectorRead) (a n : Nat) : List SectorRead := rs.filter fun r => overlaps (sectorOf r.addr) 64 a n

/-- DETAIL1 of MEMORY_UNCORRECTABLE in GDDR7 (R297). -/
def ueDetail (s : State) : Nat := 0xFFFF + s.twin.number * 2 ^ 16

/-- A command that ends on an uncorrectable sector (R129). -/
def failUE (s : State) (c : HostCmd) (a : Nat) : State := finish (noteUE s a) c 0x23 a (ueDetail s)

/-- Sectors that a write covers whole hold again what they were written (R129). -/
def healed (bad : List Nat) (a n : Nat) : List Nat := bad.filter fun x => !(a ≤ x && x + 64 ≤ a + n)

/-- A granule hash (R34). -/
def granuleHash (off : Nat) (bs : List Byte) : Nat := crc64 (leBytes 8 off ++ bs)

/-- The hash of the granule with a number, counted from address 0. -/
def hashAt (m : List Host.Cell) (g : Nat) : Nat := granuleHash (g % 4096) (readBytes m (256 * g) 256)

/-- The maintained partial digests after a write: at each granule the old hash goes out and the new one in (R35). -/
def movePartials (p : Part) (old new : List Host.Cell) (ps : List (Nat × Nat)) (a n : Nat) : List (Nat × Nat) :=
  if ps.isEmpty || n = 0 then ps
  else
    (rangeFrom (a / 256) ((a + n + 255) / 256 - a / 256)).foldl (fun ps g =>
      let k := 16 * (g / 4096) + memOf p (256 * g)
      match mget ps k with
      | none => ps
      | some d => mput ps k (d ^^^ hashAt old g ^^^ hashAt new g)) ps

/-- The 1 MiB segments that a write touches, noted for the digests of the step (R35). -/
def noteDirty (dirty : List Nat) (a n : Nat) : List Nat :=
  if n = 0 then dirty else (rangeFrom (a / 2 ^ 20) ((a + n - 1) / 2 ^ 20 + 1 - a / 2 ^ 20)).foldl insertNat dirty

/-- The scaling array starts 256 MiB above the start of the reserved region (R116). -/
def scaleAddr (p : Part) (t : Nat) : Nat := Config.reservedBase p + 256 * 2 ^ 20 + 32 * t

/-- Written ranges with one more. -/
def addMark (ms : List (Nat × Nat)) (a n : Nat) : List (Nat × Nat) := if n = 0 then ms else mput ms a (max n ((mget ms a).getD 0))

/-- A range noted as written since it was last swept (R307): every write to an item marks it. -/
def mark (s : State) (a n : Nat) : State := { s with gddr := { s.gddr with marks := addMark s.gddr.marks a n } }

/-- A descriptor that comes into force at the boundary of a step, marked (R307). Shards count from 2^16 up. -/
def markDesc (s : State) (key step : Nat) : State :=
  { s with gddr := { s.gddr with descMarks := mput s.gddr.descMarks key step } }

/-- Device memory with bytes written. -/
def devWrite (s : State) (a : Nat) (bs : List Byte) : State :=
  let m := writeBytes s.mem a bs
  { s with mem := m
           twin := { s.twin with dirty := noteDirty s.twin.dirty a bs.length
                                 partials := movePartials s.part s.mem m s.twin.partials a bs.length
                                 forward := if s.twin.pair = .enrollingSource then s.twin.forward ++ [⟨a, bs, 0, 0⟩]
                                   else s.twin.forward }
           gddr := { s.gddr with badSectors := healed s.gddr.badSectors a bs.length
                                 unserved := healed s.gddr.unserved a bs.length
                                 marks := addMark s.gddr.marks a bs.length } }

/-- Bytes of device memory. -/
def devRead (s : State) (a n : Nat) : List Byte := readBytes s.mem a n

/-- A partial write to an uncorrectable sector fails and changes nothing (R129): the first such sector of a write. -/
def badWrite (s : State) (a n : Nat) : Option Nat :=
  let t := { s with gddr := { s.gddr with badSectors := healed s.gddr.badSectors a n } }
  badSector t a n

/-- Bytes of OPERAND: from device memory where OPERAND_DEVICE is 1, else what the device reads from host memory
(R291, DESIGN CHOICE, log 2). -/
def operandBytes (s : State) (c : HostCmd) (data : List Byte) (n : Nat) : List Byte :=
  if bitOf c.slot.ctl 6 then devRead s c.slot.operand n else
    let bs := data.take n
    bs ++ List.replicate (n - bs.length) 0

/-- The step of a command and the job. -/
def setJob (s : State) (f : Job → Job) : State := { s with job := f s.job }

def setTables (s : State) (f : Tables → Tables) : State := { s with tables := f s.tables }

def setCol (s : State) (f : Col → Col) : State := { s with col := f s.col }

def setTwin (s : State) (f : Twin → Twin) : State := { s with twin := f s.twin }

def setPwr (s : State) (f : Pwr → Pwr) : State := { s with pwr := f s.pwr }

def setGddr (s : State) (f : Gddr → Gddr) : State := { s with gddr := f s.gddr }

def setBoot (s : State) (f : Boot → Boot) : State := { s with boot := f s.boot }

def setRel (s : State) (f : Rel → Rel) : State := { s with rel := f s.rel }

def setCores (s : State) (f : Cores → Cores) : State := { s with cores := f s.cores }

/-- A physical core changed. -/
def setCore (s : State) (c : Nat) (k : Core) : State := setCores s fun x => { x with cores := mput x.cores c k }

/-- Step 1 of a wake: the host interface with the command processor, and the I/O die networks (R347). -/
def beginWake (s : State) : State :=
  setPwr s fun p => { p with recessing := true, running := (domHif :: ioNetDomains s).foldl insertNat p.running }

/-- A request among those that wait for a pass, with its tick: in order of request, and in ascending core number within a tick (R339). -/
def insertRequest (tick p : Nat) : List (Nat × Nat) → List (Nat × Nat)
  | [] => [(tick, p)]
  | q :: qs => if q.1 = tick && p < q.2 then (tick, p) :: q :: qs else q :: insertRequest tick p qs

/-- A core asks for a hall pass, once. -/
def requestPass (s : State) (p : Nat) : State :=
  if s.pwr.requests.any (·.2 = p) then s else setPwr s fun w => { w with requests := insertRequest s.tick p w.requests }

/-- Data answered to the sender of an access (R18, R287, R434). -/
def reply (s : State) (r : Reply) : State := { s with replies := s.replies ++ [r] }

/-- One tick of the always-on clock, which runs while auxiliary power is good (R336, R349, DESIGN CHOICE, log 10); a die with a waiting pass
request counts it (R352). -/
def idle (s : State) : State :=
  if !s.pwr.auxGood then s
  else
    ((List.range 8).filter fun d => s.pwr.requests.any fun c => c.2 / 34 = d).foldl (fun t d => bump t .pwr (1 + d) 0x108 0 32 1)
      { s with tick := s.tick + 1 }

end Sys2Proof.Machine
end

