-- ==== Sys2Proof/Machine/Msg.lean ====
section
/-! DEFINITION. Messages of the collective engine: streams, sending, receiving, acknowledgement (R238 to R244, R192,
R193). -/

namespace Sys2Proof.Machine

/-- Class numbers whose bit is set in a mask, ascending. -/
def maskBits (m : W64) : List Nat := (List.range 64).filter fun i => m.getLsbD i

/-- Members of the open step (R254). -/
def members (s : State) : List Nat := maskBits s.col.members

def isMember (s : State) (c : Nat) : Bool := s.col.members.getLsbD c

/-- The number of the next message of a stream, and the state with n numbers taken (R241). -/
def takeNumbers (s : State) (key : StreamKey) (n : Nat) : State × Nat :=
  let cur := ((s.col.nextSeq.find? (·.1 = key)).map (·.2)).getD 1
  (setCol s fun c => { c with nextSeq := (key, cur + n) :: c.nextSeq.filter (·.1 != key) }, cur)

/-- The block of numbers of a collective identity on a stream: the one it holds, or n new ones (R241). -/
def reserve (s : State) (op ringId tensor step : Nat) (key : StreamKey) (n : Nat) : State × Nat :=
  match s.col.idents.find? fun b => b.op = op && b.ringId = ringId && b.tensor = tensor && b.step = step
      && b.stream = key with
  | some b => (s, b.first)
  | none =>
    let t := takeNumbers s key n
    (setCol t.1 fun c => { c with idents := c.idents ++ [⟨op, ringId, tensor, step, key, t.2, n⟩] }, t.2)

/-- A header of this module (R239). -/
def header (s : State) (kind channel point owner step : Nat) : MsgHdr :=
  { kind := kind, job := if s.job.running then s.job.number else 0, layoutEpoch := s.job.layoutEpoch, step := step,
    srcClass := s.twin.number, srcChannel := channel, owner := owner, dstPoint := point }

/-- A message put on the link of its stream, which it stays on (R245). -/
def route (s : State) (m : Msg) : State × Msg :=
  let r := routeOf s m.dst m.hdr
  let key := (streamOf m.hdr, m.dst)
  let others := s.col.ways.filter (·.1 != key)
  match streamLink s m.hdr m.dst r.links with
  | some l => (setCol s fun c => { c with ways := (key, l) :: others }, { m with via := { r with links := [l] } })
  | none => (setCol s fun c => { c with ways := others }, { m with via := r })

/-- A message issued: on its way, and in the retry store until it is acknowledged (R242); a detoured one is counted (R246). -/
def issue (s : State) (m : Msg) : State :=
  let i := channelSlice s m.hdr.srcChannel
  let r := route s m
  let s1 := bump64 (setCol r.1 fun c => { c with outbox := c.outbox ++ [r.2], retry := c.retry ++ [r.2] }) .col i 0x108 1
  if r.2.via.detour then bump s1 .col i 0x118 0 32 1 else s1

/-- A message of a slice: held back while its retry store is full, or others wait there (R242). -/
def launch (s : State) (m : Msg) : State :=
  let i := channelSlice s m.hdr.srcChannel
  if retryFull s i || s.col.unsent.any fun x => channelSlice s x.hdr.srcChannel = i then setCol s fun c => { c with unsent := c.unsent ++ [m] }
  else issue s m

/-- Messages held back issued in order, as far as there is room now. -/
def issueUnsent (s : State) : State := s.col.unsent.foldl launch (setCol s fun c => { c with unsent := [] })

/-- Messages sent again in ascending sequence (R242). -/
def resend (s : State) (ms : List Msg) : State :=
  (sortBy (fun (m : Msg) => m.hdr.sequence) ms).foldl (fun t m =>
    let r := route t m
    bump (setCol r.1 fun c => { c with outbox := c.outbox ++ [r.2] }) .col (channelSlice t m.hdr.srcChannel) 0x110 0 32 1) s

/-- Messages of one collective identity: its block of numbers on each stream they use, and the place of each in it (R241). -/
def sendBlock (s : State) (op ring tensor step : Nat) (ms : List (List Nat × MsgHdr × Body)) : State :=
  ms.zipIdx.foldl (fun t q =>
    let key := streamOf q.1.2.1
    let mine := fun (m : List Nat × MsgHdr × Body) => streamOf m.2.1 = key
    let r := reserve t op ring tensor step key (ms.filter mine).length
    let n := r.2 + ((ms.take q.2).filter mine).length
    q.1.1.foldl (fun u d => launch u { dst := d, hdr := { q.1.2.1 with sequence := n }, body := q.1.2.2 }) r.1) s

/-- The block of numbers of a collective identity for messages that are sent later (R241). -/
def reserveBlock (s : State) (op ring tensor step : Nat) (hs : List MsgHdr) : State :=
  hs.foldl (fun t h => (reserve t op ring tensor step (streamOf h) (hs.filter fun x => streamOf x = streamOf h).length).1) s

/-- Pieces of at most 65,536 bytes as offset and length; an empty payload is one piece (R239, R245). -/
def segmentsOf (n : Nat) : List (Nat × Nat) :=
  if n = 0 then [(0, 0)] else (List.range ((n + 65535) / 65536)).map fun i => (65536 * i, min 65536 (n - 65536 * i))

/-- A message numbered next in its stream. -/
def sendHdr (s : State) (dst : Nat) (h : MsgHdr) (b : Body) : State :=
  let t := takeNumbers s (streamOf h) 1
  launch t.1 { dst := dst, hdr := { h with sequence := t.2 }, body := b }

/-- A message with the next number of its stream, from a channel to a receive point of a module. -/
def send (s : State) (dst kind channel point step : Nat) (b : Body) : State :=
  sendHdr s dst (header s kind channel point dst step) b

/-- One message to every module of a list. -/
def sendAll (s : State) (dsts : List Nat) (kind channel point step : Nat) (b : Body) : State :=
  dsts.foldl (fun t d => send t d kind channel point step b) s

/-- Whether a module that has been detached still took part in a step (R40, R263). -/
def leftAfter (s : State) (m step : Nat) : Bool := s.twin.removals.any fun r => r.1 = m && r.2.2 = m && step < r.2.1

/-- Modules that hold the twinned state of an owner in a step: the owner and its twin, so far as they were members (R31, R40, R263). -/
def holders (s : State) (owner step : Nat) : List Nat :=
  [owner, twinOfNumber owner].filter fun m => isMember s m || leftAfter s m step

/-- A message of twinned state: one copy to each holder, or to the twin alone (R241). -/
def twinnedTo (s : State) (h : MsgHdr) (owner : Nat) (twinOnly : Bool) (b : Body) : List Nat × MsgHdr × Body :=
  let hs := (holders s owner h.step).filter fun m => !twinOnly || m != owner
  (hs, { h with owner := owner, multicast := twinOnly || hs.length = 2, twinned := true }, b)

/-- A message to the twin's REL block (R240). -/
def sendTwin (s : State) (b : Body) : State := send s (twinOf s) 0x0C 8 0x1C s.job.openStep b

/-- Update unit whose page counts the discards of a receive point (R196); parts with fewer I/O dies fold the points onto those
they have (DESIGN CHOICE, log 32). -/
def countUnit (p : Part) (point : Nat) : Nat :=
  if point < 8 then 4 * (point / 2 % Config.ioDies p) else if point < 0x18 then (point - 8) % Config.memDevices p
  else if point < 0x1C then 4 * ((point - 0x18) % Config.ioDies p) else 0

/-- The COL slice of the I/O die of a message's receive point. -/
def pointSlice (p : Part) (h : MsgHdr) : Nat := countUnit p h.dstPoint / 4

/-- The mark of a stream (R192). -/
def markOf (s : State) (k : StreamKey) : Nat := ((s.col.marks.find? (·.1 = k)).map (·.2)).getD 0

def setMark (s : State) (k : StreamKey) (n : Nat) : State :=
  setCol s fun c => { c with marks := (k, n) :: c.marks.filter (·.1 != k) }

/-- The header of an answer to a message: from the slice of its receive point to that of its sending channel (R238, R240). -/
def answerHdr (s : State) (kind : Nat) (h : MsgHdr) : MsgHdr :=
  header s kind (8 + pointSlice s.part h) (0x18 + channelSlice s h.srcChannel) h.srcClass h.step

/-- An acknowledgement of a stream up to a number (R242). It is kept in no retry store and carries no number (DEDUCED, log 18). -/
def ackAt (s : State) (h : MsgHdr) (upTo : Nat) : State :=
  let hd := answerHdr s 0x0D h
  let m : Msg := { dst := h.srcClass, hdr := hd, body := .ack (streamOf h) upTo, via := routeOf s h.srcClass hd }
  setCol s fun c => { c with outbox := c.outbox ++ [m] }

/-- The mark of a stream acknowledged again (R243). -/
def sendAck (s : State) (h : MsgHdr) : State := ackAt s h (markOf s (streamOf h))

/-- A reject (R244). -/
def sendReject (s : State) (h : MsgHdr) : State :=
  let hd := answerHdr s 0x0E h
  let m : Msg := { dst := h.srcClass, hdr := hd, body := .reject (streamOf h) h.sequence, via := routeOf s h.srcClass hd }
  setCol s fun c => { c with outbox := c.outbox ++ [m] }

/-- Kinds that a module without a job accepts (R193). -/
def jobFree (kind : Nat) : Bool := kind = 0x0C || kind = 0x0F || kind = 0x10

/-- Whether a receive point is a COL slice, which counts its repeats in COL_REPEATS (R196). -/
def isSlicePoint (p : Nat) : Bool := 0x18 ≤ p && p < 0x1C

/-- A repeat, discarded and counted (R193 step 3, R243). -/
def countRepeat (s : State) (h : MsgHdr) : State :=
  if isSlicePoint h.dstPoint then bump s .col (h.dstPoint - 0x18) 0x114 0 32 1
  else bump s .upd (countUnit s.part h.dstPoint) 0x114 16 16 1

/-- Whether the module is in a state in which its receive points answer nobody (R343, R362, R382, R385). -/
def deaf (s : State) : Bool := !isUp s || s.boot.failed

/-- A message at its receive point (R193); in recess it wakes the module, and its sender brings it again (R347): the effect of an accepted one, and of a repeat, are the arguments. -/
def receiveWith (s : State) (h : MsgHdr) (accept again : State → State) : State :=
  if !h.crcOk || deaf s then s
  else if h.dstPoint > 0x1C then bump s .col 0 0x11C 0 32 1
  else if s.pwr.recess then beginWake s
  else
    let u := countUnit s.part h.dstPoint
    let reshardTo := s.col.reshard.any fun r => r.epoch = h.layoutEpoch && !r.switched
    if !s.job.running && !jobFree h.kind then bump s .upd u 0x118 16 16 1
    else if s.job.running && h.job != s.job.number then bump s .upd u 0x118 16 16 1
    else if s.job.running && h.layoutEpoch != s.job.layoutEpoch then
      if reshardTo then s else sendReject (bump s .upd u 0x118 0 16 1) h
    else if h.sequence ≤ markOf s (streamOf h) then sendAck (again (countRepeat s h)) h
    else if h.sequence = markOf s (streamOf h) + 1 then
      let s1 := progress (setMark (startDomain s (domCol (pointSlice s.part h))) (streamOf h) h.sequence)
        .col (pointSlice s.part h) 1
      ackAt (accept (meet s1 h.met)) h h.sequence
    else bump s .upd u 0x114 0 16 1

/-- A message whose repeat has no effect (R193). -/
def receive (s : State) (h : MsgHdr) (accept : State → State) : State := receiveWith s h accept id

/-! ### Reads of items that the twin may serve (R129, R130) -/

def paired (s : State) : Bool := s.twin.pair = .paired

/-- What a read of an item meets. -/
inductive ItemRead where
  | ok (bytes : List Byte)
  | wait (s : State)
  | fail (s : State) (addr : Nat)
  deriving DecidableEq, Repr

/-- A request to the twin for an item, once (R130). The twin serves while it has applied nothing of the step or later; for a
torn item that is the step after its moment stamp (R191). -/
def requestItem (s : State) (addr n step : Nat) (byUpdate torn : Bool) : State :=
  if s.twin.waits.any (·.addr = addr) then s
  else sendTwin (setTwin s fun t => { t with waits := t.waits ++ [⟨addr, n, byUpdate, torn, false⟩] })
    (.serveRequest addr n step byUpdate)

/-- A read of parts of an item of n bytes, made at a step: it waits for a channel that retrains (R127), is served from the twin,
or fails (R129, R130); a sector that no twin can serve fails at once (R36). corrupt says that the item's own check failed. -/
def readParts (s : State) (addr n step : Nat) (parts : List (Nat × Nat)) (twinned byUpdate corrupt : Bool) : ItemRead :=
  let fetch := fun (x : Nat) =>
    if s.twin.waits.any (·.addr = addr) then ItemRead.wait s else .wait (requestItem (noteUE s x) addr n step byUpdate false)
  if s.twin.waits.any fun w => w.addr = addr && w.refused && !w.torn then
    .fail (setTwin s fun t => { t with waits := t.waits.filter (·.addr != addr) }) addr
  else if parts.any fun p => memWaits s p.1 p.2 then .wait s
  else
    match parts.findSome? fun p => badSector s p.1 p.2 with
    | some a => if twinned && paired s && !s.gddr.unserved.contains a then fetch a else .fail (noteUE s a) a
    | none =>
      if !corrupt then .ok (devRead s addr n)
      else if twinned && paired s then fetch addr
      else .fail (noteUE s addr) addr

/-- A read of a whole item. -/
def readItem (s : State) (addr n step : Nat) (twinned byUpdate corrupt : Bool) : ItemRead :=
  readParts s addr n step [(addr, n)] twinned byUpdate corrupt

/-- The address of a record or tile reported torn in a range: every read of it fails (R191). -/
def tornIn (s : State) (a n : Nat) : Option Nat := s.tables.torn.find? fun x => a ≤ x && x < a + n

/-- Whether messages of a step for an item wait for a repair copy (R37). -/
def repairHolds (s : State) (addr step : Nat) : Bool :=
  s.twin.repairs.any fun r => r.closed && r.u < step && r.waiting.contains addr

/-! ### Rows of the streams themselves -/

/-- The messages of a stream at or below a mark leave the retry store (R242). -/
def takeAck (s : State) (stream : StreamKey) (dst upTo : Nat) : State :=
  issueUnsent (progress (setCol s fun c => { c with retry := c.retry.filter fun m =>
    !(streamOf m.hdr = stream && m.dst = dst && m.hdr.sequence ≤ upTo) }) .col (channelSlice s stream.channel) 1)

/-- RETRY_TIMEOUT: every unacknowledged message of the stream is sent again in ascending sequence (R242). -/
def execRetryTimeout (stream : StreamKey) (dst : Nat) (s : State) : Host.Outcome State Fault Refusal :=
  .next (resend s (s.col.retry.filter fun m => streamOf m.hdr = stream && m.dst = dst))

/-- RESERVED_MESSAGE: dropped and counted in COL_DROPPED (R240); with a bad CRC it is dropped unseen. -/
def execReservedMessage (h : MsgHdr) (s : State) : Host.Outcome State Fault Refusal :=
  .next (if !h.crcOk || deaf s then s else bump s .col 0 0x11C 0 32 1)

end Sys2Proof.Machine
end

