-- ==== Sys2Proof/Machine/Relay.lean ====
section
/-! DEFINITION. Class commands and routed commands at the module that accepts them (R298, R299). -/

namespace Sys2Proof.Machine

/-- What a member answers that refuses: status and details. -/
abbrev Refused := Nat × Nat × Nat

/-- Installing a class command: the new state, or the refusal. -/
abbrev Install := ClassCmd → State → Except Refused State

/-- OPERAND_RANGE of a field. -/
def rangeOf (d0 : Nat) : Refused := (0x12, d0, 0)

/-- The image that a member keeps to take a change back. -/
def undoImage (s : State) (c : ClassCmd) : UndoImage :=
  ⟨c.accepter, c.tag, s.tables, s.scaling, s.outliers, s.col, s.job⟩

/-- A map with one entry as it stands in another. -/
def restoreKey {α : Type} (now old : List (Nat × α)) (k : Nat) : List (Nat × α) :=
  match mget old k with
  | none => mdel now k
  | some v => mput now k v

/-- The change of a class command taken back: only what it changed returns to its image (R299, DEDUCED, log 19). -/
def uninstall (c : ClassCmd) (u : UndoImage) (s : State) : State :=
  let sl := c.slot
  let inl := inlineOf sl 192
  match sl.opcode with
  | 0x001B => setJob s fun _ => u.job
  | 0x001C => setJob s fun _ => u.job
  | 0x0110 =>
    let t := leAt inl 0 2 % 4096
    let tn := leAt inl 0xE 2
    setTables { s with scaling := restoreKey s.scaling u.scaling tn } fun x =>
      { x with newDescs := restoreKey x.newDescs u.tables.newDescs t, descs := restoreKey x.descs u.tables.descs t }
  | 0x0111 =>
    let t := bitsOf sl.param0 0 12
    setTables s fun x => { x with descs := restoreKey x.descs u.tables.descs t, staged := restoreKey x.staged u.tables.staged t }
  | 0x0119 =>
    let keep := s.tables.params.filter fun e => e.1 != leAt inl 0 2 || u.tables.params.contains e
    setTables s fun x => { x with params := keep }
  | 0x011A => { s with scaling := restoreKey s.scaling u.scaling (bitsOf sl.param0 0 16) }
  | 0x011B => { s with outliers := restoreKey s.outliers u.outliers (bitsOf sl.param0 0 16) }
  | 0x0130 =>
    let r := leAt inl 0 2
    setCol s fun x => { x with rings := restoreKey x.rings u.col.rings r, newRings := restoreKey x.newRings u.col.newRings r }
  | 0x0132 => setCol s fun x => { x with reshard := u.col.reshard }
  | 0x0138 => { s with scaling := restoreKey s.scaling u.scaling (bitsOf sl.param0 0 16) }
  | _ => s

/-- The image of a class command, dropped. -/
def dropUndo (s : State) (accepter tag : Nat) : State :=
  { s with undo := s.undo.filter fun u => !(u.accepter = accepter && u.tag = tag) }

/-- A change installed on this module, its image kept; or its refusal. -/
def installHere (s : State) (c : ClassCmd) (inst : Install) : State × Refused :=
  match inst c s with
  | .ok t => ({ t with undo := t.undo ++ [undoImage s c] }, (0, 0, 0))
  | .error r => (s, r)

/-- A change taken back on this module, where it was installed. -/
def takeBack (s : State) (c : ClassCmd) : State :=
  match s.undo.find? fun u => u.accepter = c.accepter && u.tag = c.tag with
  | none => s
  | some u => dropUndo (uninstall c u s) c.accepter c.tag

/-- A relayed message of a class command (R299). -/
def sendRelay (s : State) (dst : Nat) (c : ClassCmd) : State := send s dst 0x10 8 0x18 s.job.openStep (.relay c)

/-- The class command of a slot at its accepting module. -/
def classCmdOf (s : State) (tag : Nat) (c : HostCmd) (data : List Byte) : ClassCmd :=
  ⟨s.twin.number, tag, c.fn, c.slot, data, false⟩

/-- The end of a class command once every member has answered: DONE, or the refusal of the lowest class number, after
which no member keeps the change (R299). -/
def settle (s : State) (r : Relay) : State :=
  if !r.waiting.isEmpty then setCol s fun x => { x with relays := x.relays.map fun y => if y.tag = r.tag then r else y }
  else
    let s1 := setCol s fun x => { x with relays := x.relays.filter (·.tag != r.tag) }
    match r.refusal with
    | none => done (dropUndo s1 s.twin.number r.tag) r.cmd
    | some (_, st, d0, d1) =>
      let cc := classCmdOf s1 r.tag r.cmd []
      let others := (members s1).filter (· != s1.twin.number)
      finish (others.foldl (fun t m => sendRelay t m { cc with withdraw := true }) (takeBack s1 cc)) r.cmd st d0 d1

/-- The lower refusal of two by class number. -/
def worse (a b : Option (Nat × Nat × Nat × Nat)) : Option (Nat × Nat × Nat × Nat) :=
  match a, b with
  | none, b => b
  | a, none => a
  | some x, some y => if y.1 < x.1 then some y else some x

/-- A class command accepted: installed here and relayed to every other member; outside a class it is this module's
alone. A command that is already relayed waits for its answers. -/
def startClass (s : State) (c : HostCmd) (data : List Byte) (inst : Install) : State :=
  if s.col.relays.any (·.cmd = c) then s
  else
    let tag := s.col.nextTag
    let cc := classCmdOf s tag c data
    let r := installHere s cc inst
    let refusal := if r.2.1 = 0 then none else some (s.twin.number, r.2.1, r.2.2.1, r.2.2.2)
    let others := (members s).filter (· != s.twin.number)
    if others.isEmpty then
      (if r.2.1 = 0 then done (dropUndo r.1 cc.accepter tag) c else finish r.1 c r.2.1 r.2.2.1 r.2.2.2)
    else
      let s1 := setCol r.1 fun x => { x with nextTag := tag + 1, relays := x.relays ++ [⟨tag, c, others, refusal⟩] }
      others.foldl (fun t m => sendRelay t m cc) s1

/-- An answer of a member to a class command of this module. -/
def relayAnswer (s : State) (r : Relay) (member status d0 d1 : Nat) : State :=
  settle s { r with
    waiting := r.waiting.filter (· != member)
    refusal := worse r.refusal (if status = 0 then none else some (member, status, d0, d1)) }

/-! ### Routed commands -/

/-- A routed command accepted: each item to its owner as a message, also to this module itself (DESIGN CHOICE, log 20). -/
def startRouted (s : State) (c : HostCmd) (items : List (Nat × RoutedItem)) : State :=
  if s.tables.routed.any (·.cmd = c) then s
  else
    let tag := s.col.nextTag
    let s1 := setCol s fun x => { x with nextTag := tag + 1 }
    if items.isEmpty then done s1 c
    else
      let s2 := setTables s1 fun t => { t with routed := t.routed ++ [⟨tag, c, items.map (·.1), 0, 0, none⟩] }
      items.foldl (fun t it => send t it.1 0x10 8 0x18 s.job.openStep (.routed it.2 tag)) s2

/-- An answer of a module to one item of a routed command: d0 of a roll is its r (R166). -/
def routedAnswer (s : State) (r : Routed) (src status d0 d1 : Nat) : State :=
  let owed := r.owed.erase src
  let r' : Routed :=
    if status = 0 then
      { r with owed := owed, low := if r.low = 0 then d0 else if d0 = 0 then r.low else min r.low d0
               high := max r.high d0 }
    else { r with owed := owed, refusal := r.refusal.or (some (status, d0, d1)) }
  if !owed.isEmpty then setTables s fun t => { t with routed := t.routed.map fun x => if x.tag = r.tag then r' else x }
  else
    let s1 := setTables s fun t => { t with routed := t.routed.filter (·.tag != r.tag) }
    match r'.refusal with
    | some (st, e0, e1) => finish s1 r.cmd st e0 e1
    | none => finish s1 r.cmd 0 r'.low r'.high

/-- An answer sent to the module that accepted a class or routed command. -/
def sendAnswer (s : State) (dst tag status d0 d1 : Nat) : State :=
  send s dst 0x10 8 0x18 s.job.openStep (.answer tag status d0 d1)

/-- MEMBER_ANSWER. -/
def execMemberAnswer (h : MsgHdr) (tag status detail0 detail1 : Nat) (s : State) : Host.Outcome State Fault Refusal :=
  .next (receive s h fun s =>
    match s.col.relays.find? (·.tag = tag), s.tables.routed.find? (·.tag = tag) with
    | some r, _ => if r.waiting.contains h.srcClass then relayAnswer s r h.srcClass status detail0 detail1 else s
    | none, some r => if r.owed.contains h.srcClass then routedAnswer s r h.srcClass status detail0 detail1 else s
    | none, none => s)

end Sys2Proof.Machine
end

