-- ==== Sys2Proof/Machine/Num.lean ====
section
/-! DEFINITION. Exact values, the element formats of R50 to R55, rounding (R62) and conversion (R64 to R70). -/

namespace Sys2Proof.Machine

/-- A value: a NaN with its sign and its payload left-aligned to 52 bits, an infinity, or an exact dyadic number
(-1)^neg * m * 2^e. An inexact quotient, root or transcendental carries a last bit 1 far below every grid, so that each
rounding of it is the rounding of the exact number (PRESUMED, log 12). -/
inductive Val where
  | nan (neg : Bool) (pay : Nat)
  | inf (neg : Bool)
  | fin (neg : Bool) (m : Nat) (e : Int)
  deriving DecidableEq, Repr

/-- Rounding directions, with the ties-away rounding of LEGACY (R62). -/
inductive Dir where
  | rne | rna | rtz | rup | rdn
  deriving DecidableEq, Repr

/-- The four numeric events of R64, in the order in which one takes the count. -/
inductive Exc where
  | none | invalid | overflow | saturation | underflow
  deriving DecidableEq, Repr

/-- A floating-point format: mantissa width, bias, largest finite code, code of the infinity, canonical NaN, sign bit
(R50, R51, R52). -/
structure FloatSpec where
  mb : Nat
  bias : Nat
  maxCode : Nat
  infCode : Option Nat
  nanCode : Option Nat
  signBit : Nat
  deriving DecidableEq, Repr

/-- Layouts of R50 with the special codes of R51 and R52; none for integers, T2 and E8M0. -/
def floatSpec : Fmt → Option FloatSpec
  | .fp64 => some ⟨52, 1023, 0x7FEFFFFFFFFFFFFF, some 0x7FF0000000000000, some 0x7FF8000000000000, 63⟩
  | .fp32 => some ⟨23, 127, 0x7F7FFFFF, some 0x7F800000, some 0x7FC00000, 31⟩
  | .fp16 => some ⟨10, 15, 0x7BFF, some 0x7C00, some 0x7E00, 15⟩
  | .bf16 => some ⟨7, 127, 0x7F7F, some 0x7F80, some 0x7FC0, 15⟩
  | .e4m3 => some ⟨3, 7, 0x7E, none, some 0x7F, 7⟩
  | .e5m2 => some ⟨2, 15, 0x7B, some 0x7C, some 0x7E, 7⟩
  | .fp4 => some ⟨1, 1, 0x7, none, none, 3⟩
  | _ => none

/-- Bits per element (R47). -/
def fmtBits : Fmt → Nat
  | .fp64 => 64 | .fp32 => 32 | .fp16 => 16 | .bf16 => 16 | .e4m3 => 8 | .e5m2 => 8 | .fp4 => 4 | .int8 => 8
  | .int4 => 4 | .t2 => 2 | .e8m0 => 8

/-- Element format of bits 3:0 of a format tag (R47). -/
def fmtOf? : Nat → Option Fmt
  | 0 => some .fp64 | 1 => some .fp32 | 2 => some .fp16 | 3 => some .bf16 | 4 => some .e4m3 | 5 => some .e5m2
  | 6 => some .fp4 | 7 => some .int8 | 8 => some .int4 | 9 => some .t2 | 10 => some .e8m0 | _ => none

/-- Scale arrangements of R47. -/
inductive Arr where
  | plain | group (n : Nat) | channel | page
  deriving DecidableEq, Repr

/-- Scale arrangement of bits 6:4 (R47). -/
def Arr.ofNat? : Nat → Option Arr
  | 0 => some .plain | 1 => some (.group 32) | 2 => some (.group 64) | 3 => some (.group 128) | 4 => some .channel
  | 5 => some .page | _ => none

/-- The narrow formats that carry group or channel scales (R47). -/
def narrowFmt : Fmt → Bool
  | .e4m3 => true | .e5m2 => true | .fp4 => true | .int8 => true | .int4 => true | .t2 => true | _ => false

/-- A format tag, or none for the reserved encodings of R48. -/
def tagOf? (t : Nat) : Option (Fmt × Arr) :=
  if t ≥ 128 then none else
  match fmtOf? (t % 16), Arr.ofNat? (t / 16) with
  | some f, some .plain => if f = .t2 then none else some (f, .plain)
  | some f, some .page => if f = .e4m3 || f = .e5m2 then some (f, .page) else none
  | some f, some a => if narrowFmt f then some (f, a) else none
  | _, _ => none

/-- A signed number as sign and magnitude. -/
def Val.ofInt (i : Int) : Val := .fin (decide (i < 0)) i.natAbs 0

/-- The value of a code of a format (R50, R51, R53, R55). The reserved T2 code reads as 0; its users refuse it first. -/
def decodeFmt (f : Fmt) (code : Nat) : Val :=
  match floatSpec f with
  | some sp =>
    let neg := code / 2 ^ sp.signBit % 2 == 1
    let mag := code % 2 ^ sp.signBit
    if some mag == sp.infCode then .inf neg
    else if mag > sp.maxCode then .nan neg ((mag % 2 ^ sp.mb) * 2 ^ (52 - sp.mb))
    else
      let ef := mag / 2 ^ sp.mb
      let m := mag % 2 ^ sp.mb
      if ef = 0 then .fin neg m (1 - (sp.bias : Int) - sp.mb)
      else .fin neg (2 ^ sp.mb + m) ((ef : Int) - sp.bias - sp.mb)
  | none =>
    match f with
    | .int8 => Val.ofInt (if code ≥ 128 then (code : Int) - 256 else code)
    | .int4 => Val.ofInt (if code ≥ 8 then (code : Int) - 16 else code)
    | .t2 => if code = 1 then .fin false 1 0 else if code = 2 then .fin true 1 0 else .fin false 0 0
    | _ => if code = 255 then .nan false (2 ^ 51) else .fin false 1 ((code : Int) - 127)

/-- Whether a NaN is signalling: its quiet bit is 0 (R51). E4M3 NaNs widen with the quiet bit set. -/
def Val.signalling : Val → Bool
  | .nan _ pay => pay / 2 ^ 51 % 2 == 0
  | _ => false

def Val.isNan : Val → Bool
  | .nan _ _ => true
  | _ => false

def Val.isZero : Val → Bool
  | .fin _ 0 _ => true
  | _ => false

def Val.isFinite : Val → Bool
  | .fin _ _ _ => true
  | _ => false

def Val.neg : Val → Val
  | .nan n p => .nan (!n) p
  | .inf n => .inf (!n)
  | .fin n m e => .fin (!n) m e

def Val.abs : Val → Val
  | .nan _ p => .nan false p
  | .inf _ => .inf false
  | .fin _ m e => .fin false m e

/-- m / 2^sh rounded to an integer. -/
def roundShift (dir : Dir) (neg : Bool) (m sh : Nat) : Nat :=
  let q := m / 2 ^ sh
  let r := m % 2 ^ sh
  let up : Bool :=
    match dir with
    | .rtz => false
    | .rup => !neg && r != 0
    | .rdn => neg && r != 0
    | .rna => 2 * r ≥ 2 ^ sh && r != 0
    | .rne => 2 * r > 2 ^ sh || (2 * r == 2 ^ sh && r != 0 && q % 2 == 1)
  if up then q + 1 else q

/-- m * 2^e rounded to an integer. -/
def roundInt (dir : Dir) (neg : Bool) (m : Nat) (e : Int) : Nat :=
  if e ≥ 0 then m * 2 ^ e.toNat else roundShift dir neg m (-e).toNat

/-- m * 2^e rounded onto the grid of a format that is unbounded above (R62 step 2), as a magnitude code. -/
def roundCode (sp : FloatSpec) (dir : Dir) (neg : Bool) (m : Nat) (e : Int) : Nat :=
  if m = 0 then 0 else
  let minE : Int := 1 - (sp.bias : Int) - sp.mb
  let u : Int := max (e + Nat.log2 m - sp.mb) minE
  (u - minE).toNat * 2 ^ sp.mb + roundInt dir neg m (e - u)

/-- Whether the mode flushes subnormals of a format (R68). -/
def flushes (mode : NumMode) (f : Fmt) : Bool :=
  match mode, f with
  | .fast, .fp32 => true
  | .fast, .fp64 => true
  | .legacy, .fp32 => true
  | .legacy, .bf16 => true
  | _, _ => false

/-- The direction in force (R57, R58, R62). -/
def dirOf (mode : NumMode) (r : Rounding) : Dir :=
  match mode with
  | .strict => (match r with | .rne => .rne | .rtz => .rtz | .rup => .rup | .rdn => .rdn)
  | _ => .rne

/-- The direction of a conversion: LEGACY converts into BF16 with ties away from zero (R62). -/
def dirInto (mode : NumMode) (r : Rounding) (f : Fmt) : Dir :=
  if mode = .legacy && f = .bf16 then .rna else dirOf mode r

/-- The first of two conditions in the order of R64. -/
def Exc.first (a b : Exc) : Exc :=
  match a, b with
  | .none, x => x
  | x, .none => x
  | .invalid, _ => .invalid
  | _, .invalid => .invalid
  | .overflow, _ => .overflow
  | _, .overflow => .overflow
  | .saturation, _ => .saturation
  | _, .saturation => .saturation
  | .underflow, .underflow => .underflow

/-- Whether an overflow in a direction gives the infinity (R68). -/
def overflowsToInf (dir : Dir) (neg : Bool) : Bool :=
  match dir with
  | .rne => true
  | .rna => true
  | .rtz => false
  | .rup => !neg
  | .rdn => neg

/-- A NaN as a result in a floating-point format (R65, R70): canonical in FAST, payload kept and quietened in STRICT,
sign 0 in LEGACY. -/
def nanCodeOf (mode : NumMode) (sp : FloatSpec) (neg : Bool) (pay : Nat) : Nat :=
  let canon := sp.nanCode.getD 0
  match mode with
  | .fast => canon
  | .strict =>
    match sp.infCode with
    | none => (if neg then 2 ^ sp.signBit else 0) + canon
    | some i => (if neg then 2 ^ sp.signBit else 0) + i + (pay ||| 2 ^ 51) / 2 ^ (52 - sp.mb)
  | .legacy => (sp.infCode.getD 0) + (pay ||| 2 ^ 51) / 2 ^ (52 - sp.mb)

/-- A finite or infinite value into a floating-point format: R62 steps 2 and 3, then R68. -/
def intoFloat (f : Fmt) (sp : FloatSpec) (mode : NumMode) (dir : Dir) : Val → Nat × Exc
  | .nan n p => (nanCodeOf mode sp n p, .none)
  | .inf n =>
    let sg := if n then 2 ^ sp.signBit else 0
    match sp.infCode with
    | some i => (sg + i, .none)
    | none => (sg + sp.maxCode, .saturation)
  | .fin n m e =>
    let sg := if n then 2 ^ sp.signBit else 0
    let c := roundCode sp dir n m e
    if c > sp.maxCode then
      match mode, sp.infCode with
      | .fast, _ => (sg + sp.maxCode, .saturation)
      | _, none => (sg + sp.maxCode, .saturation)
      | _, some i => (sg + (if overflowsToInf dir n then i else sp.maxCode), .overflow)
    else if m = 0 then (sg, .none)
    else if c = 0 then (sg, .underflow)
    else if flushes mode f && c < 2 ^ sp.mb then (sg, .underflow)
    else (sg + c, .none)

/-- Range and code width of the integer targets (R55, R65). -/
def intRange : Fmt → Nat × Nat × Nat
  | .int8 => (127, 128, 256)
  | .int4 => (7, 8, 16)
  | _ => (1, 1, 0)

/-- An integer as a code: two's complement, or the T2 codes of R55. -/
def intCode (f : Fmt) (neg : Bool) (q : Nat) : Nat :=
  match f with
  | .t2 => if q = 0 then 0 else if neg then 2 else 1
  | _ => if neg && q != 0 then (intRange f).2.2 - q else q

/-- A value into INT8, INT4 or T2 (R62, R65, R66, R68). -/
def intoInt (f : Fmt) (dir : Dir) : Val → Nat × Exc
  | .nan _ _ => (0, .invalid)
  | .inf n => (intCode f n (if n then (intRange f).2.1 else (intRange f).1), .saturation)
  | .fin n m e =>
    let q := roundInt dir n m e
    let lim := if n then (intRange f).2.1 else (intRange f).1
    if q > lim then (intCode f n lim, .saturation)
    else if q = 0 && m != 0 then (0, .underflow)
    else (intCode f n q, .none)

/-- A result of arithmetic, or a converted value, in a format (R62, R68). A NaN into FP4 is zero and invalid (R65). -/
def into (f : Fmt) (mode : NumMode) (dir : Dir) (v : Val) : Nat × Exc :=
  match floatSpec f with
  | some sp => if v.isNan && sp.nanCode.isNone then (0, .invalid) else intoFloat f sp mode dir v
  | none => intoInt f dir v

/-- Smallest normal exponent of the arithmetic that reads a value, where subnormals are judged (R68). -/
def minNormal (f : Fmt) : Int :=
  match f with
  | .fp64 => -1022
  | _ => -126

/-- A value as arithmetic of a lane format reads it: a subnormal is flushed where the mode says so (R68). -/
def readVal (mode : NumMode) (lane : Fmt) (v : Val) : Val × Bool :=
  match v with
  | .fin n m e =>
    if flushes mode lane && m != 0 && e + Nat.log2 m < minNormal lane then (.fin n 0 0, true) else (v, false)
  | _ => (v, false)

/-- Conversion of a value into a format under a mode (R62, R65, R68), read by arithmetic of a lane format. -/
def convert (mode : NumMode) (r : Rounding) (lane target : Fmt) (v : Val) : Nat × Exc :=
  let rd := readVal mode lane v
  let res := into target mode (dirInto mode r target) rd.1
  let e1 := if mode = .strict && v.signalling then Exc.invalid else .none
  (res.1, Exc.first e1 (Exc.first res.2 (if rd.2 then .underflow else .none)))

/-! ### Exact operations -/

/-- m * 2^e over 2^k, for k at most e. -/
def alignTo (m : Nat) (e k : Int) : Nat := m * 2 ^ (e - k).toNat

/-- Signed magnitude over 2^k. -/
def signedAt (n : Bool) (m : Nat) (e k : Int) : Int :=
  if n then -(alignTo m e k : Int) else alignTo m e k

/-- Exact sum; an exact zero of unlike signs is +0, or -0 rounding down. none is the invalid operation. -/
def addVal (dir : Dir) (a b : Val) : Option Val :=
  match a, b with
  | .inf x, .inf y => if x = y then some (.inf x) else none
  | .inf x, _ => some (.inf x)
  | _, .inf y => some (.inf y)
  | .fin n1 m1 e1, .fin n2 m2 e2 =>
    if m1 = 0 && m2 = 0 then some (.fin (if n1 = n2 then n1 else dir = .rdn) 0 0)
    else if m1 = 0 then some (.fin n2 m2 e2)
    else if m2 = 0 then some (.fin n1 m1 e1)
    else
      let k := min e1 e2
      let t := signedAt n1 m1 e1 k + signedAt n2 m2 e2 k
      if t = 0 then some (.fin (dir = .rdn) 0 0) else some (.fin (decide (t < 0)) t.natAbs k)
  | _, _ => none

/-- Exact product. none is the invalid operation. -/
def mulVal (a b : Val) : Option Val :=
  match a, b with
  | .fin n1 m1 e1, .fin n2 m2 e2 => some (.fin (xor n1 n2) (m1 * m2) (e1 + e2))
  | .inf n1, .inf n2 => some (.inf (xor n1 n2))
  | .inf n1, .fin n2 m2 _ => if m2 = 0 then none else some (.inf (xor n1 n2))
  | .fin n1 m1 _, .inf n2 => if m1 = 0 then none else some (.inf (xor n1 n2))
  | _, _ => none

/-- Quotient with sticky bit. none is the invalid operation; a zero divisor is the caller's. -/
def divVal (a b : Val) : Option Val :=
  match a, b with
  | .fin n1 m1 e1, .fin n2 m2 e2 =>
    if m2 = 0 then (if m1 = 0 then none else some (.inf (xor n1 n2)))
    else if m1 = 0 then some (.fin (xor n1 n2) 0 0)
    else
      let l := 140 + Nat.log2 m2
      let q := m1 * 2 ^ l / m2
      let st := if m1 * 2 ^ l % m2 = 0 then 0 else 1
      some (.fin (xor n1 n2) (2 * q + st) (e1 - e2 - l - 1))
  | .inf n1, .fin n2 _ _ => some (.inf (xor n1 n2))
  | .fin n1 _ _, .inf n2 => some (.fin (xor n1 n2) 0 0)
  | _, _ => none

/-- Integer square root, one result bit at a time from bit fuel - 1. -/
def isqrtAux (n : Nat) : Nat → Nat → Nat
  | 0, r => r
  | k + 1, r => let t := r + 2 ^ k; isqrtAux n k (if t * t ≤ n then t else r)

def isqrt (n : Nat) : Nat := isqrtAux n (Nat.log2 n / 2 + 1) 0

/-- Square root with sticky bit, of a finite value not below zero. -/
def sqrtVal : Val → Option Val
  | .fin n m e =>
    if m = 0 then some (.fin n 0 0) else if n then none else
    let odd := e % 2 != 0
    let m' := (if odd then 2 * m else m) * 2 ^ 256
    let e' := (if odd then e - 1 else e) - 256
    let r := isqrt m'
    some (.fin false (2 * r + (if r * r = m' then 0 else 1)) (e' / 2 - 1))
  | .inf n => if n then none else some (.inf false)
  | .nan _ _ => none

/-! ### exp2 and log2 (R95, PRESUMED, log 12) -/

/-- Fraction bits kept in the transcendental evaluations. -/
def expBits : Nat := 256

/-- The product of the iterated square roots of 2 that the bits of a fraction select: floor of 2^0.b1b2... over 2^256. -/
def exp2Frac : Nat → Nat → Nat → Nat → Nat
  | 0, _, _, acc => acc
  | k + 1, frac, root, acc =>
    let root' := isqrt (root * 2 ^ expBits)
    exp2Frac k (frac % 2 ^ k) root' (if frac / 2 ^ k = 1 then acc * root' / 2 ^ expBits else acc)

/-- 2^x for a finite x, exact where x is an integer, else with a sticky bit. -/
def exp2Val (neg : Bool) (m : Nat) (e : Int) : Val :=
  if m = 0 then .fin false 1 0
  else if e + Nat.log2 m < -100 then .fin false (if neg then 2 ^ 90 - 1 else 2 ^ 90 + 1) (-90)
  else if e + Nat.log2 m > 20 then .fin false 1 (if neg then -100000 else 100000)
  else
    let fb := (-e).toNat
    let t : Int := if e ≥ 0 then signedAt neg m e 0 else (if neg then -(m : Int) else m)
    let q : Int := t / 2 ^ fb
    let frac : Nat := (t % 2 ^ fb).toNat
    if frac = 0 then .fin false 1 q
    else .fin false (2 * exp2Frac fb frac (2 * 2 ^ expBits) (2 ^ expBits) + 1) (q - expBits - 1)

/-- Binary digits of log2 y, where y over 2^600 lies in [1, 2). -/
def log2Digits : Nat → Nat → Nat → Nat
  | 0, _, acc => acc
  | k + 1, y, acc =>
    let y2 := y * y / 2 ^ 600
    if y2 ≥ 2 ^ 601 then log2Digits k (y2 / 2) (2 * acc + 1) else log2Digits k y2 (2 * acc)

/-- log2 of a positive finite value, exact for a power of two, else with a sticky bit. -/
def log2Val (m : Nat) (e : Int) : Val :=
  let l := Nat.log2 m
  let ip : Int := e + l
  if m = 2 ^ l then Val.ofInt ip
  else
    let t : Int := 2 * (ip * 2 ^ 200 + log2Digits 200 (m * 2 ^ 600 / 2 ^ l) 0) + 1
    .fin (decide (t < 0)) t.natAbs (-201)

/-! ### Operations in a format with the rules of the modes -/

/-- Counts with one more event of each element (R64). -/
def Counts.add (c : Counts) : Exc → Counts
  | .none => c
  | .invalid => { c with invalid := c.invalid + 1 }
  | .overflow => { c with overflow := c.overflow + 1 }
  | .saturation => { c with saturation := c.saturation + 1 }
  | .underflow => { c with underflow := c.underflow + 1 }

/-- Sums of two counts. -/
def Counts.sum (a b : Counts) : Counts :=
  ⟨a.invalid + b.invalid, a.overflow + b.overflow, a.saturation + b.saturation, a.underflow + b.underflow⟩

/-- The numeric context of a unit: mode, ROUNDING, and the format of its arithmetic. -/
structure Ctl where
  mode : NumMode
  rounding : Rounding
  lane : Fmt
  deriving DecidableEq, Repr

/-- A NaN among the operands: the result of R65 or R70, invalid where STRICT meets a signalling one. -/
def nanResult (c : Ctl) (args : List Val) : Option (Nat × Exc) :=
  match floatSpec c.lane with
  | none => none
  | some sp =>
    match args.filter Val.isNan with
    | [] => none
    | v :: vs =>
      match v with
      | .nan n p => some (nanCodeOf c.mode sp n p,
          if c.mode = .strict && (v :: vs).any Val.signalling then .invalid else .none)
      | _ => none

/-- The NaN of an invalid operation (R65, R70). -/
def invalidResult (lane : Fmt) : Nat × Exc :=
  (((floatSpec lane).bind (·.nanCode)).getD 0, .invalid)

/-- A result of arithmetic in the lane format. A LEGACY result goes through FP32, and into BF16 with ties away (R69). -/
def laneResult (c : Ctl) (v : Val) : Nat × Exc :=
  if c.mode = .legacy && c.lane = .bf16 then
    let a := into .fp32 .legacy .rne v
    let b := into .bf16 .legacy .rna (decodeFmt .fp32 a.1)
    (b.1, Exc.first a.2 b.2)
  else into c.lane c.mode (dirOf c.mode c.rounding) v

/-- One operation: NaN operands, flushed operands, the exact result, its rounding (R62, R65, R68). -/
def arith (c : Ctl) (args : List Val) (exact : List Val → Option Val) : Nat × Exc :=
  match nanResult c args with
  | some r => r
  | none =>
    let rd := args.map (readVal c.mode c.lane)
    let fl := if rd.any (·.2) then Exc.underflow else .none
    match exact (rd.map (·.1)) with
    | none => invalidResult c.lane
    | some v => let r := laneResult c v; (r.1, Exc.first r.2 fl)

def bin (f : Val → Val → Option Val) : List Val → Option Val
  | [a, b] => f a b
  | _ => none

def opAdd (c : Ctl) (a b : Val) : Nat × Exc := arith c [a, b] (bin (addVal (dirOf c.mode c.rounding)))
def opSub (c : Ctl) (a b : Val) : Nat × Exc := arith c [a, b] (bin fun x y => addVal (dirOf c.mode c.rounding) x y.neg)
def opMul (c : Ctl) (a b : Val) : Nat × Exc := arith c [a, b] (bin mulVal)

/-- Fused multiply-add: one rounding, or two in LEGACY (R68, R69). -/
def opFma (c : Ctl) (a b d : Val) : Nat × Exc :=
  match nanResult c [a, b, d] with
  | some r => r
  | none =>
    match c.mode with
    | .legacy =>
      let p := opMul { c with lane := .fp32 } a b
      if p.2 = .invalid then invalidResult c.lane else
      let q := arith c [decodeFmt .fp32 p.1, d] (bin (addVal .rne))
      (q.1, Exc.first p.2 q.2)
    | _ => arith c [a, b, d] fun
        | [x, y, z] => (mulVal x y).bind fun p => addVal (dirOf c.mode c.rounding) p z
        | _ => none

/-- Division with the zero divisors of R68. -/
def opDiv (c : Ctl) (a b : Val) : Nat × Exc :=
  match nanResult c [a, b] with
  | some r => r
  | none =>
    let x := (readVal c.mode c.lane a).1
    let y := (readVal c.mode c.lane b).1
    let fl := if (readVal c.mode c.lane a).2 || (readVal c.mode c.lane b).2 then Exc.underflow else .none
    match divVal x y with
    | none => invalidResult c.lane
    | some (.inf n) =>
      if x.isFinite && c.mode = .fast then
        let sp := (floatSpec c.lane).getD ⟨0, 0, 0, none, none, 0⟩
        ((if n then 2 ^ sp.signBit else 0) + sp.maxCode, .saturation)
      else let r := laneResult c (.inf n); (r.1, Exc.first r.2 fl)
    | some v => let r := laneResult c v; (r.1, Exc.first r.2 fl)

def opSqrt (c : Ctl) (a : Val) : Nat × Exc :=
  arith c [a] fun | [x] => sqrtVal x | _ => none

/-- a < b for values that are not NaN; -0 equals +0. -/
def Val.lt (a b : Val) : Bool :=
  match a, b with
  | .fin n1 m1 e1, .fin n2 m2 e2 =>
    let k := min e1 e2
    decide (signedAt n1 m1 e1 k < signedAt n2 m2 e2 k)
  | .inf n1, .inf n2 => n1 && !n2
  | .inf n1, _ => n1
  | _, .inf n2 => !n2
  | _, _ => false

/-- Sign of a value that is not NaN. -/
def Val.sign : Val → Bool
  | .nan n _ => n
  | .inf n => n
  | .fin n _ _ => n

/-- Whether a stands strictly before b with -0 before +0 (R67). -/
def Val.ltSigned (a b : Val) : Bool :=
  a.lt b || (!b.lt a && a.isZero && b.isZero && a.sign && !b.sign)

/-- The exception of a compare, minimum or maximum: STRICT counts a signalling operand (R67). -/
def cmpExc (c : Ctl) (a b : Val) : Exc :=
  if c.mode = .strict && (a.signalling || b.signalling) then .invalid else .none

/-- The code of a value of a format, its bits unexamined: a NaN keeps its payload, and nothing is flushed (R67). -/
def exactCode (f : Fmt) (v : Val) : Nat :=
  match v with
  | .nan n p =>
    match floatSpec f with
    | none => 0
    | some sp => (if n then 2 ^ sp.signBit else 0) + (sp.infCode.getD 0) + p / 2 ^ (52 - sp.mb)
  | v => (into f .strict .rtz v).1

/-- Minimum or maximum (R67). They do not round; the result is one operand, a subnormal one flushed and counted where the mode
flushes operands (R68, R69). -/
def opMinMax (c : Ctl) (isMax : Bool) (a b : Val) : Nat × Exc :=
  let x := readVal c.mode c.lane a
  let y := readVal c.mode c.lane b
  let fl := if x.2 || y.2 then Exc.underflow else .none
  let before := fun (p q : Val) => if c.mode = .legacy then p.lt q else p.ltSigned q
  let pick := fun (_ : Unit) =>
    let takeB := if isMax then before x.1 y.1 else before y.1 x.1
    (exactCode c.lane (if takeB then y.1 else x.1), fl)
  match c.mode, a.isNan, b.isNan with
  | .legacy, true, false => (exactCode c.lane y.1, if y.2 then .underflow else .none)
  | .legacy, false, true => (exactCode c.lane x.1, if x.2 then .underflow else .none)
  | _, _, _ =>
    match nanResult c [a, b] with
    | some r => r
    | none => pick ()

/-- The special functions of R95 in FP32. -/
def opSpecial (mode : NumMode) (rounding : Rounding) (f : SpecialFn) (v : Val) : Nat × Exc :=
  let c : Ctl := ⟨mode, rounding, .fp32⟩
  match nanResult c [v] with
  | some r => r
  | none =>
    let rd := readVal mode .fp32 v
    let fl := if rd.2 then Exc.underflow else .none
    let res : Option Val :=
      match f, rd.1 with
      | .exp2, .inf n => some (if n then .fin false 0 0 else .inf false)
      | .exp2, .fin n m e => some (exp2Val n m e)
      | .log2, .inf n => if n then none else some (.inf false)
      | .log2, .fin n m e => if m = 0 then some (.inf true) else if n then none else some (log2Val m e)
      | .recip, .inf n => some (.fin n 0 0)
      | .recip, .fin n m e => divVal (.fin false 1 0) (.fin n m e)
      | .rsqrt, .inf n => if n then none else some (.fin false 0 0)
      | .rsqrt, .fin n m e =>
        if m = 0 then some (.inf n) else if n then none
        else
          let odd := e % 2 != 0
          let m' := if odd then 2 * m else m
          let e' := if odd then e - 1 else e
          let r := isqrt (2 ^ 400 / m')
          some (.fin false (2 * r + (if r * r * m' = 2 ^ 400 then 0 else 1)) (-(e' / 2) - 201))
      | _, .nan _ _ => none
    match res with
    | none => invalidResult .fp32
    | some (.inf n) =>
      if mode = .fast && rd.1.isFinite then ((if n then 2 ^ 31 else 0) + 0x7F7FFFFF, .saturation)
      else let r := laneResult c (.inf n); (r.1, Exc.first r.2 fl)
    | some w => let r := laneResult c w; (r.1, Exc.first r.2 fl)

end Sys2Proof.Machine
end

