-- ==== Sys2Proof/Machine/Convert.lean ====
section
/-! DEFINITION. The scaling recipes of R101 to R104 and R109, stochastic rounding (R63), packing of elements (R49), and
the bytes of tiles (R134, R135). -/

namespace Sys2Proof.Machine

/-- Fmax of R101 and R104 as m * 2^e. -/
def fmax : Fmt → Nat × Int
  | .e4m3 => (448, 0) | .e5m2 => (57344, 0) | .fp4 => (6, 0) | .int8 => (127, 0) | .int4 => (7, 0) | _ => (1, 0)

/-- The larger magnitude of a running maximum and a value: NaN takes no part (R101 step 1). -/
def amaxStep (a v : Val) : Val :=
  match v with
  | .nan _ _ => a
  | _ => if a.lt v.abs then v.abs else a

/-- amax of a group (R101 step 1). -/
def amaxOf (xs : List Val) : Val := xs.foldl amaxStep (.fin false 0 0)

/-- The exponent e of R101 step 2 with the clamp of step 3; 0 for a zero group, 127 for an infinite one (R102). -/
def groupExp (f : Fmt) (amax : Val) : Int :=
  match amax with
  | .nan _ _ => 0
  | .inf _ => 127
  | .fin _ m e =>
    if m = 0 then 0 else
    let fm := fmax f
    let e0 : Int := e + Nat.log2 m - Nat.log2 fm.1
    let fits := !(Val.fin false fm.1 (fm.2 + e0)).lt (.fin false m e)
    max (-127) (min 127 (if fits then e0 else e0 + 1))

/-- The largest finite code of a sign (R65, R82). -/
def satCode (f : Fmt) (neg : Bool) : Nat :=
  match floatSpec f with
  | some sp => (if neg then 2 ^ sp.signBit else 0) + sp.maxCode
  | none => (intoInt f .rne (.inf neg)).1

/-- x * 2^k, exact. -/
def scaleVal (v : Val) (k : Int) : Val :=
  match v with
  | .fin n m e => .fin n m (e + k)
  | _ => v

/-- A group with an E8M0 scale: its stored scale code and its elements with their events (R101, R102, R82). put rounds
the i-th scaled value into the format; fold is sigma + h, which a zero or empty group does not take: its scale is 1 (R102). -/
def groupConvert (c : Ctl) (f : Fmt) (fold : Int) (put : Nat → Val → Nat × Exc) (xs : List Val) :
    Nat × List (Nat × Exc) :=
  let rd := xs.map (readVal c.mode c.lane)
  let am := amaxOf (rd.map (·.1))
  let e := groupExp f am
  let fe := if am.isZero then 0 else e + fold
  let el := fun (i : Nat) (r : Val × Bool) =>
    let fl := if r.2 then Exc.underflow else .none
    let sg := if c.mode = .strict && r.1.signalling then Exc.invalid else .none
    if fe > 127 then
      match r.1 with
      | .fin n m _ => if m = 0 then (let z := into f c.mode .rne (.fin n 0 0); (z.1, fl))
                      else (satCode f n, Exc.saturation)
      | .inf n => (satCode f n, Exc.saturation)
      | v => let z := into f c.mode .rne v; (z.1, Exc.first sg z.2)
    else
      let y := put i (scaleVal r.1 (-e))
      if fe < -127 then
        let z := put i (scaleVal (decodeFmt f y.1) (fe + 127))
        (z.1, Exc.first sg (Exc.first y.2 (Exc.first z.2 fl)))
      else (y.1, Exc.first sg (Exc.first y.2 fl))
  ((max 0 (min 254 (fe + 127))).toNat, rd.zipIdx.map fun p => el p.2 p.1)

/-- A group with a T2 scale in E4M3 (R103). -/
def t2Convert (c : Ctl) (xs : List Val) : Nat × List (Nat × Exc) :=
  let rd := xs.map (readVal c.mode c.lane)
  let am := amaxOf (rd.map (·.1))
  let s := if am.isZero then 0x38 else min 0x7E (into .e4m3 .strict .rup am).1
  (s, rd.map fun r =>
    let q := if r.1.isFinite then (divVal r.1 (decodeFmt .e4m3 s)).getD r.1 else r.1
    let z := into .t2 c.mode (dirOf c.mode c.rounding) q
    (z.1, Exc.first z.2 (if r.2 then .underflow else .none)))

/-- The largest finite magnitude of some values (R104). -/
def finiteMax (xs : List Val) : Val := amaxOf (xs.filter Val.isFinite)

/-- Scale and inverse scale of an output channel from its largest finite magnitude (R104), FP32 codes. -/
def channelScales (f : Fmt) (am : Val) : Nat × Nat :=
  if am.isZero then (0x3F800000, 0x3F800000)
  else
    let fm := Val.fin false (fmax f).1 (fmax f).2
    ((into .fp32 .strict .rne ((divVal am fm).getD am)).1, (into .fp32 .strict .rne ((divVal fm am).getD am)).1)

/-- A value into an output-channel-scaled format, given the inverse scale (R56). -/
def channelConvert (c : Ctl) (f : Fmt) (sInv : Nat) (x : Val) : Nat × Exc :=
  let q := opMul ⟨c.mode, .rne, .fp32⟩ x (decodeFmt .fp32 sInv)
  let z := into f c.mode (dirInto c.mode c.rounding f) (decodeFmt .fp32 q.1)
  (z.1, Exc.first q.2 z.2)

/-- Stochastic rounding of x with the random word u (R63), followed by the overflow rules of the mode. -/
def stochastic (f : Fmt) (mode : NumMode) (u : Nat) (x : Val) : Nat × Exc :=
  match x with
  | .fin n m e =>
    let grid : Nat × Int :=
      match floatSpec f with
      | some sp =>
        let minE : Int := 1 - (sp.bias : Int) - sp.mb
        (0, max (e + Nat.log2 m - sp.mb) minE)
      | none => (0, 0)
    if m = 0 || e ≥ grid.2 then into f mode .rne x
    else
      let sh := (grid.2 - e).toNat
      let lo := m / 2 ^ sh
      let d := m % 2 ^ sh * 2 ^ 32 / 2 ^ sh
      let q := if u < d then lo + 1 else lo
      let z := into f mode .rne (.fin n q grid.2)
      (z.1, if q = 0 then Exc.underflow else z.2)
  | _ => into f mode .rne x

/-! ### Conversion statistics (R109) -/

def f64 : Ctl := ⟨.strict, .rne, .fp64⟩

/-- Statistics with one more element: x presented and y stored, both in true units. amax is kept as an FP32 code. -/
def ConvStat.add (t : ConvStat) (x y : Val) : ConvStat :=
  if !x.isFinite then t else
  let xc := decodeFmt .fp64 (into .fp64 .strict .rne x).1
  let d := decodeFmt .fp64 (opSub f64 y x).1
  let am := decodeFmt .fp32 t.amax
  { n := t.n + 1
    s := (opAdd f64 (decodeFmt .fp64 t.s) (decodeFmt .fp64 (opMul f64 xc xc).1)).1
    q := (opAdd f64 (decodeFmt .fp64 t.q) (decodeFmt .fp64 (opMul f64 d d).1)).1
    amax := if am.lt x.abs then (into .fp32 .fast .rne x.abs).1 else t.amax }

/-- Statistics that run on over more elements in their order: presented and stored values, both in true units (R109). -/
def ConvStat.addAll (t : ConvStat) (qs : List (Val × Val)) : ConvStat := qs.foldl (fun t q => t.add q.1 q.2) t

/-- Statistics of two sources, the first before the second (R110). -/
def ConvStat.merge (a b : ConvStat) : ConvStat :=
  { n := a.n + b.n
    s := (opAdd f64 (decodeFmt .fp64 a.s) (decodeFmt .fp64 b.s)).1
    q := (opAdd f64 (decodeFmt .fp64 a.q) (decodeFmt .fp64 b.q)).1
    amax := if (decodeFmt .fp32 a.amax).lt (decodeFmt .fp32 b.amax) then b.amax else a.amax }

/-! ### Packing (R49) -/

/-- Bytes of n elements of a format. -/
def packedBytes (f : Fmt) (n : Nat) : Nat := (n * fmtBits f + 7) / 8

/-- Elements packed from the least significant bit upward. -/
def packElems (f : Fmt) (xs : List Nat) : List Byte :=
  if fmtBits f ≥ 8 then xs.flatMap (leBytes (fmtBits f / 8))
  else (chunksOf (8 / fmtBits f) xs.length xs).map fun g =>
    byteOf ((g.zipIdx.map fun p => p.1 % 2 ^ fmtBits f * 2 ^ (fmtBits f * p.2)).sum)

/-- Element i of a packed byte string. -/
def elemAt (f : Fmt) (bs : List Byte) (i : Nat) : Nat :=
  if fmtBits f ≥ 8 then leAt bs (i * (fmtBits f / 8)) (fmtBits f / 8)
  else bitsOf ((bs.getD (i * fmtBits f / 8) 0).toNat) (i * fmtBits f % 8) (fmtBits f)

/-- The first n elements of a packed byte string. -/
def unpackElems (f : Fmt) (bs : List Byte) (n : Nat) : List Nat := (List.range n).map (elemAt f bs)

/-- Format of the scale of a group: E4M3 for T2, else E8M0 (R47). -/
def scaleFmt (f : Fmt) : Fmt := if f = .t2 then .e4m3 else .e8m0

/-- The value of element i of a line with group scales (R54): element times scale; a NaN scale is invalid. -/
def scaledElem (f : Fmt) (g : Nat) (elems scales : List Byte) (i : Nat) : Val × Exc :=
  let v := decodeFmt f (elemAt f elems i)
  let sc := decodeFmt (scaleFmt f) ((scales.getD (i / g) 0).toNat)
  if sc.isNan then (.nan false (2 ^ 51), .invalid)
  else match v with
    | .nan _ _ => (v, .none)
    | _ => ((mulVal v sc).getD v, .none)

/-! ### Tiles (R134 to R136) -/

/-- Length of the lines of a tile. -/
def tileLineBytes (f : Fmt) : Nat := packedBytes f 128

/-- Bytes of scales of a tile (R134). -/
def tileScaleBytes (a : Arr) : Nat :=
  match a with
  | .plain => 0
  | .group g => 128 * (128 / g)
  | .channel => 512
  | .page => 0

/-- BODY_BYTES that a format tag and a side count give (R136). -/
def tileBody (f : Fmt) (a : Arr) (sides : Nat) : Nat := 128 * tileLineBytes f + tileScaleBytes a + 256 * sides

/-- A number rounded up to whole granules of 256 bytes. -/
def granules (n : Nat) : Nat := (n + 255) / 256 * 256

/-- A header with its CRC in the last four of 64 bytes. -/
def withCrc (bs : List Byte) : List Byte := bs.take 60 ++ leBytes 4 (crc32c (bs.take 60))

/-- Result of the checks of R136: fine, or the status with DETAIL0. field is the index of the bad header field (R442). -/
inductive TileCheck where
  | ok | corrupt | badField (byte : Nat) | epoch
  deriving DecidableEq, Repr

/-- The checks of R136 on a header and body, in order; span is the room to the reserved region from the tile's address,
where it lies in device memory. -/
def checkTile (hdr body : List Byte) (span : Option Nat) (epoch : Nat) : TileCheck :=
  if leAt hdr 0x3C 4 ≠ crc32c (hdr.take 60) then .corrupt else
  match tagOf? (leAt hdr 0 1) with
  | none => .badField 0
  | some (f, a) =>
    let b1 := leAt hdr 1 1
    let sides := bitsOf b1 3 2
    if a = .page then .badField 0
    else if bitsOf b1 0 3 = 7 || sides = 3 || bitsOf b1 5 3 ≠ 0 then .badField 1
    else if leAt hdr 2 1 = 0 || leAt hdr 2 1 > 128 then .badField 2
    else if leAt hdr 3 1 = 0 || leAt hdr 3 1 > 128 then .badField 3
    else if leAt hdr 0xF 1 ≥ 128 then .badField 0xF
    else if leAt hdr 0x10 1 ≥ 128 || (sides = 2 && leAt hdr 0x10 1 ≤ leAt hdr 0xF 1) then .badField 0x10
    else if leAt hdr 0x14 4 ≠ tileBody f a sides then .badField 0x14
    else if (span.any fun n => granules (64 + leAt hdr 0x14 4) > n) then .badField 0x14
    else if leAt hdr 0x18 4 ≠ crc32c (body.take (leAt hdr 0x14 4)) then .corrupt
    else if leAt hdr 6 2 ≠ epoch then .epoch
    else .ok

end Sys2Proof.Machine
end

