-- ==== Sys2Proof/Machine/Flags.lean ====
section
/-! DEFINITION. Where numeric events are counted: the VEC counters, tile summaries, and gradebook contributions (R64, R98,
R266 to R270). -/

namespace Sys2Proof.Machine

/-- The counts of a list of elements, each counted once (R64). -/
def countsOf (es : List Exc) : Counts := es.foldl Counts.add {}

def ConvStat.zero : ConvStat := ⟨0, 0, 0, 0⟩

/-- A gradebook contribution with nothing in it. -/
def GradeRec.zero : GradeRec := ⟨{}, 0, 0, 0, 0, ConvStat.zero, ConvStat.zero, none⟩

/-- Two contributions, the first before the second in the order of R110; the earlier first invalid product stands
(R270). -/
def GradeRec.merge (a b : GradeRec) : GradeRec :=
  ⟨a.counts.sum b.counts, a.replayFirst + b.replayFirst, a.replaySecond + b.replaySecond, a.narrowKey + b.narrowKey,
   a.narrowValue + b.narrowValue, a.fwd.merge b.fwd, a.bwd.merge b.bwd, a.first.or b.first⟩

/-- Whether a conversion takes the pre-scale of its tensor off: values of G and WG alone are held in pre-scaled units (R105). -/
def preScaled (k : Kind) : Bool :=
  match k with
  | .g => true
  | .wg => true
  | _ => false

/-- Kinds G and WG enter the BWD_ set, the others the FWD_ set (R268). -/
def GradeRec.ofStat (k : Kind) (c : Counts) (t : ConvStat) : GradeRec :=
  match k with
  | .g => { GradeRec.zero with counts := c, bwd := t }
  | .wg => { GradeRec.zero with counts := c, bwd := t }
  | _ => { GradeRec.zero with counts := c, fwd := t }

/-- Whether a tensor has a gradebook record, after counting a dropped contribution (R266). -/
def gradeTaken (s : State) (tensor : Nat) : State × Bool :=
  if tensor < s.grade.count then (s, true)
  else if tensor = 0xFFFF then (s, false)
  else (bump s .mgt 0 0x224 0 32 1, false)

/-- Key of a source and a tensor: cores by logical number, then update units (R110). -/
def gradeKey (src tensor : Nat) : Nat := src * 65536 + tensor

/-- A contribution put behind those a source has already given for the tensor. -/
def putGrade (m : List (Nat × GradeRec)) (key : Nat) (g : GradeRec) : List (Nat × GradeRec) :=
  mput m key (match mget m key with
    | none => g
    | some a => a.merge g)

/-- The contribution of a source outside the cores to a tensor changed. -/
def noteGradeWith (s : State) (src tensor : Nat) (f : GradeRec → GradeRec) : State :=
  let t := gradeTaken s tensor
  let key := gradeKey src tensor
  if t.2 then
    { t.1 with grade := { t.1.grade with recs := mput t.1.grade.recs key (f ((mget t.1.grade.recs key).getD GradeRec.zero)) } }
  else t.1

/-- A contribution of a source outside the cores. -/
def noteGrade (s : State) (src tensor : Nat) (g : GradeRec) : State := noteGradeWith s src tensor fun a => a.merge g

/-- A contribution with a conversion: its events, and its elements put behind those already converted of the tensor (R109, R110). -/
def GradeRec.convert (a : GradeRec) (k : Kind) (c : Counts) (qs : List (Val × Val)) : GradeRec :=
  { a with counts := a.counts.sum c
           fwd := if preScaled k then a.fwd else a.fwd.addAll qs
           bwd := if preScaled k then a.bwd.addAll qs else a.bwd }

/-- The contribution of a core to a tensor changed, uncommitted until its next boundary (R368). -/
def noteCoreWith (s : State) (phys tensor : Nat) (f : GradeRec → GradeRec) : State :=
  let t := gradeTaken s tensor
  if t.2 then
    let k := coreAt t.1 phys
    setCore t.1 phys { k with uncommitted := mput k.uncommitted tensor (f ((mget k.uncommitted tensor).getD GradeRec.zero)) }
  else t.1

/-- A contribution of a core. -/
def noteCore (s : State) (phys tensor : Nat) (g : GradeRec) : State := noteCoreWith s phys tensor fun a => a.merge g

/-- A conversion by a core: its events, and its elements put behind those the core has already converted of the tensor (R109, R110).
At a boundary the core's running sums join what it had committed (DEDUCED, log 94). -/
def noteConversion (s : State) (phys tensor : Nat) (k : Kind) (c : Counts) (qs : List (Val × Val)) : State :=
  noteCoreWith s phys tensor fun a => a.convert k c qs

/-- The contributions of a core committed under its logical number (R368). -/
def commitCore (s : State) (logical phys : Nat) : State :=
  let k := coreAt s phys
  let recs := k.uncommitted.foldl (fun m e => putGrade m (gradeKey logical e.1) e.2) s.grade.recs
  setCore { s with grade := { s.grade with recs := recs } } phys { k with uncommitted := [] }

/-- The VEC counters of a logical core (R98). -/
def countVec (s : State) (logical : Nat) (c : Counts) : State :=
  let s1 := bump s .vec logical 0x110 0 32 c.invalid
  let s2 := bump s1 .vec logical 0x114 0 32 c.overflow
  let s3 := bump s2 .vec logical 0x118 0 32 c.saturation
  bump s3 .vec logical 0x11C 0 32 c.underflow

/-- The step of the command that runs on a core. -/
def coreStep (s : State) (phys : Nat) : Nat := ((coreAt s phys).command.map (·.slot.step)).getD s.job.openStep

/-- The read of a scaling record: from the twin where its sector is bad and the twin serves it, else it fails (R107, R130). -/
def scaleRead (s : State) (tensor step : Nat) : ItemRead :=
  if (mget s.scaling tensor).isNone then .ok [] else readItem s (scaleAddr s.part tensor) 32 step true false false

/-- The reads of the scaling records of several tensors. -/
def scalesRead (s : State) (ts : List Nat) (step : Nat) : ItemRead :=
  ts.foldl (fun r t => match r with
    | .ok _ => scaleRead s t step
    | r => r) (.ok [])

/-- The pre-scale exponent in force for a tensor: 0 without a scaling record (R105). -/
def preScale (s : State) (tensor : Nat) : Int := ((mget s.scaling tensor).map (·.p)).getD 0

/-- floor(log2 |v|) clamped to -127 .. 127; none for zero, infinities and NaN (R106 step 1). -/
def magnitudeEntry (v : Val) : Option Int :=
  match v with
  | .fin _ m e => if m = 0 then none else some (max (-127) (min 127 (e + Nat.log2 m)))
  | _ => none

/-- The own entry of a tracked tensor raised by true magnitudes of its G values (R106 step 1). -/
def raiseOwn (s : State) (tensor : Nat) (xs : List Val) : State :=
  { s with scaling := mmod s.scaling tensor fun r =>
      { r with own := (xs.filterMap magnitudeEntry).foldl max r.own } }

end Sys2Proof.Machine
end

