-- ==== Sys2Proof/Machine/Update.lean ====
section
/-! DEFINITION. The update arithmetic of R178 to R187 on FP32 codes, and the generator of R185. Nothing here touches the
state of the machine. -/

namespace Sys2Proof.Machine

/-! ### The generator (R185) -/

def xorShift (x k : Nat) : Nat := x ^^^ (x / 2 ^ k)

/-- mix of R185, modulo 2^32. -/
def mix32 (x : Nat) : Nat :=
  let x := xorShift (x % 2 ^ 32) 16
  let x := x * 0x7A4E9C35 % 2 ^ 32
  let x := xorShift x 15
  let x := x * 0x5B1D2E8B % 2 ^ 32
  xorShift x 16

/-- rand(K, T, r, s, e). -/
def rand (seed tensor record step elem : Nat) : Nat :=
  [seed, seed / 2 ^ 32, tensor, record, record / 2 ^ 32, step, step / 2 ^ 32, elem].foldl
    (fun h w => mix32 (h ^^^ (w % 2 ^ 32))) 0

/-! ### FP32 with its events -/

/-- An FP32 code with the event it met, and whether a division by zero entered it (R183). -/
structure FV where
  c : Nat
  x : Exc
  bad : Bool
  deriving DecidableEq, Repr

def FV.of (c : Nat) : FV := ⟨c, .none, false⟩

def FV.val (a : FV) : Val := decodeFmt .fp32 a.c

def ctl32 (m : NumMode) : Ctl := ⟨m, .rne, .fp32⟩

/-- One operation of a line: the events of its operands carry on. -/
def FV.op (r : Nat × Exc) (xs : List FV) : FV := ⟨r.1, (xs.map (·.x)).foldl Exc.first r.2, xs.any (·.bad)⟩

def FV.add (m : NumMode) (a b : FV) : FV := FV.op (opAdd (ctl32 m) a.val b.val) [a, b]
def FV.sub (m : NumMode) (a b : FV) : FV := FV.op (opSub (ctl32 m) a.val b.val) [a, b]
def FV.mul (m : NumMode) (a b : FV) : FV := FV.op (opMul (ctl32 m) a.val b.val) [a, b]
def FV.fma (m : NumMode) (a b d : FV) : FV := FV.op (opFma (ctl32 m) a.val b.val d.val) [a, b, d]
def FV.sqrt (m : NumMode) (a : FV) : FV := FV.op (opSqrt (ctl32 m) a.val) [a]

/-- Division; a zero divisor counts as producing an infinity in FAST (R183). -/
def FV.div (m : NumMode) (a b : FV) : FV :=
  let r := FV.op (opDiv (ctl32 m) a.val b.val) [a, b]
  { r with bad := r.bad || (m = .fast && (readVal m .fp32 b.val).1.isZero) }

def one32 : FV := FV.of 0x3F800000

/-- A natural number rounded once into FP32. -/
def FV.ofNat (n : Nat) : FV := FV.of (into .fp32 .strict .rne (.fin false n 0)).1

/-- sign of R180. -/
def FV.sign (a : FV) : FV :=
  match a.val with
  | .nan _ _ => a
  | .inf n => { a with c := if n then 0xBF800000 else 0x3F800000 }
  | .fin n mm _ => { a with c := if mm = 0 then 0 else if n then 0xBF800000 else 0x3F800000 }

/-- Whether a value keeps a record from being written (R183). -/
def FV.nonFinite (a : FV) : Bool := a.bad || !a.val.isFinite

/-- pow of R179. -/
def FV.pow (m : NumMode) (b : FV) (n : Nat) : FV :=
  ((List.range 64).reverse).foldl (fun r i =>
    let r := FV.mul m r r
    if bitOf n i then FV.mul m r b else r) one32

/-! ### Scalars and gradients (R179) -/

/-- What one application of a step uses. -/
structure Scalars where
  mode : NumMode
  lr : FV
  beta1 : FV
  beta2 : FV
  eps : FV
  decay : FV
  gscale : FV
  ob1 : FV
  ob2 : FV
  c1 : FV
  c2 : FV
  deriving DecidableEq, Repr

def scalars (p : Params) (step : Nat) : Scalars :=
  let m := p.mode
  let t := step + 1 - p.start
  { mode := m, lr := FV.of p.lr, beta1 := FV.of p.beta1, beta2 := FV.of p.beta2, eps := FV.of p.epsilon
    decay := FV.of p.decay, gscale := FV.of p.gscale, ob1 := FV.sub m one32 (FV.of p.beta1)
    ob2 := FV.sub m one32 (FV.of p.beta2), c1 := FV.sub m one32 (FV.pow m (FV.of p.beta1) t)
    c2 := FV.sub m one32 (FV.pow m (FV.of p.beta2) t) }

/-- A gradient element: (received * 2^-p) * gamma (R179). -/
def gradIn (k : Scalars) (p : Int) (code : Nat) : FV :=
  FV.mul k.mode (FV.op (opMul (ctl32 k.mode) (decodeFmt .fp32 code) (.fin false 1 (-p))) []) k.gscale

/-! ### Stored moments (R178) -/

/-- A moment rounded to its stored format and widened back. -/
def storeMoment (k : Scalars) (fp32 : Bool) (a : FV) : FV :=
  if fp32 then a
  else
    let r := convert k.mode .rne .fp32 .bf16 a.val
    let w := into .fp32 .strict .rne (decodeFmt .bf16 r.1)
    ⟨w.1, Exc.first a.x r.2, a.bad⟩

/-- A moment's stored code from its widened value, and back. -/
def momentCode (fp32 : Bool) (a : FV) : Nat := if fp32 then a.c else a.c / 65536
def momentOf (fp32 : Bool) (c : Nat) : FV := FV.of (if fp32 then c else c * 65536)

/-! ### The optimisers (R180, R181) -/

/-- Result for one element: new first and second moments, new weight. -/
structure ElemOut where
  m : FV
  v : FV
  w : FV
  deriving DecidableEq, Repr

/-- w - eta * x. -/
def stepDown (k : Scalars) (w x : FV) : FV := FV.sub k.mode w (FV.mul k.mode k.lr x)

/-- SGD with momentum. -/
def sgd (k : Scalars) (fp32 : Bool) (g w m : FV) : ElemOut :=
  let d := FV.fma k.mode k.decay w g
  let m' := storeMoment k fp32 (FV.fma k.mode k.beta1 m d)
  ⟨m', FV.of 0, stepDown k w m'⟩

/-- The weight of Adam or AdamW from its stored moments. -/
def adamWeight (k : Scalars) (decayed : Bool) (w m v : FV) : FV :=
  let mh := FV.div k.mode m k.c1
  let vh := FV.div k.mode v k.c2
  let q := FV.add k.mode (FV.sqrt k.mode vh) k.eps
  let u := FV.div k.mode mh q
  if decayed then stepDown k w (FV.fma k.mode k.decay w u) else stepDown k w u

/-- Adam and AdamW. -/
def adam (k : Scalars) (fp32 decayed : Bool) (g w m v : FV) : ElemOut :=
  let m' := storeMoment k fp32 (FV.fma k.mode k.beta1 m (FV.mul k.mode k.ob1 g))
  let v' := storeMoment k fp32 (FV.fma k.mode k.beta2 v (FV.mul k.mode k.ob2 (FV.mul k.mode g g)))
  ⟨m', v', adamWeight k decayed w m' v'⟩

/-- Lion. -/
def lion (k : Scalars) (fp32 : Bool) (g w m : FV) : ElemOut :=
  let c := FV.fma k.mode k.beta1 m (FV.mul k.mode k.ob1 g)
  let w' := stepDown k w (FV.fma k.mode k.decay w (FV.sign c))
  ⟨storeMoment k fp32 (FV.fma k.mode k.beta2 m (FV.mul k.mode k.ob2 g)), FV.of 0, w'⟩

/-- s2 of R181. -/
def sumSquares (m : NumMode) (gs : List FV) : FV := gs.foldl (fun s g => FV.fma m g g s) (FV.of 0)

/-- Row-wise Adagrad: new accumulator and weights. -/
def adagrad (k : Scalars) (e : Nat) (a : FV) (gs ws : List FV) : FV × List FV :=
  let a' := FV.add k.mode a (FV.div k.mode (sumSquares k.mode gs) (FV.ofNat e))
  let q := FV.add k.mode (FV.sqrt k.mode a') k.eps
  (a', (gs.zip ws).map fun p => stepDown k p.2 (FV.div k.mode p.1 q))

/-- The row factor of the factored variant. -/
def rowFactor (k : Scalars) (e : Nat) (r : FV) (gs : List FV) : FV :=
  FV.fma k.mode k.beta2 r (FV.mul k.mode k.ob2 (FV.div k.mode (sumSquares k.mode gs) (FV.ofNat e)))

/-- The weights of the factored variant from its factors. -/
def factoredWeights (k : Scalars) (r cbar : FV) (cs gs ws : List FV) : List FV :=
  ((gs.zip ws).zip cs).map fun p =>
    let vh := if cbar.val.isZero then FV.of 0
      else FV.div k.mode (FV.div k.mode (FV.mul k.mode r p.2) cbar) k.c2
    let u := FV.div k.mode p.1.1 (FV.add k.mode (FV.sqrt k.mode vh) k.eps)
    stepDown k p.1.2 (FV.fma k.mode k.decay p.1.2 u)

/-! ### Storing weights (R184) -/

/-- One weight rounded stochastically: its code, its event, and whether it went up. -/
def storeOne (f : Fmt) (m : NumMode) (u : Nat) (v : Val) : Nat × Exc × Bool :=
  let r := stochastic f m u v
  let lo := stochastic f m (2 ^ 32) v
  (r.1, r.2, r.1 != lo.1)

/-- A stored row: codes, scale codes, events, roundings up, presented and decoded values. -/
structure StoredRow where
  codes : List Nat
  scales : List Nat
  excs : List Exc
  up : Nat
  values : List Val
  deriving DecidableEq, Repr

/-- New FP32 weights as they are stored: u gives the random word of an element. -/
def storeWeights (f : Fmt) (a : Arr) (m : NumMode) (u : Nat → Nat) (ws : List Val) : StoredRow :=
  match a with
  | .group g =>
    (chunksOf g ws.length ws.zipIdx).foldl (fun t grp =>
      let base := (grp.head?.map (·.2)).getD 0
      let xs := grp.map (·.1)
      let put := fun (i : Nat) (v : Val) => let r := storeOne f m (u (base + i)) v; (r.1, r.2.1)
      let r := groupConvert ⟨m, .rne, .fp32⟩ f 0 put xs
      let e := groupExp f (amaxOf (xs.map fun v => (readVal m .fp32 v).1))
      let ups := (xs.zipIdx.filter fun q => (storeOne f m (u (base + q.2)) (scaleVal q.1 (-e))).2.2).length
      { codes := t.codes ++ r.2.map (·.1), scales := t.scales ++ [r.1], excs := t.excs ++ r.2.map (·.2), up := t.up + ups
        values := t.values ++ r.2.map fun p => scaleVal (decodeFmt f p.1) ((r.1 : Int) - 127) }) ⟨[], [], [], 0, []⟩
  | _ =>
    if f = .fp32 then
      let cs := ws.map fun v => (into .fp32 .strict .rne v).1
      ⟨cs, [], ws.map fun _ => .none, 0, cs.map (decodeFmt .fp32)⟩
    else
      let rs := ws.zipIdx.map fun q => storeOne f m (u q.2) q.1
      ⟨rs.map (·.1), [], rs.map (·.2.1), (rs.filter (·.2.2)).length, rs.map fun r => decodeFmt f r.1⟩

/-! ### Measurements (R194) -/

def UpdStat.zero : UpdStat := ⟨0, 0, 0, 0, 0, 0, 0, 0, 0, ConvStat.zero, [], 0⟩

/-- Whether an event is an overflow or a saturation. -/
def Exc.clips : Exc → Bool
  | .saturation => true
  | .overflow => true
  | _ => false

/-- One more FP64 square in a sum. -/
def addSquare (acc : Nat) (v : Val) : Nat :=
  let x := decodeFmt .fp64 (into .fp64 .strict .rne v).1
  (opAdd f64 (decodeFmt .fp64 acc) (decodeFmt .fp64 (opMul f64 x x).1)).1

/-- Measurements of elements written: old and new decoded weights, presented values, roundings up, the events of computing the
elements and those of storing them (R194, R178, R184). -/
def UpdStat.measure (t : UpdStat) (olds news presented : List Val) (up : Nat) (computed stored : List Exc) : UpdStat :=
  let t := (olds.zip news).foldl (fun t p =>
    { t with updated := t.updated + 1, changed := t.changed + b2n (p.1.lt p.2 || p.2.lt p.1)
             sumDelta := addSquare t.sumDelta (decodeFmt .fp64 (opSub f64 p.2 p.1).1)
             sumW := addSquare t.sumW p.2 }) t
  { t with roundedUp := t.roundedUp + up
           saturated := t.saturated + (stored.filter Exc.clips).length
           underflow := t.underflow + (computed.filter (· = .underflow)).length
           conv := (presented.zip news).foldl (fun c p => c.add p.1 p.2) t.conv }

/-- A record or tile left unchanged (R183): its invalid elements are counted, and those it flushed (R178). -/
def UpdStat.skip (t : UpdStat) (computed : List Exc) : UpdStat :=
  { t with skipped := t.skipped + 1, invalid := t.invalid + (computed.filter (· = .invalid)).length
           underflow := t.underflow + (computed.filter (· = .underflow)).length }

/-- The squares of one more row in the column sums (R182). -/
def UpdStat.columns (t : UpdStat) (m : NumMode) (e : Nat) (gs : List FV) : UpdStat :=
  let old := if t.colSums.isEmpty then List.replicate e 0 else t.colSums
  { t with colSums := (old.zip gs).map fun q => (FV.fma m q.2 q.2 (FV.of q.1)).c, colRows := t.colRows + 1 }

/-- Two partials, the first before the second (R173). Column sums combine to nearest with ties to even, with subnormals and
overflow as in STRICT (R182, DESIGN CHOICE, log 86). -/
def UpdStat.merge (a b : UpdStat) : UpdStat :=
  let add := fun (x y : Nat) => (opAdd f64 (decodeFmt .fp64 x) (decodeFmt .fp64 y)).1
  { updated := a.updated + b.updated, changed := a.changed + b.changed, sumDelta := add a.sumDelta b.sumDelta
    sumW := add a.sumW b.sumW, roundedUp := a.roundedUp + b.roundedUp, saturated := a.saturated + b.saturated
    skipped := a.skipped + b.skipped, invalid := a.invalid + b.invalid, underflow := a.underflow + b.underflow
    conv := a.conv.merge b.conv
    colSums := if a.colSums.isEmpty then b.colSums else if b.colSums.isEmpty then a.colSums else
      (a.colSums.zip b.colSums).map fun p => (opAdd (ctl32 .strict) (decodeFmt .fp32 p.1) (decodeFmt .fp32 p.2)).1
    colRows := a.colRows + b.colRows }

end Sys2Proof.Machine
end

