-- ==== Sys2Proof/Machine/Tables.lean ====
section
/-! DEFINITION. Table and shard descriptors, row records, owner maps, parameter records, and the commands that set them
(R144 to R151, R163 to R167, R174 to R177). -/

namespace Sys2Proof.Machine

def up4 (n : Nat) : Nat := (n + 3) / 4 * 4
def up16 (n : Nat) : Nat := (n + 15) / 16 * 16
def up64 (n : Nat) : Nat := (n + 63) / 64 * 64

/-! ### Descriptors -/

/-- A table descriptor from its 128 bytes (R145). -/
def tableDescOf (bs : List Byte) : TableDesc :=
  let b3 := leAt bs 3 1
  { table := leAt bs 0 2 % 4096, tag := leAt bs 2 1, twinned := bitOf b3 6, hashMap := bitOf b3 5, beside := bitOf b3 4
    momentFp32 := bitOf b3 3, optimiser := b3 % 8, elements := leAt bs 4 2 % 2048, stride := leAt bs 6 2
    shards := leAt bs 8 2, replaceMode := leAt bs 0xA 1 % 4, active := leAt bs 0xB 1 % 2, layoutEpoch := leAt bs 0xC 2
    tensor := leAt bs 0xE 2, rows := leAt bs 0x10 8, seed := leAt bs 0x18 8, mask := leAt bs 0x20 8
    shardBytes := leAt bs 0x28 8, slot0 := leAt bs 0x30 8, slot1 := leAt bs 0x38 8, check0 := leAt bs 0x40 8
    check1 := leAt bs 0x48 8, aux := leAt bs 0x50 8, epoch0 := leAt bs 0x58 2, epoch1 := leAt bs 0x5A 2
    switchStep := leAt bs 0x60 8 }

/-- No switch pending: SWITCH_STEP all ones (R145). -/
def noSwitch : Nat := 2 ^ 64 - 1

def descBits (d : TableDesc) : Nat :=
  b2n d.twinned * 64 + b2n d.hashMap * 32 + b2n d.beside * 16 + b2n d.momentFp32 * 8 + d.optimiser

/-- A table descriptor as its 128 bytes (R145). -/
def tableDescBytes (d : TableDesc) : List Byte :=
  let body := leBytes 2 d.table ++ leBytes 1 d.tag ++ leBytes 1 (descBits d) ++ leBytes 2 d.elements ++ leBytes 2 d.stride
    ++ leBytes 2 d.shards ++ leBytes 1 d.replaceMode ++ leBytes 1 d.active ++ leBytes 2 d.layoutEpoch ++ leBytes 2 d.tensor
    ++ leBytes 8 d.rows ++ leBytes 8 d.seed ++ leBytes 8 d.mask ++ leBytes 8 d.shardBytes ++ leBytes 8 d.slot0
    ++ leBytes 8 d.slot1 ++ leBytes 8 d.check0 ++ leBytes 8 d.check1 ++ leBytes 8 d.aux ++ leBytes 2 d.epoch0
    ++ leBytes 2 d.epoch1 ++ leBytes 4 0 ++ leBytes 8 d.switchStep ++ List.replicate 20 0
  body ++ leBytes 4 (crc32c body)

/-- A dense shard descriptor from its 64 bytes (R174). -/
def shardDescOf (bs : List Byte) : ShardDesc :=
  let b3 := leAt bs 3 1
  { tensor := leAt bs 0 2, tag := leAt bs 2 1, twinned := bitOf b3 6, momentFp32 := bitOf b3 3, optimiser := b3 % 8
    layoutEpoch := leAt bs 4 2, tiles := leAt bs 8 4, weightBase := leAt bs 0x10 8, stateBase := leAt bs 0x18 8
    weightStride := leAt bs 0x20 4, stateStride := leAt bs 0x24 4 }

/-- A dense shard descriptor as its 64 bytes (R174). -/
def shardDescBytes (d : ShardDesc) : List Byte :=
  let body := leBytes 2 d.tensor ++ leBytes 1 d.tag ++ leBytes 1 (b2n d.twinned * 64 + b2n d.momentFp32 * 8 + d.optimiser)
    ++ leBytes 2 d.layoutEpoch ++ leBytes 2 0 ++ leBytes 4 d.tiles ++ leBytes 4 0 ++ leBytes 8 d.weightBase ++ leBytes 8 d.stateBase
    ++ leBytes 4 d.weightStride ++ leBytes 4 d.stateStride ++ List.replicate 20 0
  body ++ leBytes 4 (crc32c body)

/-- A parameter record from its 64 bytes (R176). -/
def paramsOf (bs : List Byte) : Params :=
  { tensor := leAt bs 0 2, mode := if leAt bs 2 1 % 4 = 1 then .strict else .fast, lr := leAt bs 4 4, beta1 := leAt bs 8 4
    beta2 := leAt bs 0xC 4, epsilon := leAt bs 0x10 4, decay := leAt bs 0x14 4, gscale := leAt bs 0x18 4
    start := leAt bs 0x20 8, effective := leAt bs 0x28 8 }

/-! ### Records (R147 to R149) -/

/-- Element format and scale arrangement of a table or shard; FP32 for a reserved tag, which no descriptor in force holds. -/
def fmtOfTag (tag : Nat) : Fmt × Arr := (tagOf? tag).getD (.fp32, .plain)

def groupsOf (tag e : Nat) : Nat :=
  match (fmtOfTag tag).2 with
  | .group g => e / g
  | _ => 0

def momentSize (fp32 : Bool) : Nat := if fp32 then 4 else 2

/-- Bytes of the state region, padded (R148). -/
def stateBytes (opt : Nat) (fp32 : Bool) (e : Nat) : Nat :=
  up4 (match opt with
    | 1 => momentSize fp32 * e
    | 2 => 2 * momentSize fp32 * e
    | 3 => 2 * momentSize fp32 * e
    | 4 => momentSize fp32 * e
    | 5 => 4
    | 6 => 4
    | _ => 0)

/-- Bytes of the weights region, padded (R149). -/
def weightBytes (tag e : Nat) : Nat := up4 (packedBytes (fmtOfTag tag).1 e + groupsOf tag e)

def recordLength (d : TableDesc) : Nat :=
  8 + stateBytes d.optimiser d.momentFp32 d.elements + weightBytes d.tag d.elements + 4

/-- The head of a record (R147). -/
def recordHead (stamp version tag : Nat) : List Byte :=
  let b := leBytes 3 stamp ++ leBytes 2 version ++ leBytes 1 tag
  b ++ leBytes 2 (crc16 b)

/-- Offset of the weights region. -/
def weightsAt (d : TableDesc) : Nat := 8 + stateBytes d.optimiser d.momentFp32 d.elements

def momentStamp (bs : List Byte) : Nat := leAt bs 0 3
def recordVersion (bs : List Byte) : Nat := leAt bs 3 2
def recordTag (bs : List Byte) : Nat := leAt bs 5 1
def headOk (bs : List Byte) : Bool := leAt bs 6 2 = crc16 (bs.take 6)
def weightStamp (d : TableDesc) (bs : List Byte) : Nat := leAt bs (recordLength d - 4) 3

/-- A whole record with both stamps set and its head sealed. -/
def stampRecord (d : TableDesc) (bs : List Byte) (stamp : Nat) : List Byte :=
  recordHead stamp (recordVersion bs) (recordTag bs) ++ (bs.take (recordLength d - 4)).drop 8 ++ leBytes 3 stamp ++ [0]

/-- Values of a weights region with the events of their scales (R149, R54). -/
def weightElems (tag e : Nat) (w : List Byte) : List (Val × Exc) :=
  let fa := fmtOfTag tag
  match fa.2 with
  | .group g => (List.range e).map fun i => scaledElem fa.1 g w (w.drop (packedBytes fa.1 e)) i
  | _ => (unpackElems fa.1 w e).map fun x => (decodeFmt fa.1 x, .none)

/-- Values of a weights region. -/
def weightVals (tag e : Nat) (w : List Byte) : List Val := (weightElems tag e w).map (·.1)

/-- Whether a weights region holds the reserved T2 code (R55). -/
def weightsReserved (tag e : Nat) (w : List Byte) : Bool := (fmtOfTag tag).1 = .t2 && (unpackElems .t2 w e).contains 3

/-- A weights region of codes and scales, padded (R149). -/
def weightRegion (tag e : Nat) (r : StoredRow) : List Byte :=
  let bs := packElems (fmtOfTag tag).1 r.codes ++ r.scales.map byteOf
  bs ++ List.replicate (weightBytes tag e - bs.length) 0

/-! ### Owner maps (R150, R151) -/

/-- mix of R150, modulo 2^64. -/
def mix64 (index seed : Nat) : Nat :=
  let x := (index ^^^ seed) % 2 ^ 64
  let x := xorShift x 31
  let x := x * 0x9E6C63D0676A9A99 % 2 ^ 64
  let x := xorShift x 29
  let x := x * 0xE3B71C59A4F28C2D % 2 ^ 64
  xorShift x 32

/-- The key of an index; none for an index outside a range map. -/
def keyOf (d : TableDesc) (index : Nat) : Option RowKey :=
  if d.hashMap then
    let t := mix64 index d.seed * d.shards
    some ⟨t / 2 ^ 64, t % 2 ^ 64 * d.rows / 2 ^ 64⟩
  else if index < d.shards * d.rows then some ⟨index / d.rows, index % d.rows⟩
  else none

/-- Modules of a table, ascending. -/
def tableModules (d : TableDesc) : List Nat := maskBits (BitVec.ofNat 64 d.mask)

/-- Owner of a shard. -/
def ownerOf (d : TableDesc) (shard : Nat) : Nat :=
  let ms := tableModules d
  ms.getD (shard % ms.length) 0

def localShard (d : TableDesc) (shard : Nat) : Nat := shard / (tableModules d).length

/-- Address of a record in slot v. -/
def recordAddr (d : TableDesc) (v : Nat) (k : RowKey) : Nat :=
  (if v = 0 then d.slot0 else d.slot1) + localShard d k.shard * d.shardBytes + k.slot * d.stride

/-- Address of its check word. -/
def checkAddr (d : TableDesc) (v : Nat) (k : RowKey) : Nat :=
  (if v = 0 then d.check0 else d.check1) + 4 * (localShard d k.shard * d.rows + k.slot)

/-- Routing engine of a key (R153). -/
def engineOf (k : RowKey) : Nat := (k.shard + k.slot) % 8

/-- Record number of a key (R185). -/
def recordNumber (d : TableDesc) (k : RowKey) : Nat := k.shard * d.rows + k.slot

/-- Whether this module holds rows of an owner: it is the owner, or its twin for a twinned table. -/
def holdsRows (s : State) (d : TableDesc) (owner : Nat) : Bool :=
  owner = s.twin.number || (d.twinned && twinOfNumber owner = s.twin.number)

/-- Modules that hold the rows of an owner and are members. -/
def rowHolders (s : State) (d : TableDesc) (owner : Nat) : List Nat :=
  ([owner] ++ (if d.twinned then [twinOfNumber owner] else [])).filter (isMember s)

/-- Every module that holds rows of a table: its owners and, twinned, their twins. -/
def allHolders (s : State) (d : TableDesc) : List Nat := (tableModules d).flatMap (rowHolders s d)

/-! ### Table epochs (R162) -/

def epochOfSlot (d : TableDesc) (v : Nat) : Nat := if v = 0 then d.epoch0 else d.epoch1

/-- The table epoch of a step. A step below the switch step of a finished switch carries the retired epoch. -/
def tableEpoch (s : State) (d : TableDesc) (step : Nat) : Nat :=
  match s.tables.retired.find? fun r => r.table = d.table && step < r.switchStep with
  | some r => r.epoch
  | none => epochOfSlot d (if d.switchStep = noSwitch || step < d.switchStep then d.active else 1 - d.active)

/-- The live slot whose epoch a message carries. -/
def slotOfEpoch (d : TableDesc) (epoch : Nat) : Option Nat :=
  if epoch = epochOfSlot d d.active then some d.active
  else if d.switchStep != noSwitch && epoch = epochOfSlot d (1 - d.active) then some (1 - d.active)
  else none

/-! ### Scaling records (R105) -/

def clampP (p : Int) : Int := max (-64) (min 96 p)

/-- P_INIT of MGT_SCALE_CTL. -/
def pInit (s : State) : Int := signedOf 8 (field s .mgt 0 0x200 8 8)

/-- A new scaling record (R105). -/
def newScale (s : State) : ScaleRec :=
  ⟨clampP (pInit s), 0, 0, 0, List.replicate 16 (-128), -128, 0, false, [], none, false, false, none, none⟩

/-- The record of a tensor that becomes tracked. -/
def track (s : State) (tensor : Nat) : State :=
  if (mget s.scaling tensor).isSome then s
  else mark { s with scaling := mput s.scaling tensor (newScale s) } (scaleAddr s.part tensor) 32

/-- A scaling record written whole in its sector's place: the loss of that part of the sector ends (R107, DEDUCED, log 88). -/
def healScale (s : State) (tensor : Nat) : State :=
  let x := sectorOf (scaleAddr s.part tensor)
  setGddr s fun g => { g with badSectors := g.badSectors.filter (· != x), unserved := g.unserved.filter (· != x) }

/-! ### TABLE_DEFINE (R144, R146) -/

/-- Class size in modules; 0 outside a class. -/
def classSize (s : State) : Nat := s.twin.size

/-- Formats of R146. -/
def rowFormatOk (tag opt : Nat) : Bool :=
  match tagOf? tag with
  | some (f, .plain) => f = .fp32 || f = .fp16 || f = .bf16
  | some (.t2, .group _) => opt = 0
  | some (_, .group _) => true
  | _ => false

/-- The 1 MiB segments of a range: the first, and one past the last. -/
def span (a n : Nat) : List (Nat × Nat) := if n = 0 then [] else [(a / 2 ^ 20, (a + n - 1) / 2 ^ 20 + 1)]

/-- The 1 MiB segments, first and one past the last, of the regions of a table on a module (R33). -/
def tableSegments (d : TableDesc) : List (Nat × Nat) :=
  let ms := tableModules d
  let locals := if ms.isEmpty then 0 else (d.shards + ms.length - 1) / ms.length
  span d.slot0 (locals * d.shardBytes) ++ span d.check0 (4 * locals * d.rows)
    ++ (if d.slot1 = 0 then [] else span d.slot1 (locals * d.shardBytes))
    ++ (if d.check1 = 0 then [] else span d.check1 (4 * locals * d.rows))
    ++ (if d.aux = 0 then [] else span d.aux (4 * (d.elements + 1)))

/-- The 1 MiB segments of a dense shard. -/
def shardSegments (d : ShardDesc) : List (Nat × Nat) :=
  span d.weightBase (d.tiles * d.weightStride) ++ (if d.optimiser = 0 then [] else span d.stateBase (d.tiles * d.stateStride))

/-- Twinned segments of this module, ascending. -/
def twinSegments (s : State) : List Nat :=
  let rs := ((s.tables.descs.filter (·.2.twinned)).flatMap fun e => tableSegments e.2)
    ++ ((s.tables.shards.filter (·.2.twinned)).flatMap fun e => shardSegments e.2)
    ++ (s.scaling.flatMap fun e => span (scaleAddr s.part e.1) 32)
  rs.foldl (fun m r => (rangeFrom r.1 (r.2 - r.1)).foldl insertNat m) []

/-- What the source of an enrolment has written to twinned segments since it last forwarded, sent on in order, with the
end-of-step mark where a step closes (R43 step 3, DEDUCED, log 26). -/
def sendForward (s : State) (stepEnd : Option Nat) : State :=
  if s.twin.pair != .enrollingSource then s
  else
    let segs := twinSegments s
    let fs := s.twin.forward.filter fun x => segs.any fun g => overlaps x.addr x.bytes.length (g * 2 ^ 20) (2 ^ 20)
    let s1 := setTwin s fun t => { t with forward := [] }
    if fs.isEmpty && stepEnd.isNone then s1 else sendTwin s1 (.segment 0 0 [] fs stepEnd)

/-- Entries of an operand of n entries of k bytes each. -/
def entriesOf (bs : List Byte) (k n : Nat) : List (List Byte) := (List.range n).map fun i => (bs.drop (i * k)).take k

/-- Parts of a layout plan (R302). -/
def planTables (bs : List Byte) : List (List Byte) := entriesOf (bs.drop 64) 128 (leAt bs 0 4)
def planShards (bs : List Byte) : List (List Byte) := entriesOf (bs.drop (64 + 128 * leAt bs 0 4)) 128 (leAt bs 4 4)
def planMoves (bs : List Byte) : List (List Byte) :=
  entriesOf (bs.drop (64 + 128 * leAt bs 0 4 + 128 * leAt bs 4 4)) 32 (leAt bs 8 4)

/-- Descriptors that a plan gives this module: its tables, and the shards of its own class number. -/
def planDescs (s : State) (bs : List Byte) : List TableDesc × List ShardDesc :=
  ((planTables bs).map tableDescOf,
   ((planShards bs).filter fun e => leAt e 0 1 = s.twin.number).map fun e => shardDescOf (e.drop 64))

/-- Segments of the descriptors in force or pending with their twinned mark, but for one table and one tensor that are
redefined. -/
def segmentsInUse (s : State) (table tensor : Option Nat) : List (Bool × Nat × Nat) :=
  let plan := planDescs s ((s.col.reshard.map (·.plan)).getD [])
  let ts := s.tables.descs.map (·.2) ++ s.tables.newDescs.map (·.2) ++ plan.1
  let ds := s.tables.shards.map (·.2) ++ plan.2
  ((ts.filter fun d => some d.table != table).flatMap fun d => (tableSegments d).map fun r => (d.twinned, r))
    ++ ((ds.filter fun d => some d.tensor != tensor).flatMap fun d => (shardSegments d).map fun r => (d.twinned, r))

/-- Whether regions would share a segment with state of the other kind (R33). -/
def mixesSegments (s : State) (table tensor : Option Nat) (twinned : Bool) (rs : List (Nat × Nat)) : Bool :=
  (segmentsInUse s table tensor).any fun x => x.1 != twinned && rs.any fun r => r.1 < x.2.2 && x.2.1 < r.2

/-- Offset of the first field of a table descriptor that breaks a range of R145 or a rule of R146 (DESIGN CHOICE, log 21). -/
def tableFault (s : State) (bs : List Byte) : Option Nat :=
  let d := tableDescOf bs
  let bad := fun (off : Nat) (b : Bool) => if b then [off] else []
  let mib := 2 ^ 20
  let ms := tableModules d
  let locals := if ms.isEmpty then 0 else (d.shards + ms.length - 1) / ms.length
  let slotBad := fun (a : Nat) => a % mib != 0 || !devRange s a (locals * d.shardBytes) || inShared s a (locals * d.shardBytes)
  let chkBad := fun (a : Nat) => a % mib != 0 || !devRange s a (4 * locals * d.rows) || inShared s a (4 * locals * d.rows)
  (bad 3 (d.optimiser = 7) ++ bad 4 (d.elements = 0 || d.elements > 1024) ++ bad 8 (d.shards = 0)
    ++ bad 0xA (d.replaceMode = 3) ++ bad 0x10 (d.rows = 0 || d.rows > 2 ^ 40) ++ bad 0x28 (d.shardBytes % mib != 0)
    ++ bad 2 (!rowFormatOk d.tag d.optimiser)
    ++ bad 4 (match (fmtOfTag d.tag).2 with
        | .group g => d.elements % g != 0
        | _ => false)
    ++ bad 6 (d.stride != up64 (recordLength d)) ++ bad 0x28 (d.shardBytes < d.rows * d.stride)
    ++ bad 0x30 (slotBad d.slot0) ++ bad 0x38 (d.slot1 != 0 && slotBad d.slot1) ++ bad 0x40 (chkBad d.check0)
    ++ bad 0x48 (d.check1 != 0 && chkBad d.check1)
    ++ bad 0x50 (d.aux != 0 && (d.aux % mib != 0 || !devRange s d.aux (4 * (d.elements + 1)) || inShared s d.aux (4 * (d.elements + 1))))
    ++ bad 0x20 (d.mask = 0 || ms.any (· ≥ classSize s) || (d.twinned && ms.any fun m => ms.contains (twinOfNumber m)))
    ++ bad 0x7C (leAt bs 0x7C 4 != crc32c (bs.take 0x7C))
    ++ bad 3 (mixesSegments s (some d.table) none d.twinned (tableSegments d))).head?

/-- TWIN_UNAVAILABLE naming the twin and the pair state of the module that answers (DEDUCED, log 64). -/
def twinUnavailable (c : Nat) (p : PairState) : Refused := (0x24, c, pairCode p)

/-- Whether a table puts twinned state on this module while its pair is not PAIRED (R44). -/
def tableUnpaired (s : State) (d : TableDesc) : Bool :=
  d.twinned && !paired s && (tableModules d).any fun m => m = s.twin.number || m = twinOf s

/-- Whether a plan creates twinned state on this module, which neither it nor its twin holds now, while its pair is not PAIRED
(R44, DEDUCED, log 64). -/
def planUnpaired (s : State) (bs : List Byte) : Bool :=
  let d := planDescs s bs
  !paired s
    && ((d.1.any fun x => tableUnpaired s x && !((mget s.tables.descs x.table).any (tableUnpaired s)))
      || d.2.any fun x => x.twinned && !((mget s.tables.shards x.tensor).any (·.twinned)))

/-- TABLE_DEFINE on one member: in force at the next step boundary, at once with no job running. -/
def installTableDefine : Install := fun c s =>
  let bs := inlineOf c.slot 128
  match tableFault s bs with
  | some off => .error (rangeOf (blockField off))
  | none =>
    let d := tableDescOf bs
    if s.job.running && (tableAt s d.table).isSome then .error (rangeOf condition)
    else if tableUnpaired s d then .error (twinUnavailable (twinOf s) s.twin.pair)
    else if s.job.running then .ok (setTables s fun t => { t with newDescs := mput t.newDescs d.table d })
    else .ok (track (markDesc (setTables s fun t => { t with descs := mput t.descs d.table d }) d.table s.job.openStep) d.tensor)

def execTableDefine (c : HostCmd) (s : State) : Host.Outcome State Fault Refusal :=
  runCmd s 0x0110 c fun s => startClass s c [] installTableDefine

/-! ### TABLE_SWITCH (R163) -/

def installTableSwitch : Install := fun c s =>
  let t := bitsOf c.slot.param0 0 12
  let ep := bitsOf c.slot.param0 16 16
  match tableAt s t with
  | none => .error (rangeOf 0x20)
  | some d =>
    if d.replaceMode != 1 || ep = epochOfSlot d d.active then .error (rangeOf 0x20)
    else if c.slot.param1 < s.job.openStep + 2 then .error (rangeOf 0x28)
    else if d.switchStep != noSwitch then .error (rangeOf condition)
    else
      let d' := { d with switchStep := c.slot.param1, epoch0 := if d.active = 0 then d.epoch0 else ep
                         epoch1 := if d.active = 0 then ep else d.epoch1 }
      .ok (markDesc (setTables s fun x => { x with descs := mput x.descs t d', staged := mdel x.staged t }) t s.job.openStep)

def execTableSwitch (c : HostCmd) (s : State) : Host.Outcome State Fault Refusal :=
  runCmd s 0x0111 c fun s => startClass s c [] installTableSwitch

/-! ### TABLE_STAGE and TABLE_ROLL (R163, R166) -/

/-- The operand of a command in device memory that no read returns (R129); none for host memory. -/
def operandFault (s : State) (c : HostCmd) (n : Nat) : Option Nat :=
  if bitOf c.slot.ctl 6 then badSector s c.slot.operand n else none

/-- Whether an operand in device memory lies outside it. -/
def operandOut (s : State) (c : HostCmd) (n : Nat) : Bool :=
  bitOf c.slot.ctl 6 && (!devRange s c.slot.operand n || inShared s c.slot.operand n)

def execTableStage (c : HostCmd) (data : List Byte) (s : State) : Host.Outcome State Fault Refusal :=
  runCmd s 0x0112 c fun s =>
    let t := bitsOf c.slot.param0 0 12
    let n := c.slot.param1
    match tableAt s t with
    | none => refuse s c 0x20
    | some d =>
      let k := 8 + recordLength d
      if n = 0 || n > 65536 then refuse s c 0x28
      else if d.replaceMode != 1 || d.switchStep = noSwitch then refuse s c condition
      else if operandOut s c (n * k) then refuse s c 0x18
      else
        match operandFault s c (n * k) with
        | some a => failUE s c a
        | none =>
          let es := entriesOf (operandBytes s c data (n * k)) k n
          let keys := es.map fun e => (keyOf d (leAt e 0 8), e)
          if keys.any fun p => p.1.isNone then refuse s c condition
          else
            let last := bitOf c.slot.param0 31
            let items := keys.flatMap fun p => match p.1 with
              | none => []
              | some key => (rowHolders s d (ownerOf d key.shard)).map fun m =>
                  (m, RoutedItem.stage t (leAt p.2 0 8) (p.2.drop 8) false)
            let marks := if last then (allHolders s d).map fun m => (m, RoutedItem.stage t 0 [] true) else []
            startRouted s c (items ++ marks)

def execTableRoll (c : HostCmd) (data : List Byte) (s : State) : Host.Outcome State Fault Refusal :=
  runCmd s 0x0113 c fun s =>
    let t := bitsOf c.slot.param0 0 12
    let n := c.slot.param1
    match tableAt s t with
    | none => refuse s c 0x20
    | some d =>
      let k := 16 + weightBytes d.tag d.elements
      if n = 0 || n > 65536 then refuse s c 0x28
      else if d.replaceMode != 2 then refuse s c condition
      else if operandOut s c (n * k) then refuse s c 0x18
      else
        match operandFault s c (n * k) with
        | some a => failUE s c a
        | none =>
          let es := entriesOf (operandBytes s c data (n * k)) k n
          if es.any fun e => (keyOf d (leAt e 0 8)).isNone || leAt e 10 1 > 1 then refuse s c condition
          else
            startRouted s c (es.filterMap fun e => (keyOf d (leAt e 0 8)).bind fun key =>
              let ow := ownerOf d key.shard
              (rowHolders s d ow).head?.map fun m =>
                (m, RoutedItem.roll t (leAt e 0 8) (leAt e 8 2) (leAt e 10 1 = 1) (e.drop 16) none))

/-! ### SHARD_DEFINE (R174, R44) -/

/-- Offset of the first bad field of a shard descriptor. -/
def shardFault (s : State) (bs : List Byte) : Option Nat :=
  let d := shardDescOf bs
  let bad := fun (off : Nat) (b : Bool) => if b then [off] else []
  let mib := 2 ^ 20
  let out := fun (a n : Nat) => a % mib != 0 || !devRange s a n || inShared s a n
  (bad 3 (d.optimiser = 7) ++ bad 8 (d.tiles = 0) ++ bad 0x20 (d.weightStride % 256 != 0)
    ++ bad 0x24 (d.stateStride % 256 != 0) ++ bad 2 (!rowFormatOk d.tag d.optimiser)
    ++ bad 0x10 (out d.weightBase (d.tiles * d.weightStride))
    ++ bad 0x18 (if d.optimiser = 0 then d.stateBase != 0 else out d.stateBase (d.tiles * d.stateStride))
    ++ bad 0x3C (leAt bs 0x3C 4 != crc32c (bs.take 0x3C))
    ++ bad 3 (mixesSegments s none (some d.tensor) d.twinned (shardSegments d))).head?

def execShardDefine (c : HostCmd) (s : State) : Host.Outcome State Fault Refusal :=
  runCmd s 0x0118 c fun s =>
    let bs := inlineOf c.slot 64
    match shardFault s bs with
    | some off => refuse s c (blockField off)
    | none =>
      let d := shardDescOf bs
      if d.twinned && !paired s then
        (let r := twinUnavailable (twinOf s) s.twin.pair
        finish s c r.1 r.2.1 r.2.2)
      else done (track (markDesc (setTables s fun t => { t with shards := mput t.shards d.tensor d }) (2 ^ 16 + d.tensor) s.job.openStep)
        d.tensor) c

/-! ### OPTIM_SET (R176, R177) -/

/-- An FP32 code that is finite, and not below zero where lo is 0, above zero where lo is 1. -/
def fp32In (c : Nat) (above : Bool) (belowOne : Bool) : Bool :=
  match decodeFmt .fp32 c with
  | .fin n m e => (m = 0 || !n) && (!above || m != 0) && (!belowOne || (Val.fin n m e).lt (.fin false 1 0))
  | _ => false

/-- Offset of the first bad field of a parameter record; condition where a record is already pending (R177). -/
def paramFault (s : State) (bs : List Byte) : Option Nat :=
  let p := paramsOf bs
  let bad := fun (off : Nat) (b : Bool) => if b then [blockField off] else []
  (bad 2 (leAt bs 2 1 % 4 > 1) ++ bad 4 (!fp32In p.lr false false) ++ bad 8 (!fp32In p.beta1 false true)
    ++ bad 0xC (!fp32In p.beta2 false true) ++ bad 0x10 (!fp32In p.epsilon true false)
    ++ bad 0x14 (!fp32In p.decay false false) ++ bad 0x18 (!fp32In p.gscale true false)
    ++ bad 0x3C (leAt bs 0x3C 4 != crc32c (bs.take 0x3C)) ++ bad 0x20 (p.start > p.effective)
    ++ bad 0x28 (p.effective < s.job.openStep + 2)
    ++ (if s.tables.params.any fun e => e.1 = p.tensor && e.2.effective > s.job.openStep then [condition] else [])).head?

def installOptimSet : Install := fun c s =>
  let bs := inlineOf c.slot 64
  match paramFault s bs with
  | some d0 => .error (rangeOf d0)
  | none => .ok (setTables s fun t => { t with params := t.params ++ [((paramsOf bs).tensor, paramsOf bs)] })

def execOptimSet (c : HostCmd) (s : State) : Host.Outcome State Fault Refusal :=
  runCmd s 0x0119 c fun s => startClass s c [] installOptimSet

/-- The record that governs a gradient of a step: the largest EFFECTIVE_STEP not above it (R177). -/
def paramsFor (s : State) (tensor step : Nat) : Option Params :=
  (s.tables.params.filter fun e => e.1 = tensor && e.2.effective ≤ step).foldl
    (fun (b : Option Params) e => match b with
      | none => some e.2
      | some q => if q.effective < e.2.effective then some e.2 else some q) none

/-- Records kept: the pending one and the two most recent whose step has been reached (R177). -/
def pruneParams (s : State) : State :=
  let ps := s.tables.params
  let keep := ps.filter fun e => e.2.effective > s.job.openStep
    || (ps.filter fun f => f.1 = e.1 && f.2.effective ≤ s.job.openStep && f.2.effective > e.2.effective).length < 2
  setTables s fun t => { t with params := keep }

end Sys2Proof.Machine
end

