-- ==== Sys2Proof/Machine/Apply.lean ====
section
/-! DEFINITION. What an update unit does with one record or tile: read, repair, compute, first and second write, renewal
(R171 to R173, R181 to R191, R194). -/

namespace Sys2Proof.Machine

/-! ### State regions -/

/-- Moment i of a vector that starts at a byte of a state region. -/
def momentAt (fp32 : Bool) (st : List Byte) (base i : Nat) : FV :=
  momentOf fp32 (leAt st (base + momentSize fp32 * i) (momentSize fp32))

def momentVec (fp32 : Bool) (st : List Byte) (base n : Nat) : List FV := (List.range n).map (momentAt fp32 st base)

def momentBytes (fp32 : Bool) (xs : List FV) : List Byte := xs.flatMap fun x => leBytes (momentSize fp32) (momentCode fp32 x)

/-- A factor read and written as FP32. -/
def fp32At (bs : List Byte) (i : Nat) : FV := FV.of (leAt bs (4 * i) 4)
def fp32Bytes (xs : List FV) : List Byte := xs.flatMap fun x => leBytes 4 x.c

/-- What an optimiser makes of a row: its new state region and new weights. -/
structure RowOut where
  state : List Byte
  stateVals : List FV
  weights : List FV
  deriving DecidableEq, Repr

/-- Decay of a moment over missed steps: multiplied by a power, rounded once, not stored (R187). -/
def decayed (k : Scalars) (beta : FV) (n : Nat) (x : FV) : FV := if n = 0 then x else FV.mul k.mode x (FV.pow k.mode beta n)

/-- One row under its optimiser; missed is the number of steps its moments decay first (R187). -/
def optimiseRow (k : Scalars) (opt : Nat) (fp32 : Bool) (e missed : Nat) (st : List Byte) (cs : List FV) (cbar : FV)
    (gs ws : List FV) : RowOut :=
  let sz := stateBytes opt fp32 e
  let pack := fun (vs : List FV) (ws : List FV) => (⟨padTo sz (momentBytes fp32 vs), vs, ws⟩ : RowOut)
  match opt with
  | 1 =>
    let os := ((gs.zip ws).zip (momentVec fp32 st 0 e)).map fun p =>
      sgd k fp32 p.1.1 p.1.2 (decayed k k.beta1 missed p.2)
    pack (os.map (·.m)) (os.map (·.w))
  | 4 =>
    let os := ((gs.zip ws).zip (momentVec fp32 st 0 e)).map fun p =>
      lion k fp32 p.1.1 p.1.2 (decayed k k.beta2 missed p.2)
    pack (os.map (·.m)) (os.map (·.w))
  | 5 =>
    let r := adagrad k e (fp32At st 0) gs ws
    ⟨padTo sz (fp32Bytes [r.1]), [r.1], r.2⟩
  | 6 =>
    let r := rowFactor k e (decayed k k.beta2 missed (fp32At st 0)) gs
    ⟨padTo sz (fp32Bytes [r]), [r], factoredWeights k r cbar cs gs ws⟩
  | opt =>
    let ms := momentVec fp32 st 0 e
    let vs := momentVec fp32 st (momentSize fp32 * e) e
    let os := ((gs.zip ws).zip (ms.zip vs)).map fun p =>
      adam k fp32 (opt = 3) p.1.1 p.1.2 (decayed k k.beta1 missed p.2.1) (decayed k k.beta2 missed p.2.2)
    pack (os.map (·.m) ++ os.map (·.v)) (os.map (·.w))

/-- The event of each element of a record: the first of R64 of its new state values and its new weight; each element counts
once (R269). A state value of the whole row reaches its elements through their weights. -/
def elemEvents (stateVals weights : List FV) : List Exc :=
  let e := weights.length
  weights.zipIdx.map fun q =>
    [q.2, e + q.2].foldl (fun x i => if stateVals.length < e then x else
      match stateVals[i]? with
      | some v => Exc.first x v.x
      | none => x) q.1.x

/-- Elements of a record with an event. -/
def eventCount (x : Exc) (es : List Exc) : Nat := (es.filter (· = x)).length

/-! ### Partials of the open step -/

/-- Key of a partial: tensor, update unit, then engine or tile, in the order of R173. -/
def statKey (tensor unit sub : Nat) : Nat := (tensor * 16 + unit) * 2 ^ 40 + sub

/-- The measurements of one update taken in; those of a tensor without a record count as dropped (R266). -/
def setStat (s : State) (key : Nat) (f : UpdStat → UpdStat) : State :=
  setTables (gradeTaken s (key / 2 ^ 44)).1 fun t => { t with stats := mput t.stats key (f ((mget t.stats key).getD UpdStat.zero)) }

/-! ### Second writes (R189) -/

/-- Bytes of an update written, unless a partial write meets an uncorrectable sector: that write changes nothing (R129). -/
def unitWrite (s : State) (a : Nat) (bs : List Byte) : State :=
  match badWrite s a bs.length with
  | some x => noteUE s x
  | none => devWrite s a bs

/-- The second write of an update: weights, tail and check word; or the weight tile. -/
def secondWrite (s : State) (o : Open2) : State :=
  let s1 := unitWrite s o.weightsAt o.weights
  let s2 := if o.checkBytes.isEmpty then s1 else unitWrite s1 o.checkAddr o.checkBytes
  let s3 := setTables s2 fun t => { t with open2 := t.open2.filter (· != o) }
  let s4 := sendForward (progress s3 .upd o.unit 1) none
  if o.renewal then s4
  else if o.isTile then bump s4 .upd o.unit 0x110 0 32 1
  else bump64 s4 .upd o.unit 0x108 1

/-- Whether a second write waits in the queue of a channel that retrains (R127, R172). -/
def writeHeld (s : State) (o : Open2) : Bool :=
  memWaits s o.weightsAt o.weights.length || memWaits s o.checkAddr o.checkBytes.length

/-- Earlier work on a record is finished before new work starts (R171, R189 step 1), as far as its channels take it. -/
def finishOpen (s : State) (addr : Nat) : State :=
  match s.tables.open2.find? (·.addr = addr) with
  | none => s
  | some o => if writeHeld s o then s else secondWrite s o

/-- Whether earlier work on a record is still open. -/
def stillOpen (s : State) (addr : Nat) : Bool := s.tables.open2.any (·.addr = addr)

/-! ### Writing a record -/

/-- A whole record written at once with its check word (R149). -/
def writeRecord (s : State) (d : TableDesc) (v : Nat) (key : RowKey) (bs : List Byte) : State :=
  let a := recordAddr d v key
  let full := padTo d.stride (bs.take (recordLength d))
  let s1 := unitWrite (devWrite s a full) (checkAddr d v key) (leBytes 4 (crc32c (bs.take (recordLength d))))
  mark (setTables s1 fun t => { t with torn := t.torn.filter (· != a)
                                       open2 := t.open2.filter (·.addr != a) }) a d.stride

/-- The two halves of an update or a renewal of a record: the first write now, the second one open (R189). -/
def firstWrite (s : State) (d : TableDesc) (v : Nat) (key : RowKey) (old state weights : List Byte) (stamp : Nat) (renewal : Bool) :
    State :=
  let a := recordAddr d v key
  let hd := recordHead stamp (recordVersion old) (recordTag old)
  let tail := leBytes 3 stamp ++ [0]
  let s1 := mark (devWrite s a (hd ++ state)) a d.stride
  let o : Open2 := ⟨a, memOf s.part a, false, a + weightsAt d, weights ++ tail, checkAddr d v key,
    leBytes 4 (crc32c (hd ++ state ++ weights ++ tail)), renewal⟩
  setTables s1 fun t => { t with open2 := t.open2 ++ [o] }

/-! ### Torn records (R190, R191) -/

/-- The latest step at or below the open step whose bits 23:0 are a stamp. -/
def stepOfStamp (s : State) (stamp : Nat) : Nat := s.job.openStep - (s.job.openStep + 2 ^ 24 - stamp) % 2 ^ 24

/-- The weights of a re-derivable optimiser from stored moments (R191 rule 3). -/
def rederive (k : Scalars) (opt : Nat) (fp32 : Bool) (e : Nat) (st : List Byte) (ws : List FV) : List FV :=
  if opt = 1 then (ws.zip (momentVec fp32 st 0 e)).map fun p => stepDown k p.1 p.2
  else (ws.zip ((momentVec fp32 st 0 e).zip (momentVec fp32 st (momentSize fp32 * e) e))).map fun p =>
    adamWeight k (opt = 3) p.1 p.2.1 p.2.2

/-- A record reported torn (R191 rule 4). -/
def reportTorn (s : State) (unit addr : Nat) : State :=
  if s.tables.torn.contains addr then s
  else post (bump (setTables s fun t => { t with torn := t.torn ++ [addr] }) .upd unit 0x11C 20 10 1) .upd unit 0x0301 [addr]

/-- The outcome of bringing a record into a readable state. -/
inductive Ready where
  | ok (s : State) (bytes : List Byte)
  | wait (s : State)
  | gone (s : State) (addr : Nat)
  deriving DecidableEq, Repr

/-- Values as FP32 operands of the update (R178). -/
def asFV (vs : List Val) : List FV := vs.map fun v => FV.of (into .fp32 .strict .rne v).1

/-- The repair of a torn record by the first rule of R191 that applies. -/
def repairTorn (s : State) (d : TableDesc) (v : Nat) (key : RowKey) (bs : List Byte) : Ready :=
  let a := recordAddr d v key
  let unit := memOf s.part a
  let asked := s.twin.waits.any fun w => w.addr = a
  let refused := s.twin.waits.any fun w => w.addr = a && w.refused
  if d.twinned && (s.twin.pair = .detached || s.twin.pair = .enrollingTarget) then .gone s a
  else if d.twinned && paired s && !refused then
    (if asked then .wait s else .wait (requestItem s a d.stride (stepOfStamp s (momentStamp bs) + 1) false true))
  else
    let s := setTwin s fun t => { t with waits := t.waits.filter (·.addr != a) }
    let step := stepOfStamp s (momentStamp bs)
    match (if d.optimiser = 1 || d.optimiser = 2 || d.optimiser = 3 then paramsFor s d.tensor step else none) with
    | none => .gone (reportTorn s unit a) a
    | some p =>
      let k := scalars p step
      let ws := asFV (weightVals d.tag d.elements (bs.drop (weightsAt d)))
      let new := rederive k d.optimiser d.momentFp32 d.elements (bs.drop 8) ws
      let fa := fmtOfTag d.tag
      let r := storeWeights fa.1 fa.2 k.mode (rand s.twin.seed.toNat d.tensor (recordNumber d key) step) (new.map FV.val)
      let rec' := bs.take (weightsAt d) ++ weightRegion d.tag d.elements r ++ leBytes 3 (momentStamp bs) ++ [0]
      let s1 := writeRecord s d v key rec'
      let s2 := post (bump s1 .upd unit 0x11C 0 10 1) .upd unit 0x0300 [a, 3]
      .ok (progress s2 .upd unit 1) (padTo d.stride rec')

/-- What a read of a record takes: an update the whole stride, a look-up the head, the weights and the tail (R149, R172). -/
def recordParts (d : TableDesc) (a : Nat) (byUpdate : Bool) : List (Nat × Nat) :=
  if byUpdate then [(a, d.stride)] else [(a, 8), (a + weightsAt d, recordLength d - weightsAt d)]

/-- A torn record repaired from its whole stride. -/
def mendRecord (s : State) (d : TableDesc) (v : Nat) (key : RowKey) (step : Nat) : Ready :=
  let a := recordAddr d v key
  match readItem s a d.stride step d.twinned true false with
  | .wait t => .wait t
  | .fail t x => .gone t x
  | .ok bs => repairTorn s d v key bs

/-- A record made ready for reading at a step: earlier work finished, sectors and head checked, then for a look-up its tag, and
torn records repaired (R155, R189, R190). -/
def readyRecord (s : State) (d : TableDesc) (v : Nat) (key : RowKey) (step : Nat) (byUpdate : Bool) : Ready :=
  let a := recordAddr d v key
  let s := finishOpen s a
  let read := readParts s a d.stride step (recordParts d a byUpdate) d.twinned byUpdate
  if stillOpen s a then .wait s
  else if s.tables.torn.contains a then .gone s a
  else
    match read false with
    | .wait t => .wait t
    | .fail t x => .gone t x
    | .ok bs =>
      if !headOk bs then
        match read true with
        | .wait t => .wait t
        | .fail t x => .gone t x
        | .ok b => .ok s b
      else if !byUpdate && recordTag bs != d.tag then .ok s bs
      else if momentStamp bs != weightStamp d bs then mendRecord s d v key step
      else .ok s bs

/-! ### Renewal (R188) -/

/-- Distance from a stamp back from a step, modulo 2^24. -/
def stampAge (step stamp : Nat) : Nat := (step + 2 ^ 24 - stamp % 2 ^ 24) % 2 ^ 24

/-- The state region of a renewed record: moments decayed over their whole distance in state-beside-row mode. -/
def renewedState (k : Scalars) (d : TableDesc) (bs : List Byte) (step : Nat) : List Byte :=
  let e := d.elements
  let st := (bs.drop 8).take (stateBytes d.optimiser d.momentFp32 e)
  let n := stampAge step (momentStamp bs)
  let one := fun (beta : FV) (x : FV) => storeMoment k d.momentFp32 (FV.mul k.mode x (FV.pow k.mode beta n))
  let vec := fun (beta : FV) (base : Nat) => (momentVec d.momentFp32 st base e).map (one beta)
  let pad := padTo (stateBytes d.optimiser d.momentFp32 e)
  if !d.beside || n = 0 then st
  else
    match d.optimiser with
    | 1 => pad (momentBytes d.momentFp32 (vec k.beta1 0))
    | 4 => pad (momentBytes d.momentFp32 (vec k.beta2 0))
    | 2 => pad (momentBytes d.momentFp32 (vec k.beta1 0 ++ vec k.beta2 (momentSize d.momentFp32 * e)))
    | 3 => pad (momentBytes d.momentFp32 (vec k.beta1 0 ++ vec k.beta2 (momentSize d.momentFp32 * e)))
    | 6 => pad (fp32Bytes [FV.mul k.mode (fp32At st 0) (FV.pow k.mode k.beta2 n)])
    | _ => st

/-- Whether the renewal of a step takes a record. -/
def renewable (d : TableDesc) (bs : List Byte) (step : Nat) : Bool :=
  d.optimiser != 0 && stampAge step (weightStamp d bs) ≥ 2 ^ 22

/-- A record's bytes renewed as at the close of a step, where it qualifies. With no parameter record in force for the step there is
no factor to decay by, and the state stays (DESIGN CHOICE, log 85). -/
def renewedBytes (s : State) (d : TableDesc) (bs : List Byte) (step : Nat) : List Byte :=
  if !renewable d bs step then bs
  else
    let kept := (bs.drop 8).take (stateBytes d.optimiser d.momentFp32 d.elements)
    let st := match paramsFor s d.tensor step with
      | some p => renewedState (scalars p step) d bs step
      | none => kept
    padTo d.stride (stampRecord d (bs.take 8 ++ st ++ bs.drop (weightsAt d)) (step % 2 ^ 24))

/-- A record renewed in the two halves of R189, where it qualifies. -/
def renewRecord (s : State) (d : TableDesc) (v : Nat) (key : RowKey) (bs : List Byte) (step : Nat) : State :=
  if !renewable d bs step then s
  else
    let new := renewedBytes s d bs step
    let body := new.take (recordLength d - 4)
    firstWrite s d v key new ((body.drop 8).take (weightsAt d - 8)) (body.drop (weightsAt d)) (step % 2 ^ 24) true

/-! ### One reduced gradient row -/

/-- The column factors and cbar of a table (R182). -/
def columnFactors (s : State) (d : TableDesc) : List FV × FV :=
  let bs := devRead s d.aux (4 * (d.elements + 1))
  ((List.range d.elements).map (fp32At bs), fp32At bs d.elements)

/-- The read of the column factors that an update makes beside its record (R129, R182). -/
def factorsReady (s : State) (d : TableDesc) (step : Nat) : ItemRead :=
  if d.optimiser = 6 then readItem s d.aux (4 * (d.elements + 1)) step d.twinned false false else .ok []

/-- Those of the update: the factors, and the scaling record that holds its pre-scale (R105, R107). -/
def updateReads (s : State) (d : TableDesc) (step : Nat) : ItemRead :=
  match factorsReady s d step with
  | .ok _ => scaleRead s d.tensor step
  | r => r

/-- A record rewritten by its reduced gradient (R179 to R184, R189). -/
def updateRecord (s : State) (d : TableDesc) (pr : PendRow) (p : Params) (bs : List Byte) : State :=
  let unit := memOf s.part (recordAddr d pr.slot pr.key)
  let k := scalars p pr.step
  let e := d.elements
  let gs := pr.elems.map (gradIn k (preScale s d.tensor))
  let oldVals := weightVals d.tag e (bs.drop (weightsAt d))
  let delta := stampAge pr.step (momentStamp bs)
  let cf := if d.optimiser = 6 then columnFactors s d else ([], FV.of 0)
  let r := optimiseRow k d.optimiser d.momentFp32 e (if d.beside && delta ≥ 2 then delta - 1 else 0) (bs.drop 8) cf.1 cf.2
    gs (asFV oldVals)
  let key := statKey d.tensor unit pr.engine
  let ev := elemEvents r.stateVals r.weights
  if (r.stateVals ++ r.weights).any FV.nonFinite then
    setStat (bump s .upd unit 0x120 16 16 1) key fun t => t.skip ev
  else
    let fa := fmtOfTag d.tag
    let sw := storeWeights fa.1 fa.2 k.mode (rand s.twin.seed.toNat d.tensor (recordNumber d pr.key) pr.step) (r.weights.map FV.val)
    let s1 := firstWrite s d pr.slot pr.key bs r.state (weightRegion d.tag e sw) (pr.step % 2 ^ 24) false
    setStat s1 key fun t =>
      let t1 := t.measure oldVals sw.values (r.weights.map FV.val) sw.up ev sw.excs
      if d.optimiser = 6 then t1.columns k.mode e gs else t1

/-- The renewal pass of a unit that has not yet reached an address (R188). -/
def renewalAhead (s : State) (unit a : Nat) : Option Nat :=
  (s.tables.renewal.find? fun r => r.1 = unit && r.2.2 ≤ a).map (·.2.1)

/-- A reduced gradient of a step that the record or tile already carries: discarded and counted (R255). -/
def skipStep (s : State) (unit : Nat) : State := bump s .col (unit / 4) 0x120 0 32 1

/-- Whether this module takes no work of a step on twinned state: it holds no live copy (R39, R42, R254). What was sent before its own
detach took effect it still applies (R40, R263). -/
def copyless (s : State) (twinned : Bool) (step : Nat) : Bool :=
  twinned && s.twin.pair = .detached && !leftAfter s s.twin.number step

/-- The memory controller's answer to an update that finds a sector of its record, tile or check word that it cannot write: the
update changes nothing and counts as applied (R129, R394). -/
def unwritable (s : State) (parts : List (Nat × Nat)) : Option Nat := parts.findSome? fun p => badWrite s p.1 p.2

/-- A reduced gradient row offered to its unit: applied, discarded, or kept waiting: for its twin's copy, a repair, the end of an
enrolment (R43), or an earlier row of its engine, since each engine's rows add up in order (R173). -/
def applyRow (s : State) (pr : PendRow) : State :=
  let keep := fun (t : State) (u : Nat) => setTables t fun x => { x with pendRows := x.pendRows ++ [{ pr with unit := u }] }
  match tableAt s pr.table with
  | none => s
  | some d =>
    let a := recordAddr d pr.slot pr.key
    let unit := memOf s.part a
    let s := startDomain s (domUpd unit)
    let before := s.tables.pendRows.any fun q => q.table = pr.table && q.engine = pr.engine
      && memOf s.part (recordAddr d q.slot q.key) = unit
    if copyless s d.twinned pr.step then s
    else if before || repairHolds s a pr.step || (d.twinned && s.twin.pair = .enrollingTarget) then keep s unit else
    match readyRecord s d pr.slot pr.key pr.step true with
    | .wait t => keep t unit
    | .gone t x => if t.tables.torn.contains x then bump t .upd unit 0x120 0 16 1 else t
    | .ok t bs =>
      if weightStamp d bs = pr.step % 2 ^ 24 then skipStep t unit
      else
      match unwritable t [(checkAddr d pr.slot pr.key, 4)], updateReads t d pr.step, paramsFor t d.tensor pr.step with
      | some x, _, _ => noteUE t x
      | none, .wait u, _ => keep u unit
      | none, .fail u _, _ => u
      | none, .ok _, none => t
      | none, .ok _, some p =>
        let now := match renewalAhead t unit a with
          | some step => if step < pr.step then renewedBytes t d bs step else bs
          | none => bs
        updateRecord t d pr p now

/-- Rows that waited for a copy, tried again. -/
def retryRows (s : State) : State :=
  s.tables.pendRows.foldl applyRow (setTables s fun t => { t with pendRows := [] })

/-! ### Dense tiles (R174, R175, R182, R184) -/

/-- A tile's bytes in whole granules, from its header's BODY_BYTES. -/
def tileBytes (s : State) (a : Nat) : List Byte := devRead s a (granules (64 + leAt (devRead s a 64) 0x14 4))

/-- The local tile of a shard at a position (R174). -/
def findTile (s : State) (d : ShardDesc) (line depth : Nat) : Option Nat :=
  (List.range d.tiles).find? fun i =>
    let h := devRead s (d.weightBase + i * d.weightStride) 64
    leAt h 8 2 = line && leAt h 0xA 2 = depth

/-- Side channels of a tile: the reduction indices of its header. -/
def sideIndices (hd : List Byte) : List Nat :=
  match bitsOf (leAt hd 1 1) 3 2 with
  | 1 => [leAt hd 0xF 1]
  | 2 => [leAt hd 0xF 1, leAt hd 0x10 1]
  | _ => []

/-- Element (l, k) of a tile with the event of its scale, side values at their positions (R54, R56, R134). -/
def tileElem (tag : Nat) (sides : List Nat) (body : List Byte) (l k : Nat) : Val × Exc :=
  let fa := fmtOfTag tag
  let n := tileLineBytes fa.1
  match sides.findIdx? (· = k) with
  | some o => (decodeFmt .bf16 (leAt body (128 * n + tileScaleBytes fa.2 + 256 * o + 2 * l) 2), .none)
  | none =>
    let x := decodeFmt fa.1 (elemAt fa.1 ((body.drop (l * n)).take n) k)
    match fa.2 with
    | .group g => scaledElem fa.1 g ((body.drop (l * n)).take n) ((body.drop (128 * n + l * (128 / g))).take (128 / g)) k
    | .channel => if x.isNan then (x, .none) else ((mulVal x (decodeFmt .fp32 (leAt body (128 * n + 4 * l) 4))).getD x, .none)
    | _ => (x, .none)

/-- The value of element (l, k) of a weight tile. -/
def tileVal (tag : Nat) (sides : List Nat) (body : List Byte) (l k : Nat) : Val := (tileElem tag sides body l k).1

/-- Whether a T2 tile holds the reserved code (R55). -/
def tileReserved (tag : Nat) (body : List Byte) : Bool :=
  let f := (fmtOfTag tag).1
  let n := tileLineBytes f
  f = .t2 && (List.range 128).any fun l => (unpackElems .t2 ((body.drop (l * n)).take n) 128).contains 3

/-- The outlier channels of a tensor that an update of a step writes in (R113). -/
def layoutChannels (s : State) (tensor step : Nat) : List Nat :=
  match mget s.outliers tensor with
  | none => []
  | some o => match o.next with
    | some (l, eff) => if eff ≤ step + 1 then l else o.current
    | none => o.current

/-- A header of a tile with its stamp, side fields and CRCs set. -/
def sealHeader (hd body : List Byte) (stamp : Nat) (sides : List Nat) : List Byte :=
  let b1 := leAt hd 1 1 % 8 + sides.length * 8
  let h := hd.take 1 ++ leBytes 1 b1 ++ (hd.take 0xC).drop 2 ++ leBytes 3 stamp ++ leBytes 1 (sides.getD 0 0)
    ++ leBytes 1 (sides.getD 1 0) ++ (hd.take 0x14).drop 0x11 ++ leBytes 4 body.length ++ leBytes 4 (crc32c body)
    ++ (hd.take 0x3C).drop 0x1C
  withCrc h

/-- New line factors, depth factors and cbar of a factored tile (R182). -/
def tileFactors (k : Scalars) (st : List Byte) (gs : List (List FV)) : List FV × List FV × FV :=
  let rs := gs.zipIdx.map fun q => rowFactor k 128 (fp32At st q.2) q.1
  let cs := (List.range 128).map fun j =>
    let sig := gs.foldl (fun acc row => FV.fma k.mode (row.getD j (FV.of 0)) (row.getD j (FV.of 0)) acc) (FV.of 0)
    FV.fma k.mode k.beta2 (fp32At st (128 + j)) (FV.mul k.mode k.ob2 (FV.div k.mode sig (FV.ofNat 128)))
  (rs, cs, FV.div k.mode (cs.foldl (FV.add k.mode) (FV.of 0)) (FV.ofNat 128))

/-- New state body and new weights of a tile by lines. -/
def optimiseTile (k : Scalars) (d : ShardDesc) (st : List Byte) (gs ws : List (List FV)) : List Byte × List FV × List (List FV) :=
  let sz := momentSize d.momentFp32
  match d.optimiser with
  | 5 =>
    let rs := ((gs.zip ws).zipIdx).map fun q => adagrad k 128 (fp32At st q.2) q.1.1 q.1.2
    (fp32Bytes (rs.map (·.1)), rs.map (·.1), rs.map (·.2))
  | 6 =>
    let f := tileFactors k st gs
    (fp32Bytes (f.1 ++ f.2.1), f.1 ++ f.2.1,
      ((gs.zip ws).zip f.1).map fun q => factoredWeights k q.2 f.2.2 f.2.1 q.1.1 q.1.2)
  | opt =>
    let rs := ((gs.zip ws).zipIdx).map fun q =>
      let line := if opt = 2 || opt = 3
        then (st.drop (q.2 * 128 * sz)).take (128 * sz) ++ (st.drop ((16384 + q.2 * 128) * sz)).take (128 * sz)
        else (st.drop (q.2 * 128 * sz)).take (128 * sz)
      optimiseRow k opt d.momentFp32 128 0 line [] (FV.of 0) q.1.1 q.1.2
    let m1 := rs.flatMap fun r => r.state.take (128 * sz)
    let m2 := rs.flatMap fun r => (r.state.drop (128 * sz)).take (if opt = 2 || opt = 3 then 128 * sz else 0)
    (m1 ++ m2, rs.flatMap (·.stateVals), rs.map (·.weights))

/-- The body of a weight tile from new weights, and what was stored (R134, R184). -/
def buildBody (tag : Nat) (m : NumMode) (seed tensor record step : Nat) (sides : List Nat) (ws : List (List Val)) :
    List Byte × List StoredRow × List (List (Nat × Exc × Bool)) :=
  let fa := fmtOfTag tag
  let u := rand seed tensor record step
  let rows := ws.zipIdx.map fun q =>
    storeWeights fa.1 fa.2 m (fun i => u (128 * q.2 + i)) (q.1.zipIdx.map fun x =>
      if sides.contains x.2 then .fin false 0 0 else x.1)
  let side := sides.zipIdx.map fun o => ws.zipIdx.map fun q =>
    storeOne .bf16 m (u (0x80000000 + 128 * o.2 + q.2)) (q.1.getD o.1 (.fin false 0 0))
  (rows.flatMap (fun r => packElems fa.1 r.codes) ++ rows.flatMap (fun r => r.scales.map byteOf)
    ++ side.flatMap (fun c => c.flatMap fun x => leBytes 2 x.1), rows, side)

/-- The side value of an entering channel: rounded into BF16; one beyond its range saturates and is counted (R113). -/
def enterSide (m : NumMode) (v : Val) : Nat × Exc :=
  let r := convert m .rne .fp32 .bf16 v
  match v, decodeFmt .bf16 r.1 with
  | .fin n _ _, .inf _ => (satCode .bf16 n, .saturation)
  | _, _ => r

/-- A tensor without outlier channels. -/
def noOutliers : Outliers := ⟨[], none, none, [], 0, false, [], []⟩

/-- The channel maxima of a tensor raised by weights as stored (R111). -/
def raiseChannels (s : State) (tensor depth : Nat) (ws : List (List Val)) : State :=
  let upd := fun (m : List (Nat × Nat)) (row : List Val) => row.zipIdx.foldl (fun m q =>
    let k := depth * 128 + q.2
    let old := (mget m k).getD 0
    if (decodeFmt .fp32 old).lt q.1.abs then mput m k (into .fp32 .strict .rne q.1.abs).1 else m) m
  let o := (mget s.outliers tensor).getD noOutliers
  { s with outliers := mput s.outliers tensor { o with stats := ws.foldl upd o.stats } }

/-- The events of the valid elements of a tile, each element once (R269). -/
def tileEvents (opt lines depth : Nat) (stateVals : List FV) (ws : List (List FV)) : List Exc :=
  (List.range lines).flatMap fun l =>
    let row := (ws.getD l []).take depth
    let part := fun (at' : Nat) => ((stateVals.drop at').take 128).take depth
    let two := opt = 2 || opt = 3
    elemEvents (if opt = 5 || opt = 6 then [] else if two then part (256 * l) ++ part (256 * l + 128) else part (128 * l)) row

/-- A tile rewritten by its reduced gradient. -/
def updateTile (s : State) (d : ShardDesc) (i : Nat) (t : PendTile) (p : Params) : State :=
  let wa := d.weightBase + i * d.weightStride
  let sa := d.stateBase + i * d.stateStride
  let unit := memOf s.part wa
  let wt := tileBytes s wa
  let stt := tileBytes s sa
  let step := t.hdr.step
  let k := scalars p step
  let lines := leAt wt 2 1
  let depth := leAt wt 3 1
  let sides := sideIndices wt
  let body := wt.drop 64
  let p0 := preScale s d.tensor
  let new := (layoutChannels s d.tensor step).filterMap fun c => if c / 128 = t.depth then some (c % 128) else none
  let relaid := fun (l kk : Nat) =>
    let v := tileVal d.tag sides body l kk
    if new.contains kk && !sides.contains kk then enterSide k.mode v else (0, .none)
  let entered := (List.range lines).flatMap fun l => (List.range depth).map fun kk => (relaid l kk).2
  let oldVals := (List.range lines).map fun l => (List.range depth).map fun kk =>
    if new.contains kk && !sides.contains kk then decodeFmt .bf16 (relaid l kk).1 else tileVal d.tag sides body l kk
  let gs := (List.range 128).map fun l => (List.range 128).map fun kk =>
    if l < lines && kk < depth then gradIn k p0 (t.elems.getD (128 * l + kk) 0) else FV.of 0
  let ws := (List.range 128).map fun l => asFV ((List.range 128).map fun kk => (oldVals.getD l []).getD kk (.fin false 0 0))
  let out := optimiseTile k d (stt.drop 64) gs ws
  let sub := t.line * 65536 + t.depth + 16
  let key := statKey d.tensor unit sub
  let valid := (out.2.2.take lines).map fun r => r.take depth
  let ev := tileEvents d.optimiser lines depth out.2.1 out.2.2
  if (out.2.1 ++ valid.flatten).any FV.nonFinite then
    setStat (bump s .upd unit 0x120 16 16 1) key fun x => x.skip ev
  else
    let record := t.line * 65536 + t.depth
    let vals := out.2.2.map fun r => r.map FV.val
    let b := buildBody d.tag k.mode s.twin.seed.toNat d.tensor record step new vals
    let stored := b.2.1.zipIdx.map fun q => q.1.values.zipIdx.map fun x =>
      match new.findIdx? (· = x.2) with
      | some o => decodeFmt .bf16 (((b.2.2.getD o []).getD q.2 (0, .none, false)).1)
      | none => x.1
    let vStored := (stored.take lines).map fun r => r.take depth
    let excs := ((b.2.1.take lines).map fun r => r.excs.take depth).flatten
      ++ b.2.2.flatMap (fun c => (c.take lines).map (·.2.1)) ++ entered
    let ups := (b.2.1.map (·.up)).sum + (b.2.2.flatMap fun c => c.filter (·.2.2)).length
    let stamp := step % 2 ^ 24
    let stBody := out.1
    let s1 := mark (devWrite s sa (padTo (granules (64 + stBody.length)) (sealHeader (stt.take 64) stBody stamp [] ++ stBody)))
      sa (granules (64 + stBody.length))
    let wBytes := padTo (max wt.length (granules (64 + b.1.length))) (sealHeader (wt.take 64) b.1 stamp new ++ b.1)
    let s2 := setTables s1 fun x => { x with open2 := x.open2 ++ [⟨wa, unit, true, wa, wBytes, 0, [], false⟩] }
    let s3 := setStat (mark s2 wa wBytes.length) key fun x =>
      x.measure oldVals.flatten vStored.flatten ((vals.take lines).flatMap fun r => r.take depth) ups ev excs
    raiseChannels s3 d.tensor t.depth vStored

/-- The weights of a torn tile derived again from the stored state, where its optimiser and its parameters allow (R191 rule 3). -/
def rederiveTile (s : State) (d : ShardDesc) (i : Nat) : Option State :=
  let wa := d.weightBase + i * d.weightStride
  let sa := d.stateBase + i * d.stateStride
  let unit := memOf s.part wa
  let wt := tileBytes s wa
  let stamp := leAt (devRead s sa 64) 0xC 3
  let step := stepOfStamp s stamp
  (if d.optimiser = 1 || d.optimiser = 2 || d.optimiser = 3 then paramsFor s d.tensor step else none).map fun p =>
    let k := scalars p step
    let sides := sideIndices wt
    let st := (tileBytes s sa).drop 64
    let sz := momentSize d.momentFp32
    let ws := (List.range 128).map fun l => asFV ((List.range 128).map (tileVal d.tag sides (wt.drop 64) l))
    let new := ws.zipIdx.map fun q =>
      let line := (st.drop (q.2 * 128 * sz)).take (128 * sz) ++ (st.drop ((16384 + q.2 * 128) * sz)).take (128 * sz)
      (rederive k d.optimiser d.momentFp32 128 line q.1).map FV.val
    let b := buildBody d.tag k.mode s.twin.seed.toNat d.tensor (leAt wt 8 2 * 65536 + leAt wt 0xA 2) step sides new
    let s1 := devWrite s wa (padTo wt.length (sealHeader (wt.take 64) b.1 stamp sides ++ b.1))
    post (bump s1 .upd unit 0x11C 0 10 1) .upd unit 0x0300 [wa, 3]

/-- A tile pair's two items asked of the twin together (R130, R191). -/
def requestPair (s : State) (d : ShardDesc) (i step : Nat) (byUpdate torn : Bool) : State :=
  let wa := d.weightBase + i * d.weightStride
  let sa := d.stateBase + i * d.stateStride
  requestItem (requestItem s wa (tileBytes s wa).length step byUpdate torn) sa (tileBytes s sa).length step byUpdate torn

/-- Answers of the twin to a torn pair's requests that are not in yet, and whether one was a refusal. -/
def pairWaits (s : State) (d : ShardDesc) (i : Nat) : Bool × Bool :=
  let ws := s.twin.waits.filter fun w =>
    w.torn && (w.addr = d.weightBase + i * d.weightStride || w.addr = d.stateBase + i * d.stateStride)
  (ws.any fun w => !w.refused, ws.any (·.refused))

/-- A torn tile pair brought to equal stamps by the first rule of R191 that applies. -/
def mendTile (s : State) (d : ShardDesc) (i : Nat) : Ready :=
  let wa := d.weightBase + i * d.weightStride
  let sa := d.stateBase + i * d.stateStride
  let stamp := leAt (devRead s sa 64) 0xC 3
  let w := pairWaits s d i
  if d.twinned && (s.twin.pair = .detached || s.twin.pair = .enrollingTarget) then .gone s wa
  else if d.twinned && paired s && w.1 then .wait s
  else if d.twinned && paired s && !w.2 then .wait (requestPair s d i (stepOfStamp s stamp + 1) false true)
  else
    let s := setTwin s fun x => { x with waits := x.waits.filter fun y => y.addr != wa && y.addr != sa }
    match rederiveTile s d i with
    | none => .gone (reportTorn s (memOf s.part wa) wa) wa
    | some u => .ok u (tileBytes u wa)

/-- Whether the stamps of a tile pair differ (R190). -/
def pairTorn (s : State) (d : ShardDesc) (i : Nat) : Bool :=
  d.optimiser != 0 && leAt (devRead s (d.weightBase + i * d.weightStride) 64) 0xC 3
    != leAt (devRead s (d.stateBase + i * d.stateStride) 64) 0xC 3

/-- Torn tile pairs of a shard, compared on return from device recovery (R190); the enrolment copy covers those of a module
without live twinned state. -/
def repairShard (s : State) (d : ShardDesc) : State :=
  if d.optimiser = 0 || (d.twinned && (paired s || s.twin.pair = .detached || s.twin.pair = .enrollingTarget)) then s
  else
    ((List.range d.tiles).filter (pairTorn s d)).foldl (fun t i =>
      (rederiveTile t d i).getD (reportTorn t (memOf t.part (d.weightBase + i * d.weightStride)) (d.weightBase + i * d.weightStride))) s

/-- One more tile of a step applied. -/
def countTile (s : State) (step : Nat) : State :=
  setTables s fun t => { t with tilesDone := mput t.tilesDone step ((mget t.tilesDone step).getD 0 + 1) }

/-- A tile with equal stamps rewritten by the parameter record of the step, unless it already carries the step (R255). -/
def rewriteTile (s : State) (d : ShardDesc) (i : Nat) (t : PendTile) : State :=
  let wa := d.weightBase + i * d.weightStride
  if leAt (devRead s wa 64) 0xC 3 = t.hdr.step % 2 ^ 24 then skipStep s (memOf s.part wa)
  else
    match paramsFor s d.tensor t.hdr.step with
    | none => s
    | some p => updateTile s d i t p

/-- Whether the pre-scale exponent of the open step stands for a tensor (R106, R108). -/
def pReady (s : State) (tensor : Nat) : Bool :=
  s.job.exchangesDue.isEmpty && !((mget s.scaling tensor).any fun r => r.waitP)

/-- Whether a step is a selection step (R113); the first step of a job follows no close at which to select (DEDUCED, log 109). -/
def isSelection (s : State) (step : Nat) : Bool :=
  let n := field s .mgt 0 0x204 16 16
  n != 0 && step % n = 0 && step != s.job.firstStep

/-- Whether the list of a selection step is still to be chosen for a tensor (R113). -/
def awaitsList (s : State) (tensor step : Nat) : Bool :=
  isSelection s step && ((mget s.outliers tensor).getD noOutliers).proposedStep < step + 1

/-- Whether a tile waits for a decision: the pre-scale of its step, a standing outlier hand, or the channel list of a selection
step, by whose new list the update writes (R106, R113, R114). -/
def tileHeld (s : State) (t : PendTile) : Bool :=
  !pReady s t.hdr.tensorId || (mget s.outliers t.hdr.tensorId).any (fun o => o.hand) || awaitsList s t.hdr.tensorId t.hdr.step

/-- An accepted tile applied, discarded, or kept waiting. -/
def applyTile (s : State) (t : PendTile) : State :=
  let keep := fun (n : Nat) (u : State) => setTables u fun x => { x with pendTiles := x.pendTiles ++ [{ t with unit := n }] }
  let drop := fun (u : State) => countTile u t.hdr.step
  match mget s.tables.shards t.hdr.tensorId with
  | none => drop s
  | some d =>
    match findTile s d t.line t.depth with
    | none => drop s
    | some i =>
      let wa := d.weightBase + i * d.weightStride
      let sa := d.stateBase + i * d.stateStride
      let unit := memOf s.part wa
      let s := finishOpen (startDomain s (domUpd unit)) wa
      let read := fun (a : Nat) => readItem s a (tileBytes s a).length t.hdr.step d.twinned true false
      if d.optimiser = 0 || copyless s d.twinned t.hdr.step then drop s
      else if s.tables.torn.contains wa then drop (bump s .upd unit 0x120 0 16 1)
      else if stillOpen s wa || repairHolds s wa t.hdr.step || repairHolds s sa t.hdr.step || tileHeld s t
          || (d.twinned && s.twin.pair = .enrollingTarget) then keep unit s
      else
        match scaleRead s t.hdr.tensorId t.hdr.step with
        | .wait u => keep unit u
        | .fail u _ => drop u
        | .ok _ =>
        match read wa, read sa with
        | .wait u, _ => keep unit (if (badSector s wa 64).isSome then requestPair u d i t.hdr.step true false else u)
        | _, .wait u => keep unit (if (badSector s sa 64).isSome then requestPair u d i t.hdr.step true false else u)
        | .fail u _, _ => drop u
        | _, .fail u _ => drop u
        | .ok _, .ok _ =>
          if !pairTorn s d i then drop (rewriteTile s d i t)
          else
            match mendTile s d i with
            | .wait u => keep unit u
            | .gone u _ => drop (if u.tables.torn.contains wa then bump u .upd unit 0x120 0 16 1 else u)
            | .ok u _ => drop (rewriteTile u d i t)

/-- Tiles that waited, tried again. -/
def retryTiles (s : State) : State :=
  s.tables.pendTiles.foldl applyTile (setTables s fun t => { t with pendTiles := [] })

end Sys2Proof.Machine
end

