-- ==== Sys2Proof/Machine/Operands.lean ====
section
/-! DEFINITION. The operand forms of a core: SRAM, buffers, the hand-in tray, broadcast values, and their modifiers
(R71, R90, R92, R121, R122). -/

namespace Sys2Proof.Machine

/-- Bytes of SRAM of a logical core (R121). -/
def sramBytes : Nat := 0x7800000

/-- Key of an SRAM byte of a logical core. -/
def sramAt (logical off : Nat) : Nat := logical * sramBytes + off

def sramRead (s : State) (logical off n : Nat) : List Byte := readBytes s.cores.sram (sramAt logical off) n

/-- Bytes written in SRAM; a word written whole holds again what it was written (R122). -/
def sramWrite (s : State) (logical off : Nat) (bs : List Byte) : State :=
  let a := sramAt logical off
  setCores s fun c => { c with sram := writeBytes c.sram a bs
                               badWords := c.badWords.filter fun w => !(a ≤ w && w + 8 ≤ a + bs.length) }

/-- An SRAM word as a read meets it (R122): one wrong bit of its 72 is corrected and counted; an error in more cannot be corrected. -/
def meetWord (logical : Nat) (s : State) (w : WordRead) : State :=
  if w.wrongBits = 0 then s
  else if w.wrongBits = 1 then
    setCores s fun c => { c with corrected := mput c.corrected logical ((mget c.corrected logical).getD 0 + 1) }
  else setCores s fun c => { c with badWords := insertNat c.badWords (sramAt logical (w.off / 8 * 8)) }

/-- The words of some ranges that a read meets. -/
def meetWords (s : State) (logical : Nat) (ranges : List (Nat × Nat)) (ws : List WordRead) : State :=
  (ws.filter fun w => ranges.any fun r => overlaps (w.off / 8 * 8) 8 r.1 r.2).foldl (meetWord logical) s

/-- Whether an operand starts at a multiple of 64 bytes and ends inside SRAM (R121). -/
def sramOk (off n : Nat) : Bool := off % 64 = 0 && off + n ≤ sramBytes

/-- The first word of a range that reads with an error that cannot be corrected (R122), as its SRAM offset. -/
def sramBad (s : State) (logical off n : Nat) : Option Nat :=
  (s.cores.badWords.find? fun w => w < sramAt logical (off + n) && sramAt logical off < w + 8).map
    fun w => w - sramAt logical 0

/-- A read of an SRAM range waits for transfers into it (R137). -/
def readWaits (k : Core) (off n : Nat) : Bool :=
  k.transfers.any fun t => t.kind != 2 && t.kind != 4 && overlaps off n t.t.sramOffset t.t.bytes

/-- A write of an SRAM range waits for transfers into it or out of it (R137). -/
def writeWaits (k : Core) (off n : Nat) : Bool :=
  k.transfers.any fun t => overlaps off n t.t.sramOffset t.t.bytes

/-! ### Matrix operands -/

/-- Elements of one line of a matrix operand along the reduction axis. -/
def matLine (s : State) (logical : Nat) (o : MatOperand) (f : Fmt) (k line : Nat) : List Nat :=
  unpackElems f (sramRead s logical (o.base + line * o.stride) (packedBytes f k)) k

/-- Indices that share one scale: the group size, or the whole line (R54). -/
def scaleSpan (a : Arr) : Nat :=
  match a with
  | .group g => g
  | _ => 2 ^ 32

/-- Scales of one line, one to each reduction group of 32 (R75): 1 without group scales. -/
def matScales (s : State) (logical : Nat) (o : MatOperand) (f : Fmt) (a : Arr) (k line : Nat) : List Val :=
  (List.range (k / 32)).map fun g =>
    match a with
    | .plain => .fin false 1 0
    | .channel => .fin false 1 0
    | a => decodeFmt (scaleFmt f)
        ((readByte s.cores.sram (sramAt logical (o.scaleBase + line * o.scaleStride + 32 * g / scaleSpan a))).toNat)

/-- SRAM ranges that a matrix operand of n lines names. -/
def matRanges (o : MatOperand) (f : Fmt) (a : Arr) (k n : Nat) : List (Nat × Nat) :=
  (o.base, (n - 1) * o.stride + packedBytes f k) ::
    (match a with
    | .plain => []
    | .channel => [(o.scaleBase, 4 * n)]
    | a => [(o.scaleBase, (n - 1) * o.scaleStride + (k + scaleSpan a - 1) / scaleSpan a)])

/-! ### Vector operands -/

/-- Lanes of a lane format (R88). -/
def lanesOf (f : Fmt) : Nat :=
  match f with
  | .bf16 => 256
  | .fp64 => 64
  | _ => 128

/-- Whether the vector engine has lanes of a format (R88). -/
def laneFmt (f : Fmt) : Bool :=
  match f with
  | .fp32 => true
  | .fp16 => true
  | .bf16 => true
  | .fp64 => true
  | _ => false

/-- Bytes of one row of lanes. -/
def rowBytes (f : Fmt) : Nat := lanesOf f * (fmtBits f / 8)

/-- Whether the load path widens an element format with its scales into a lane format (R93): exactly, where it has no scale, and into
FP32 with one. A format that a lane format does not hold has no way into its lanes (DEDUCED, log 95). -/
def widensInto (lane f : Fmt) (a : Arr) : Bool :=
  if lane = f then a = .plain
  else
    match lane, a with
    | _, .page => false
    | .fp32, _ => f != .fp64
    | .bf16, .channel => false
    | .fp16, .channel => false
    | .bf16, _ => narrowFmt f || f = .e8m0
    | .fp16, _ => narrowFmt f
    | _, _ => false

/-- A value on its way into a lane (R93): kept where the lane holds it, else rounded under the command (R62), a range exceeded under
its mode. Subnormals stay, for the operation that reads them to judge (R68). -/
def widen (c : Ctl) (v : Val) : Val × Exc :=
  match v with
  | .fin _ _ _ =>
    let dir := dirOf c.mode c.rounding
    let r := into c.lane .strict dir v
    let r := if r.2 = .overflow then into c.lane c.mode dir v else r
    (decodeFmt c.lane r.1, r.2)
  | v => (v, .none)

/-- Element e of the tray head in row-major order: the held value, or the free value of an element that the device
discarded (R72, DESIGN CHOICE, log 7). -/
def trayElem (t : Tile) (e : Nat) : Val :=
  match t.elems[e / 128]? with
  | none => decodeFmt .fp32 (Config.freeNat (t.free + e) % 2 ^ 32)
  | some row =>
    match row[e % 128]? with
    | none => decodeFmt .fp32 (Config.freeNat (t.free + e) % 2 ^ 32)
    | some c => decodeFmt .fp32 c

/-- Whether element e of the tray head lies in its valid region. -/
def trayValid (t : Tile) (e : Nat) : Bool := (t.elems[e / 128]?.bind (·[e % 128]?)).isSome

/-- An element of a shifted tile as a plain format reads it: times 2^sh, the largest finite value of its sign beyond the range of the
lane (R82). -/
def unshift (lane : Fmt) (sh : Nat) (v : Val) : Val × Exc :=
  let w := scaleVal v sh
  match floatSpec lane, w with
  | some sp, .fin n _ _ =>
    let top := decodeFmt lane sp.maxCode
    if sh != 0 && top.lt w.abs then (decodeFmt lane ((if n then 2 ^ sp.signBit else 0) + sp.maxCode), .saturation) else (w, .none)
  | _, _ => (w, .none)

/-- The lanes of an operand before its modifiers. sh is the shift of the tray head that the destination does not fold
(R82). -/
def srcLanes (s : State) (logical : Nat) (k : Core) (c : Ctl) (sh : Nat) (src : VecSrc) : List (Val × Exc) :=
  let lane := c.lane
  let n := lanesOf lane
  match src with
  | .buffer b row =>
    (unpackElems lane (readBytes k.buffers (b * 65536 + row * rowBytes lane) (rowBytes lane)) n).map
      fun x => (decodeFmt lane x, .none)
  | .tray row =>
    match k.tray with
    | [] => []
    | t :: _ => (List.range n).map fun l => unshift .fp32 sh (trayElem t (n * row + l))
  | .broadcast x => List.replicate n (decodeFmt lane x, .none)
  | .sram off tag so =>
    match tagOf? tag with
    | none => []
    | some (f, a) =>
      let bs := sramRead s logical off (packedBytes f n)
      match a with
      | .plain => (unpackElems f bs n).map fun x => if f = lane then (decodeFmt f x, .none) else widen c (decodeFmt f x)
      | .channel => (List.range n).map fun l =>
          let sc := leNat (sramRead s logical (so + 4 * l) 4)
          let r := opMul { c with lane := .fp32 } (decodeFmt f (elemAt f bs l)) (decodeFmt .fp32 sc)
          (decodeFmt .fp32 r.1, r.2)
      | a =>
        let scs := sramRead s logical so ((n + scaleSpan a - 1) / scaleSpan a)
        (List.range n).map fun l =>
          let v := scaledElem f (scaleSpan a) bs scs l
          let w := widen c v.1
          (w.1, Exc.first v.2 w.2)

/-- One value for every lane, or the value at an index of each tile row of 128 elements (R90). -/
def spreadLanes (sp : Option Spread) (xs : List (Val × Exc)) : List (Val × Exc) :=
  let none' := (Val.fin false 0 0, Exc.none)
  match sp with
  | none => xs
  | some (.one i) => List.replicate xs.length (xs.getD i none')
  | some (.perRow i) => (List.range xs.length).map fun l => xs.getD (l / 128 * 128 + i) none'

/-- Broadcast, lane exchange, absolute value, negation (R90), in that order. -/
def modified (o : VecOperand) (xs : List (Val × Exc)) : List (Val × Exc) :=
  let xs := spreadLanes o.spread xs
  let ys := if o.exchange = 0 then xs else (List.range xs.length).map fun l =>
    xs.getD (l ^^^ o.exchange) (.fin false 0 0, .none)
  ys.map fun p =>
    let v := if o.abs then p.1.abs else p.1
    (if o.neg then v.neg else v, p.2)

/-- Whether the modifiers exist: lane exchange is one of the FP32 lanes, which also run FP16; a broadcast names a lane (R88, R90). -/
def modifiersOk (lane : Fmt) (o : VecOperand) : Bool :=
  (o.exchange = 0 || ((lane = .fp32 || lane = .fp16) && [1, 2, 4, 8, 16, 32, 64].contains o.exchange))
    && o.spread.all fun sp => match sp with
      | .one i => i < lanesOf lane
      | .perRow i => i < min 128 (lanesOf lane)

/-- Bytes of scales of a row of lanes. -/
def scaleBytesOf (a : Arr) (n : Nat) : Nat :=
  match a with
  | .plain => 0
  | .channel => 4 * n
  | a => (n + scaleSpan a - 1) / scaleSpan a

/-- Whether an operand names nothing outside its unit and its format (R48, R92, R93, R121). -/
def srcOk (k : Core) (lane : Fmt) (src : VecSrc) : Bool :=
  let n := lanesOf lane
  match src with
  | .buffer b row => b < 4 && (row + 1) * rowBytes lane ≤ 65536
  | .tray row => (row + 1) * n ≤ 16384 || k.tray.isEmpty
  | .broadcast _ => true
  | .sram off tag so =>
    match tagOf? tag with
    | none => false
    | some (f, a) => widensInto lane f a && sramOk off (packedBytes f n) && so + scaleBytesOf a n ≤ sramBytes

/-- SRAM ranges of an operand: its elements and its scales. -/
def srcRanges (lane : Fmt) (src : VecSrc) : List (Nat × Nat) :=
  match src with
  | .sram off tag so =>
    match tagOf? tag with
    | none => []
    | some (f, a) => (off, packedBytes f (lanesOf lane)) :: (if a = .plain then [] else [(so, scaleBytesOf a (lanesOf lane))])
  | _ => []

/-- Whether a source holds the reserved T2 code (R55). -/
def srcReserved (s : State) (logical : Nat) (lane : Fmt) (src : VecSrc) : Bool :=
  match src with
  | .sram off tag _ =>
    match tagOf? tag with
    | some (.t2, _) => (unpackElems .t2 (sramRead s logical off (packedBytes .t2 (lanesOf lane))) (lanesOf lane)).contains 3
    | _ => false
  | _ => false

def isTray (src : VecSrc) : Bool :=
  match src with
  | .tray _ => true
  | _ => false

end Sys2Proof.Machine
end

