-- ==== Sys2Proof/Machine/Matrix.lean ====
section
/-! DEFINITION. Matrix passes, the accumulators and the hand-in tray (R69, R71 to R87). -/

namespace Sys2Proof.Machine

/-! ### Programs on cores -/

/-- Logical cores whose core runs a command. -/
def coresOf (s : State) (c : HostCmd) : List (Nat × Nat) :=
  (sortBy (·.1) (s.cores.seats.filterMap fun e => match e.2 with
    | .seated n => some (n, e.1)
    | _ => none)).filter fun e => (coreAt s e.2).command = some c

/-- The end of a program on its cores: contributions committed, cores released (R368). -/
def endProgram (s : State) (c : HostCmd) : State :=
  (coresOf s c).foldl (fun t e =>
    let u := commitCore t e.1 e.2
    setCore u e.2 { coreAt u e.2 with command := none, vecWait := none, meWait := false }) s

/-- A program that fails: the command that runs on the core completes with a status; nothing without one. -/
def failProgram (s : State) (phys status d0 d1 : Nat) : State :=
  match (coreAt s phys).command with
  | none => s
  | some c => finish (endProgram s c) c status d0 d1

/-- An operation of a core's program: on the seated physical core, once it holds a hall pass; without one it asks for it
and waits (R339). -/
def onCore (s : State) (logical : Nat) (act : State → Nat → State) : State :=
  match physOf s logical with
  | none => s
  | some p =>
    if s.pwr.passes.contains p then act s p
    else requestPass s p

/-- SRAM uncorrectable (R122, R297). -/
def failSram (s : State) (logical phys off : Nat) : State :=
  failProgram s phys 0x23 off (logical + s.twin.number * 2 ^ 16)

/-! ### Operand pairs (R73) -/

/-- Cycles per reduction index in sixteenths of a cycle in FAST, or none for a pair the engine refuses; the flag says
that the pair sums in exact groups. -/
def pairRate (a b : Fmt) : Option (Nat × Bool) :=
  let fp8 := fun (f : Fmt) => f = .e4m3 || f = .e5m2
  let either := fun (p q : Fmt → Bool) => (p a && q b) || (p b && q a)
  if either (· = .fp4) (· = .fp4) || either (· = .int4) (· = .int4)
    || either (· = .t2) (fun f => f = .fp4 || fp8 f) then some (8, true)
  else if either fp8 (fun f => fp8 f || f = .fp4) || either (· = .int8) (fun f => f = .int8 || f = .int4) then
    some (16, true)
  else if either (· = .bf16) (· = .bf16) || either (· = .fp16) (· = .fp16) then some (32, false)
  else if either (· = .fp32) (· = .fp32) then some (256, false)
  else none

/-- Whether the mode is listed for the pair (R73). -/
def pairMode (a b : Fmt) (m : NumMode) : Bool :=
  match m with
  | .strict => true
  | .fast => a != .fp32
  | .legacy => a = .bf16 && b = .bf16

/-- X of R79 in cycles. -/
def fillCycles (rate k : Nat) (m : NumMode) : Nat :=
  match m with
  | .fast => rate * k / 16
  | .strict => 16 * k
  | .legacy => 32 * k

/-! ### One output element (R75) -/

/-- The accumulator of an element: its FP32 code, its event, whether a rounding overflowed (R81), and where its first
invalid product lies: in the side pass or not, and the group or side ordinal (R84). -/
structure ElemAcc where
  code : Nat
  exc : Exc
  ovf : Bool
  first : Option (Bool × Nat)
  deriving DecidableEq, Repr

/-- An event of the element with its place. -/
def ElemAcc.note (e : ElemAcc) (code : Nat) (x : Exc) (place : Option (Bool × Nat)) : ElemAcc :=
  { e with code := code, exc := Exc.first e.exc x
           first := if x = .invalid && e.first.isNone then place else e.first }

/-- An exact value rounded into the accumulator; a finite value beyond FP32 is an accumulator overflow (R81). -/
def ElemAcc.round (c : Ctl) (e : ElemAcc) (v : Val) (place : Option (Bool × Nat)) : ElemAcc :=
  let r := into .fp32 c.mode (dirOf c.mode c.rounding) v
  { e.note r.1 r.2 place with ovf := e.ovf || (v.isFinite && (r.2 = .overflow || r.2 = .saturation)) }

/-- The accumulator plus a term times 2^-sh, the operands for the NaN rules given in their order. R65 orders the operands of a × b + c;
the accumulator of a pass counts as its c, behind the products, in every mode (DESIGN CHOICE, log 92). -/
def ElemAcc.add (c : Ctl) (sh : Nat) (e : ElemAcc) (ops : List Val) (term : Option Val) (place : Option (Bool × Nat)) :
    ElemAcc :=
  match nanResult c ops with
  | some r => e.note r.1 r.2 place
  | none =>
    match term.bind fun t => addVal (dirOf c.mode c.rounding) (decodeFmt .fp32 e.code) (scaleVal t (-(sh : Int))) with
    | none => let r := invalidResult .fp32; e.note r.1 r.2 place
    | some v => e.round c v place

/-- Whether a product is zero times infinity. -/
def badProduct (p : Val × Val) : Bool := !p.1.isNan && !p.2.isNan && (mulVal p.1 p.2).isNone

/-- The sum of one reduction group, its products in ascending k, with the special values of R75. -/
def groupSum (c : Ctl) (ps : List (Val × Val)) : Val × Exc :=
  let ops := ps.flatMap fun p => [p.1, p.2]
  let nans := ops.filter Val.isNan
  let bad := ps.any badProduct
  let inv : Val × Exc := (.nan false (2 ^ 51), .invalid)
  match nans with
  | v :: vs => (v, if bad || (c.mode = .strict && (v :: vs).any Val.signalling) then .invalid else .none)
  | [] =>
    if bad then inv
    else
      match ps.foldl (fun (acc : Option Val) p => acc.bind fun a => (mulVal p.1 p.2).bind fun q => addVal .rne a q)
          (some (.fin false 0 0)) with
      | none => inv
      | some v => (v, .none)

/-- One term of a group: sum times scales, into the accumulator, which is the last operand (DESIGN CHOICE, log 92). A NaN scale is
invalid (R54). -/
def ElemAcc.addGroup (c : Ctl) (sh : Nat) (e : ElemAcc) (g : Nat) (ps : List (Val × Val)) (sa sb : Val) : ElemAcc :=
  let place := some (false, g)
  let s := groupSum c ps
  if sa.isNan || sb.isNan then
    let r := invalidResult .fp32
    e.note r.1 .invalid place
  else
    let term := if s.1.isNan then some s.1 else (mulVal s.1 sa).bind fun t => mulVal t sb
    let e' := e.add c sh [s.1, decodeFmt .fp32 e.code] term place
    if s.2 = .none then e' else e'.note e'.code s.2 place

/-- One term of a term-by-term or side pass: a × b, then the accumulator (R65; DESIGN CHOICE, log 92). -/
def ElemAcc.addTerm (c : Ctl) (sh : Nat) (e : ElemAcc) (a b : Val) (place : Bool × Nat) : ElemAcc :=
  e.add c sh [a, b, decodeFmt .fp32 e.code] (mulVal a b) (some place)

/-- A LEGACY chunk of 16 products (R69); the accumulator holds the operand position after them (R70, DESIGN CHOICE, log 92). -/
def ElemAcc.addChunk (e : ElemAcc) (g : Nat) (ps : List (Val × Val)) : ElemAcc :=
  let c : Ctl := ⟨.legacy, .rne, .fp32⟩
  let rd := ps.map fun p => (readVal .legacy .bf16 p.1, readVal .legacy .bf16 p.2)
  let fl := if rd.any fun p => p.1.2 || p.2.2 then Exc.underflow else .none
  let vs := rd.map fun p => (p.1.1, p.2.1)
  let ops := (vs.flatMap fun p => [p.1, p.2]) ++ [decodeFmt .fp32 e.code]
  let bad := vs.any badProduct
  let s := groupSum c vs
  let e1 := e.add c 0 ops (if bad || s.2 = .invalid then none else some s.1) (some (false, g))
  e1.note e1.code fl none

/-! ### One tile -/

/-- What a fill reads for one output element. -/
structure ElemIn where
  init : Option Nat
  a : List Val
  b : List Val
  sa : List Val
  sb : List Val
  side : List Val
  chan : Option Nat
  deriving DecidableEq, Repr

/-- The initial value times 2^-sh, rounded (R75). -/
def initAcc (c : Ctl) (sh : Nat) (init : Option Nat) : ElemAcc :=
  match init with
  | none => ⟨0, .none, false, none⟩
  | some code =>
    let v := decodeFmt .fp32 code
    match nanResult c [v] with
    | some r => (⟨0, .none, false, none⟩ : ElemAcc).note r.1 r.2 none
    | none =>
      let rd := readVal c.mode .fp32 v
      let e := (⟨0, .none, false, none⟩ : ElemAcc).round c (scaleVal rd.1 (-(sh : Int))) none
      if rd.2 then e.note e.code .underflow none else e

/-- The output-channel scale applied (R76). As an FP32 operand of an FP32 product a subnormal scale is flushed where the mode flushes
(R68, DEDUCED, log 93). -/
def scaleChannel (c : Ctl) (e : ElemAcc) (sj : Nat) : ElemAcc :=
  let v := decodeFmt .fp32 e.code
  match nanResult c [v, decodeFmt .fp32 sj] with
  | some r => e.note r.1 r.2 none
  | none =>
    let q := readVal c.mode .fp32 (decodeFmt .fp32 sj)
    match mulVal v q.1 with
    | none => let r := invalidResult .fp32; e.note r.1 r.2 none
    | some w =>
      let e' := e.round c w none
      if q.2 then e'.note e'.code .underflow none else e'

/-- A pass with the outlier channels of the list in effect for the step of its command, counted from its first index (R77, R111). -/
structure PassIn extends MatPass where
  outliers : List Nat
  deriving DecidableEq, Repr

/-- The reduction of one element with output shift sh (R75). -/
def reduceElem (p : PassIn) (grouped : Bool) (sh : Nat) (x : ElemIn) : ElemAcc :=
  let c : Ctl := ⟨p.mode, p.rounding, .fp32⟩
  let e0 := initAcc c sh x.init
  if p.mode = .legacy then
    (chunksOf 16 x.a.length (x.a.zip x.b)).zipIdx.foldl (fun e q => e.addChunk (q.2 / 2) q.1) e0
  else
    let e1 := if grouped then
        (chunksOf 32 x.a.length ((x.a.zip x.b).zipIdx)).zipIdx.foldl (fun e q =>
          let ps := (q.1.filter fun t => !p.outliers.contains t.2).map (·.1)
          e.addGroup c sh q.2 ps (x.sa.getD q.2 (.fin false 1 0)) (x.sb.getD q.2 (.fin false 1 0))) e0
      else (x.a.zip x.b).zipIdx.foldl (fun e q => e.addTerm c sh q.1.1 q.1.2 (false, q.2 / 32)) e0
    let e2 := p.outliers.zipIdx.foldl (fun e q =>
      let sc := x.sa.getD (q.1 / 32) (.fin false 1 0)
      let place := (true, q.2)
      if sc.isNan then let r := invalidResult .fp32; e.note r.1 r.2 (some place)
      else
        let av := x.a.getD q.1 (.fin false 0 0)
        e.addTerm c sh (if av.isNan then av else (mulVal av sc).getD av) (x.side.getD q.2 (.fin false 0 0)) place) e1
    match x.chan with
    | none => e2
    | some sj => scaleChannel c e2 sj

/-- Operands of a pass as its lines stand in SRAM. -/
def passInputs (s : State) (logical : Nat) (p : PassIn) (fa : Fmt) (aa : Arr) (fb : Fmt) (ab : Arr) :
    List (List ElemIn) :=
  let dec := fun (f : Fmt) (cs : List Nat) => cs.map (decodeFmt f)
  let rowsA := (List.range p.rows).map fun i =>
    (dec fa (matLine s logical p.a fa p.k i), matScales s logical p.a fa aa p.k i)
  let colsB := (List.range p.cols).map fun j =>
    (dec fb (matLine s logical p.b fb p.k j), matScales s logical p.b fb ab p.k j,
     p.outliers.zipIdx.map (fun q => decodeFmt .bf16 (leNat (sramRead s logical (p.sideBase + 256 * q.2 + 2 * j) 2))),
     if ab = .channel then some (leNat (sramRead s logical (p.b.scaleBase + 4 * j) 4)) else none)
  rowsA.zipIdx.map fun ra => colsB.zipIdx.map fun cb =>
    { init := p.accIn.map fun base => leNat (sramRead s logical (base + 512 * ra.2 + 4 * cb.2) 4)
      a := ra.1.1, sa := ra.1.2, b := cb.1.1, sb := cb.1.2.1, side := cb.1.2.2.1, chan := cb.1.2.2.2 }

/-- The tile of a pass with its final shift and its replays (R81). -/
def fillTile (p : PassIn) (grouped : Bool) (xs : List (List ElemIn)) : List (List ElemAcc) × Nat × Nat :=
  let run := fun (sh : Nat) => xs.map fun r => r.map (reduceElem p grouped sh)
  let ovfl := fun (t : List (List ElemAcc)) => t.any fun r => r.any (·.ovf)
  let t0 := run 0
  if p.mode = .legacy || !ovfl t0 then (t0, 0, 0)
  else
    let t1 := run 32
    if ovfl t1 then (run 64, 64, 2) else (t1, 32, 1)

/-- Order of first invalid products: group or side ordinal, row, column; the side pass after every group (R84). -/
def firstKey (f : FirstInvalid) : Nat :=
  ((b2n f.side * 2 ^ 16 + f.group) * 128 + f.row) * 128 + f.col

/-- The first invalid product of a tile (R84). -/
def tileFirst (p : PassIn) (tag logical : Nat) (t : List (List ElemAcc)) : Option FirstInvalid :=
  (sortBy firstKey (t.zipIdx.flatMap fun r => r.1.zipIdx.filterMap fun e => e.1.first.map fun q =>
    ⟨tag, p.tileRow, p.tileCol, r.2, e.2, q.1, q.2, logical⟩)).head?

/-! ### MATRIX_PASS -/

/-- The formats that LEGACY accepts for operands and results (R59). -/
def legacyTag (t : Nat) : Bool := t = 1 || t = 3

/-- Whether values may be stored under a format tag: no reserved one, no page scales, not E8M0, and in LEGACY BF16 or FP32 (R48, R53,
R59). -/
def storeTagOk (m : NumMode) (tag : Nat) : Bool :=
  (m != .legacy || legacyTag tag) && match tagOf? tag with
    | none => false
    | some (f, a) => f != .e8m0 && a != .page

/-- Whether a pass keeps the ranges of R48, R53, R59, R72, R73, R77 and R121. -/
def passOk (p : PassIn) : Bool :=
  match tagOf? p.a.tag, tagOf? p.b.tag with
  | some (fa, aa), some (fb, ab) =>
    aa != .page && ab != .page && storeTagOk p.mode p.outFormat && p.k % 32 = 0 && 32 ≤ p.k && p.k ≤ 1048576 && 1 ≤ p.rows && p.rows ≤ 128 && 1 ≤ p.cols && p.cols ≤ 128
      && (match pairRate fa fb with
        | none => false
        | some (_, grouped) => pairMode fa fb p.mode
            && (p.outliers.isEmpty || (grouped && p.mode != .legacy)))
      && strictlyRising p.outliers && p.outliers.length ≤ p.k / 64 && p.outliers.all (· < p.k)
      && (p.rounding = .rne || p.mode = .strict)
      && (matRanges p.a fa aa p.k p.rows ++ matRanges p.b fb ab p.k p.cols
          ++ (p.accIn.toList.map fun b => (b, 65536))
          ++ (if p.outliers.isEmpty then [] else [(p.sideBase, 256 * p.outliers.length)])).all fun r => sramOk r.1 r.2
  | _, _ => false

/-- SRAM ranges that a pass reads. -/
def passRanges (p : PassIn) : List (Nat × Nat) :=
  match tagOf? p.a.tag, tagOf? p.b.tag with
  | some (fa, aa), some (fb, ab) =>
    matRanges p.a fa aa p.k p.rows ++ matRanges p.b fb ab p.k p.cols ++ (p.accIn.toList.map fun b => (b, 65536))
      ++ (if p.outliers.isEmpty then [] else [(p.sideBase, 256 * p.outliers.length)])
  | _, _ => []

/-- Whether a T2 operand of the pass holds the reserved code (R55). At an outlier channel the main tensor of the right operand may hold
any code (R77). -/
def passReserved (s : State) (logical : Nat) (p : PassIn) (fa fb : Fmt) : Bool :=
  let held := fun (cs : List Nat) => cs.zipIdx.any fun q => q.1 = 3 && !p.outliers.contains q.2
  (fa = .t2 && (List.range p.rows).any fun i => (matLine s logical p.a .t2 p.k i).contains 3)
    || (fb = .t2 && (List.range p.cols).any fun j => held (matLine s logical p.b .t2 p.k j))

/-- A stall: both accumulators hold closed tiles (R87). The cycles are a free value (DESIGN CHOICE, log 7). -/
def stallMatrix (s : State) (phys : Nat) : State :=
  let d := drawFree s
  bump d.1 .coreP phys 0x110 0 32 d.2

/-- A wait of an operation on a transfer; the cycles are a free value (R137, DESIGN CHOICE, log 7). -/
def waitStream (s : State) (phys : Nat) : State :=
  let d := drawFree s
  bump d.1 .coreP phys 0x120 0 32 d.2

/-- The tile of a pass closed in its accumulator. -/
def closePass (s : State) (logical phys : Nat) (p : PassIn) (fa : Fmt) (aa : Arr) (fb : Fmt) (ab : Arr) (rate : Nat)
    (grouped : Bool) : State :=
  let k := coreAt s phys
  let useA := k.lastB
  let f := fillTile p grouped (passInputs s logical p fa aa fb ab)
  let d := drawFree s
  let tag := ((k.command.map (·.slot.requestId)).getD 0) % 2 ^ 32
  let cyc := if f.2.2 = 0 then fillCycles rate p.k p.mode + 2 * p.outliers.length else d.2
  let t : Tile :=
    { elems := f.1.map fun r => r.map (·.code), free := d.1.freeCtr, commandTag := tag
      tileRow := p.tileRow % 65536, tileCol := p.tileCol % 65536, mode := p.mode, channelScaled := ab = .channel
      sidePass := !p.outliers.isEmpty, accumulator := b2n (!useA), shift := f.2.1, replay := f.2.2
      outFormat := p.outFormat % 256, counts := countsOf (f.1.flatMap fun r => r.map (·.exc))
      first := tileFirst p tag logical f.1, cycles := satN 32 cyc, tensorId := p.tensorId % 65536 }
  let s1 := { d.1 with freeCtr := d.1.freeCtr + 16384 }
  let s2 := setCore s1 phys { k with accA := if useA then some t else k.accA, accB := if useA then k.accB else some t
                                     lastB := !useA, meWait := false }
  let s3 := progress (bump64 s2 .coreP phys 0x108 cyc) .coreP phys 1
  if f.2.2 = 1 then bump s3 .coreP phys 0x114 0 16 1
  else if f.2.2 = 2 then bump s3 .coreP phys 0x114 16 16 1 else s3

/-- An issued pass that the matrix engine holds while it waits (R97). -/
def holdPass (s : State) (phys : Nat) : State := setCore s phys { coreAt s phys with meWait := true }

/-- The outlier channels of a tensor in effect for a step (R111, R113). -/
def channelsFor (s : State) (tensor step : Nat) : List Nat :=
  match mget s.outliers tensor with
  | none => []
  | some o => match o.next with
    | some (l, eff) => if eff ≤ step then l else o.current
    | none => o.current

/-- A pass with its outlier channels: those of its weights' list between its first reduction index and its end (R77, R111). -/
def passIn (s : State) (phys : Nat) (m : MatPass) : PassIn :=
  { m with outliers := match m.weights with
      | none => []
      | some (t, first) => (channelsFor s t (coreStep s phys)).filterMap fun c =>
          if first ≤ c && c < first + m.k then some (c - first) else none }

/-- MATRIX_PASS. -/
def execMatrixPass (core : Nat) (m : MatPass) (s : State) : Host.Outcome State Fault Refusal :=
  .next (onCore s core fun s phys =>
    let k := coreAt s phys
    let p := passIn s phys m
    match tagOf? p.a.tag, tagOf? p.b.tag, passOk p with
    | some (fa, aa), some (fb, ab), true =>
      if (passRanges p).any fun r => readWaits k r.1 r.2 then waitStream (holdPass s phys) phys
      else if (if k.lastB then k.accA else k.accB).isSome then
        (if k.accA.isSome && k.accB.isSome then stallMatrix (holdPass s phys) phys else holdPass s phys)
      else
        let s := meetWords s core (passRanges p) p.words
        match (passRanges p).findSome? fun r => sramBad s core r.1 r.2 with
        | some off => failSram s core phys off
        | none =>
          if passReserved s core p fa fb then failProgram s phys 0x12 condition 0
          else
            match pairRate fa fb with
            | none => failProgram s phys 0x12 condition 0
            | some (rate, grouped) => closePass s core phys p fa aa fb ab rate grouped
    | _, _, _ => failProgram s phys 0x12 condition 0)

/-! ### The tray (R79, R80, R86) -/

/-- TILE_COPY: the older closed tile enters the tray once an entry is free (R79, R87). -/
def execTileCopy (core : Nat) (s : State) : Host.Outcome State Fault Refusal :=
  .next (onCore s core fun s phys =>
    let k := coreAt s phys
    if k.tray.length ≥ 4 then s
    else
      let fromA := k.accA.isSome && (k.lastB || k.accB.isNone)
      match (if fromA then k.accA else k.accB) with
      | none => s
      | some t =>
        bump64 (setCore s phys { k with tray := k.tray ++ [t], accA := if fromA then none else k.accA
                                        accB := if fromA then k.accB else none }) .coreP phys 0x118 1)

/-- The tray head released: its summary goes to the gradebook (R86, R270). -/
def releaseTray (s : State) (phys : Nat) : State :=
  let k := coreAt s phys
  match k.tray with
  | [] => s
  | t :: rest =>
    noteCore (setCore s phys { k with tray := rest }) phys t.tensorId
      { GradeRec.zero with counts := t.counts, first := t.first, replayFirst := b2n (t.replay = 1)
                           replaySecond := b2n (t.replay = 2) }

/-- TRAY_RELEASE: with an empty tray there is nothing to free. -/
def execTrayRelease (core : Nat) (s : State) : Host.Outcome State Fault Refusal :=
  .next (onCore s core fun s phys => releaseTray s phys)

end Sys2Proof.Machine
end

