-- ==== Sys2Proof/Machine/Vector.lean ====
section
/-! DEFINITION. The vector engine, its store-path converter, and the special-function unit (R67, R82, R88 to R95). -/

namespace Sys2Proof.Machine

/-- A comparison of two values (R67): NaN is unequal to everything. -/
def cmpLanes (c : Ctl) (want : Val → Val → Bool) (nan : Bool) (a b : Val) : Bool × Exc :=
  if a.isNan || b.isNan then (nan, cmpExc c a b)
  else
    let x := readVal c.mode c.lane a
    let y := readVal c.mode c.lane b
    (want x.1 y.1, if x.2 || y.2 then .underflow else .none)

/-- Number of operands of an operation. -/
def fnArity (f : VecFn) : Nat :=
  match f with
  | .pass => 1
  | .fma => 3
  | _ => 2

/-- The mask register an operation names. -/
def fnMask (f : VecFn) : Option Nat :=
  match f with
  | .select m => some m
  | .cmpEq m => some m
  | .cmpNe m => some m
  | .cmpLt m => some m
  | .cmpGt m => some m
  | _ => none

/-- Whether an operation compares. -/
def isCompare (f : VecFn) : Bool :=
  match f with
  | .cmpEq _ => true
  | .cmpNe _ => true
  | .cmpLt _ => true
  | .cmpGt _ => true
  | _ => false

/-- One lane of an operation that writes a value: its value, code in the lane format, and event (R88). -/
def laneOp (c : Ctl) (f : VecFn) (maskBit : Bool) (xs : List Val) : Nat × Exc :=
  match f, xs with
  | .add, [a, b] => opAdd c a b
  | .mul, [a, b] => opMul c a b
  | .fma, [a, b, d] => opFma c a b d
  | .min, [a, b] => opMinMax c false a b
  | .max, [a, b] => opMinMax c true a b
  | .select _, [a, b] => (exactCode c.lane (if maskBit then a else b), .none)
  | .pass, [a] => (exactCode c.lane a, .none)
  | _, _ => (0, .none)

/-- One lane of a comparison. -/
def laneCmp (c : Ctl) (f : VecFn) (xs : List Val) : Bool × Exc :=
  match f, xs with
  | .cmpEq _, [a, b] => cmpLanes c (fun x y => !x.lt y && !y.lt x) false a b
  | .cmpNe _, [a, b] => cmpLanes c (fun x y => x.lt y || y.lt x) true a b
  | .cmpLt _, [a, b] => cmpLanes c (fun x y => x.lt y) false a b
  | .cmpGt _, [a, b] => cmpLanes c (fun x y => y.lt x) false a b
  | _, _ => (false, .none)

/-- A pass-through of a shifted tile into a plain format saturates in every mode (R82). -/
def clampShift (sh : Nat) (f : Fmt) (r : Nat × Exc) : Nat × Exc :=
  match floatSpec f with
  | none => r
  | some sp => if sh != 0 && r.2 = .overflow then (r.1 / 2 ^ sp.signBit * 2 ^ sp.signBit + sp.maxCode, .saturation) else r

/-- Whether a destination folds the shift of a tile: E8M0 group scales (R82). -/
def foldsShift (d : VecDst) : Bool :=
  match d with
  | .buffer _ _ => false
  | .sram _ tag _ _ _ =>
    match tagOf? tag with
    | some (f, .group _) => f != .t2
    | some (_, .page) => true
    | _ => false

/-! ### The store-path converter (R93) -/

/-- What a converter writes: element codes, bytes of scales, one event per element, and the scale values by element. -/
structure Stored where
  elems : List Nat
  scales : List Byte
  excs : List Exc
  values : List Val
  deriving DecidableEq, Repr

/-- One group under the recipe of its format (R101 to R103). -/
def storeGroup (c : Ctl) (f : Fmt) (fold : Int) (xs : List Val) : Stored :=
  if f = .t2 then
    let r := t2Convert c xs
    ⟨r.2.map (·.1), [byteOf r.1], r.2.map (·.2),
      r.2.map fun p => (mulVal (decodeFmt .t2 p.1) (decodeFmt .e4m3 r.1)).getD (.fin false 0 0)⟩
  else
    let r := groupConvert c f fold (fun _ v => into f c.mode (dirInto c.mode c.rounding f) v) xs
    ⟨r.2.map (·.1), [byteOf r.1], r.2.map (·.2), r.2.map fun p => scaleVal (decodeFmt f p.1) ((r.1 : Int) - 127)⟩

/-- Two stores side by side. -/
def Stored.append (a b : Stored) : Stored :=
  ⟨a.elems ++ b.elems, a.scales ++ b.scales, a.excs ++ b.excs, a.values ++ b.values⟩

/-- A row of values in a tag's format and scale arrangement: amaxs are the column maxima of an output-channel store
(R104). -/
def storeRow (c : Ctl) (f : Fmt) (a : Arr) (fold : Int) (amaxs xs : List Val) : Stored :=
  match a with
  | .plain =>
    let r := xs.map fun v => convert c.mode c.rounding c.lane f v
    ⟨r.map (·.1), [], r.map (·.2), r.map fun p => decodeFmt f p.1⟩
  | .channel =>
    let r := xs.zip amaxs |>.map fun p =>
      let sc := channelScales f p.2
      (channelConvert c f sc.2 p.1, sc.1)
    ⟨r.map (·.1.1), r.flatMap fun p => leBytes 4 p.2, r.map (·.1.2),
      r.map fun p => (mulVal (decodeFmt f p.1.1) (decodeFmt .fp32 p.2)).getD (.fin false 0 0)⟩
  | a => (chunksOf (scaleSpan a) xs.length xs).foldl (fun t g => t.append (storeGroup c f fold g)) ⟨[], [], [], []⟩

/-- The elements of a conversion in true units (R109): presented values times 2^(sh - p), stored ones times 2^-(p+h). -/
def trueUnits (p h : Int) (sh : Nat) (xs ys : List Val) : List (Val × Val) :=
  (xs.zip ys).map fun q => (scaleVal q.1 ((sh : Int) - p), scaleVal q.2 (-(p + h)))

/-- The largest finite magnitude of a column of lanes: over the rows of the source tile of a pass-through store, else the
value itself (R104, DEDUCED, log 30). -/
def columnMax (k : Core) (v : VecOp) (sh l : Nat) (x : Val) : Val :=
  match v.fn, v.args.map (·.src) with
  | .pass, [VecSrc.tray _] =>
    (match k.tray with
    | [] => finiteMax [x]
    | t :: _ => finiteMax (t.elems.filterMap fun r => r[l % 128]?.map fun e => (unshift .fp32 sh (decodeFmt .fp32 e)).1))
  | .pass, [VecSrc.buffer b _] =>
    finiteMax ((List.range (65536 / rowBytes v.lane)).map fun r =>
      decodeFmt v.lane (elemAt v.lane (readBytes k.buffers (b * 65536 + r * rowBytes v.lane) (rowBytes v.lane)) l))
  | _, _ => finiteMax [x]

/-! ### VECTOR_OPERATION -/

/-- SRAM ranges that a result is written to: its elements and its scales. -/
def dstRanges (lane : Fmt) (d : VecDst) : List (Nat × Nat) :=
  match d with
  | .buffer _ _ => []
  | .sram off tag _ so _ =>
    match tagOf? tag with
    | none => []
    | some (f, a) => (off, packedBytes f (lanesOf lane)) :: (if a = .plain then [] else [(so, scaleBytesOf a (lanesOf lane))])

/-- Whether an operation names units, formats and places that exist (R48, R53, R57 to R59, R88, R90, R92, R121). -/
def vecOk (k : Core) (v : VecOp) : Bool :=
  laneFmt v.lane && v.args.length = fnArity v.fn
    && (fnMask v.fn).all (· < 8)
    && v.args.all (fun o => srcOk k v.lane o.src && modifiersOk v.lane o)
    && (v.rounding = .rne || v.mode = .strict)
    && (match v.dst with
      | .buffer b row => b < 4 && (row + 1) * rowBytes v.lane ≤ 65536
      | .sram off tag _ so _ =>
        storeTagOk v.mode tag && match tagOf? tag with
        | none => false
        | some (f, a) => sramOk off (packedBytes f (lanesOf v.lane)) && so + scaleBytesOf a (lanesOf v.lane) ≤ sramBytes)
    && (v.mode != .legacy || ((v.lane = .fp32 || v.lane = .bf16)
      && v.args.all (fun o => match o.src with
        | .sram _ tag _ => legacyTag tag
        | _ => true)))

/-- What one lane of an operation yields: the value for the converter, its code in the lane format, and the events of the operation
with those of the load path, each element once (R64). -/
structure LaneOut where
  val : Val
  code : Nat
  exc : Exc
  deriving DecidableEq, Repr

/-- The result of an operation on its row. A pass-through keeps the exact value. -/
def vecLanes (s : State) (logical : Nat) (k : Core) (v : VecOp) (sh : Nat) : List LaneOut :=
  let c : Ctl := ⟨v.mode, v.rounding, v.lane⟩
  let cols := v.args.map fun o => modified o (srcLanes s logical k c sh o.src)
  let mask := (fnMask v.fn).elim [] fun m => (mget k.masks m).getD []
  (List.range (lanesOf v.lane)).map fun l =>
    let xs := cols.map fun col => col.getD l (.fin false 0 0, .none)
    let le := (xs.map (·.2)).foldl Exc.first .none
    let r := laneOp c v.fn (mask.getD l false) (xs.map (·.1))
    match v.fn, xs with
    | .pass, [x] => ⟨x.1, r.1, le⟩
    | _, _ => ⟨decodeFmt v.lane r.1, r.1, Exc.first r.2 le⟩

/-- Whether the bits of a lane are stored as they are: a result in the destination's own format, which no converter touches (R67, R93);
of a pass-through, a value that came in that format. -/
def keepsBits (v : VecOp) (f : Fmt) : Bool :=
  f = v.lane && (v.fn != .pass || f = .fp32 || v.args.all fun o => !isTray o.src)

/-- Counts that an operation adds to the head of the tray it drains (R85). -/
def addTileCounts (k : Core) (c : Counts) : Core :=
  match k.tray with
  | [] => k
  | t :: rest => { k with tray := { t with counts := t.counts.sum c } :: rest }

/-- A comparison writes its mask register (R90). -/
def runCompare (s : State) (logical phys : Nat) (v : VecOp) (sh : Nat) : State × List Exc :=
  let k := coreAt s phys
  let c : Ctl := ⟨v.mode, v.rounding, v.lane⟩
  let cols := v.args.map fun o => modified o (srcLanes s logical k c sh o.src)
  let rs := (List.range (lanesOf v.lane)).map fun l =>
    let xs := cols.map fun col => col.getD l (.fin false 0 0, .none)
    let r := laneCmp c v.fn (xs.map (·.1))
    (r.1, Exc.first r.2 ((xs.map (·.2)).foldl Exc.first .none))
  let m := (fnMask v.fn).getD 0
  (setCore s phys { k with masks := mput k.masks m (rs.map (·.1)) }, rs.map (·.2))

/-- Whether each lane holds a valid element: the valid region of the tray head where an operand is the tray (R72, R109). -/
def vecValid (k : Core) (v : VecOp) (l : Nat) : Bool :=
  v.args.all fun o => match o.src, k.tray with
    | .tray row, t :: _ => trayValid t (lanesOf v.lane * row + l)
    | _, _ => true

/-- The lanes of a list that hold valid elements. -/
def keepValid {α : Type} (k : Core) (v : VecOp) (xs : List α) : List α :=
  (xs.zipIdx.filter fun p => vecValid k v p.2).map (·.1)

/-- Events that an operation counts: in the VEC counters, and in the summary of the tile it drains (R85, R88, R98). -/
def countOp (s : State) (logical phys : Nat) (tray : Bool) (es : List Exc) : State :=
  let c := countsOf es
  countVec (if tray then setCore s phys (addTileCounts (coreAt s phys) c) else s) logical c

/-- A result on its way into a tile buffer: code and event of each lane (R88, R62). -/
def bufferLane (v : VecOp) (sh : Nat) (o : LaneOut) : Nat × Exc :=
  if keepsBits v v.lane then (o.code, o.exc)
  else
    let r := clampShift sh v.lane (into v.lane v.mode (dirInto v.mode v.rounding v.lane) o.val)
    (r.1, Exc.first r.2 o.exc)

/-- The hand-over offset of a store: what the pre-scale of the tensor adds to that of the tensor the value comes from (R105). -/
def handOver (s : State) (v : VecOp) (source : Option Nat) : Int :=
  match source with
  | none => 0
  | some t => preScale s v.tensorId - preScale s t

/-- A result stored in SRAM through the store-path converter (R82, R93, R99 to R109). Values of G and WG are in pre-scaled units:
those of the tensor they come from until the hand-over adds h. -/
def storeVec (s : State) (logical phys : Nat) (v : VecOp) (tray : Bool) (sigma sh : Nat) (ls : List LaneOut)
    (off : Nat) (fa : Fmt × Arr) (kind : Kind) (so : Nat) (source : Option Nat) : State :=
  let k := coreAt s phys
  let h := handOver s v source
  let p : Int := if preScaled kind then preScale s v.tensorId - h else 0
  let c : Ctl := ⟨v.mode, v.rounding, v.lane⟩
  let xs := ls.map (·.val)
  let folds := foldsShift v.dst
  let amaxs := if fa.2 = .channel then xs.zipIdx.map fun q => columnMax k v sh q.2 q.1 else []
  let st := if fa.2 = .plain && keepsBits v fa.1 then ⟨ls.map (·.code), [], ls.map fun _ => .none, xs⟩
    else storeRow c fa.1 fa.2 ((if folds then (sigma : Int) else 0) + h) amaxs xs
  let conv := if v.fn = .pass then (st.elems.zip st.excs).map (clampShift sh fa.1) else st.elems.zip st.excs
  let opEs := keepValid k v (ls.map (·.exc))
  let cvEs := keepValid k v (conv.map (·.2))
  let shTrue := if folds then sigma else 0
  let xv := keepValid k v xs
  let s1 := sramWrite (sramWrite s logical off (packElems fa.1 (conv.map (·.1)))) logical so st.scales
  let s2 := countOp s1 logical phys tray (if tray then (opEs.zip cvEs).map fun q => Exc.first q.1 q.2 else opEs)
  let qs := if fa.2 = .plain then [] else trueUnits p h shTrue xv (keepValid k v st.values)
  let s3 := if fa.2 = .plain && (countsOf cvEs = {} || tray) then s2
    else noteConversion s2 phys v.tensorId kind (if tray then {} else countsOf cvEs) qs
  if kind = .g then raiseOwn s3 v.tensorId (xv.map fun x => scaleVal x ((shTrue : Int) - p)) else s3

/-- An operation that passed every check and waits for nothing. -/
def runVec (s : State) (logical phys : Nat) (v : VecOp) : State :=
  let k := coreAt s phys
  let tray := v.args.any fun o => isTray o.src
  let sigma := if tray then (k.tray.head?.map (·.shift)).getD 0 else 0
  let sh := if foldsShift v.dst then 0 else sigma
  let s1 :=
    if isCompare v.fn then
      let r := runCompare s logical phys v sh
      countOp r.1 logical phys tray (keepValid k v r.2)
    else
      let ls := vecLanes s logical k v sh
      match v.dst with
      | .buffer b row =>
        let out := ls.map (bufferLane v sh)
        let bs := packElems v.lane (out.map (·.1))
        let k1 := { k with buffers := writeBytes k.buffers (b * 65536 + row * rowBytes v.lane) bs }
        countOp (setCore s phys k1) logical phys tray (keepValid k v (out.map (·.2)))
      | .sram off tag kind so source =>
        match tagOf? tag with
        | none => s
        | some fa => storeVec s logical phys v tray sigma sh ls off fa kind so source
  let s2 := progress (progress s1 .coreP phys 1) .vec logical 1
  let s3 := setCore s2 phys { coreAt s2 phys with vecWait := none }
  if v.release && tray then releaseTray s3 phys else s3

/-- Tensors whose pre-scale a store reads: that of G and WG values, and both of a hand-over (R105). -/
def scalesOf (v : VecOp) : List Nat :=
  match v.dst with
  | .sram _ _ kind _ none => if preScaled kind then [v.tensorId] else []
  | .sram _ _ _ _ (some t) => [v.tensorId, t]
  | _ => []

/-- Whether an operation is a G conversion of a tracked tensor whose p is not settled: its pre-scale hand stands, or the
exchanges of the step before are not done (R106, R108, R272). -/
def gWaits (s : State) (v : VecOp) : Bool :=
  match v.dst with
  | .sram _ _ .g _ _ => (mget s.scaling v.tensorId).any fun r => r.waitP || !s.job.exchangesDue.isEmpty
  | _ => false

/-- Tile buffers that operands and a destination buffer name, as bits. -/
def buffersNamed (srcs : List VecSrc) (dst : Option Nat) : Nat :=
  ((List.range 4).map fun b => if dst = some b || srcs.any (fun x => match x with
    | .buffer n _ => n = b
    | _ => false) then 2 ^ b else 0).sum

/-- An issued operation of the vector engine that waits: for the tray or not (R98). -/
def holdVec (s : State) (phys buffers : Nat) (tray : Bool) : State :=
  setCore s phys { coreAt s phys with vecWait := some (buffers, tray) }

/-- A wait on an empty tray; the cycles are a free value (R87, R98, DESIGN CHOICE, log 7). -/
def waitTray (s : State) (logical phys buffers : Nat) : State :=
  let d := drawFree (holdVec s phys buffers true)
  bump d.1 .vec logical 0x104 0 32 d.2

/-- VECTOR_OPERATION (R88). It waits for the tray, for transfers, and as a G conversion for a standing pre-scale hand
(R87, R137, R108). -/
def execVectorOperation (core : Nat) (v : VecOp) (s : State) : Host.Outcome State Fault Refusal :=
  .next (onCore s core fun s phys =>
    let k := coreAt s phys
    let reads := v.args.flatMap fun o => srcRanges v.lane o.src
    let buffers := buffersNamed (v.args.map (·.src)) (match v.dst with
      | .buffer b _ => some b
      | _ => none)
    if !vecOk k v then failProgram s phys 0x12 condition 0
    else if (v.args.any fun o => isTray o.src) && k.tray.isEmpty then waitTray s core phys buffers
    else if (reads.any fun r => readWaits k r.1 r.2) || (dstRanges v.lane v.dst).any fun r => writeWaits k r.1 r.2 then
      waitStream (holdVec s phys buffers false) phys
    else if gWaits s v then holdVec s phys buffers false
    else
      let s := meetWords s core reads v.words
      match reads.findSome? fun r => sramBad s core r.1 r.2 with
      | some off => failSram s core phys off
      | none =>
        if v.args.any fun o => srcReserved s core v.lane o.src then failProgram s phys 0x12 condition 0
        else
          match scalesRead s (scalesOf v) (coreStep s phys) with
          | .wait u => holdVec u phys buffers false
          | .fail u a => failProgram u phys 0x23 a (ueDetail u)
          | .ok _ => runVec s core phys v)

/-! ### SPECIAL_FUNCTION (R94, R95) -/

/-- A function on a row of 128 elements that waits for nothing: codes and events go to its buffer and its counters. -/
def runSpecial (s : State) (logical phys : Nat) (f : SpecialFn) (src : VecSrc) (dstBuffer dstRow : Nat) (mode : NumMode)
    (rounding : Rounding) : State :=
  let k := coreAt s phys
  let tray := isTray src
  let sigma := if tray then (k.tray.head?.map (·.shift)).getD 0 else 0
  let xs := srcLanes s logical k ⟨mode, rounding, .fp32⟩ sigma src
  let out := xs.map fun x => opSpecial mode rounding f x.1
  let es := (out.zip xs).map fun p => Exc.first p.1.2 p.2.2
  let valid := match src, k.tray with
    | .tray row, t :: _ => (es.zipIdx.filter fun p => trayValid t (128 * row + p.2)).map (·.1)
    | _, _ => es
  let k1 := { k with buffers := writeBytes k.buffers (dstBuffer * 65536 + dstRow * 512) (packElems .fp32 (out.map (·.1)))
                     vecWait := none }
  progress (countOp (setCore s phys k1) logical phys tray valid) .vec logical 1

/-- SPECIAL_FUNCTION: 128 FP32 elements into a row of a tile buffer. -/
def execSpecialFunction (core : Nat) (f : SpecialFn) (src : VecSrc) (dstBuffer dstRow : Nat) (mode : NumMode)
    (rounding : Rounding) (s : State) : Host.Outcome State Fault Refusal :=
  .next (onCore s core fun s phys =>
    let k := coreAt s phys
    let buffers := buffersNamed [src] (some dstBuffer)
    if !srcOk k .fp32 src || dstBuffer ≥ 4 || (dstRow + 1) * 512 > 65536 || (rounding != .rne && mode != .strict)
        || (mode = .legacy && (match src with
          | .sram _ tag _ => !legacyTag tag
          | _ => false)) then failProgram s phys 0x12 condition 0
    else if isTray src && k.tray.isEmpty then waitTray s core phys buffers
    else if (srcRanges .fp32 src).any fun r => readWaits k r.1 r.2 then waitStream (holdVec s phys buffers false) phys
    else
      match (srcRanges .fp32 src).findSome? fun r => sramBad s core r.1 r.2 with
      | some off => failSram s core phys off
      | none =>
        if srcReserved s core .fp32 src then failProgram s phys 0x12 condition 0
        else runSpecial s core phys f src dstBuffer dstRow mode rounding)

end Sys2Proof.Machine
end

