-- ==== Sys2Proof/Machine/Embed.lean ====
section
/-! DEFINITION. The requester of embedding look-ups and backward passes (R152 to R160), and its look-up and end marks
(R158, R161). -/

namespace Sys2Proof.Machine

/-! ### Addressing -/

/-- Page of a routing engine: parts with fewer engines fold the eight routing numbers onto them (DESIGN CHOICE, log 32). -/
def embPage (s : State) (e : Nat) : Nat := e % Config.embEngines s.part

/-- Keys per pass of a routing engine (R153, R169). -/
def passCapacity (s : State) (e : Nat) : Nat :=
  match field s .emb (embPage s e) 0x104 1 2 with
  | 0 => 524288
  | 1 => 262144
  | _ => 131072

/-- Bytes of a reply entry in scratch (R152, R154). -/
def entryBytes (d : TableDesc) : Nat := up16 (weightBytes d.tag d.elements + 4)

/-- Whether a range may not be named by a command: outside device memory, or shared (R119, R288). -/
def rangeBad (s : State) (a n : Nat) : Bool := !devRange s a n || inShared s a n

/-- A header of table traffic (R239). -/
def tableHeader (s : State) (kind engine owner table epoch step : Nat) : MsgHdr :=
  { header s kind engine engine owner step with tableEpoch := epoch, tensorId := table }

/-- A message under the number block of a collective identity, one copy to each of its holders (R241). -/
def sendIdent (s : State) (op ring : Nat) (dsts : List Nat) (h : MsgHdr) (b : Body) : State :=
  sendBlock s op ring h.tensorId h.step [(dsts, { h with multicast := dsts.length = 2 }, b)]

/-- A count kept by table and step. -/
def countAt (m : List (Nat × Nat × Nat)) (table step : Nat) : Nat :=
  ((m.find? fun e => e.1 = table && e.2.1 = step).map (·.2.2)).getD 0

def raiseCount (m : List (Nat × Nat × Nat)) (table step : Nat) : List (Nat × Nat × Nat) :=
  (m.filter fun e => !(e.1 = table && e.2.1 = step)) ++ [(table, step, countAt m table step + 1)]

/-- A count taken back by one: the command that raised it was dropped before it completed. -/
def lowerCount (m : List (Nat × Nat × Nat)) (table step : Nat) : List (Nat × Nat × Nat) :=
  (m.filter fun e => !(e.1 = table && e.2.1 = step)) ++ [(table, step, countAt m table step - 1)]

/-! ### Look-up and end marks (R158, R161) -/

/-- What the step program of a step declares. -/
def declOf (s : State) (step : Nat) : Option StepDecl := s.tables.decls.find? (·.step = step)

/-- How often a declaration names a table. -/
def declared (m : List (Nat × Nat)) (table : Nat) : Nat := ((m.filter fun e => e.1 = table).map (·.2)).sum

/-- The look-up mark of a table to every owner and each owner's twin. -/
def sendLookMark (s : State) (d : TableDesc) (step : Nat) : State :=
  (tableModules d).foldl (fun t o =>
    sendIdent t 0x0A 0 (rowHolders t d o)
      { tableHeader t 0x0A 0 o d.table (tableEpoch t d step) step with twinned := d.twinned } .mark)
    (setTables s fun x => { x with markSent := x.markSent ++ [(d.table, step)] })

/-- Gradient rows of one engine to one owner and, twinned, its twin. -/
def sendRows (s : State) (d : TableDesc) (step ring o e : Nat) (rows : List GradRow) (last : Bool) : State :=
  if rows.isEmpty && !last then s
  else sendIdent s 0x115 ring (rowHolders s d o)
    { tableHeader s 0x06 e o d.table (tableEpoch s d step) step with last := last, twinned := d.twinned } (.gradRows rows)

/-- The end marks of a module without a backward pass of the table (R161, DEDUCED, log 33). -/
def sendEndMarks (s : State) (d : TableDesc) (step : Nat) : State :=
  (tableModules d).foldl (fun t o => (List.range 8).foldl (fun u e => sendRows u d step (2 ^ 64) o e [] true) t)
    (setTables s fun x => { x with endSent := x.endSent ++ [(d.table, step)] })

/-- Whether this module takes part in the step's marks: a member that is not detached (R254). -/
def marking (s : State) : Bool := s.job.running && s.twin.pair != .detached && isMember s s.twin.number

/-- The marks of one table that are due for the open step. -/
def declareTable (s : State) (decl : StepDecl) (d : TableDesc) : State :=
  let step := decl.step
  let s1 := if countAt s.tables.lookupsDone d.table step ≥ declared decl.lookups d.table
      && !s.tables.markSent.contains (d.table, step) then sendLookMark s d step else s
  if countAt s1.tables.backwardsDone d.table step ≥ declared decl.backwards d.table && d.optimiser != 0
      && !s1.tables.endSent.contains (d.table, step)
    then sendEndMarks s1 d step else s1

/-- All marks that are due for the open step. -/
def declareMarks (s : State) : State :=
  match declOf s s.job.openStep with
  | none => s
  | some decl => if marking s then s.tables.descs.foldl (fun t e => declareTable t decl e.2) s else s

/-! ### EMB_LOOKUP: route, dedupe, batch (R152 to R154) -/

/-- Bags as lists of positions into the occurrences: from offset b up to offset b + 1. -/
def bagSpans (offs : List Nat) : List (Nat × Nat) := (offs.zip (offs.drop 1)).map fun p => (p.1, p.2 - p.1)

/-- Keys of the passes of a look-up: a key's pass is its place among the new keys of its engine (R153). -/
def passesOf (s : State) (uniq : List RowKey) : List (List RowKey) :=
  let place := fun (i : Nat) (k : RowKey) =>
    ((uniq.take i).filter fun x => engineOf x = engineOf k).length / passCapacity s (engineOf k)
  let tagged := uniq.zipIdx.map fun q => (place q.2 q.1, q.1)
  let n := tagged.foldl (fun m q => max m (q.1 + 1)) 0
  (List.range n).map fun p => (tagged.filter fun q => q.1 = p).map (·.2)

/-- A pass beyond the first, counted as it begins on each routing engine that has keys in it (R153). -/
def countSpill (s : State) (keys : List RowKey) : State :=
  (List.range 8).foldl (fun t e => bump t .emb (embPage t e) 0x118 0 32 (b2n (keys.any fun k => engineOf k = e))) s

/-- Distinct indices beyond the first on one key, counted once each (R153, DEDUCED, log 34). -/
def countShared (s : State) (occ : List (Nat × RowKey)) : State :=
  (dedup [] (occ.map (·.2))).foldl (fun t k =>
    let n := (dedup [] ((occ.filter fun q => q.2 = k).map (·.1))).length
    bump t .emb (embPage t (engineOf k)) 0x120 0 32 (n - 1)) s

/-- The keys of a pass that one engine sends to one owner: ascending local shard, then slot; with ENABLE 0 once for each
occurrence. -/
def batchKeys (s : State) (d : TableDesc) (lk : Lookup) (ks : List RowKey) (o e : Nat) : List RowKey :=
  let mine := ks.filter fun k => ownerOf d k.shard = o && engineOf k = e
  let sorted := sortBy (fun k => localShard d k.shard * 2 ^ 64 + k.slot) mine
  if field s .emb (embPage s e) 0x104 0 1 = 1 then sorted
  else sorted.flatMap fun k => List.replicate (lk.occurrences.filter (· = k)).length k

/-- Where the rows of an owner are read: the owner, or its twin once the owner has left (R31, R41). -/
def readTarget (s : State) (d : TableDesc) (o : Nat) : Option Nat := (rowHolders s d o).head?

/-- The step at which a module was removed (R297). -/
def removalStep (s : State) (c : Nat) : Nat := ((s.twin.removals.find? (·.1 = c)).map (·.2.1)).getD 0

def setLookup (s : State) (lk : Lookup) : State :=
  setTables s fun t => { t with lookups := t.lookups.map fun x => if x.cmd = lk.cmd then lk else x }

def dropLookup (s : State) (lk : Lookup) : State :=
  setTables s fun t => { t with lookups := t.lookups.filter fun x => x.cmd != lk.cmd }

/-- A batch to one owner and engine, under the number its identity holds (R241). It goes to the module that answers alone, and is no
multicast message of twinned state (R31, DEDUCED, log 83). -/
def sendBatch (s : State) (d : TableDesc) (lk : Lookup) (o e : Nat) (ks : List RowKey) : State :=
  match ks, readTarget s d o with
  | [], _ => s
  | _, none => s
  | _, some m =>
    sendIdent (progress s .emb (embPage s e) 1) (0x114 + lk.pass * 2 ^ 16) lk.scratch [m]
      (tableHeader s 0x04 e m lk.table lk.epoch lk.step) (.batch ks)

/-- Keys of the current pass that have no reply yet. -/
def pendingKeys (lk : Lookup) : List RowKey := (lk.todo.headD []).filter fun k => !(lk.replies.any fun r => r.key = k)

/-- The batches of the current pass for keys that have no reply yet. -/
def sendPass (s : State) (d : TableDesc) (lk : Lookup) : State :=
  let ks := pendingKeys lk
  (tableModules d).foldl (fun t o => (List.range 8).foldl (fun u e => sendBatch u d lk o e (batchKeys u d lk ks o e)) t) s

/-- The first module that keys of a pass need and no member holds. -/
def lostOwner (s : State) (d : TableDesc) (ks : List RowKey) : Option Nat :=
  (ks.map fun k => ownerOf d k.shard).find? fun o => (readTarget s d o).isNone

/-! ### Pooling (R156, R157) -/

/-- Output format of a code (R300): format, scale arrangement, tag. -/
def outFormat (c : Nat) : Fmt × Arr × Nat :=
  match c with
  | 0 => (.fp32, .plain, 1)
  | 1 => (.bf16, .plain, 3)
  | _ => (.e4m3, .group 32, 0x14)

/-- A row as FP32 values (R156): each product of element and scale under R68. -/
def rowValues (d : TableDesc) (c : Ctl) (w : List Byte) : List (Val × Exc) :=
  (weightElems d.tag d.elements w).map fun v => let r := widen c v.1; (r.1, Exc.first v.2 r.2)

/-- One line added to an accumulator. -/
def addLine (c : Ctl) (acc line : List (Val × Exc)) : List (Val × Exc) :=
  (acc.zip line).map fun p =>
    let r := opAdd c p.1.1 p.2.1
    (decodeFmt .fp32 r.1, Exc.first p.1.2 (Exc.first p.2.2 r.2))

/-- The result of one bag under sum or mean. -/
def poolBag (c : Ctl) (e : Nat) (mean : Bool) (rows : List (List (Val × Exc))) : List (Val × Exc) :=
  match rows with
  | [] => List.replicate e (.fin false 0 0, .none)
  | r :: rest =>
    let acc := rest.foldl (addLine c) r
    if !mean then acc
    else acc.map fun p =>
      let q := opDiv c p.1 (Val.ofInt (rows.length : Int))
      (decodeFmt .fp32 q.1, Exc.first p.2 q.2)

/-- A tile of output lines (R134, R135), the events of its converter, and the elements it converted in their order (R109). -/
def outputTile (s : State) (d : TableDesc) (lk : Lookup) (line depth : Nat) (rows : List (List Val)) :
    List Byte × List Exc × List (Val × Val) :=
  let f := outFormat lk.outFormat
  let c : Ctl := ⟨lk.mode, lk.rounding, .fp32⟩
  let valid := min 128 (d.elements - depth * 128)
  let parts := rows.map fun r => storeRow c f.1 f.2.1 0 [] ((r.drop (depth * 128)).take valid)
  let qs := if f.2.1 = .plain then []
    else (rows.zip parts).flatMap fun q => trueUnits 0 0 0 ((q.1.drop (depth * 128)).take valid) q.2.values
  let n := tileLineBytes f.1
  let lines := parts.map fun p => padTo n (packElems f.1 p.elems)
  let scales := if f.2.1 = .plain then [] else parts.flatMap fun p => p.scales ++ List.replicate (4 - p.scales.length) 0x7F
  let body := padTo (128 * n) lines.flatten
    ++ (if f.2.1 = .plain then [] else scales ++ List.replicate (512 - scales.length) 0x7F)
  let hd := leBytes 1 f.2.2 ++ leBytes 1 1 ++ leBytes 1 rows.length ++ leBytes 1 valid ++ leBytes 2 d.tensor
    ++ leBytes 2 s.job.layoutEpoch ++ leBytes 2 line ++ leBytes 2 depth ++ leBytes 3 (lk.step % 2 ^ 24)
    ++ List.replicate 5 0 ++ leBytes 4 body.length ++ leBytes 4 (crc32c body) ++ List.replicate 32 0
  (padTo (granules (64 + body.length)) (withCrc hd ++ body), parts.flatMap (·.excs), qs)

/-- Bag report of the versions of a bag's rows (R157). -/
def bagReport (vs : List Nat) : List Byte :=
  let lo := vs.foldl min (vs.headD 0)
  let hi := vs.foldl max 0
  leBytes 2 lo ++ leBytes 2 hi ++ leBytes 2 vs.length ++ leBytes 1 (b2n (lo != hi) * 2 + b2n vs.isEmpty) ++ [0]

/-- Device memory written unless a sector refuses (R129). -/
def tryWrite (s : State) (a : Nat) (bs : List Byte) : Except Nat State :=
  match badWrite s a bs.length with
  | some x => .error x
  | none => .ok (devWrite s a bs)

/-- The key of every occurrence of a bag. -/
def bagKeys (lk : Lookup) (sp : Nat × Nat) : List RowKey := (lk.occurrences.drop sp.1).take sp.2

/-- The pooled lines, with the exceptions met. -/
def poolLines (d : TableDesc) (lk : Lookup) (spans : List (Nat × Nat)) : List (List (Val × Exc)) :=
  let c : Ctl := ⟨lk.mode, lk.rounding, .fp32⟩
  let row := fun (k : RowKey) => rowValues d c (((lk.replies.find? (·.key = k)).map (·.weights)).getD [])
  if lk.pooling = 2 then lk.occurrences.map row
  else spans.map fun sp => poolBag c d.elements (lk.pooling = 1) ((bagKeys lk sp).map row)

/-- Output tiles: line tiles ascending, and within one the depth tiles ascending (DEDUCED, log 35). -/
def outputTiles (s : State) (d : TableDesc) (lk : Lookup) (lines : List (List Val)) :
    List (List Byte × List Exc × List (Val × Val)) :=
  let dt := (d.elements + 127) / 128
  (chunksOf 128 lines.length lines).zipIdx.flatMap fun q => (List.range dt).map fun t => outputTile s d lk q.2 t q.1

/-- The last stage of a look-up: output, bag reports, completion, look-up marks (R154 step 6). A row that holds the reserved T2 code ends
it without a result (R55). -/
def poolLookup (s : State) (d : TableDesc) (lk : Lookup) : State :=
  let spans := bagSpans lk.bags
  let lines := poolLines d lk spans
  let tiles := outputTiles s d lk (lines.map fun l => l.map (·.1))
  let version := fun (k : RowKey) => ((lk.replies.find? (·.key = k)).map (·.version)).getD 0
  let reports := spans.map fun sp => (bagKeys lk sp).map version
  if lk.replies.any fun r => weightsReserved d.tag d.elements r.weights then refuse (dropLookup s lk) lk.cmd condition
  else
  match tryWrite s lk.output (tiles.flatMap (·.1)) with
  | .error a => failUE (dropLookup s lk) lk.cmd a
  | .ok s1 =>
    match tryWrite s1 lk.report (reports.flatMap bagReport) with
    | .error a => failUE (dropLookup s1 lk) lk.cmd a
    | .ok s2 =>
      let empty := (reports.filter (·.isEmpty)).length
      let mixed := (reports.filter fun vs => vs.any (· != vs.headD 0)).length
      let s3 := bump (bump s2 .emb 0 0x11C 16 16 empty) .emb 0 0x11C 0 16 mixed
      let cs := countsOf (lines.flatMap fun l => l.map (·.2))
      let all := cs.sum (countsOf (tiles.flatMap (·.2.1)))
      let s4 := noteGradeWith s3 512 d.tensor fun a => a.convert .a all (tiles.flatMap (·.2.2))
      let s5 := setLookup s4 { lk with done := true, todo := [] }
      declareMarks (done (setTables s5 fun t => { t with lookupsDone := raiseCount t.lookupsDone lk.table lk.step }) lk.cmd)

/-! ### EMB_LOOKUP (R152, R300) -/

/-- The fields of R300 that offend, in the order of R152. -/
def lookupFault (s : State) (d : TableDesc) (c : HostCmd) (bs : List Byte) : Option Nat :=
  let n := leAt bs 4 4
  let b := leAt bs 8 4
  let fm := outFormat (bitsOf (leAt bs 2 1) 2 2)
  let lines := if leAt bs 2 1 % 4 = 2 then n else b
  let outBytes := (lines + 127) / 128 * ((d.elements + 127) / 128) * granules (64 + tileBody fm.1 fm.2.1 0)
  let legacy := modeOf c.slot.ctl = .legacy
  if leAt bs 2 1 % 4 = 3 || bitsOf (leAt bs 2 1) 2 2 = 3 then some (blockField 2)
  else if n = 0 || n > 67108864 then some (blockField 4)
  else if b = 0 || b > 1048576 then some (blockField 8)
  else if legacy && (!legacyTag d.tag || bitsOf (leAt bs 2 1) 2 2 = 2) then some 4
  else if rangeBad s (leAt bs 0x10 8) (8 * n) then some (blockField 0x10)
  else if rangeBad s (leAt bs 0x18 8) (4 * (b + 1)) then some (blockField 0x18)
  else if leAt bs 0x20 8 % 256 != 0 || rangeBad s (leAt bs 0x20 8) outBytes then some (blockField 0x20)
  else if rangeBad s (leAt bs 0x28 8) (8 * b) then some (blockField 0x28)
  else if rangeBad s (leAt bs 0x30 8) (leAt bs 0x38 8) then some (blockField 0x30)
  else if leAt bs 0x38 8 < n * (4 + entryBytes d) then some (blockField 0x38)
  else none

/-- Whether the offsets of a look-up are good (R152). -/
def offsetsOk (offs : List Nat) (n : Nat) : Bool :=
  offs.headD 1 = 0 && (bagSpansOk offs) && offs.getLastD 0 = n
where
  bagSpansOk (offs : List Nat) : Bool := (offs.zip (offs.drop 1)).all fun p => p.1 ≤ p.2 && p.2 - p.1 ≤ 65535

/-- A look-up routed: occurrence map written, first pass sent. -/
def startLookup (s : State) (c : HostCmd) (d : TableDesc) (bs : List Byte) (idx offs : List Nat) (occ : List RowKey) : State :=
  let uniq := dedup [] occ
  let ps := passesOf s uniq
  let keys := ps.flatten
  let lk : Lookup :=
    { cmd := c, table := d.table, step := c.slot.step, epoch := tableEpoch s d c.slot.step, pooling := leAt bs 2 1 % 4
      outFormat := bitsOf (leAt bs 2 1) 2 2, mode := modeOf c.slot.ctl, rounding := roundingOf c.slot.ctl, bags := offs
      occurrences := occ, keys := keys, replies := [], output := leAt bs 0x20 8, report := leAt bs 0x28 8
      scratch := leAt bs 0x30 8, pass := 1, todo := ps, done := false }
  match tryWrite s lk.scratch (occ.flatMap fun k => leBytes 4 (keys.findIdx (· = k))) with
  | .error a => failUE s c a
  | .ok s1 =>
    match lostOwner s1 d keys with
    | some o => finish s1 c 0x27 o (removalStep s1 o % 2 ^ 32)
    | none =>
      let s2 := countShared s1 (idx.zip occ)
      let s3 := setTables s2 fun t => { t with lookups := (t.lookups.filter fun x => x.scratch != lk.scratch || !x.done) ++ [lk] }
      sendPass ((List.range 8).foldl (fun t e => startDomain t (domEmb (embPage t e))) s3) d lk

/-- Whether a switch hand of the table holds work of a step: one that stands, or in host-assisted mode one that this module raises
when it opens SWITCH_STEP (R165). -/
def switchHolds (s : State) (d : TableDesc) (step : Nat) : Bool :=
  d.switchStep != noSwitch && step ≥ d.switchStep
    && (s.tables.frozenSwitch.contains d.table || (field s .emb 0 0x010 0 1 = 1 && s.job.openStep < d.switchStep))

/-- EMB_LOOKUP: checks, the offsets first of what it reads, then the first pass; a command whose look-up runs waits for its
replies. -/
def execEmbLookup (c : HostCmd) (s : State) : Host.Outcome State Fault Refusal :=
  runCmd s 0x0114 c fun s =>
    let bs := inlineOf c.slot 64
    if s.tables.lookups.any fun x => x.cmd = c && !x.done then s
    else
      match tableAt s (leAt bs 0 2 % 4096) with
      | none => refuse s c (blockField 0)
      | some d =>
        let n := leAt bs 4 4
        let b := leAt bs 8 4
        match lookupFault s d c bs with
        | some d0 => refuse s c d0
        | none =>
          let ia := leAt bs 0x10 8
          let oa := leAt bs 0x18 8
          if memWaits s oa (4 * (b + 1)) then s
          else
            match badSector s oa (4 * (b + 1)) with
            | some a => failUE s c a
            | none =>
              let offs := (List.range (b + 1)).map fun i => leNat (devRead s (oa + 4 * i) 4)
              if !offsetsOk offs n then refuse s c condition
              else if memWaits s ia (8 * n) || switchHolds s d c.slot.step then s
              else
                match badSector s ia (8 * n) with
                | some a => failUE s c a
                | none =>
                  let idx := (List.range n).map fun i => leNat (devRead s (ia + 8 * i) 8)
                  let keys := idx.filterMap (keyOf d)
                  if keys.length != n then refuse s c condition
                  else startLookup s c d bs idx offs keys

/-! ### Replies (R154) -/

/-- The look-up that a reply belongs to: the oldest of its table and step that still waits for exactly this batch (R154). -/
def lookupFor (s : State) (h : MsgHdr) (es : List ReplyEntry) : Option Lookup :=
  match tableAt s h.tensorId, es with
  | some d, e :: _ =>
    s.tables.lookups.find? fun lk => !lk.done && lk.table = h.tensorId && lk.step = h.step
      && batchKeys s d lk (pendingKeys lk) (ownerOf d e.key.shard) (engineOf e.key) = es.map (·.key)
  | _, _ => none

/-- The entries of a reply in scratch, each at the ordinal of its key. -/
def storeEntries (s : State) (d : TableDesc) (lk : Lookup) (es : List ReplyEntry) : Except Nat State :=
  es.foldl (fun (acc : Except Nat State) r => match acc with
    | .error a => .error a
    | .ok t => tryWrite t (lk.scratch + 4 * lk.occurrences.length + lk.keys.findIdx (· = r.key) * entryBytes d)
        (padTo (entryBytes d) (r.weights ++ leBytes 2 r.version))) (.ok s)

/-- A reply taken in: the next pass, or the pooling, once every key of the pass is answered. -/
def takeReply (s : State) (d : TableDesc) (lk : Lookup) (es : List ReplyEntry) : State :=
  match es.findSome? (·.fail) with
  | some f => finish (dropLookup s lk) lk.cmd f.1 f.2.1 f.2.2
  | none =>
    let new := es.filter fun r => !(lk.replies.any fun x => x.key = r.key)
    match storeEntries s d lk new with
    | .error a => failUE (dropLookup s lk) lk.cmd a
    | .ok s1 =>
      let lk1 := { lk with replies := lk.replies ++ new }
      let waiting := (lk1.todo.headD []).any fun k => !(lk1.replies.any fun x => x.key = k)
      if waiting then setLookup s1 lk1
      else if lk1.todo.length > 1 then
        let lk2 := { lk1 with pass := lk1.pass + 1, todo := lk1.todo.drop 1 }
        sendPass (countSpill (setLookup s1 lk2) (lk2.todo.headD [])) d lk2
      else poolLookup s1 d lk1

/-- LOOK_UP_REPLY. A reply that no look-up waits for was dropped with its command (R168). -/
def execLookUpReply (h : MsgHdr) (entries : List ReplyEntry) (s : State) : Host.Outcome State Fault Refusal :=
  .next (receive s h fun s =>
    match lookupFor s h entries, tableAt s h.tensorId with
    | some lk, some d => takeReply (progress s .emb (embPage s h.dstPoint) 1) d lk entries
    | _, _ => s)

/-- Look-ups that waited on a lost module retried to the survivor, or ended where none holds the rows (R41, R254). -/
def retryLookups (s : State) (lost : Nat) : State :=
  (s.tables.lookups.filter fun lk => !lk.done).foldl (fun t lk =>
    match tableAt t lk.table with
    | none => t
    | some d =>
      let ks := pendingKeys lk
      let hit := ks.filter fun k => (ownerOf d k.shard = lost || (d.twinned && twinOfNumber (ownerOf d k.shard) = lost))
      if hit.isEmpty then t
      else
        match lostOwner t d ks with
        | some o => finish (dropLookup t lk) lk.cmd 0x27 o (removalStep t o % 2 ^ 32)
        | none => sendPass t d lk) s

/-! ### EMB_BACKWARD (R159, R160) -/

/-- What the gradient tiles of a backward pass give. -/
inductive GradRead where
  | ok (lines : List (List Val))
  | fail (status d0 d1 : Nat)
  | wait
  | bad (addr : Nat)
  deriving DecidableEq, Repr

/-- One gradient tile read and checked (R136): its lines. -/
def readGradTile (s : State) (a tag : Nat) : GradRead :=
  let f := (fmtOfTag tag).1
  let size := granules (64 + 128 * tileLineBytes f)
  if memWaits s a size then .wait
  else
    match badSector s a size with
    | some x => .bad x
    | none =>
      let bs := devRead s a size
      match checkTile (bs.take 64) (bs.drop 64) (some (Config.reservedBase s.part - a)) s.job.layoutEpoch with
      | .corrupt => .bad a
      | .badField k => .fail 0x12 (0x1000 + k) a
      | .epoch => .fail 0x21 (leAt bs 6 2) s.job.layoutEpoch
      | .ok =>
        if leAt bs 0 1 != tag then .fail 0x20 (leAt bs 0 1) tag
        else .ok ((List.range 128).map fun l =>
          (unpackElems f ((bs.drop (64 + l * tileLineBytes f)).take (tileLineBytes f)) 128).map (decodeFmt f))

/-- The gradient lines of n lines of e elements, tiles as the look-up writes its output (DEDUCED, log 35). -/
def readGrads (s : State) (base tag e n : Nat) : GradRead :=
  let f := (fmtOfTag tag).1
  let size := granules (64 + 128 * tileLineBytes f)
  let dt := (e + 127) / 128
  (List.range ((n + 127) / 128)).foldl (fun (acc : GradRead) tl =>
    match acc with
    | .ok got =>
      (match (List.range dt).foldl (fun (row : GradRead) td =>
          match row with
          | .ok parts =>
            (match readGradTile s (base + (tl * dt + td) * size) tag with
            | .ok ls => .ok ((ls.zipIdx).map fun q => parts.getD q.2 [] ++ q.1)
            | r => r)
          | r => r) (.ok (List.replicate 128 [])) with
      | .ok ls => .ok (got ++ ls.map fun l => l.take e)
      | r => r)
    | r => r) (.ok [])

/-- The expanded contributions of a backward pass, in ascending bag, then position (R159). -/
def expandGrads (c : Ctl) (lk : Lookup) (lines : List (List Val)) : List (RowKey × List (Val × Exc)) :=
  let plain := fun (l : List Val) => l.map fun v => (v, Exc.none)
  if lk.pooling = 2 then lk.occurrences.zip (lines.map plain)
  else
    (bagSpans lk.bags).zipIdx.flatMap fun q =>
      let g := lines.getD q.2 []
      let ks := bagKeys lk q.1
      let each := if lk.pooling = 1 then g.map fun v =>
          let r := opDiv c v (Val.ofInt (ks.length : Int))
          (decodeFmt .fp32 r.1, r.2)
        else plain g
      ks.map fun k => (k, each)

/-- The combined row of a key: the first contribution sets it, each later one is added (R160). -/
def combine (c : Ctl) (xs : List (List (Val × Exc))) : List (Val × Exc) :=
  match xs with
  | [] => []
  | x :: rest => rest.foldl (addLine c) x

/-- An element on the wire: its FP32 code, rounded to BF16 first where the wire is BF16 (R160). -/
def wireElem (c : Ctl) (bf : Bool) (p : Val × Exc) : Nat × Exc :=
  if bf then
    let r := convert c.mode c.rounding .fp32 .bf16 p.1
    (r.1 * 65536, Exc.first p.2 r.2)
  else
    let r := convert c.mode c.rounding .fp32 .fp32 p.1
    (r.1, Exc.first p.2 r.2)

/-- Whether gradient rows of a table and step still wait for acknowledgement. -/
def rowsUnacked (s : State) (table step : Nat) : Bool :=
  (unacked s).any fun m => m.hdr.kind = 0x06 && m.hdr.tensorId = table && m.hdr.step = step

/-- Backward passes whose rows are all acknowledged complete (R30, DEDUCED, log 36). -/
def settleBackwards (s : State) : State :=
  (s.tables.backwards.filter fun b => !rowsUnacked s b.1 b.2.1).foldl (fun t b =>
    done (setTables t fun x => { x with backwards := x.backwards.filter (· != b) }) b.2.2) s

/-- A backward pass dropped before it completed: its reissue counts it again (R158). -/
def dropBackward (s : State) (b : Nat × Nat × HostCmd) : State :=
  setTables s fun t => { t with backwards := t.backwards.filter (· != b)
                                backwardsDone := lowerCount t.backwardsDone b.1 b.2.1 }

/-- The rows of a backward pass sent, with the end marks where it is the last declared one. -/
def sendBackward (s : State) (d : TableDesc) (lk : Lookup) (c : HostCmd) (xs : List (RowKey × List (Val × Exc))) : State :=
  let ctl : Ctl := ⟨modeOf c.slot.ctl, roundingOf c.slot.ctl, .fp32⟩
  let rows := (dedup [] (xs.map (·.1))).map fun k =>
    (k, (combine ctl ((xs.filter fun q => q.1 = k).map (·.2))).map (wireElem ctl (bitOf c.slot.param0 16)))
  let s1 := noteGrade s 512 d.tensor (GradeRec.ofStat .a (countsOf (rows.flatMap fun r => r.2.map (·.2))) ConvStat.zero)
  let s2 := setTables s1 fun t => { t with backwardsDone := raiseCount t.backwardsDone lk.table lk.step
                                           backwards := t.backwards ++ [(lk.table, lk.step, c)] }
  let last := (declOf s2 lk.step).any fun dc => countAt s2.tables.backwardsDone lk.table lk.step ≥ declared dc.backwards lk.table
  let s3 := (tableModules d).foldl (fun t o => (List.range 8).foldl (fun u e =>
    let mine := rows.filter fun r => ownerOf d r.1.shard = o && engineOf r.1 = e
    let sorted := sortBy (fun (r : RowKey × List (Nat × Exc)) => localShard d r.1.shard * 2 ^ 64 + r.1.slot) mine
    sendRows u d lk.step lk.scratch o e (sorted.map fun r => ⟨r.1, r.2.map (·.1)⟩) last) t) s2
  settleBackwards (if last then setTables s3 fun t => { t with endSent := t.endSent ++ [(lk.table, lk.step)] } else s3)

/-- EMB_BACKWARD. It waits for the pre-scale of its step, as the conversions that make its tiles do (R106). -/
def execEmbBackward (c : HostCmd) (s : State) : Host.Outcome State Fault Refusal :=
  runCmd s 0x0115 c fun s =>
    if s.tables.backwards.any fun b => b.2.2 = c then s
    else
      match tableAt s (bitsOf c.slot.param0 0 12) with
      | none => refuse s c 0x20
      | some d =>
        if d.optimiser = 0 || (paramsFor s d.tensor c.slot.step).isNone then refuse s c condition
        else
          match s.tables.lookups.find? fun x => x.done && x.scratch = c.slot.param1 && x.table = d.table
              && x.step = c.slot.step with
          | none => refuse s c 0x28
          | some lk =>
            let n := if lk.pooling = 2 then lk.occurrences.length else lk.bags.length - 1
            let base := c.slot.param2
            if base % 256 != 0 || rangeBad s base 64 then refuse s c 0x30
            else if memWaits s base 64 || !pReady s d.tensor then s
            else
              let tag := leAt (devRead s base 64) 0 1
              let size := granules (64 + 128 * tileLineBytes (fmtOfTag tag).1)
              match badSector s base 64 with
              | some a => failUE s c a
              | none =>
                if leAt (devRead s base 64) 0x3C 4 != crc32c (devRead s base 60) then failUE s c base
                else if tag != 1 && tag != 3 then finish s c 0x20 tag 1
                else if rangeBad s base ((n + 127) / 128 * ((d.elements + 127) / 128) * size) then refuse s c 0x30
                else
                  match readGrads s base tag d.elements n with
                  | .wait => s
                  | .bad a => failUE s c a
                  | .fail st d0 d1 => finish s c st d0 d1
                  | .ok lines => sendBackward s d lk c (expandGrads ⟨modeOf c.slot.ctl, roundingOf c.slot.ctl, .fp32⟩ lk lines)

end Sys2Proof.Machine
end

