-- ==== Sys2Proof/Machine/Host.lean ====
section
/-! DEFINITION. The host interface: slots, doorbells, queues, rings, host link, CXL.mem (R282 to R313). -/

namespace Sys2Proof.Machine

/-! ### Slots (R291 to R294, R298) -/

/-- A slot of 256 bytes (R291). -/
def slotOf (bs : List Byte) : Slot where
  opcode := leAt bs 0 2
  sequence := leAt bs 2 2
  ctl := leAt bs 4 1
  inlineBytes := leAt bs 5 1
  reserved6 := leAt bs 6 2
  requestId := leAt bs 8 8
  step := leAt bs 0x10 8
  operand := leAt bs 0x18 8
  param0 := leAt bs 0x20 8
  param1 := leAt bs 0x28 8
  param2 := leAt bs 0x30 8
  reserved38 := leAt bs 0x38 4
  payload := (bs.drop 0x40).take 192

/-- SLOT_CRC (R291); a reserved INLINE_BYTES covers the whole payload (DESIGN CHOICE, log 16). -/
def slotCrcOk (bs : List Byte) : Bool :=
  leAt bs 0x3C 4 = crc32c (bs.take 0x3C ++ (bs.drop 0x40).take (min 192 (leAt bs 5 1)))

/-- Functions that may use an opcode (R298, R345, R412): 0 PF0, 1 compute, 2 any. -/
def opcodeFn : Nat → Option Nat
  | 0x0001 => some 2
  | 0x0010 => some 0 | 0x0011 => some 0 | 0x0012 => some 0 | 0x0013 => some 0 | 0x0014 => some 0 | 0x0018 => some 0
  | 0x0019 => some 0 | 0x001A => some 0 | 0x001B => some 0 | 0x001C => some 0 | 0x001D => some 0 | 0x001E => some 0
  | 0x0040 => some 0 | 0x0041 => some 0 | 0x0042 => some 0 | 0x0043 => some 0 | 0x0044 => some 0 | 0x0045 => some 0
  | 0x0046 => some 0
  | 0x0100 => some 1 | 0x0101 => some 1 | 0x0102 => some 1 | 0x0103 => some 1 | 0x0110 => some 1 | 0x0111 => some 1
  | 0x0112 => some 1 | 0x0113 => some 1 | 0x0114 => some 1 | 0x0115 => some 1 | 0x0118 => some 1 | 0x0119 => some 1
  | 0x011A => some 1 | 0x011B => some 1 | 0x0120 => some 1 | 0x0121 => some 1 | 0x0128 => some 1 | 0x0129 => some 1
  | 0x012A => some 1 | 0x012B => some 1 | 0x0130 => some 1 | 0x0131 => some 1 | 0x0132 => some 1 | 0x0138 => some 1
  | 0x0139 => some 1
  | _ => none

/-- Whether a function may use an opcode. -/
def opcodeAllowed (op fn : Nat) : Bool :=
  match opcodeFn op with
  | none => false
  | some 0 => fn = 0
  | some 1 => fn != 0
  | _ => true

/-- Opcodes that a module in the failed state executes (R385). -/
def failedAllows (op : Nat) : Bool := op = 0x0001 || op = 0x0012 || (0x0040 ≤ op && op ≤ 0x004F)

/-- The header checks of a command that starts: opcode, failed state, mode and rounding (R57, R58), INLINE_BYTES. -/
def headerFault (s : State) (c : HostCmd) : Option (Nat × Nat) :=
  let sl := c.slot
  if !opcodeAllowed sl.opcode c.fn then some (0x11, sl.opcode)
  else if s.boot.failed && !failedAllows sl.opcode then some (0x12, condition)
  else if bitsOf sl.ctl 0 2 = 3 || bitsOf sl.ctl 2 3 > 3 || (bitsOf sl.ctl 2 3 != 0 && bitsOf sl.ctl 0 2 != 1) then
    some (0x12, 4)
  else if sl.inlineBytes > 192 then some (0x12, 5)
  else none

/-- An accepted command starts: it runs, or it completes at once with a fault of its header. -/
def startCmd (s : State) (c : HostCmd) : State :=
  let s1 := setHif s fun h => { h with running := h.running ++ [c] }
  match headerFault s c with
  | none => s1
  | some (st, d0) => finish s1 c st d0 0

/-- The identifier of a consumed slot handled (R294). -/
def acceptId (s : State) (q : Queue) (c : HostCmd) : State :=
  let ident := c.slot.requestId
  if ident > q.highest then
    startCmd (setQueue s { q with highest := ident, history := histAdd q.history ident }) c
  else
    match q.history.find? (·.ident = ident) with
    | some ⟨_, none⟩ => setHif s fun h => { h with duplicates := h.duplicates ++ [c] }
    | some ⟨_, some (st, d0, d1)⟩ =>
      if st = 0x30 then startCmd (setQueue s { q with history := histAdd q.history ident }) c
      else bump (postCompletion s c.cqBase (completionOf c 1 st d0 d1)) .hif 0 0x134 0 16 1
    | none => bump (postCompletion s c.cqBase (completionOf c 0x13 0x13 q.highest 0)) .hif 0 0x134 16 16 1

/-- Whether the device takes a slot while it is detached: while it waits for GO, the host may delete and create queues and set
new rings on the admin queue (R309, DEDUCED, log 63). -/
def takesDetached (s : State) (q : Queue) (opcode : Nat) : Bool :=
  s.hif.waitGo && q.fn = 0 && q.queue = 0 && (opcode = 0x0010 || opcode = 0x0011 || opcode = 0x0012)

/-- Whether the device reads slots of a queue now, the next of which carries an opcode (R290, R293, R295, R309, R345, R347,
R362). -/
def mayConsume (s : State) (q : Queue) (opcode : Nat) : Bool :=
  (!s.hif.detached || takesDetached s q opcode) && !q.stopped && q.head != q.tail && q.held.isEmpty && cqUnread q < 2 ^ q.log2 - 1 && s.pwr.recess = s.pwr.recessing
    && isUp s
    && (!(q.fn = 0 && q.queue = 0) || (field s .hif 0 0x104 0 1 = 1 && !s.hif.adminPending))

/-- A queue past its slot (R293). -/
def advance (q : Queue) : Queue :=
  { q with head := (q.head + 1) % 2 ^ q.log2, expected := (q.expected + 1) % 65536, reReads := 0, again := false }

/-- The command of a slot of a queue. -/
def cmdOf (q : Queue) (bs : List Byte) : HostCmd := ⟨q.fn, q.queue, q.head, q.cqBase, slotOf bs⟩

/-- Whether a slot is valid (R292). -/
def slotValid (q : Queue) (bs : List Byte) : Bool := (slotOf bs).sequence = q.expected && slotCrcOk bs

/-- A valid slot consumed. -/
def consume (s : State) (q : Queue) (bs : List Byte) : State :=
  acceptId (setQueue s (advance q)) (advance q) (cmdOf q bs)

/-- STALE_SLOT: the queue waits at the slot (R293 step 3). -/
def stale (s : State) (q : Queue) : State :=
  post (bump (setQueue s { q with stopped := true, again := false, reReads := 0 }) .hif 0 0x130 0 16 1)
    .cmd q.fn 0x0001 [q.queue, q.head]

/-- The 16th re-read has failed (R293 steps 3 and 4). -/
def exhausted (s : State) (q : Queue) (bs : List Byte) : State :=
  if q.again && (slotOf bs).sequence = q.expected then
    let s1 := setQueue s (advance q)
    bump (postCompletion s1 q.cqBase (completionOf (cmdOf q bs) 0x10 0x10 0 0)) .hif 0 0x130 16 16 1
  else stale s q

/-- SLOT_READ: the first read of the slot at a queue's head (R293 step 1). -/
def execSlotRead (fn queue : Nat) (bytes : List Byte) (s : State) : Host.Outcome State Fault Refusal :=
  .next (match queueOf s fn queue with
    | none => s
    | some q =>
      if !mayConsume s q (slotOf bytes).opcode || q.reReads != 0 then s
      else if slotValid q bytes then consume s q bytes
      else setQueue s { q with reReads := 16 })

/-- SLOT_RE_READ: one of the 16 re-reads of an invalid slot (R293 step 2). -/
def execSlotReRead (fn queue : Nat) (bytes : List Byte) (s : State) : Host.Outcome State Fault Refusal :=
  .next (match queueOf s fn queue with
    | none => s
    | some q =>
      if !mayConsume s q (slotOf bytes).opcode || q.reReads = 0 then s
      else if slotValid q bytes then consume s q bytes
      else if q.reReads = 1 then exhausted s q bytes
      else setQueue s { q with reReads := q.reReads - 1 })

/-- DOORBELL (R293): a bad one is discarded; a good one moves SQ_TAIL and CQ_HEAD, frees completion room, lets a stopped
queue read again, and wakes a module in recess (R286, R347). -/
def execDoorbell (fn queue : Nat) (value : W64) (s : State) : Host.Outcome State Fault Refusal :=
  .next (match queueOf s fn queue with
    | none => stick s .hif 0 0
    | some q =>
      let tail := bitsOf value.toNat 0 16
      let hd := bitsOf value.toNat 16 16
      if tail ≥ 2 ^ q.log2 || hd ≥ 2 ^ q.log2 then stick s .hif 0 0
      else
        let s1 := setQueue s { q with tail := tail, cqHead := hd, again := q.again || q.stopped, stopped := false }
        let s2 := drainCompletions q.held.length fn queue s1
        startDomain (if s2.pwr.recess then beginWake s2 else s2) domHif)

/-- COMPLETION_POST: held records written once the ring has room (R295). -/
def execCompletionPost (fn queue : Nat) (s : State) : Host.Outcome State Fault Refusal :=
  .next (match queueOf s fn queue with
    | none => s
    | some q => drainCompletions q.held.length fn queue s)

/-- NOP (R298). -/
def execNop (c : HostCmd) (s : State) : Host.Outcome State Fault Refusal :=
  runCmd s 0x0001 c fun s => done s c

/-! ### Queues (R290) -/

/-- Whether a compute function holds an enabled die (R285). -/
def hasDie (s : State) (fn : Nat) : Bool := (s.hif.dies.take (Config.computeDies s.part)).contains fn

/-- QUEUE_CREATE (R290). -/
def execQueueCreate (c : HostCmd) (s : State) : Host.Outcome State Fault Refusal :=
  runCmd s 0x0010 c fun s =>
    let fn := bitsOf c.slot.param0 0 8
    let qn := bitsOf c.slot.param0 8 6
    let k := bitsOf c.slot.param0 16 5
    if c.slot.operand % 4096 ≠ 0 then refuse s c 0x18
    else if fn > 8 || k < 4 || k > 16 || (fn = 0 && (qn = 0 || qn > 3)) then refuse s c 0x20
    else if c.slot.param1 % 4096 ≠ 0 then refuse s c 0x28
    else if (queueOf s fn qn).isSome || (fn != 0 && !hasDie s fn) then refuse s c condition
    else
      done (setHif s fun h => { h with queues := h.queues ++ [freshQueue fn qn k c.slot.operand c.slot.param1] }) c

/-- QUEUE_DELETE: waits for the queue's other commands (R290, R298). -/
def execQueueDelete (c : HostCmd) (s : State) : Host.Outcome State Fault Refusal :=
  runCmd s 0x0011 c fun s =>
    let fn := bitsOf c.slot.param0 0 8
    let qn := bitsOf c.slot.param0 8 6
    if fn = 0 && qn = 0 then refuse s c 0x20
    else if (queueOf s fn qn).isNone then refuse s c condition
    else if (s.hif.running ++ s.hif.duplicates).any fun d => d != c && d.fn = fn && d.queue = qn then s
    else
      setHif (done s c) fun h => { h with queues := h.queues.filter fun q => !(q.fn = fn && q.queue = qn) }

/-! ### Rings (R303) and the resume area (R310) -/

/-- The offset of the first bad field of the block of HOST_RINGS_SET (R303). -/
def ringsFault (bs : List Byte) : Option Nat :=
  let bad := fun (off : Nat) (b : Bool) => if b then [off] else []
  (bad 0 (leAt bs 0 8 % 4096 != 0) ++ bad 8 (leAt bs 8 1 < 6 || leAt bs 8 1 > 16)
    ++ ((List.range 7).flatMap fun i => bad (9 + i) (leAt bs (9 + i) 1 != 0))
    ++ bad 0x10 (leAt bs 0x10 8 % 4096 != 0) ++ bad 0x18 (leAt bs 0x18 1 < 4 || leAt bs 0x18 1 > 12)
    ++ ((List.range 7).flatMap fun i => bad (0x19 + i) (leAt bs (0x19 + i) 1 != 0))
    ++ bad 0x20 (leAt bs 0x20 8 % 4096 != 0) ++ bad 0x28 (leAt bs 0x28 8 % 4096 != 0)
    ++ bad 0x30 (leAt bs 0x30 8 % 4096 != 0) ++ bad 0x38 (leAt bs 0x38 4 = 0 || leAt bs 0x38 4 > 1048576)).head?

/-- The rings of a block of HOST_RINGS_SET. -/
def ringsOf (bs : List Byte) : Rings :=
  ⟨leAt bs 0 8, leAt bs 8 1, leAt bs 0x10 8, leAt bs 0x18 1, leAt bs 0x20 8, leAt bs 0x28 8, leAt bs 0x30 8,
   leAt bs 0x38 4, leAt bs 0x3C 4⟩

/-- Held events written in order (R303, R309). -/
def releaseEvents (s : State) : State :=
  s.hif.eventsHeld.foldl putEvent (setHif s fun h => { h with eventsHeld := [] })

/-- New rings, started empty, with the head registers of R303. -/
def setRings (s : State) (r : Rings) : State :=
  let ev := match s.hif.eventsHeld with
    | e :: _ => e.seq
    | [] => s.hif.eventSeq
  let hd := match s.hif.handsHeld with
    | e :: _ => e.seq
    | [] => s.hif.handSeq
  let s1 := setHif s fun h =>
    { h with rings := some r, eventUnread := [], eventPos := 0, handUnread := [], handPos := 0, trOffset := 0 }
  let s2 := setReg (setReg (setPair64 s1 .hif 0 0x120 0) .hif 0 0x118 ev) .hif 0 0x11C hd
  if hostAway s2 then s2 else postLost (drainAllHands (releaseEvents s2))

/-- The highest identifier whose status was not ABORTED_BY_RESET (R310). -/
def lastCompleted (q : Queue) : Nat :=
  (q.history.filter fun e => e.done.any fun d => d.1 != 0x30).foldl (fun m e => max m e.ident) 0

/-- Offset of a queue's entry in the resume area (R310). -/
def resumeOffset (fn q : Nat) : Nat := if fn = 0 then 64 + 32 * q else 64 + 32 * (4 + 64 * (fn - 1) + q)

/-- The resume area written (R310). -/
def writeResume (s : State) (cause : Nat) : State :=
  match s.hif.rings with
  | none => s
  | some r =>
    let es := s.hif.queues.map fun q => (resumeOffset q.fn q.queue, lastCompleted q, q.highest, q.head, q.cqTail, 1)
    setHif (hostWrite s (.resume r.resume ⟨s.hif.resumeSeq, cause, s.hif.dropped, es⟩)) fun h =>
      { h with resumeSeq := h.resumeSeq + 1, dropped := 0 }

/-- HOST_RINGS_SET (R303); after an FLR of PF0 a resume area and the event RESUME follow its completion (R311),
or GO writes the area where the module waits for it (DEDUCED, log 63). -/
def execHostRingsSet (c : HostCmd) (s : State) : Host.Outcome State Fault Refusal :=
  runCmd s 0x0012 c fun s =>
    let bs := inlineOf c.slot 64
    match ringsFault bs with
    | some off => refuse s c (blockField off)
    | none =>
      let s1 := done (setRings s (ringsOf bs)) c
      if !s1.hif.pf0Resume then s1
      else
        let s2 := setHif s1 fun h => { h with pf0Resume := false }
        if hostAway s2 then s2 else post (writeResume s2 4) .hif 0 0x0003 [4]

/-- FUNCTION_MAP (R285). -/
def execFunctionMap (c : HostCmd) (s : State) : Host.Outcome State Fault Refusal :=
  runCmd s 0x0013 c fun s =>
    let n := Config.computeDies s.part
    let new := (List.range 8).map fun d => if d < n then bitsOf c.slot.param0 (8 * d) 8 else s.hif.dies.getD d 0
    let changed := (List.range n).filter fun d => new.getD d 0 != s.hif.dies.getD d 0
    let fns := changed.flatMap fun d => [new.getD d 0, s.hif.dies.getD d 0]
    if (new.take n).any fun f => f = 0 || f > 8 then refuse s c 0x20
    else if s.hif.queues.any fun q => fns.contains q.fn then refuse s c condition
    else done (setHif s fun h => { h with dies := new }) c

/-- Whether device writes to a range, accepted before, have yet to be made: the second writes of updates, and what a channel that retrains
holds up (R126, R189, R288). -/
def writesOpen (s : State) (a n : Nat) : Bool :=
  memWaits s a n || s.tables.open2.any fun o => overlaps o.weightsAt o.weights.length a n || overlaps o.checkAddr o.checkBytes.length a n

/-- BIAS_SET (R288); bits 63:1 of PARAM1 are ignored (DEDUCED, log 27). -/
def execBiasSet (c : HostCmd) (s : State) : Host.Outcome State Fault Refusal :=
  runCmd s 0x0014 c fun s =>
    let a := c.slot.operand
    let n := c.slot.param0
    if a % 65536 ≠ 0 || !devRange s a n then refuse s c 0x18
    else if n = 0 || n % 65536 ≠ 0 then refuse s c 0x20
    else if bitOf c.slot.param1 0 && writesOpen s a n then s
    else
      let pages := rangeFrom (a / 65536) (n / 65536)
      let keep := s.hif.sharedPages.filter fun pg => !(a / 65536 ≤ pg && pg < (a + n) / 65536)
      done (setHif s fun h =>
        { h with sharedPages := if bitOf c.slot.param1 0 then pages.foldl insertNat keep else keep }) c

/-! ### CXL (R282, R287, R289) -/

/-- CXL_SNOOP: every snoop is answered RspIHitI (R282). -/
def execCxlSnoop (_addr : Nat) (s : State) : Host.Outcome State Fault Refusal := .next (reply s .rspIHitI)

/-! ### The host link (R283, R309) -/

/-- SPEED of HIF_LINK_STAT (R313). -/
def speedCode (rate : Nat) : Nat := if rate ≥ 128 then 5 else if rate ≥ 64 then 4 else 3

/-- HOST_LINK_TRAINED; CXL.mem and CXL.cache count as enabled from then on (DESIGN CHOICE, log 17). -/
def execHostLinkTrained (rate width : Nat) (s : State) : Host.Outcome State Fault Refusal :=
  .next (
    let s1 := setReg s .hif 0 0x100 (width * 2 ^ 11 + speedCode rate * 2 ^ 8 + 15)
    let s2 := startDomain s1 domHif
    if rate < 128 || width < 16 then post s2 .hif 0 0x0004 [rate, width] else s2)

/-- Step 1 of R309: the module detaches. The number of writes in flight that are dropped is a free value (DESIGN CHOICE, log 7). -/
def detachHost (s : State) (cause : Nat) : State :=
  if s.hif.detached then s else
    let d := drawFree s
    bump (setHif d.1 fun h => { h with detached := true, waitGo := false, cause := cause, dropped := h.dropped + d.2 })
      .hif 0 0x13C 0 32 d.2

/-- HOST_LINK_LOSS (R309). -/
def execHostLinkLoss (s : State) : Host.Outcome State Fault Refusal :=
  .next (detachHost (setReg s .hif 0 0x100 0) 1)

/-- HOST_LINK_REATTACH: the wait for GO begins (R309 step 4). -/
def execHostLinkReattach (s : State) : Host.Outcome State Fault Refusal :=
  .next (if s.hif.detached && s.rel.recovery = 0 then setHif s fun h => { h with waitGo := true } else s)

/-- Step 5 of R309: the resume area, RESUME, then the held events and hands, in order. -/
def resumeHost (s : State) : State :=
  let held := s.hif.eventsHeld
  let s1 := writeResume (setHif s fun h => { h with detached := false, waitGo := false, eventsHeld := [] }) s.hif.cause
  let s2 := post s1 .hif 0 0x0003 [s.hif.cause]
  postLost (drainAllHands (held.foldl putEvent s2))

/-- A function may write a page, or the write is discarded (R284, R316). A module without auxiliary power takes nothing. -/
def guardWrite (s : State) (fn : Nat) (b : Blk) (i : Nat) (act : State → State) : State :=
  if !s.pwr.auxGood then s
  else if !blkPresent s.part b i then unmapped s
  else if !mayWrite s fn b i then stick s b i 0
  else act s

/-- GO taken: it ends the wait of step 4 of R309, and does nothing at another time. -/
def writeGo (s : State) : State := if s.hif.waitGo then resumeHost s else s

/-- RESUME_GO. -/
def execResumeGo (fn : Nat) (s : State) : Host.Outcome State Fault Refusal :=
  .next (guardWrite s fn .hif 0 writeGo)

/-! ### Ring heads (R304, R305, R307) -/

def writeEventHead (s : State) (v : Nat) : State :=
  let s1 := setReg s .hif 0 0x118 v
  postLost (setHif s1 fun h => { h with eventUnread := eventUnread s1 })

def writeHandHead (s : State) (v : Nat) : State :=
  let s1 := setReg s .hif 0 0x11C v
  drainAllHands (setHif s1 fun h => { h with handUnread := handUnread s1 })

/-- EVENT_HEAD_WRITE. -/
def execEventHeadWrite (fn : Nat) (value : W32) (s : State) : Host.Outcome State Fault Refusal :=
  .next (guardWrite s fn .hif 0 fun s => writeEventHead s value.toNat)

/-- HAND_HEAD_WRITE. -/
def execHandHeadWrite (fn : Nat) (value : W32) (s : State) : Host.Outcome State Fault Refusal :=
  .next (guardWrite s fn .hif 0 fun s => writeHandHead s value.toNat)

/-- TRANSCRIPT_HEAD_WRITE. -/
def execTranscriptHeadWrite (fn : Nat) (value : W64) (s : State) : Host.Outcome State Fault Refusal :=
  .next (guardWrite s fn .hif 0 fun s => setPair64 s .hif 0 0x120 value.toNat)

/-! ### The admin queue (R290) -/

/-- A write of HIF_ADMIN_CTL: ENABLE from 0 to 1 starts the queue, at once or once no earlier admin command runs. -/
def writeAdminCtl (s : State) (v : Nat) : State :=
  if !(writable .hif 0 0x104 v).ok then stick s .hif 0 2
  else
    let was := field s .hif 0 0x104 0 1
    let s1 := setReg s .hif 0 0x104 (v % 64)
    if was = 0 && v % 2 = 1 then
      if adminBusy s1 then setHif s1 fun h => { h with adminPending := true } else startAdmin s1
    else if v % 2 = 0 then setHif s1 fun h => { h with adminPending := false }
    else s1

/-- ADMIN_QUEUE_ENABLE: a write of HIF_ADMIN_CTL with ENABLE 1. -/
def execAdminQueueEnable (fn : Nat) (value : W32) (s : State) : Host.Outcome State Fault Refusal :=
  .next (guardWrite s fn .hif 0 fun s => writeAdminCtl s (setBits value.toNat 0 1 1))

/-- ADMIN_QUEUE_DISABLE: a write of HIF_ADMIN_CTL with ENABLE 0. -/
def execAdminQueueDisable (fn : Nat) (value : W32) (s : State) : Host.Outcome State Fault Refusal :=
  .next (guardWrite s fn .hif 0 fun s => writeAdminCtl s (setBits value.toNat 0 1 0))

/-- FLR_PF0 (R311): queues 1 to 3 and the admin queue go, the rings are cleared, control registers return to reset. -/
def execFlrPf0 (s : State) : Host.Outcome State Fault Refusal :=
  .next (
    let s1 := setHif s fun h =>
      { h with queues := h.queues.filter (·.fn != 0), rings := none, eventUnread := [], eventPos := 0, handUnread := [],
               handPos := 0, pf0Resume := true, adminPending := false }
    clearRegs s1 .hif 0 [0x104, 0x108, 0x10C, 0x110, 0x114, 0x118, 0x11C, 0x120, 0x124])

end Sys2Proof.Machine
end

