-- ==== Sys2Proof/Machine/Owner.lean ====
section
/-! DEFINITION. The owner of table rows: held batches, the merge of gradient rows, staged and rolled records, and the
replacement of a table (R155, R158, R161 to R168). -/

namespace Sys2Proof.Machine

/-! ### How far a table has come -/

/-- Members whose look-up mark of a table and step is here. -/
def marked (s : State) (t step src : Nat) : Bool := s.tables.marks.contains (t, step, src)

/-- Whether an engine of a requester has sent its end mark for a table and step. -/
def endedAt (s : State) (t step src e : Nat) : Bool :=
  s.tables.grads.any fun g => g.table = t && g.step = step && g.requester = src && g.engine = e && g.ended

/-- Whether every mark that a step of a table waits for is here (R158, R161). -/
def marksIn (s : State) (d : TableDesc) (step : Nat) : Bool :=
  (members s).all fun m => marked s d.table step m
    && (d.optimiser = 0 || (List.range 8).all fun e => endedAt s d.table step m e)

/-! ### Serving batches (R155, R158) -/

/-- Whether a batch of a step must wait at this owner. -/
def batchHeld (s : State) (d : TableDesc) (step epoch : Nat) : Bool :=
  (step > 0 && !appliedThrough s d (step - 1))
    || (s.tables.rolls.any fun r => r.table = d.table && r.step ≤ step)
    || switchHolds s d step
    || (d.switchStep != noSwitch && epoch = epochOfSlot d (1 - d.active) && (mget s.tables.staged d.table).isNone)

/-- What a key of a batch gives. -/
inductive KeyRead where
  | entry (s : State) (e : ReplyEntry)
  | wait (s : State)
  deriving DecidableEq, Repr

/-- One key read and checked in the order of R155. -/
def readKey (s : State) (d : TableDesc) (v step : Nat) (key : RowKey) : KeyRead :=
  let e := embPage s (engineOf key)
  match readyRecord s d v key step false with
  | .wait t => .wait t
  | .gone t a => .entry t ⟨key, [], 0, some (0x23, a, ueDetail t)⟩
  | .ok t bs =>
    if recordTag bs != d.tag then .entry t ⟨key, [], 0, some (0x20, recordTag bs, d.tag)⟩
    else
      let w := (bs.drop (weightsAt d)).take (weightBytes d.tag d.elements)
      .entry (bump64 t .emb e 0x108 1) ⟨key, w, recordVersion bs, none⟩

/-- The keys of a batch read in order; none while one of them waits. -/
def readKeys (s : State) (d : TableDesc) (v step : Nat) (keys : List RowKey) : State × Option (List ReplyEntry) :=
  keys.foldl (fun (acc : State × Option (List ReplyEntry)) k =>
    match acc.2 with
    | none => acc
    | some es =>
      match readKey acc.1 d v step k with
      | .wait t => (t, none)
      | .entry t e => (t, some (es ++ [e]))) (s, some [])

/-- A reply to a batch, from the engine that read it (R154). -/
def replyTo (s : State) (h : MsgHdr) (es : List ReplyEntry) : State :=
  sendHdr s h.srcClass { tableHeader s 0x05 h.dstPoint h.srcClass h.tensorId h.tableEpoch h.step with srcChannel := h.dstPoint
                                                                                                      dstPoint := h.srcChannel }
    (.reply es)

/-- A batch served, answered with its failure, or held (R155, R158, R162). -/
def serveBatch (s : State) (b : HeldBatch) : State :=
  let keep := fun (t : State) => setTables t fun x => { x with batches := x.batches ++ [b] }
  match tableAt s b.hdr.tensorId with
  | none => replyTo s b.hdr (b.keys.map fun k => ⟨k, [], 0, some (0x25, b.hdr.tensorId, b.hdr.tableEpoch)⟩)
  | some d =>
    match slotOfEpoch d b.hdr.tableEpoch with
    | none => replyTo s b.hdr (b.keys.map fun k => ⟨k, [], 0, some (0x25, b.hdr.tensorId, b.hdr.tableEpoch)⟩)
    | some v =>
      if batchHeld s d b.hdr.step b.hdr.tableEpoch then keep s
      else
        let r := readKeys (startDomain s (domEmb (embPage s b.hdr.dstPoint))) d v b.hdr.step b.keys
        match r.2 with
        | none => keep r.1
        | some es => replyTo (progress r.1 .emb (embPage r.1 b.hdr.dstPoint) 1) b.hdr es

/-- Every held batch tried again, in order of arrival. -/
def serveBatches (s : State) : State :=
  s.tables.batches.foldl serveBatch (setTables s fun t => { t with batches := [] })

/-! ### Rolled rows (R166, R167) -/

/-- The state region of a rolled record: kept or zeroed. -/
def rolledState (d : TableDesc) (r : Roll) (old : List Byte) : List Byte :=
  let n := stateBytes d.optimiser d.momentFp32 d.elements
  if r.zeroState then List.replicate n 0 else padTo n ((old.drop 8).take n)

/-- Whether the old record that a kept state comes from cannot be read (R129, R191). -/
def rollFault (s : State) (d : TableDesc) (v : Nat) (key : RowKey) (zero : Bool) : Option Nat :=
  let a := recordAddr d v key
  if zero || d.optimiser = 0 then none
  else if s.tables.torn.contains a then some a
  else if d.twinned && paired s then (badSector s a d.stride).filter s.gddr.unserved.contains
  else badSector s a d.stride

/-- A rolled record written whole, both stamps bits 23:0 of r - 1. A row whose state is kept, and whose old record can no longer be
read when its point in the order has come, is not written; the failed read is posted (DESIGN CHOICE, log 89). -/
def writeRoll (s : State) (d : TableDesc) (r : Roll) : State :=
  let stamp := (r.step + (2 ^ 64 - 1)) % 2 ^ 24
  let record := fun (old : List Byte) => recordHead stamp r.version d.tag ++ rolledState d r old
    ++ padTo (weightBytes d.tag d.elements) (r.weights.take (weightBytes d.tag d.elements)) ++ leBytes 3 stamp ++ [0]
  let drop := fun (t : State) => setTables t fun x => { x with rolls := x.rolls.filter (· != r) }
  let a := recordAddr d d.active r.key
  let s := finishOpen s a
  if stillOpen s a || memWaits s a d.stride || (d.twinned && s.twin.pair = .enrollingTarget) then s
  else if copyless s d.twinned r.step then drop s
  else if r.zeroState || d.optimiser = 0 then writeRecord (drop s) d d.active r.key (record [])
  else
    match readItem s a d.stride r.step d.twinned true false with
    | .ok bs => if s.tables.torn.contains a then drop (noteUE s a) else writeRecord (drop s) d d.active r.key (record bs)
    | .wait t => t
    | .fail t _ => drop t

/-- Rolls of a table whose point in the update order has come. -/
def runRolls (s : State) (d : TableDesc) : State :=
  (s.tables.rolls.filter fun r => r.table = d.table).foldl (fun t r =>
    if !t.job.running || (nextApply t d.table ≥ r.step && !rowsPending t d.table) then writeRoll t d r else t) s

/-! ### The merge (R161) -/

/-- Contributions of one engine to one table and step: ascending requester, each requester's rows in order of arrival. -/
def contributions (s : State) (t step e : Nat) : List (Nat × GradRow) :=
  (sortBy (·.requester) (s.tables.grads.filter fun g => g.table = t && g.step = step && g.engine = e)).flatMap fun g =>
    g.rows.map fun r => (g.epoch, r)

/-- Two rows added element by element, to nearest with ties to even (R161). The rule names no mode for the merge: subnormals are kept
and an overflow gives an infinity, as in STRICT, and no event counts (DESIGN CHOICE, log 86). -/
def addRow (a b : List Nat) : List Nat :=
  (a.zip b).map fun p => (opAdd (ctl32 .strict) (decodeFmt .fp32 p.1) (decodeFmt .fp32 p.2)).1

/-- The sum of contributions: the first sets it, each later one is added. -/
def addRows (rs : List (List Nat)) : List Nat :=
  match rs with
  | [] => []
  | r :: rest => rest.foldl addRow r

/-- The reduced rows of one engine in ascending local shard and slot. -/
def mergeEngine (s : State) (d : TableDesc) (step e : Nat) : List PendRow :=
  let cs := contributions s d.table step e
  let keys := sortBy (fun k => localShard d k.shard * 2 ^ 64 + k.slot) (dedup [] (cs.map fun c => c.2.key))
  keys.filterMap fun k =>
    let mine := cs.filter fun c => c.2.key = k
    (mine.head?.bind fun c => slotOfEpoch d c.1).map fun v => ⟨d.table, e, k, step, v, addRows (mine.map fun c => c.2.elems), 0⟩

/-- The reduced rows of a step applied to a table, engine by engine (R161, R173). -/
def applyStep (s : State) (d : TableDesc) (step : Nat) : State :=
  let rows := (List.range 8).flatMap (mergeEngine s d step)
  let s1 := setTables s fun t =>
    { t with grads := t.grads.filter fun g => !(g.table = d.table && g.step ≤ step)
             marks := t.marks.filter fun m => !(m.1 = d.table && m.2.1 ≤ step)
             applied := mput t.applied d.table step }
  rows.foldl (fun t r => applyRow (bump64 t .emb (embPage t r.engine) 0x110 1) r) s1

/-- The next step of a table applied once its marks are in and the pre-scale of the step stands (R158, R161, R105). -/
def tryApply (s : State) (d : TableDesc) : State :=
  let step := nextApply s d.table
  if s.job.running && marking s && !rowsPending s d.table && pReady s d.tensor
      && !(s.tables.columns.any fun c => c.table = d.table && c.step < step) && step ≤ s.job.openStep && marksIn s d step
  then applyStep s d step
  else s

/-- One table moved on: the next step's rows, then its rolls. -/
def advanceTable (s : State) (t : Nat) : State :=
  match tableAt s t with
  | none => s
  | some d => runRolls (tryApply s d) d

/-- Every table moved on, then the held batches (R158). -/
def advanceTables (s : State) : State := serveBatches (s.tables.descs.foldl (fun t e => advanceTable t e.1) s)

/-- Waiting rows and tiles tried again, and what they held up. -/
def kickUpdates (s : State) : State := advanceTables (retryTiles (retryRows s))

/-! ### Messages at the owner -/

/-- LOOK_UP_BATCH. A repeat is acknowledged again and read anew (R168, R193). -/
def execLookUpBatch (h : MsgHdr) (keys : List RowKey) (s : State) : Host.Outcome State Fault Refusal :=
  let serve := fun (t : State) => serveBatch t ⟨h, keys⟩
  .next (receiveWith s h serve serve)

/-- Gradient rows of a stream put behind those of the same requester's engine. -/
def addGrads (s : State) (h : MsgHdr) (rows : List GradRow) : State :=
  let same := fun (g : GradSet) => g.table = h.tensorId && g.step = h.step && g.requester = h.srcClass && g.engine = h.dstPoint
  setTables s fun t =>
    { t with grads := match t.grads.find? same with
        | some g => t.grads.map fun x => if same x then { g with rows := g.rows ++ rows, ended := g.ended || h.last } else x
        | none => t.grads ++ [⟨h.tensorId, h.step, h.tableEpoch, h.srcClass, h.dstPoint, rows, h.last⟩] }

/-- GRADIENT_ROWS. Rows of a retired table epoch are discarded, acknowledged and counted (R162). -/
def execGradientRows (h : MsgHdr) (rows : List GradRow) (s : State) : Host.Outcome State Fault Refusal :=
  .next (receive s h fun s =>
    match tableAt s h.tensorId with
    | none => bump s .emb (embPage s h.dstPoint) 0x124 0 16 rows.length
    | some d =>
      let s := startDomain s (domEmb (embPage s h.dstPoint))
      if (slotOfEpoch d h.tableEpoch).isSome then advanceTables (addGrads s h rows)
      else
        advanceTables (addGrads (bump s .emb (embPage s h.dstPoint) 0x124 0 16 rows.length) h []))

/-- LOOK_UP_MARK (R158). -/
def execLookUpMark (h : MsgHdr) (s : State) : Host.Outcome State Fault Refusal :=
  .next (receive s h fun s =>
    if marked s h.tensorId h.step h.srcClass then s
    else advanceTables (setTables s fun t => { t with marks := t.marks ++ [(h.tensorId, h.step, h.srcClass)] }))

/-- UPDATE_SECOND_WRITE: the second write of the update open at an address (R189), once its channels take it (R172). -/
def execUpdateSecondWrite (addr : Nat) (s : State) : Host.Outcome State Fault Refusal :=
  .next (finishOpen s addr)

/-- REDUCED_GRADIENT_TILE: an accepted tile goes to its unit (R171, R175). -/
def execReducedGradientTile (h : MsgHdr) (line depth : Nat) (elems : List Nat) (s : State) : Host.Outcome State Fault Refusal :=
  .next (receive s h fun s => applyTile s { hdr := h, line := line, depth := depth, elems := elems })

/-! ### Routed items at the owner (R163, R166) -/

/-- A staged record or its last marker. -/
def takeStage (s : State) (t index : Nat) (record : List Byte) (last : Bool) : State × Refused :=
  match tableAt s t with
  | none => (s, rangeOf condition)
  | some d =>
    if d.replaceMode != 1 || d.switchStep = noSwitch then (s, rangeOf condition)
    else if last then (serveBatches (setTables s fun x => { x with staged := mput x.staged t 1 }), (0, 0, 0))
    else
      match keyOf d index with
      | none => (s, rangeOf condition)
      | some key =>
        let rec' := padTo (recordLength d) (record.take (recordLength d))
        (writeRecord s d (1 - d.active) key (stampRecord d rec' ((d.switchStep - 1) % 2 ^ 24)), (0, 0, 0))

/-- A rolled row: the owner fixes r and forwards the row with it to the twin; the twin takes the r it is given. -/
def takeRoll (s : State) (t index version : Nat) (zero : Bool) (w : List Byte) (fixed : Option Nat) (tag : Nat) :
    State × Refused :=
  match tableAt s t with
  | none => (s, rangeOf condition)
  | some d =>
    match keyOf d index with
    | none => (s, rangeOf condition)
    | some key =>
      if d.replaceMode != 2 then (s, rangeOf condition)
      else
        match (if fixed.isSome then none else rollFault s d d.active key zero) with
        | some a => (noteUE s a, (0x23, a, ueDetail s))
        | none =>
        let r := fixed.getD (nextStep s.job.openStep)
        let s1 := setTables s fun x => { x with rolls := x.rolls ++ [⟨t, key, version, zero, w, r⟩] }
        let others := if fixed.isSome then [] else (rowHolders s d (ownerOf d key.shard)).filter (· != s.twin.number)
        let s2 := others.foldl (fun u m => send u m 0x10 8 0x18 u.job.openStep (.routed (.roll t index version zero w (some r)) tag)) s1
        (runRolls s2 d, (0, r, r))

/-! ### Switching (R163 to R165, R170) -/

/-- Tables that this module has drained of their old epoch (R164). -/
def drainedTables (s : State) : List Nat :=
  (s.tables.descs.filter fun e =>
    let d := e.2
    d.switchStep != noSwitch && s.job.openStep ≥ d.switchStep
      && (!(allHolders s d).contains s.twin.number || appliedThrough s d (d.switchStep - 1))
      && !(s.tables.lookups.any fun lk => !lk.done && lk.table = d.table && lk.step < d.switchStep)
      && !(s.tables.batches.any fun b => b.hdr.tensorId = d.table && b.hdr.step < d.switchStep)).map (·.1)

/-- A table whose every module has drained flips its slots (R164). -/
def flipTable (s : State) (t : Nat) : State :=
  match tableAt s t with
  | none => s
  | some d =>
    if d.switchStep = noSwitch then s
    else
      let old := epochOfSlot d d.active
      let s1 := setTables s fun x =>
        { x with descs := mput x.descs t { d with active := 1 - d.active, switchStep := noSwitch }
                 staged := mdel x.staged t
                 retired := x.retired ++ [⟨t, d.switchStep, old⟩] }
      post (markDesc s1 t d.switchStep) .emb 0 0x0400 [t, old]

/-- The switch hands of the tables whose SWITCH_STEP opens, in host-assisted mode (R165). -/
def raiseSwitches (s : State) : State :=
  s.tables.descs.foldl (fun t e =>
    let d := e.2
    if d.switchStep = t.job.openStep && field t .emb 0 0x010 0 1 = 1 then
      raise (setTables t fun x => { x with frozenSwitch := x.frozenSwitch ++ [d.table] }) .emb 0 0
        [d.table, epochOfSlot d d.active, epochOfSlot d (1 - d.active)]
    else t) s

/-- The answer to a switch hand. -/
def answerSwitch (s : State) (v : Nat) : State :=
  answer s .emb 0 fun h t =>
    let table := h.items.getD 0 0
    let free := setTables t fun x => { x with frozenSwitch := x.frozenSwitch.filter (· != table) }
    match v % 4 with
    | 0 => some (serveBatches free)
    | 1 => some (serveBatches (markDesc (setTables free fun x =>
        { x with descs := mmod x.descs table fun d => { d with switchStep := noSwitch }, staged := mdel x.staged table }) table t.job.openStep))
    | _ => none

/-- TABLE_SWITCH_ANSWER. -/
def execTableSwitchAnswer (fn : Nat) (value : W32) (s : State) : Host.Outcome State Fault Refusal :=
  .next (guardWrite s fn .emb 0 fun s => answerSwitch s value.toNat)

end Sys2Proof.Machine
end

