-- ==== Sys2Proof/Machine/Scale.lean ====
section
/-! DEFINITION. Scaling records, outlier channels, the gradebook and its commands, and the exchanges of a closed step
(R105 to R117, R182, R188, R253, R266 to R281). -/

namespace Sys2Proof.Machine

/-! ### Scaling records -/

/-- A scaling record as its 32 bytes (R116). -/
def scaleBytes (t : Nat) (r : ScaleRec) : List Byte :=
  leBytes 2 t ++ leBytes 1 (unsignedOf 8 r.p) ++ leBytes 1 r.count ++ leBytes 1 r.lift ++ leBytes 3 0 ++ leBytes 8 r.step
    ++ r.hist.map fun h => byteOf (unsignedOf 8 h)

/-- The p that a history gives (R106 step 4). -/
def computeP (s : State) (r : ScaleRec) : Int :=
  let hs := (r.hist.take r.count).filter (· != -128)
  match hs with
  | [] => clampP (pInit s + 4 * r.lift)
  | h :: t => clampP ((field s .mgt 0 0x200 16 7 : Nat) - t.foldl max h + 4 * r.lift)

/-- The history shifted by the result of a closed step (R106 step 3). -/
def shiftHist (r : ScaleRec) (step : Nat) (h : Int) : ScaleRec :=
  { r with hist := h :: r.hist.take 15, count := min (r.count + 1) 16, step := step }

/-- A scaling record changed. The fields that stand in its 32 bytes stay as they are while its sector is uncorrectable (R107). -/
def setScale (s : State) (t : Nat) (f : ScaleRec → ScaleRec) : State :=
  let lost := (badSector s (scaleAddr s.part t) 32).isSome
  let g := fun (r : ScaleRec) =>
    let n := f r
    if lost then { n with p := r.p, count := r.count, lift := r.lift, step := r.step, hist := r.hist } else n
  mark { s with scaling := mmod s.scaling t g } (scaleAddr s.part t) 32

/-- A new p for a tensor; a change is counted. -/
def putP (s : State) (t : Nat) (r : ScaleRec) (p : Int) : State :=
  let s1 := setScale s t fun x => { x with p := p }
  if p = r.p then s1 else bump s1 .mgt 0 0x208 0 32 1

/-- A pre-scale or silent-layer hand of a tensor. -/
def mgtHand (s : State) (bit t : Nat) : Option Hand :=
  s.hif.hands.find? fun h => h.page = pageOf .mgt 0 && h.bit = bit && h.items.getD 0 0 = t

/-- A history restarted (R107): n 0, every entry empty, LIFT kept; the record is written whole. first is the first step run after it. -/
def restartHist (s : State) (t first : Nat) : State :=
  match mget s.scaling t with
  | none => s
  | some r =>
    let s1 := setScale (healScale s t) t fun x => { x with count := 0, hist := List.replicate 16 (-128), resetAsked := false, resetDue := none }
    post (bump (putP s1 t r (clampP (pInit s + 4 * r.lift))) .mgt 0 0x210 0 16 1) .mgt 0 0x0500 [t, first]

/-- p for the step after a closed one: the restart of SCALE_RESET, the computed p, or in host-assisted mode a hand
(R106 step 4, R107, R108). -/
def nextP (s : State) (t step : Nat) : State :=
  match mget s.scaling t with
  | none => s
  | some r =>
    if r.resetDue.any (· ≤ step) then restartHist s t (step + 1)
    else
      let p := computeP s r
      if field s .mgt 0 0x010 0 1 = 0 then putP s t r p
      else if r.waitP || p = r.p then s
      else raise (setScale s t fun x => { x with waitP := true }) .mgt 0 0 [t, unsignedOf 64 r.p, unsignedOf 64 p]

/-- A hand of a tensor withdrawn, if one stands. -/
def withdrawHand (s : State) (bit t : Nat) : State :=
  match mgtHand s bit t with
  | some h => withdraw s h
  | none => s

/-- Every hand of a tensor withdrawn (R115): the pre-scale and the silent-layer rule go on without one, and a tensor that waits for an
outlier list keeps its current one (DESIGN CHOICE, log 99). -/
def withdrawHands (s : State) (t : Nat) : State :=
  let s1 := setScale (withdrawHand (withdrawHand (withdrawHand s 0 t) 1 t) 2 t) t fun x =>
    { x with waitP := false, silentHand := false, silentItems := [], answer := none }
  { s1 with outliers := mmod s1.outliers t fun o => if o.hand then { o with hand := false, next := some (o.current, o.proposedStep) } else o }

/-- SCALE_RESET on one member: the tensor's hands are withdrawn; the restart comes at the next step boundary, at once with no job (R107,
R115). -/
def installScaleReset : Install := fun c s =>
  let t := bitsOf c.slot.param0 0 16
  if (mget s.scaling t).isNone then .error (rangeOf 0x20)
  else
    let s1 := kickUpdates (withdrawHands s t)
    if s.job.running then .ok (setScale s1 t fun x => { x with resetAsked := true })
    else .ok (restartHist s1 t s.job.openStep)

def execScaleReset (c : HostCmd) (s : State) : Host.Outcome State Fault Refusal :=
  runCmd s 0x011A c fun s => startClass s c [] installScaleReset

/-! ### Outlier channels (R111 to R114) -/

/-- Channels allowed in each block of 128 (R117). -/
def perBlock (s : State) : Nat := field s .mgt 0 0x204 4 2

/-- The list of an OUTLIER_SET. -/
def outlierList (c : ClassCmd) : List Nat := (entriesOf c.data 4 (bitsOf c.slot.param0 16 16)).map fun b => leNat b

/-- OUTLIER_SET on one member: ascending, at most PER_BLOCK in a block (R112). -/
def installOutlierSet : Install := fun c s =>
  let t := bitsOf c.slot.param0 0 16
  let l := outlierList c
  if !strictlyRising l || l.any fun k => (l.filter fun x => x / 128 = k / 128).length > perBlock s then .error (rangeOf condition)
  else .ok { s with outliers := mput s.outliers t { (mget s.outliers t).getD noOutliers with host := some l } }

def execOutlierSet (c : HostCmd) (data : List Byte) (s : State) : Host.Outcome State Fault Refusal :=
  runCmd s 0x011B c fun s =>
    let n := 4 * bitsOf c.slot.param0 16 16
    if operandOut s c n then refuse s c 0x18
    else
      match operandFault s c n with
      | some a => failUE s c a
      | none => startClass s c (operandBytes s c data n) installOutlierSet

/-- The maxima of a tensor at a selection: this module's and those that came from the others (R113 step 1). -/
def channelMaxima (o : Outliers) (step : Nat) : List (Nat × Nat) :=
  ((o.peers.filter fun q => q.1 = step).map (·.2)).foldl (fun m q =>
    let old := (mget m q.1).getD 0
    if (decodeFmt .fp32 old).lt (decodeFmt .fp32 q.2) then mput m q.1 q.2 else m) o.stats

/-- m_b of a block (R113 step 2). -/
def blockMean (m : List (Nat × Nat)) (b : Nat) : Val :=
  let c := ctl32 .strict
  let sum := (rangeFrom (128 * b) 128).foldl (fun acc k =>
    (opAdd c (decodeFmt .fp32 acc) (decodeFmt .fp32 ((mget m k).getD 0))).1) 0
  decodeFmt .fp32 (opMul c (decodeFmt .fp32 sum) (.fin false 1 (-7))).1

/-- The channels chosen in a block (R113 steps 3 and 4): descending maximum, then ascending index. -/
def chooseBlock (s : State) (o : Outliers) (m : List (Nat × Nat)) (b : Nat) : List Nat :=
  let t := field s .mgt 0 0x204 0 4
  let mean := blockMean m b
  let val := fun (k : Nat) => decodeFmt .fp32 ((mget m k).getD 0)
  let cand := (rangeFrom (128 * b) 128).filter fun k =>
    !(val k).lt (scaleVal mean t) || (o.current.contains k && !(val k).lt (scaleVal mean ((t : Int) - 1)))
  sortBy id ((sortBy (fun k => 2 ^ 32 - (mget m k).getD 0) cand).take (perBlock s))

/-- The list that a selection proposes; blocks without any weight seen choose none (DESIGN CHOICE, log 38). -/
def chooseOutliers (s : State) (o : Outliers) (m : List (Nat × Nat)) : List Nat :=
  (dedup [] (m.map fun q => q.1 / 128)).flatMap (chooseBlock s o m)

/-- A list of a tensor made pending from the step after a selection step, and its change counted (R113, R114). -/
def takeList (s : State) (t step : Nat) (l : List Nat) : State :=
  let o := (mget s.outliers t).getD noOutliers
  let entered := (l.filter fun k => !o.current.contains k).length
  let left := (o.current.filter fun k => !l.contains k).length
  let s1 := { s with outliers := mput s.outliers t { o with next := some (l, step + 1), hand := false } }
  if entered = 0 && left = 0 then s1
  else post (bump (bump s1 .mgt 0 0x20C 0 16 entered) .mgt 0 0x20C 16 16 left) .mgt 0 0x0501 [entered, left]

/-- Whether the maxima of every other member are in for a selection step (R113 step 1). -/
def maximaIn (s : State) (step : Nat) : Bool :=
  (members s).all fun m => m = s.twin.number || s.col.maxima.contains (step, m)

/-- OUTLIER_SELECTION: the combined maxima of a tensor are in and its list for a selection step is chosen. It waits while
the drain before a permute runs (R115). -/
def execOutlierSelection (tensor step : Nat) (s : State) : Host.Outcome State Fault Refusal :=
  .next (match mget s.tables.shards tensor with
    | none => s
    | some _ =>
      let o := (mget s.outliers tensor).getD noOutliers
      if !isSelection s step || s.job.openStep != step || o.proposedStep ≥ step + 1 || !maximaIn s step
          || s.col.reshard.any (fun r => !r.switched && r.boundary ≤ step) then s
      else
        let l := chooseOutliers s o (channelMaxima o step)
        let o1 := { o with proposed := l, proposedStep := step + 1, stats := [], peers := o.peers.filter fun q => q.1 > step }
        let s1 := { s with outliers := mput s.outliers tensor o1 }
        if field s .mgt 0 0x010 1 1 = 1 && l != o.current then
          raise { s1 with outliers := mput s1.outliers tensor { o1 with hand := true } } .mgt 0 1 [tensor]
        else takeList s1 tensor step l)

/-- The lists whose step has come are current. -/
def advanceLists (s : State) : State :=
  { s with outliers := s.outliers.map fun e => (e.1, match e.2.next with
      | some (l, eff) => if eff ≤ s.job.openStep then { e.2 with current := l, next := none } else e.2
      | none => e.2) }

/-! ### Answers of MGT instance 0 (R117, R275) -/

/-- Largest LIFT of the silent-layer rule. -/
def maxLift (s : State) : Nat := field s .mgt 0 0x214 5 3

/-- An answer to a pre-scale, outlier or silent-layer hand. -/
def answerMgt (s : State) (v : Nat) : State :=
  let action := bitsOf v 8 2
  let value := bitsOf v 0 8
  answer s .mgt 0 fun h t =>
    let tensor := h.items.getD 0 0
    if action = 3 then none
    else
      match h.bit with
      | 0 =>
        let sv := signedOf 8 value
        if sv < -64 || sv > 96 then none
        else
          (mget t.scaling tensor).map fun r =>
            let p := if action = 0 then signedOf 64 (h.items.getD 2 0) else if action = 1 then sv else r.p
            kickUpdates (setScale (putP t tensor r p) tensor fun x => { x with waitP := false })
      | 1 =>
        let o := (mget t.outliers tensor).getD noOutliers
        let step := o.proposedStep - 1
        if action = 0 then some (kickUpdates (takeList t tensor step o.proposed))
        else if action = 2 then some (kickUpdates (takeList t tensor step o.current))
        else o.host.map fun l => kickUpdates (takeList t tensor step l)
      | _ =>
        if value > maxLift s then none
        else
          (mget t.scaling tensor).map fun r =>
            let l := if action = 0 then h.items.getD 3 0 else if action = 1 then value else r.lift
            setScale t tensor fun x => { x with answer := some l }

/-- PRESCALE_ANSWER: a write of BLK_ANSWER; it applies to the oldest hand of the page. -/
def execPrescaleAnswer (fn : Nat) (value : W32) (s : State) : Host.Outcome State Fault Refusal :=
  .next (guardWrite s fn .mgt 0 fun s => answerMgt s value.toNat)

/-- OUTLIER_ANSWER: the same register. -/
def execOutlierAnswer (fn : Nat) (value : W32) (s : State) : Host.Outcome State Fault Refusal :=
  .next (guardWrite s fn .mgt 0 fun s => answerMgt s value.toNat)

/-- SILENT_LAYER_ANSWER: the same register. -/
def execSilentLayerAnswer (fn : Nat) (value : W32) (s : State) : Host.Outcome State Fault Refusal :=
  .next (guardWrite s fn .mgt 0 fun s => answerMgt s value.toNat)

/-! ### Exchanges of the class (R248, R253, R272) -/

/-- The next member of the implicit ring of the class, in ascending class number. -/
def nextMember (s : State) : Option Nat :=
  let ms := members s
  match (ms.find? fun m => m > s.twin.number).or ms.head? with
  | some m => if m = s.twin.number then none else some m
  | none => none

def partOrigin : ExchangePart → Nat
  | .close o _ => o
  | .grade o _ => o
  | .drained o _ => o
  | .permuted o _ => o

/-- Which exchange a part belongs to. -/
def partTag : ExchangePart → Nat
  | .close _ _ => 0
  | .grade _ _ => 1
  | .drained _ _ => 2
  | .permuted _ _ => 3

/-- Whether a module's part of an exchange is here. -/
def partFrom (s : State) (step tag m : Nat) : Option ExchangePart :=
  (s.col.parts.find? fun q => q.1 = step && partTag q.2 = tag && partOrigin q.2 = m).map (·.2)

/-- A part kept and passed on around the ring until it has reached every member (DESIGN CHOICE, log 37). -/
def passPart (s : State) (step : Nat) (p : ExchangePart) : State :=
  if (partFrom s step (partTag p) (partOrigin p)).isSome then s
  else
    let s1 := setCol s fun c => { c with parts := c.parts ++ [(step, p)] }
    match nextMember s1 with
    | none => s1
    | some m => if m = (partOrigin p) then s1 else send s1 m 0x0B 8 0x18 step (.exchange p)

/-- Whether every member's part of an exchange is here. -/
def partsIn (s : State) (step tag : Nat) : Bool := (members s).all fun m => (partFrom s step tag m).isSome

/-- The parts of an exchange in ascending class number. -/
def partsOf (s : State) (step tag : Nat) : List ExchangePart := (members s).filterMap (partFrom s step tag)

/-- STEP_CLOSE_CONTRIBUTION; that of a removed module is discarded and counted (R263). -/
def execStepCloseContribution (h : MsgHdr) (p : ExchangePart) (s : State) : Host.Outcome State Fault Refusal :=
  .next (receive s h fun s => if isMember s (partOrigin p) then passPart s h.step p else bump s .col 0 0x11C 0 32 1)

/-- What this module holds for the next step boundary that every module has reached: tables, rings, restarts (R144, R247, R107). -/
def pendingKeysOf (s : State) : List Nat :=
  s.tables.newDescs.map (·.1) ++ s.col.newRings.map (fun e => 2 ^ 16 + e.1)
    ++ (s.scaling.filter fun e => e.2.resetAsked).map fun e => 2 ^ 17 + e.1

/-- The history entries, drained tables and flags of a step that closes (R253). -/
def closePart (s : State) : ExchangePart :=
  .close s.twin.number
    { histories := s.scaling.map fun e => (e.1, e.2.own)
      drainedTables := drainedTables s
      reshardDrained := s.col.reshard.any (·.drained)
      permuteDone := s.col.reshard.any (·.permuteDone)
      pendingHands := (s.scaling.filter fun e => e.2.waitP).length + (s.outliers.filter fun e => e.2.hand).length
      pending := pendingKeysOf s }

/-- h_s of a tensor: the largest entry of the modules (R106 step 2). -/
def entryOf (ps : List ExchangePart) (t : Nat) : Int :=
  ps.foldl (fun m p => match p with
    | .close _ c => max m (((c.histories.find? fun q => q.1 = t).map (·.2)).getD (-128))
    | _ => m) (-128)

/-- Tables that every module has drained (R164). -/
def allDrained (ps : List ExchangePart) (t : Nat) : Bool :=
  ps.all fun p => match p with
    | .close _ c => c.drainedTables.contains t
    | _ => false

/-- Whether every module holds a key for the step boundary of an exchange (R144, R247, R107, DEDUCED, log 84). -/
def allPending (ps : List ExchangePart) (key : Nat) : Bool :=
  ps.all fun p => match p with
    | .close _ c => c.pending.contains key
    | _ => false

/-- Tables and rings whose keys are chosen come into force, from the step after a closed one. -/
def takeForce (s : State) (closed : Nat) (now : Nat → Bool) : State :=
  let s1 := (s.tables.newDescs.filter fun e => now e.1).foldl (fun t e =>
    track (markDesc (setTables t fun x => { x with descs := mput x.descs e.1 e.2, applied := mput x.applied e.1 closed }) e.1 (closed + 1))
      e.2.tensor) s
  setCol (setTables s1 fun t => { t with newDescs := t.newDescs.filter fun e => !now e.1 }) fun c =>
    { c with rings := (c.newRings.filter fun e => now (2 ^ 16 + e.1)).foldl (fun m e => mput m e.1 e.2) c.rings
             newRings := c.newRings.filter fun e => !now (2 ^ 16 + e.1) }

/-- What every module holds pending at the exchange of a step takes force; restarts come with its pre-scale (R106, R107). -/
def takePending (s : State) (step : Nat) (ps : List ExchangePart) : State :=
  let s1 := takeForce s step (allPending ps)
  { s1 with scaling := s1.scaling.map fun e =>
      (e.1, if e.2.resetAsked && allPending ps (2 ^ 17 + e.1) then { e.2 with resetAsked := false, resetDue := some step } else e.2) }

/-- Measurements of a tensor on one update unit: its engines' and tiles' partials in the order of R173. -/
def unitStat (stats : List (Nat × UpdStat)) (t unit : Nat) : UpdStat :=
  (stats.filter fun e => e.1 / 2 ^ 40 = 16 * t + unit).foldl (fun a e => a.merge e.2) UpdStat.zero

/-- Measurements of a tensor over the module: the units' in ascending number (R110, R173). -/
def tensorStat (stats : List (Nat × UpdStat)) (t : Nat) : UpdStat :=
  (List.range 16).foldl (fun a u => a.merge (unitStat stats t u)) UpdStat.zero

/-- The part of this module in the gradebook exchange of a closed step (R272). -/
def gradePart (s : State) (c : Closing) : ExchangePart :=
  .grade s.twin.number (s.scaling.map fun e =>
    let st := tensorStat c.stats e.1
    ⟨e.1, st.updated, st.changed, !e.2.silentHand || e.2.answer.isSome, e.2.answer.getD 7⟩)

/-- Tensors whose histories the parts of a close name. -/
def namedTensors (ps : List ExchangePart) : List Nat :=
  ps.flatMap fun p => match p with
    | .close _ c => c.histories.map (·.1)
    | _ => []

/-- A record created for every tracked tensor that the members name (R105): a tensor that one module's SHARD_DEFINE makes tracked has its
record on every module from the close of that step (DEDUCED, log 97). -/
def trackNamed (s : State) (ps : List ExchangePart) : State := (namedTensors ps).foldl track s

/-- The reads of every scaling record at the exchange of a step; what comes back has asked the twin for those that are uncorrectable
here, and says whether one is still awaited (R107). One that no twin can serve is left as it is until SCALE_RESET. -/
def recordsRead (s : State) (step : Nat) : State × Bool :=
  s.scaling.foldl (fun q e => match scaleRead q.1 e.1 step with
    | .wait u => (u, true)
    | _ => q) (s, false)

/-- STEP_CLOSE_EXCHANGE_DONE: the step-close parts of every member are in (R106 steps 2 and 3, R164, R272). -/
def execStepCloseExchangeDone (step : Nat) (s : State) : Host.Outcome State Fault Refusal :=
  .next (match s.grade.closings.find? (·.step = step) with
    | none => s
    | some c =>
      if !partsIn s step 0 || (partFrom s step 1 s.twin.number).isSome then s
      else if (recordsRead s step).2 then (recordsRead s step).1
      else
        let ps := if (members s).isEmpty then (partFrom s step 0 s.twin.number).toList else partsOf s step 0
        let s0 := takePending (trackNamed s ps) step ps
        let s1 := s0.scaling.foldl (fun t e => setScale t e.1 fun r =>
          if r.count != 0 && r.step = step then r else shiftHist r step (entryOf ps e.1)) s0
        let flips := (s.tables.descs.map (·.1)).filter fun t => !ps.isEmpty && allDrained ps t
        passPart (declareMarks (flips.foldl flipTable s1)) step (gradePart s1 c))

/-! ### The silent-layer rule (R273 to R275) -/

/-- The combined contribution of a tensor: sums and minima (R272). -/
def combineGrade (ps : List ExchangePart) (t : Nat) : GradeContribution :=
  (ps.filterMap fun p => match p with
    | .grade _ c => c.find? (·.tensor = t)
    | _ => none).foldl (fun a c =>
      ⟨t, a.updated + c.updated, a.changed + c.changed, a.answered && c.answered, min a.lift c.lift⟩) ⟨t, 0, 0, true, 7⟩

/-- Whether a step is silent for a tensor (R273). -/
def silentStep (s : State) (g : GradeContribution) : Bool :=
  g.updated > 0 && g.changed * 2 ^ (field s .mgt 0 0x214 0 5) < g.updated

/-- A new LIFT counted and posted (R274, R275); one that is not a raise counts as reported (DEDUCED, log 39). -/
def setLift (s : State) (t step : Nat) (r : ScaleRec) (l : Nat) : State :=
  let s1 := setScale s t fun x => { x with lift := l }
  if l > r.lift then post (bump s1 .mgt 0 0x220 0 16 1) .mgt 0 0x0503 [t, step, l]
  else post (bump s1 .mgt 0 0x220 16 16 1) .mgt 0 0x0504 [t, step]

/-- The rule acts on a tensor whose silent run is full. -/
def actSilent (s : State) (t step : Nat) (r : ScaleRec) : State :=
  let l := if r.lift < maxLift s then r.lift + 1 else r.lift
  if field s .mgt 0 0x010 2 1 = 1 then
    let items := [t, step, r.lift, l]
    raise (setScale s t fun x => { x with silentHand := true, silentItems := items, answer := none }) .mgt 0 2 items
  else setLift s t step r l

/-- A hand still recorded for a tensor, taken down without a record. -/
def dropHand (s : State) (bit t : Nat) : State :=
  match mgtHand s bit t with
  | some h => lower s h
  | none => s

/-- The silent-layer rule for one tensor at the gradebook exchange of a step. -/
def silentRule (s : State) (step : Nat) (g : GradeContribution) : State :=
  let t := g.tensor
  match mget s.scaling t with
  | none => s
  | some r =>
    if r.silentHand then
      if g.answered && g.lift != 7 then
        setLift (setScale (dropHand s 2 t) t fun x => { x with silentHand := false, silentItems := [], answer := none }) t step r g.lift
      else s
    else if silentStep s g then
      if r.silentRun + 1 ≥ field s .mgt 0 0x214 8 8 then
        actSilent (setScale s t fun x => { x with silentRun := 0 }) t step r
      else setScale s t fun x => { x with silentRun := x.silentRun + 1 }
    else if g.updated > 0 then setScale s t fun x => { x with silentRun := 0 }
    else s

/-! ### Records (R267 to R270) -/

/-- The record of a tensor over the cores of the module (R110). -/
def tensorGrade (recs : List (Nat × GradeRec)) (t : Nat) : GradeRec :=
  (recs.filter fun e => e.1 % 65536 = t).foldl (fun a e => a.merge e.2) GradeRec.zero

/-- The bytes of the first invalid product (R268). -/
def firstBytes (f : Option FirstInvalid) : List Byte :=
  match f with
  | none => List.replicate 14 0
  | some x => leBytes 4 x.commandTag ++ leBytes 2 x.tileRow ++ leBytes 2 x.tileCol ++ leBytes 1 (x.row % 128) ++ leBytes 1 (x.col % 128)
      ++ leBytes 2 (b2n x.side * 2 ^ 15 + x.group % 2 ^ 15) ++ leBytes 2 x.core

/-- Conversion statistics as 28 bytes. -/
def statBytes (c : ConvStat) : List Byte := leBytes 8 (satN 64 c.n) ++ leBytes 8 c.s ++ leBytes 8 c.q ++ leBytes 4 c.amax

/-- A gradebook record (R268). -/
def gradeRecord (s : State) (c : Closing) (g : GradeContribution) : List Byte :=
  let t := g.tensor
  let a := tensorGrade c.recs t
  let u := tensorStat c.stats t
  let r := mget s.scaling t
  let p := ((c.exps.find? fun q => q.1 = t).map (·.2)).getD 0
  let flags := b2n r.isSome * 8 + b2n (r.isSome && silentStep s g) * 4 + b2n (r.any (·.silentHand)) * 2 + b2n a.first.isSome
  let fwd := a.fwd.merge u.conv
  let body := leBytes 2 t ++ leBytes 1 flags ++ leBytes 1 ((r.map (·.lift)).getD 0) ++ leBytes 2 ((r.map (·.silentRun)).getD 0)
    ++ leBytes 1 (unsignedOf 8 p) ++ [0] ++ leBytes 8 c.step ++ leBytes 8 (satN 64 u.updated) ++ leBytes 8 (satN 64 u.changed)
    ++ leBytes 8 u.sumDelta ++ leBytes 8 u.sumW ++ leBytes 8 (satN 64 u.roundedUp) ++ leBytes 4 (satN 32 u.saturated)
    ++ leBytes 4 (satN 32 u.skipped) ++ leBytes 8 (satN 64 (a.counts.invalid + u.invalid)) ++ leBytes 8 (satN 64 a.counts.overflow)
    ++ leBytes 8 (satN 64 a.counts.saturation) ++ leBytes 8 (satN 64 (a.counts.underflow + u.underflow)) ++ leBytes 4 (satN 32 a.replayFirst)
    ++ leBytes 4 (satN 32 a.replaySecond) ++ leBytes 4 (satN 32 a.narrowKey) ++ leBytes 4 (satN 32 a.narrowValue)
    ++ statBytes fwd ++ leBytes 4 0 ++ statBytes a.bwd ++ leBytes 4 0 ++ firstBytes a.first ++ leBytes 2 0
    ++ leBytes 8 (satN 64 g.updated) ++ leBytes 8 (satN 64 g.changed) ++ List.replicate 44 0
  body ++ leBytes 4 (crc32c body)

/-- The records of a step written into their bank (R267); nothing is written while the host is away (R309). -/
def writeBank (s : State) (c : Closing) (ps : List ExchangePart) : State :=
  if c.count = 0 || hostAway s then s
  else
    let base := c.base + c.step % 2 * c.count * 256
    let s1 := (List.range c.count).foldl (fun t i =>
      hostWrite t (.data (base + 256 * i) (gradeRecord s c (combineGrade ps i)))) s
    setPair64 s1 .mgt 0 0x218 c.step

/-- GRADEBOOK_EXCHANGE_DONE: the rule runs, p of the next step is computed, and the bank is written (R272, R106, R267). -/
def execGradebookExchangeDone (step : Nat) (s : State) : Host.Outcome State Fault Refusal :=
  .next (match s.grade.closings.find? (·.step = step) with
    | none => s
    | some c =>
      if !partsIn s step 1 || ((partFrom s step 1 s.twin.number).isNone && !(members s).isEmpty) || s.job.exchangesDue.any (· < step) then s
      else
        let ps := partsOf s step 1
        let s1 := s.scaling.foldl (fun t e => nextP (silentRule t step (combineGrade ps e.1)) e.1 step) s
        let s2 := writeBank s1 c ps
        let s3 := s2.scaling.foldl (fun t e => mark t (scaleAddr t.part e.1) 32) s2
        let s4 := setCol { s3 with grade := { s3.grade with closings := s3.grade.closings.filter (·.step != step) } } fun x =>
          { x with parts := x.parts.filter fun q => !(q.1 = step && partTag q.2 < 2) }
        kickUpdates (setJob s4 fun j => { j with exchangesDue := j.exchangesDue.filter (· != step) }))

/-! ### Commands of the gradebook -/

/-- GRADEBOOK_SET (R266): in force at the next step boundary, at once with no job running. -/
def execGradebookSet (c : HostCmd) (s : State) : Host.Outcome State Fault Refusal :=
  runCmd s 0x001D c fun s =>
    if c.slot.operand % 4096 ≠ 0 then refuse s c 0x18
    else if c.slot.param0 > 16384 then refuse s c 0x20
    else if s.job.running then done { s with grade := { s.grade with pending := some (c.slot.operand, c.slot.param0) } } c
    else done { s with grade := { s.grade with base := c.slot.operand, count := c.slot.param0 } } c

/-- GRADEBOOK_LIFT on one member (R276). -/
def installGradebookLift : Install := fun c s =>
  let t := bitsOf c.slot.param0 0 16
  let l := bitsOf c.slot.param0 16 3
  if l > 4 || (mget s.scaling t).isNone then .error (rangeOf 0x20)
  else if c.slot.param1 < s.job.openStep + 2 then .error (rangeOf 0x28)
  else .ok (setScale s t fun x => { x with liftDue := some (l, c.slot.param1) })

def execGradebookLift (c : HostCmd) (s : State) : Host.Outcome State Fault Refusal :=
  runCmd s 0x0138 c fun s => startClass s c [] installGradebookLift

/-- The lifts of GRADEBOOK_LIFT at the close of the step before their effective step (R276). -/
def takeLifts (s : State) (step : Nat) : State :=
  s.scaling.foldl (fun t e => match e.2.liftDue with
    | some (l, eff) =>
      if step + 1 < eff then t
      else
        let t1 := match mgtHand t 2 e.1 with
          | some h => withdraw t h
          | none => t
        setScale t1 e.1 fun x => { x with lift := l, silentRun := 0, silentHand := false, silentItems := [], answer := none, liftDue := none }
    | none => t) s

/-! ### GRADEBOOK_COMPARE (R278, R279) -/

/-- Figures of a comparison under way. -/
structure CompareAcc where
  elements : Nat
  differing : Nat
  diffs : List Nat
  refs : List Nat
  maxUlp : Nat
  nanMismatch : Nat
  firstDiff : Nat
  deriving DecidableEq, Repr

/-- ord of an FP32 code (R279). -/
def ulpOrd (c : Nat) : Int := if c < 2 ^ 31 then (c : Int) else (2 : Int) ^ 31 - (c - 2 ^ 31 : Nat)

/-- An FP32 code of an element of a BF16 or FP32 tile. -/
def wideCode (f : Fmt) (code : Nat) : Nat := if f = .bf16 then code * 65536 else code

/-- An FP64 sum with one more square in one of 128 partials. -/
def addPartial (ps : List Nat) (e : Nat) (v : Val) : List Nat :=
  let old := ps.getD e 0
  setAt ps e (opAdd f64 (decodeFmt .fp64 old) v).1

/-- One element pair: e is its place in its line. -/
def comparePair (acc : CompareAcc) (e a b : Nat) : CompareAcc :=
  let va := decodeFmt .fp32 a
  let vb := decodeFmt .fp32 b
  let same := a = b || (va.isZero && vb.isZero) || (va.isNan && vb.isNan)
  let mismatch := va.isNan != vb.isNan
  let sq := fun (v : Val) => decodeFmt .fp64 (opMul f64 v v).1
  let sub := if a = b && !va.isNan && !va.isFinite then Val.fin false 0 0 else decodeFmt .fp64 (opSub f64 va vb).1
  let dist := if same then 0 else if mismatch then 2 ^ 32 - 1 else satN 32 (ulpOrd a - ulpOrd b).natAbs
  { elements := acc.elements + 1
    differing := acc.differing + b2n (!same)
    diffs := if mismatch then acc.diffs else addPartial acc.diffs e (sq sub)
    refs := if mismatch then acc.refs else addPartial acc.refs e (sq vb)
    maxUlp := max acc.maxUlp dist
    nanMismatch := acc.nanMismatch + b2n mismatch
    firstDiff := if same || acc.firstDiff < acc.elements then acc.firstDiff else min acc.firstDiff acc.elements }

/-- Two tiles compared line by line. -/
def compareTiles (acc : CompareAcc) (fa fb : Fmt) (lines depth : Nat) (ta tb : List Byte) : CompareAcc :=
  (List.range lines).foldl (fun acc l => (List.range depth).foldl (fun acc e =>
    comparePair acc e (wideCode fa (elemAt fa (ta.drop (64 + l * tileLineBytes fa)) e))
      (wideCode fb (elemAt fb (tb.drop (64 + l * tileLineBytes fb)) e))) acc) acc

/-- 128 partials combined at distances 64, 32, 16, 8, 4, 2 and 1 (R91, R279). -/
def combinePartials (ps : List Nat) : Nat :=
  ([64, 32, 16, 8, 4, 2, 1].foldl (fun (l : List Nat) d => l.zipIdx.map fun q =>
    (opAdd f64 (decodeFmt .fp64 q.1) (decodeFmt .fp64 (l.getD (q.2 ^^^ d) 0))).1) ps).headD 0

/-- The result of a comparison (R279). -/
def compareResult (a : CompareAcc) : List Byte :=
  withCrc (leBytes 8 a.elements ++ leBytes 8 a.differing ++ leBytes 8 (combinePartials a.diffs) ++ leBytes 8 (combinePartials a.refs)
    ++ leBytes 4 a.maxUlp ++ leBytes 4 a.nanMismatch ++ leBytes 8 a.firstDiff ++ List.replicate 12 0)

/-- How a comparison ends: its figures, or a status. -/
inductive CompareEnd where
  | ok (a : CompareAcc)
  | fail (status d0 d1 : Nat)
  | bad (addr : Nat)
  | wait
  deriving DecidableEq, Repr

/-- Bytes of an unscaled FP32 or BF16 tile. -/
def plainTile (tag : Nat) : Nat := granules (64 + 128 * tileLineBytes (fmtOfTag tag).1)

/-- A tile of the compared arrays as bytes, from what the host gave or from device memory. -/
def compareTile (s : State) (host : Option (List Byte)) (base off size : Nat) : Except CompareEnd (List Byte) :=
  match host with
  | some bs => .ok (padTo size ((bs.drop off).take size))
  | none =>
    if memWaits s (base + off) size then .error .wait
    else
      match (badSector s (base + off) size).map CompareEnd.bad, (tornIn s (base + off) size).map fun x => CompareEnd.fail 0x23 x (ueDetail s) with
      | some e, _ => .error e
      | none, some e => .error e
      | none, none => .ok (devRead s (base + off) size)

/-- One pair of tiles checked and compared. tags are the formats of the first pair. -/
def compareStep (s : State) (c : HostCmd) (host : Option (List Byte)) (ta tb i : Nat) (acc : CompareAcc) : CompareEnd :=
  let oa := i * plainTile ta
  let ob := i * plainTile tb
  match compareTile s host c.slot.operand oa (plainTile ta), compareTile s none c.slot.param0 ob (plainTile tb) with
  | .error e, _ => e
  | _, .error e => e
  | .ok a, .ok b =>
    let aa := c.slot.operand + oa
    let ab := c.slot.param0 + ob
    let span := fun (x : Nat) => some (Config.reservedBase s.part - x)
    let check := fun (bs : List Byte) (sp : Option Nat) => checkTile (bs.take 64) (bs.drop 64) sp s.job.layoutEpoch
    match check a (if host.isSome then none else span aa), check b (span ab) with
    | .corrupt, _ => .bad aa
    | .badField f, _ => .fail 0x12 (0x1000 + f) aa
    | .epoch, _ => .fail 0x21 (leAt a 6 2) s.job.layoutEpoch
    | _, .corrupt => .bad ab
    | _, .badField f => .fail 0x12 (0x1000 + f) ab
    | _, .epoch => .fail 0x21 (leAt b 6 2) s.job.layoutEpoch
    | .ok, .ok =>
      if leAt a 0 1 != ta then .fail 0x12 0x1000 aa
      else if leAt b 0 1 != tb then .fail 0x12 0x1000 ab
      else if leAt a 2 1 != leAt b 2 1 then .fail 0x12 0x1002 aa
      else if leAt a 3 1 != leAt b 3 1 then .fail 0x12 0x1003 aa
      else .ok (compareTiles acc (fmtOfTag ta).1 (fmtOfTag tb).1 (leAt a 2 1) (leAt a 3 1) a b)

/-- The whole comparison. -/
def compareAll (s : State) (c : HostCmd) (host : Option (List Byte)) (ta tb n : Nat) : CompareEnd :=
  (List.range n).foldl (fun e i => match e with
    | .ok acc => compareStep s c host ta tb i acc
    | e => e) (.ok ⟨0, 0, List.replicate 128 0, List.replicate 128 0, 0, 0, 2 ^ 64 - 1⟩)

/-- A comparison that completed: its result written before its completion, and counted. -/
def endCompare (s : State) (c : HostCmd) (a : CompareAcc) : State :=
  let count := fun (t : State) => bump (bump t .mgt 0 0x228 0 16 1) .mgt 0 0x228 16 16 (b2n (a.differing > 0))
  if bitOf c.slot.param2 0 then
    match tryWrite s c.slot.param1 (compareResult a) with
    | .error x => failUE s c x
    | .ok t => done (count t) c
  else done (count (hostWrite s (.data c.slot.param1 (compareResult a)))) c

/-- GRADEBOOK_COMPARE. The test array lies in host or device memory as OPERAND_DEVICE says, the reference in device
memory (DEDUCED, log 40). -/
def execGradebookCompare (c : HostCmd) (data : List Byte) (s : State) : Host.Outcome State Fault Refusal :=
  runCmd s 0x0139 c fun s =>
    let dev := bitOf c.slot.ctl 6
    let n := bitsOf c.slot.param2 1 24 + 1
    let core := bitsOf c.slot.param2 32 16
    let ra := c.slot.param1
    if (dev && rangeBad s c.slot.operand 64) || (dev && c.slot.operand % 256 != 0) then refuse s c 0x18
    else if rangeBad s c.slot.param0 64 || c.slot.param0 % 256 != 0 then refuse s c 0x20
    else if ra % 64 != 0 || (bitOf c.slot.param2 0 && rangeBad s ra 64) then refuse s c 0x28
    else if core ≥ Config.logicalCores s.part || s.hif.dies.getD (core / 32) 0 != c.fn then refuse s c 0x30
    else if (physOf s core).isNone then finish s c 0x22 0 core
    else
      let ta := if dev then leAt (devRead s c.slot.operand 1) 0 1 else leAt data 0 1
      let tb := leAt (devRead s c.slot.param0 1) 0 1
      if (hostAway s && !(dev && bitOf c.slot.param2 0)) || (bitOf c.slot.param2 0 && memWaits s ra 64) then s
      else if ta != 1 && ta != 3 then finish s c 0x12 0x1000 c.slot.operand
      else if tb != 1 && tb != 3 then finish s c 0x12 0x1000 c.slot.param0
      else if dev && rangeBad s c.slot.operand (n * plainTile ta) then refuse s c 0x18
      else if rangeBad s c.slot.param0 (n * plainTile tb) then refuse s c 0x20
      else
        match compareAll s c (if dev then none else some data) ta tb n with
        | .wait => s
        | .bad a => failUE s c a
        | .fail st d0 d1 => finish s c st d0 d1
        | .ok a => endCompare s c a

/-! ### Column factors of factored tables (R182) -/

/-- The modules that sum: the modules of MODULE_MASK, or for one that has left its twin, in ascending number. -/
def columnRing (s : State) (d : TableDesc) : List Nat := (tableModules d).filterMap (readTarget s d)

/-- The column sums of a table on this module at a close: its units in ascending number. -/
def ownColumns (s : State) (d : TableDesc) : List Nat × Nat :=
  let st := tensorStat s.tables.stats d.tensor
  (if st.colSums.isEmpty then List.replicate d.elements 0 else st.colSums, st.colRows)

/-- New column factors and cbar from the class's sums; a step without rows changes nothing. -/
def setColumns (s : State) (d : TableDesc) (step : Nat) (sums : List Nat) (n : Nat) : State :=
  let s1 := setTables s fun t => { t with columns := t.columns.filter fun c => !(c.table = d.table && c.step = step) }
  match paramsFor s1 d.tensor step with
  | none => s1
  | some p =>
    if n = 0 then s1
    else
      let k := scalars p step
      let old := columnFactors s1 d
      let new := (old.1.zip (sums.map FV.of)).map fun q =>
        FV.fma k.mode k.beta2 q.1 (FV.mul k.mode k.ob2 (FV.div k.mode q.2 (FV.ofNat n)))
      let cbar := FV.div k.mode (new.foldl (FV.add k.mode) (FV.of 0)) (FV.ofNat d.elements)
      devWrite s1 d.aux (fp32Bytes (new ++ [cbar]))

/-- A column message: the partial on its way around the ring, or with LAST the class's sums. -/
def sendColumns (s : State) (dst : Nat) (d : TableDesc) (step : Nat) (last : Bool) (v : List Nat × Nat) : State :=
  sendHdr s dst { header s 0x01 8 0x18 dst step with tensorId := d.tensor, last := last } (.partialSum (v.1 ++ [v.2]))

/-- The sum as it leaves this module: to the next of the ring, or from the last to every holder. -/
def passColumns (s : State) (d : TableDesc) (step : Nat) (v : List Nat × Nat) : State :=
  let ring := columnRing s d
  match (ring.dropWhile (· != s.twin.number)).drop 1 with
  | m :: _ => sendColumns s m d step false v
  | [] =>
    let all := (dedup [] (allHolders s d)).filter (· != s.twin.number)
    setColumns (all.foldl (fun t m => sendColumns t m d step true v) s) d step v.1 v.2

/-- The partial that arrived joined with this module's own, once both are here; the first of the ring needs no partial. -/
def joinColumns (s : State) (d : TableDesc) (step : Nat) : State :=
  match s.tables.columns.find? fun c => c.table = d.table && c.step = step with
  | some ⟨_, _, some o, e⟩ =>
    if (columnRing s d).head? = some s.twin.number then passColumns s d step o
    else (match e with
      | some v => passColumns s d step (addRow v.1 o.1, v.2 + o.2)
      | none => s)
  | _ => s

/-- A column sum entry of a table and step changed. -/
def setColumn (s : State) (d : TableDesc) (step : Nat) (f : ColumnSum → ColumnSum) : State :=
  setTables s fun t =>
    { t with columns := if t.columns.any fun c => c.table = d.table && c.step = step
        then t.columns.map fun c => if c.table = d.table && c.step = step then f c else c
        else t.columns ++ [f ⟨d.table, step, none, none⟩] }

/-- The column sums of every factored table this module holds, at the close of a step. -/
def closeColumns (s : State) (step : Nat) : State :=
  (s.tables.descs.filter fun e => e.2.optimiser = 6 && (allHolders s e.2).contains s.twin.number).foldl (fun t e =>
    let t1 := setColumn t e.2 step fun c => { c with own := some (ownColumns t e.2) }
    if (columnRing t1 e.2).contains t1.twin.number then joinColumns t1 e.2 step else t1) s

/-- A column message taken in. -/
def takeColumns (s : State) (d : TableDesc) (h : MsgHdr) (elems : List Nat) : State :=
  let v := (elems.take d.elements, elems.getD d.elements 0)
  if h.last then advanceTables (setColumns s d h.step v.1 v.2)
  else advanceTables (joinColumns (setColumn s d h.step fun c => { c with early := some v }) d h.step)

/-! ### Stamp renewal (R188) -/

/-- Every record of this module in device memory that a unit owns: table, slot, key, address. -/
def unitRecords (s : State) (unit : Nat) : List (Nat × TableDesc × Nat × RowKey) :=
  sortBy (·.1) ((s.tables.descs.filter fun e => e.2.optimiser != 0).flatMap fun e =>
    let d := e.2
    ((List.range d.shards).filter fun k => holdsRows s d (ownerOf d k)).flatMap fun k =>
      ([d.active] ++ (if d.switchStep = noSwitch then [] else [1 - d.active])).flatMap fun v =>
        (List.range d.rows).filterMap fun sl =>
          let a := recordAddr d v ⟨k, sl⟩
          if memOf s.part a = unit then some (a, d, v, ⟨k, sl⟩) else none)

/-- The renewal pass of a unit over records in order; it stays before one whose read or open write waits. What comes with the state is
the address that it goes on from, if any is left. -/
def renewRecords (s : State) (step : Nat) : List (Nat × TableDesc × Nat × RowKey) → Nat → State × Option Nat
  | [], _ => (s, none)
  | r :: _, 0 => (s, some r.1)
  | r :: rest, n + 1 =>
    if copyless s r.2.1.twinned step then renewRecords s step rest n
    else
      match readyRecord s r.2.1 r.2.2.1 r.2.2.2 step true with
      | .ok u bs => renewRecords (renewRecord u r.2.1 r.2.2.1 r.2.2.2 bs step) step rest n
      | .wait u => (u, some r.1)
      | .gone u _ => renewRecords u step rest n

/-- STAMP_RENEWAL: the next records of a unit's pass, in ascending address. -/
def execStampRenewal (unit count : Nat) (s : State) : Host.Outcome State Fault Refusal :=
  .next (match s.tables.renewal.find? fun r => r.1 = unit with
    | none => s
    | some (_, step, pos) =>
      let q := renewRecords s step ((unitRecords s unit).filter fun r => pos ≤ r.1) count
      setTables q.1 fun t =>
        { t with renewal := match q.2 with
            | some a => t.renewal.map fun r => if r.1 = unit then (unit, step, a) else r
            | none => t.renewal.filter fun r => r.1 != unit })

end Sys2Proof.Machine
end

