-- ==== Sys2Proof/Machine/Collect.lean ====
section
/-! DEFINITION. The collective engine: rings, COL_RUN and its messages, re-sharding (R245 to R252, R260 to R262). -/

namespace Sys2Proof.Machine

/-! ### Rings (R22, R247) -/

/-- Columns of the group grid. -/
def gridCols (s : State) : Nat := if s.twin.size ≤ 16 then (if s.part = .nst8016 then 4 else 2) else 4

/-- Whether two groups are next to each other along a row or a column of the grid. -/
def nextGroup (s : State) (east : Bool) (a b : Nat) : Bool :=
  let cols := gridCols s
  let n := if east then cols else s.twin.size / 4 / cols
  let x := fun (g : Nat) => if east then g % cols else g / cols
  let same := if east then a / cols = b / cols else a % cols = b % cols
  same && a != b && ((x a + 1) % n = x b || (x b + 1) % n = x a)

/-- Whether two modules are one hop apart on a link set. -/
def oneHop (s : State) (set a b : Nat) : Bool :=
  match set with
  | 0 => a / 4 = b / 4 && a != b
  | 1 => a % 4 = b % 4 && nextGroup s false (a / 4) (b / 4)
  | 2 => a % 4 = b % 4 && nextGroup s true (a / 4) (b / 4)
  | _ => true

/-- Whether a ring's members follow each other by single hops, the last and the first included. -/
def ringHops (s : State) (set : Nat) (ms : List Nat) : Bool :=
  ms.length ≤ 1 || (ms.zip (ms.drop 1 ++ ms.take 1)).all fun p => oneHop s set p.1 p.2

/-- Whether a running command names a ring. -/
def ringInUse (s : State) (ring : Nat) : Bool :=
  (s.col.jobs.any fun j => j.desc.ringId = ring) || (s.att.any fun a => a.desc.ringId = ring) || s.decodes.any fun j => j.rings.contains ring

/-- COL_RING_DEFINE on one member: in force at the next step boundary, at once with no job running. -/
def installRing : Install := fun c s =>
  let bs := inlineOf c.slot 68
  let ring := leAt bs 0 2
  let set := leAt bs 2 1
  let n := leAt bs 3 1
  let ms := (List.range n).map fun i => leAt bs (4 + i) 1
  let bad := ms.findIdx? fun m => m ≥ classSize s || (ms.filter (· = m)).length > 1
  let broken := (mget s.col.rings ring).any (·.broken)
  if ring = 0 || ring > 1023 then .error (rangeOf (blockField 0))
  else if set > 3 then .error (rangeOf (blockField 2))
  else if n = 0 || n > 64 then .error (rangeOf (blockField 3))
  else
    match bad with
    | some i => .error (rangeOf (blockField (4 + i)))
    | none =>
      if (ringInUse s ring && !broken) || !ringHops s set ms then .error (rangeOf condition)
      else if s.job.running then .ok (setCol s fun x => { x with newRings := mput x.newRings ring ⟨ms, set, false⟩ })
      else .ok (setCol s fun x => { x with rings := mput x.rings ring ⟨ms, set, false⟩ })

def execColRingDefine (c : HostCmd) (s : State) : Host.Outcome State Fault Refusal :=
  runCmd s 0x0130 c fun s => startClass s c [] installRing

/-! ### Descriptors (R249) -/

/-- A collective descriptor from its 64 bytes. -/
def colDescOf (bs : List Byte) : ColDesc :=
  let b1 := leAt bs 1 1
  { operation := leAt bs 0 1 % 16, toUpdate := bitOf b1 7, twinCopy := bitOf b1 6, wire := bitsOf b1 2 2, reduceOp := b1 % 4
    ringId := leAt bs 2 2, tensor := leAt bs 4 2, layoutEpoch := leAt bs 6 2, sourceSram := bitOf (leAt bs 8 1) 7
    destSram := bitOf (leAt bs 8 1) 6, sourceCore := leAt bs 0xA 2, destCore := leAt bs 0xC 2, chunkBytes := leAt bs 0x10 4
    sourceBase := leAt bs 0x18 8, destBase := leAt bs 0x20 8, ownerMask := leAt bs 0x28 8 }

/-- Positions that own a chunk, ascending; every one in an all-reduce, the lowest set bit in a broadcast. -/
def owners (d : ColDesc) (n : Nat) : List Nat :=
  let set := (List.range n).filter fun j => bitOf d.ownerMask j
  match d.operation with
  | 3 => List.range n
  | 5 => set.take 1
  | _ => set

/-- Ordinal of an owner's chunk. -/
def ordinalOf (os : List Nat) (j : Nat) : Nat := os.findIdx (· = j)

/-- Chunks that lie at SOURCE_BASE: every owner's for a reduction, else one; a list of one entry for each position. -/
def sourceBytes (d : ColDesc) (n : Nat) : Nat :=
  match d.operation with
  | 1 => (owners d n).length * d.chunkBytes
  | 3 => n * d.chunkBytes
  | 4 => 16 * n
  | _ => d.chunkBytes

/-- Bytes at DEST_BASE. -/
def destBytes (d : ColDesc) (n : Nat) : Nat :=
  match d.operation with
  | 1 => if d.toUpdate then 0 else d.chunkBytes
  | 2 => (owners d n).length * d.chunkBytes
  | 3 => n * d.chunkBytes
  | 5 => d.chunkBytes
  | 6 => 2 * (d.chunkBytes + 256)
  | _ => 0

/-- Whether an end of a collective lies outside what it may name. -/
def endBad (s : State) (sram : Bool) (a n : Nat) : Bool := if sram then a + n > sramBytes else rangeBad s a n

/-- DETAIL0 of the first bad field of a descriptor on a ring. -/
def colFault (s : State) (fn : Nat) (bs : List Byte) (ring : Option Ring) : Option Nat :=
  let d := colDescOf bs
  let bad := fun (off : Nat) (b : Bool) => if b then [blockField off] else []
  let ms := (ring.map (·.members)).getD []
  let n := ms.length
  let core := fun (k : Nat) => k ≥ Config.logicalCores s.part || s.hif.dies.getD (k / 32) 0 != fn
  (bad 0 (d.operation = 0 || d.operation > 7) ++ bad 1 (d.wire > 1 || d.reduceOp = 3) ++ bad 2 (d.ringId = 0 || ring.isNone)
    ++ bad 0xA (d.sourceSram && core d.sourceCore) ++ bad 0xC (d.destSram && core d.destCore)
    ++ bad 0x10 (d.chunkBytes = 0 || d.chunkBytes % 256 != 0) ++ bad 0x3C (leAt bs 0x3C 4 != crc32c (bs.take 0x3C))
    ++ bad 0x28 (d.ownerMask ≥ 2 ^ n || (owners d n).isEmpty) ++ bad 2 (!ms.contains s.twin.number)
    ++ bad 0x18 (endBad s d.sourceSram d.sourceBase (sourceBytes d n)) ++ bad 0x20 (endBad s d.destSram d.destBase (destBytes d n))).head?

/-! ### Ends of a collective -/

/-- What a read of a collective's source meets. -/
inductive ColRead where
  | ok (bytes : List Byte)
  | wait
  | badMem (addr : Nat)
  | badSram (off : Nat)
  | torn (addr : Nat)
  deriving DecidableEq, Repr

/-- Bytes of a collective's end. -/
def colRead (s : State) (sram : Bool) (core a n : Nat) : ColRead :=
  if sram then
    match sramBad s core a n with
    | some off => .badSram off
    | none => .ok (sramRead s core a n)
  else if memWaits s a n then .wait
  else
    match badSector s a n, tornIn s a n with
    | some x, _ => .badMem x
    | none, some x => .torn x
    | none, none => .ok (devRead s a n)

/-- A command that ends because its source cannot be read. -/
def failRead (s : State) (c : HostCmd) (core : Nat) (r : ColRead) : State :=
  match r with
  | .badMem a => failUE s c a
  | .badSram off => finish s c 0x23 off (core + s.twin.number * 2 ^ 16)
  | .torn a => finish s c 0x23 a (ueDetail s)
  | _ => s

/-- Bytes written at a collective's end; the address of a sector that refuses. -/
def colWrite (s : State) (sram : Bool) (core a : Nat) (bs : List Byte) : Except Nat State :=
  if sram then .ok (sramWrite s core a bs) else tryWrite s a bs

/-- Tiles that lie one after another in a chunk, as their bytes. -/
def chunkTiles : Nat → List Byte → List (List Byte)
  | 0, _ => []
  | k + 1, bs =>
    if bs.length < 256 then []
    else
      let n := granules (64 + leAt bs 0x14 4)
      bs.take n :: chunkTiles k (bs.drop n)

/-- FP32 values of the 16,384 elements of a tile, side values in place. -/
def tileCodes (c : Ctl) (bs : List Byte) : List (Val × Exc) :=
  let sides := sideIndices bs
  (List.range 128).flatMap fun l => (List.range 128).map fun k =>
    let v := tileElem (leAt bs 0 1) sides (bs.drop 64) l k
    let w := widen c v.1
    (w.1, Exc.first v.2 w.2)

/-- A module's contribution to a chunk: its elements, widened. -/
def contribution (c : Ctl) (chunk : List Byte) : List (Val × Exc) :=
  (chunkTiles (chunk.length / 256) chunk).flatMap (tileCodes c)

/-- Whether a reduction may read a tile: a format tag without page scales, in LEGACY BF16 or FP32, and no reserved T2 code (R48, R55,
R59). -/
def sourceTileOk (m : NumMode) (bs : List Byte) : Bool :=
  match tagOf? (leAt bs 0 1) with
  | none => false
  | some (_, a) => a != .page && (m != .legacy || legacyTag (leAt bs 0 1)) && !tileReserved (leAt bs 0 1) (bs.drop 64)

/-- Control of a command's arithmetic. -/
def ctlOf (c : HostCmd) : Ctl := ⟨modeOf c.slot.ctl, roundingOf c.slot.ctl, .fp32⟩

/-- An element under REDUCE_OP: the incoming FP32 code and this module's (R251). -/
def reduceOne (c : Ctl) (op : Nat) (a b : Nat) : Nat × Exc :=
  match op with
  | 1 => opMinMax c true (decodeFmt .fp32 a) (decodeFmt .fp32 b)
  | 2 => opMinMax c false (decodeFmt .fp32 a) (decodeFmt .fp32 b)
  | _ => opAdd c (decodeFmt .fp32 a) (decodeFmt .fp32 b)

/-- A chunk's elements joined with this module's own; none for the first in order. -/
def reduceChunk (c : Ctl) (op : Nat) (acc : Option (List Nat)) (own : List (Val × Exc)) : List (Nat × Exc) :=
  let mine := own.map fun p => wireElem c false p
  match acc with
  | none => mine
  | some xs => (xs.zip mine).map fun p =>
      let r := reduceOne c op p.1 p.2.1
      (r.1, Exc.first p.2.2 r.2)

/-- Elements as they travel. -/
def onWire (c : Ctl) (d : ColDesc) (xs : List (Nat × Exc)) : List (Nat × Exc) :=
  xs.map fun p => wireElem c (d.wire = 1) (decodeFmt .fp32 p.1, p.2)

/-- Events of a reduction noted for its tensor. -/
def noteCol (s : State) (d : ColDesc) (xs : List (Nat × Exc)) : State :=
  noteGrade s 513 d.tensor (GradeRec.ofStat .a (countsOf (xs.map (·.2))) ConvStat.zero)

/-- A tensor kind from TENSOR_KIND of a tile header (R99, R135). -/
def kindOfHeader (hd : List Byte) : Kind :=
  match leAt hd 1 1 % 8 with
  | 0 => .w
  | 1 => .a
  | 2 => .g
  | 3 => .wg
  | 4 => .e
  | 6 => .m
  | _ => .kv

/-- A tile of results in a destination's format under the header of its source tile, and its conversion: the events of its elements and
their values in true units (R104, R109, R251 step 4). The output-channel scale of a line is that of its elements (DEDUCED, log 30). -/
def resultTile (s : State) (c : Ctl) (d : ColDesc) (step tag : Nat) (hd : List Byte) (xs : List Nat) :
    List Byte × List Exc × List (Val × Val) :=
  let fa := fmtOfTag tag
  let lines := (chunksOf 128 128 xs).map fun r => r.map (decodeFmt .fp32)
  let rows := lines.map fun r => storeRow c fa.1 fa.2 0 (r.map fun _ => amaxOf r) r
  let n := tileLineBytes fa.1
  let body := rows.flatMap (fun r => padTo n (packElems fa.1 r.elems))
    ++ (match fa.2 with
      | .channel => rows.flatMap fun r => r.scales.take 4
      | .plain => []
      | _ => rows.flatMap (·.scales))
  let h := leBytes 1 tag ++ leBytes 1 (leAt hd 1 1 % 8) ++ (hd.take 4).drop 2 ++ leBytes 2 d.tensor ++ leBytes 2 s.job.layoutEpoch
    ++ (hd.take 0xC).drop 8 ++ leBytes 3 (step % 2 ^ 24) ++ [0, 0] ++ (hd.take 0x14).drop 0x11 ++ leBytes 4 body.length
    ++ leBytes 4 (crc32c body) ++ List.replicate 32 0
  let valid := fun {α : Type} (ls : List (List α)) => ((ls.take (leAt hd 2 1)).map fun r => r.take (leAt hd 3 1)).flatten
  let p : Int := if preScaled (kindOfHeader hd) then preScale s d.tensor else 0
  (padTo (granules (64 + body.length)) (withCrc h ++ body), valid (rows.map (·.excs)),
   if fa.2 = .plain then [] else trueUnits p 0 0 (valid lines) (valid (rows.map (·.values))))

/-- The conversion of a result noted for its tensor, G values in its history too (R106, R109). -/
def noteResult (s : State) (d : ColDesc) (hd : List Byte) (xs : List Nat) (r : List Byte × List Exc × List (Val × Val)) : State :=
  let k := kindOfHeader hd
  let s1 := noteGradeWith s 513 d.tensor fun g => g.convert k (countsOf r.2.1) r.2.2
  if k = .g then raiseOwn s1 d.tensor (xs.map fun x => scaleVal (decodeFmt .fp32 x) (-preScale s d.tensor)) else s1

/-! ### Slices and numbers (R238, R241, R245) -/

/-- Slices whose I/O dies carry a working member of a link set; COL0 where none does. -/
def workingSlices (s : State) (set : Nat) : List Nat :=
  let dies := (List.range (Config.ioDies s.part)).filter fun i =>
    (11 :: setLinks set).any fun l => l / 6 = i && (setLinks set).contains (roleLink s l) && (linkOf s l).state = .inService
  if dies.isEmpty then [0] else dies

/-- A body cut into segments, each with its offset (R245). -/
def cutBody (b : Body) : List (Nat × Body) :=
  let w := match b with
    | .partialSum _ false => 4
    | .partialSum _ true => 2
    | _ => 1
  let part := fun {α : Type} (xs : List α) (q : Nat × Nat) => (xs.drop (q.1 / w)).take (q.2 / w)
  (segmentsOf (payloadBytes b)).map fun q => (q.1, match b with
    | .partialSum xs bf => .partialSum (part xs q) bf
    | .chunk bs => .chunk (part bs q)
    | .block bs => .block (part bs q)
    | .move a bs => .move (a + q.1) (part bs q)
    | _ => b)

/-- Two segments joined. -/
def joinBody (a b : Body) : Body :=
  match a, b with
  | .partialSum xs bf, .partialSum ys _ => .partialSum (xs ++ ys) bf
  | .chunk xs, .chunk ys => .chunk (xs ++ ys)
  | .block xs, .block ys => .block (xs ++ ys)
  | _, _ => a

/-- The segments of a chunk joined, once all of them are in. -/
def wholeOf (ps : List Piece) : Option Body :=
  match sortBy (·.offset) ps with
  | [] => none
  | p :: rest =>
    let r := rest.foldl (fun (a : Option (Body × Nat)) q => a.bind fun x =>
      if q.offset = x.2 then some (joinBody x.1 q.body, x.2 + payloadBytes q.body) else none)
      (if p.offset = 0 then some (p.body, payloadBytes p.body) else none)
    if (rest.getLastD p).last then r.map (·.1) else none

/-- Offsets from chunk to chunk of a kind; partials on the wire are at most 16 times their stored elements (DEDUCED, log 41). -/
def spanOf (d : ColDesc) (kind : Nat) : Nat := max 1 (if kind = 1 then 16 * d.chunkBytes else d.chunkBytes)

/-- The header of a segment of chunk k: the i-th segment goes through the i-th of the slices of the command (R245). -/
def segmentHdr (s : State) (j : ColJob) (dst kind k : Nat) (dir : Bool) (i offset : Nat) (last : Bool) : MsgHdr :=
  let slice := j.slices.getD (i % max 1 j.slices.length) 0
  { header s kind (8 + slice) (0x18 + slice) dst j.cmd.slot.step with
    ringId := j.desc.ringId, tensorId := j.desc.tensor, offset := k * spanOf j.desc kind + offset, srcPosition := j.position
    direction := dir, last := last }

/-- The header of the i-th segment of a collective's moves. -/
def moveHdr (s : State) (j : ColJob) (dst i : Nat) : MsgHdr := { segmentHdr s j dst 9 0 false i 0 true with offset := 0 }

/-- The identity that the numbers of a chunk belong to. -/
def chunkIdent (d : ColDesc) (kind k : Nat) : Nat := kind * 16 + d.operation + 256 * (k + 1)

/-- The headers of a chunk of a length. -/
def chunkHdrs (s : State) (j : ColJob) (dst kind k : Nat) (dir : Bool) (bytes : Nat) : List MsgHdr :=
  let ps := segmentsOf bytes
  ps.zipIdx.map fun q => segmentHdr s j dst kind k dir q.2 q.1.1 (q.2 + 1 = ps.length)

/-- A chunk of a collective sent, segment by segment. -/
def sendChunk (s : State) (j : ColJob) (dst kind k : Nat) (dir : Bool) (b : Body) : State :=
  let hs := chunkHdrs s j dst kind k dir (payloadBytes b)
  sendBlock s (chunkIdent j.desc kind k) j.desc.ringId j.desc.tensor j.cmd.slot.step
    ((hs.zip (cutBody b)).map fun q => ([dst], q.1, q.2.2))

/-! ### Running collectives -/

def setColJob (s : State) (j : ColJob) : State :=
  setCol s fun c => { c with jobs := c.jobs.map fun x => if x.cmd = j.cmd then j else x }

def dropColJob (s : State) (j : ColJob) : State := setCol s fun c => { c with jobs := c.jobs.filter fun x => x.cmd != j.cmd }

/-- Ring member at a position, counted round. -/
def memberAt (j : ColJob) (p : Nat) : Nat := j.ring.getD (p % j.ring.length) 0

/-- Messages of a collective that no acknowledgement has covered. -/
def colUnacked (s : State) (j : ColJob) : Bool :=
  (unacked s).any fun m => m.hdr.ringId = j.desc.ringId && m.hdr.tensorId = j.desc.tensor && m.hdr.step = j.cmd.slot.step
    && (m.hdr.kind < 4 || m.hdr.kind = 8 || m.hdr.kind = 9)

/-- Collectives with nothing still to come and nothing unacknowledged complete. -/
def settleCollectives (s : State) : State :=
  (s.col.jobs.filter fun j => j.expect.isEmpty && !colUnacked s j).foldl (fun t j => done (dropColJob t j) j.cmd) s

/-- A collective that ends with a status. -/
def failCol (s : State) (j : ColJob) (st d0 d1 : Nat) : State := finish (dropColJob s j) j.cmd st d0 d1

/-- A collective that could not write an address. -/
def failColWrite (s : State) (j : ColJob) (a : Nat) : State := failUE (dropColJob s j) j.cmd a

/-- A message that was awaited has come. -/
def ticked (j : ColJob) (kind k : Nat) : ColJob := { j with expect := j.expect.filter (· != (kind, k)) }

/-- A gathered chunk passed on until it has gone round: from position p, unless the next member owns it. -/
def forwardChunk (s : State) (j : ColJob) (os : List Nat) (k : Nat) (bs : List Byte) : State :=
  let next := (j.position + 1) % j.ring.length
  if os.getD k 0 = next then s else sendChunk s j (memberAt j next) 0x02 k false (.chunk bs)

/-- A chunk at its place of the destination. -/
def putChunk (s : State) (j : ColJob) (os : List Nat) (k : Nat) (bs : List Byte) : Except Nat State :=
  let place := if j.desc.operation = 2 || j.desc.operation = 3 then k else 0
  if os.isEmpty then .ok s else colWrite s j.desc.destSram j.desc.destCore (j.desc.destBase + place * j.desc.chunkBytes) bs

/-- The reduced tiles of an owner delivered to the update units, and to its twin under TWIN_COPY (R249, R251). -/
def deliverUpdates (s : State) (j : ColJob) (tiles : List (List Byte)) (xs : List Nat) : State :=
  let me := s.twin.number
  let ms := tiles.zipIdx.map fun q =>
    let line := leAt q.1 8 2
    let depth := leAt q.1 0xA 2
    let unit := match mget s.tables.shards j.desc.tensor with
      | none => 0
      | some d => (match findTile s d line depth with
        | some i => memOf s.part (d.weightBase + i * d.weightStride)
        | none => 0)
    let h : MsgHdr := { header s 0x07 (8 + unit / 4) (8 + unit) me j.cmd.slot.step with
                        ringId := j.desc.ringId, tensorId := j.desc.tensor, srcPosition := j.position, last := true }
    let body := Body.gradTile line depth ((xs.drop (16384 * q.2)).take 16384)
    if j.desc.twinCopy then twinnedTo s h me false body else ([me], h, body)
  sendBlock s (chunkIdent j.desc 7 0) j.desc.ringId j.desc.tensor j.cmd.slot.step ms

/-- A result at a device address copied to the owner's twin (R249, R251 step 4, DEDUCED, log 106). -/
def copyResult (s : State) (j : ColJob) (base : Nat) (bs : List Byte) : State :=
  if !j.desc.twinCopy || j.desc.destSram then s
  else
    sendBlock s (chunkIdent j.desc 9 0) j.desc.ringId j.desc.tensor j.cmd.slot.step
      ((cutBody (.move base bs)).zipIdx.map fun q => twinnedTo s (moveHdr s j s.twin.number q.2) s.twin.number true q.1.2)

/-- The owner's result written under the destination's format tag, or delivered; an all-reduce then gathers it. -/
def finishChunk (s : State) (j : ColJob) (os : List Nat) (k : Nat) (own : List Byte) (xs : List (Nat × Exc)) : State :=
  let tiles := chunkTiles (own.length / 256) own
  let codes := xs.map (·.1)
  if j.desc.toUpdate then settleCollectives (deliverUpdates (setColJob s j) j tiles codes)
  else
    let base := j.desc.destBase + (if j.desc.operation = 3 then k * j.desc.chunkBytes else 0)
    let tag := match colRead s j.desc.destSram j.desc.destCore base 64 with
      | .ok bs => leAt bs 0 1
      | _ => 0x100
    let c := ctlOf j.cmd
    if !storeTagOk c.mode tag then failCol s j 0x12 0x1000 base
    else
      let part := fun (i : Nat) => (codes.drop (16384 * i)).take 16384
      let out := tiles.zipIdx.map fun q => (q.1, part q.2, resultTile s c j.desc j.cmd.slot.step tag q.1 (part q.2))
      let bs := (out.flatMap fun o => o.2.2.1).take j.desc.chunkBytes
      let s := out.foldl (fun t o => noteResult t j.desc o.1 o.2.1 o.2.2) s
      match colWrite s j.desc.destSram j.desc.destCore base bs with
      | .error a => failColWrite s j a
      | .ok s1 =>
        let s2 := copyResult (setColJob s1 j) j base bs
        settleCollectives (if j.desc.operation = 3 && j.ring.length > 1 then forwardChunk s2 j os k (padTo j.desc.chunkBytes bs) else s2)

/-- A partial of chunk k at this module: added to, then passed on or finished (R251). -/
def reduceStep (s : State) (j : ColJob) (k : Nat) (acc : Option (List Nat)) : State :=
  let os := owners j.desc j.ring.length
  match colRead s j.desc.sourceSram j.desc.sourceCore (j.desc.sourceBase + k * j.desc.chunkBytes) j.desc.chunkBytes with
  | .wait => s
  | .ok own =>
    let c := ctlOf j.cmd
    let r := reduceChunk c j.desc.reduceOp acc (contribution c own)
    if !((chunkTiles (own.length / 256) own).all (sourceTileOk c.mode)) then
      failCol s j 0x12 0x1000 (j.desc.sourceBase + k * j.desc.chunkBytes)
    else if os.getD k 0 = j.position then finishChunk (noteCol s j.desc r) j os k own r
    else
      let w := onWire c j.desc r
      settleCollectives (sendChunk (setColJob (noteCol s j.desc w) j) j (memberAt j (j.position + 1)) 0x01 k false
        (.partialSum (w.map (·.1)) (j.desc.wire = 1)))
  | r => failRead (dropColJob s j) j.cmd j.desc.sourceCore r

/-- Messages a position awaits: kind and ordinal, or source position. -/
def awaited (d : ColDesc) (n p : Nat) : List (Nat × Nat) :=
  let os := owners d n
  let partials := (os.zipIdx.filter fun q => n > 1 && p != (q.1 + 1) % n).map fun q => (1, q.2)
  let chunks := (os.zipIdx.filter fun q => q.1 != p).map fun q => (2, q.2)
  let others := (List.range n).filter (· != p)
  match d.operation with
  | 1 => partials
  | 2 => chunks
  | 3 => if d.toUpdate then partials else partials ++ chunks
  | 4 => others.map fun q => (3, q)
  | 5 => chunks
  | 6 =>
    let cw := (p + n - 1) % n
    let ccw := (p + 1) % n
    (if n > 1 && os.contains cw then [(8, cw)] else []) ++ (if n > 2 && os.length = n then [(8, ccw)] else [])
  | _ => []

/-- Reductions begun: the chunks this position is the first of; a ring of one owns and finishes its chunk. -/
def beginReduce (s : State) (j : ColJob) : State :=
  let n := j.ring.length
  (owners j.desc n).zipIdx.foldl (fun t q =>
    if (q.1 + 1) % n = j.position then
      (match t.col.jobs.find? fun x => x.cmd = j.cmd with
      | some x => reduceStep t x q.2 none
      | none => t)
    else t) s

/-- What lies at the addresses of a send list, entry by entry. -/
def listReads (s : State) (d : ColDesc) (list : List Byte) : List ColRead :=
  let k := if d.operation = 4 then 16 else 32
  (chunksOf k (list.length / k) list).map fun e => colRead s d.sourceSram d.sourceCore (leAt e 0 8) (leAt e 8 8)

/-- Bytes of a good read. -/
def ColRead.bytes (r : ColRead) : List Byte :=
  match r with
  | .ok bs => bs
  | _ => []

/-- Blocks of an all-to-all sent; the own block is placed with the others. -/
def beginBlocks (s : State) (j : ColJob) (list : List Byte) : State :=
  (listReads s j.desc list).zipIdx.foldl (fun t q =>
    if q.2 = j.position then
      setCol t fun c => { c with jobs := c.jobs.map fun x => if x.cmd = j.cmd then { x with blocks := x.blocks ++ [(q.2, q.1.bytes)] } else x }
    else sendChunk t j (memberAt j q.2) 0x03 0 false (.block q.1.bytes)) s

/-- A permute's move of a re-shard to one holder, in pieces (R239, R250). -/
def sendMove (s : State) (dsts : List Nat) (owner : Nat) (ring tensor step a : Nat) (bs : List Byte) (last : Bool) : State :=
  (cutBody (.move a bs)).foldl (fun u q =>
    let h : MsgHdr := { header u 0x09 8 0x18 owner step with ringId := ring, tensorId := tensor, last := last,
                                                             multicast := dsts.length = 2 }
    let t := takeNumbers u (streamOf h) 1
    dsts.foldl (fun w m => launch w { dst := m, hdr := { h with sequence := t.2 }, body := q.2 }) t.1) s

/-- Moves of a move list, under the numbers of their identity. -/
def beginMoves (s : State) (j : ColJob) (list : List Byte) : State :=
  let es := (chunksOf 32 (list.length / 32) list).zip (listReads s j.desc list)
  sendBlock s (chunkIdent j.desc 9 0) j.desc.ringId j.desc.tensor j.cmd.slot.step
    (((es.filter fun e => leAt e.1 8 8 != 0).flatMap fun e =>
      (cutBody (.move (leAt e.1 0x18 8) e.2.bytes)).map fun q => (leAt e.1 0x10 1, q.2)).zipIdx.map fun q =>
        ([q.1.1], moveHdr s j q.1.1 q.2, q.1.2))

/-- An address in a send or move list that no operation may read. -/
def listBad (s : State) (j : ColJob) (list : List Byte) : Bool :=
  let d := j.desc
  let k := if d.operation = 4 then 16 else 32
  (chunksOf k (list.length / k) list).any fun e =>
    endBad s d.sourceSram (leAt e 0 8) (leAt e 8 8)
      || (d.operation = 7 && leAt e 8 8 != 0 && (leAt e 0x10 1 ≥ classSize s || !devRange s (leAt e 0x18 8) (leAt e 8 8)))

/-- What a started collective sends first. -/
def beginCol (s : State) (j : ColJob) (src : List Byte) : State :=
  let os := owners j.desc j.ring.length
  match j.desc.operation with
  | 1 => beginReduce s j
  | 3 => beginReduce s j
  | 4 => beginBlocks s j src
  | 6 =>
    let n := j.ring.length
    if !os.contains j.position || n = 1 then s
    else
      let s1 := sendChunk s j (memberAt j (j.position + 1)) 0x08 0 false (.chunk src)
      if n > 2 && os.length = n then sendChunk s1 j (memberAt j (j.position + n - 1)) 0x08 0 true (.chunk src) else s1
  | 7 => beginMoves s j src
  | _ =>
    if os.contains j.position then
      let k := ordinalOf os j.position
      match putChunk s j os k src with
      | .error a => failColWrite s j a
      | .ok s1 => if j.ring.length > 1 then forwardChunk s1 j os k src else s1
    else s

/-! ### Messages of collectives -/

/-- The collective a message belongs to: same ring, tensor and step, and it awaits the chunk. -/
def colFor (s : State) (h : MsgHdr) (kind k : Nat) : Option ColJob :=
  s.col.jobs.find? fun j => j.desc.ringId = h.ringId && j.desc.tensor = h.tensorId && j.cmd.slot.step = h.step
    && j.expect.contains (kind, k)

/-- A message kept until its command is issued here. -/
def keepEarly (s : State) (h : MsgHdr) (b : Body) : State := setCol s fun c => { c with early := c.early ++ [{ dst := s.twin.number, hdr := h, body := b }] }

/-- Where the slot of a ring pass starts: from the member before, and from the one after behind it; each ends with a 64-byte mark (R214,
R250, DEDUCED, log 42). -/
def passSlot (d : ColDesc) (fromAfter : Bool) : Nat := d.destBase + (if fromAfter then d.chunkBytes + 256 else 0)

/-- A completion mark: the parcel's identity of R215 with a CRC (DESIGN CHOICE, log 100). -/
def markBytes (pid : ParcelId) : List Byte :=
  withCrc (leBytes 2 pid.job ++ leBytes 2 pid.layoutEpoch ++ leBytes 8 pid.step ++ leBytes 2 pid.ringId ++ leBytes 2 pid.tensorId
    ++ [byteOf (b2n pid.backward), byteOf pid.source, byteOf (b2n pid.clockwise), byteOf (b2n pid.returning)] ++ List.replicate 40 0)

/-- A gathered or broadcast chunk: written, and passed on. -/
def takeChunk (s : State) (j : ColJob) (k : Nat) (bs : List Byte) : State :=
  let os := owners j.desc j.ring.length
  match putChunk (setColJob s j) j os k bs with
  | .error a => failColWrite s j a
  | .ok s1 => settleCollectives (forwardChunk s1 j os k bs)

/-- The blocks of an all-to-all in the receive area, in ascending source position (R250). -/
def placeBlocks (s : State) (j : ColJob) : State :=
  let bs := (sortBy (·.1) j.blocks).flatMap (·.2)
  if endBad s j.desc.destSram j.desc.destBase bs.length then failCol s j 0x12 (blockField 0x20) 0
  else
    match colWrite s j.desc.destSram j.desc.destCore j.desc.destBase bs with
    | .error a => failColWrite s j a
    | .ok s1 => settleCollectives s1

/-- An all-to-all block. -/
def takeBlock (s : State) (j : ColJob) (source : Nat) (bs : List Byte) : State :=
  let j1 := { j with blocks := j.blocks ++ [(source, bs)] }
  let s1 := setColJob s j1
  if j1.expect.isEmpty then placeBlocks s1 j1 else s1

/-- A hand-over of a ring pass: in its slot, and then its mark (R214, R250, R258). -/
def takePass (s : State) (j : ColJob) (source : Nat) (bs : List Byte) : State :=
  let after := (source + 1) % j.ring.length != j.position
  let a := passSlot j.desc after
  let pid : ParcelId := ⟨j.cmd.slot.step, j.desc.ringId, j.desc.tensor, false, source, !after, false, s.job.layoutEpoch, s.job.number⟩
  let put := fun (t : State) (x : Nat) (ys : List Byte) => colWrite t j.desc.destSram j.desc.destCore x ys
  match (put s a (bs.take j.desc.chunkBytes)).bind fun t => put t (a + j.desc.chunkBytes + 192) (markBytes pid) with
  | .error x => failColWrite s j x
  | .ok s1 => settleCollectives (setColJob s1 j)

/-- Whether what a collective reads or writes lies on a channel that retrains (R126). -/
def colWaits (s : State) (j : ColJob) (kind k : Nat) : Bool :=
  let d := j.desc
  let n := if d.operation = 4 then (j.blocks.map fun b => b.2.length).sum + (j.pieces.map fun p => payloadBytes p.body).sum
    else destBytes d j.ring.length
  (!d.destSram && n > 0 && memWaits s d.destBase n)
    || (kind = 1 && !d.sourceSram && memWaits s (d.sourceBase + k * d.chunkBytes) d.chunkBytes)

/-- A message of a collective taken once all its segments are in: kind, and ordinal of the chunk or source position. -/
def takeWhole (s : State) (j : ColJob) (kind k : Nat) : State :=
  let mine := fun (p : Piece) => p.kind = kind && p.ordinal = k
  match wholeOf (j.pieces.filter mine) with
  | none => s
  | some body =>
    if colWaits s j kind k then s
    else
      let j1 := { ticked j kind k with pieces := j.pieces.filter fun p => !mine p }
      match kind, body with
      | 1, .partialSum xs _ => reduceStep s j1 k (some xs)
      | 2, .chunk bs => takeChunk s j1 k bs
      | 3, .block bs => takeBlock s j1 k bs
      | 8, .chunk bs => takePass s j1 k bs
      | _, _ => s

/-- A partial with the width its collective's elements have on the wire (R251). -/
def asSent (d : ColDesc) (b : Body) : Body :=
  match b with
  | .partialSum xs _ => .partialSum xs (d.wire = 1)
  | _ => b

/-- A segment of a message of a collective. -/
def takePiece (s : State) (h : MsgHdr) (kind : Nat) (body : Body) : State :=
  match s.col.jobs.find? fun j => j.desc.ringId = h.ringId && j.desc.tensor = h.tensorId && j.cmd.slot.step = h.step with
  | none => keepEarly s h body
  | some j0 =>
    let span := spanOf j0.desc kind
    let k := if kind < 3 then h.offset / span else h.srcPosition
    match colFor s h kind k with
    | none => keepEarly s h body
    | some j =>
      let j1 := { j with pieces := j.pieces ++ [⟨kind, k, if kind < 3 then h.offset % span else h.offset, h.last, asSent j.desc body⟩] }
      takeWhole (setColJob s j1) j1 kind k

/-- A message that came before its command, taken now. -/
def takeEarly (s : State) (m : Msg) : State :=
  let stay := setCol s fun c => { c with early := c.early ++ [m] }
  match m.hdr.kind, m.body with
  | 0x01, .partialSum xs bf => takePiece s m.hdr 1 (.partialSum xs bf)
  | 0x02, .chunk bs => takePiece s m.hdr 2 (.chunk bs)
  | 0x03, .block bs => takePiece s m.hdr 3 (.block bs)
  | 0x08, .chunk bs => takePiece s m.hdr 8 (.chunk bs)
  | 0x08, .parcel _ items =>
    if s.col.jobs.any fun j => j.desc.operation = 6 && j.desc.ringId = m.hdr.ringId && j.desc.tensor = m.hdr.tensorId
        && j.cmd.slot.step = m.hdr.step then takePiece s m.hdr 8 (.chunk items.flatten)
    else stay
  | _, _ => stay

/-- Messages that waited for a command. -/
def takeAllEarly (s : State) : State := s.col.early.foldl takeEarly (setCol s fun c => { c with early := [] })

/-- Messages that are whole but waited for a channel, tried again. -/
def retryPieces (s : State) (c : HostCmd) : State :=
  match s.col.jobs.find? (·.cmd = c) with
  | none => s
  | some j => j.expect.foldl (fun t e => match t.col.jobs.find? (·.cmd = c) with
    | some x => takeWhole t x e.1 e.2
    | none => t) s

/-! ### COL_RUN -/

/-- Bytes of the partial that a position sends of a chunk: 16,384 elements for each tile of its own. -/
def partialLength (d : ColDesc) (src : List Byte) (k : Nat) : Nat :=
  let own := (src.drop (k * d.chunkBytes)).take d.chunkBytes
  (chunkTiles (own.length / 256) own).length * 16384 * (if d.wire = 1 then 2 else 4)

/-- The chunks that a position sends in its collective: to whom, kind, ordinal, direction, bytes. -/
def sentChunks (j : ColJob) (src : List Byte) : List (Nat × Nat × Nat × Bool × Nat) :=
  let d := j.desc
  let n := j.ring.length
  let os := owners d n
  let next := memberAt j (j.position + 1)
  let partials := (os.zipIdx.filter fun q => q.1 != j.position).map fun q => (next, 1, q.2, false, partialLength d src q.2)
  let gathers := (os.zipIdx.filter fun q => q.1 != (j.position + 1) % n).map fun q => (next, 2, q.2, false, d.chunkBytes)
  if n < 2 then []
  else
    match d.operation with
    | 1 => partials
    | 2 => gathers
    | 3 => if d.toUpdate then partials else partials ++ gathers
    | 4 => ((List.range n).filter (· != j.position)).map fun p => (memberAt j p, 3, 0, false, leAt src (16 * p + 8) 8)
    | 5 => gathers
    | 6 => if os.contains j.position then
        (next, 8, 0, false, d.chunkBytes) :: (if n > 2 && os.length = n then [(memberAt j (j.position + n - 1), 8, 0, true, d.chunkBytes)] else [])
      else []
    | _ => []

/-- The numbers of everything that a collective sends, reserved at issue (R241). -/
def reserveCol (s : State) (j : ColJob) (src : List Byte) : State :=
  (sentChunks j src).foldl (fun t m =>
    reserveBlock t (chunkIdent j.desc m.2.1 m.2.2.1) j.desc.ringId j.desc.tensor j.cmd.slot.step
      (chunkHdrs t j m.1 m.2.1 m.2.2.1 m.2.2.2.1 m.2.2.2.2)) s

/-- A collective whose descriptor is good. -/
def startCol (s : State) (c : HostCmd) (d : ColDesc) (ring : List Nat) : State :=
  let n := ring.length
  let p := ring.findIdx (· = s.twin.number)
  let set := ((mget s.col.rings d.ringId).map (·.linkSet)).getD 3
  let j : ColJob := ⟨c, d, p, ring, awaited d n p, [], workingSlices s set, []⟩
  let reduces := d.operation = 1 || d.operation = 3
  let lists := d.operation = 4 || d.operation = 7
  let reads := reduces || lists || d.operation = 6 || (owners d n).contains p
  let bytes := if reduces || d.operation = 4 then sourceBytes d n else d.chunkBytes
  let begin' := fun (src : List Byte) =>
    settleCollectives (takeAllEarly (beginCol (reserveCol (setCol s fun x => { x with jobs := x.jobs ++ [j] }) j src) j src))
  if colWaits s j 0 0 then s
  else
    match (if reads then colRead s d.sourceSram d.sourceCore d.sourceBase bytes else .ok []) with
    | .wait => s
    | .ok src =>
      if !lists then begin' src
      else if listBad s j src then refuse s c condition
      else
        (match (listReads s d src).find? fun r => r = .wait, (listReads s d src).find? fun r => !(r matches .ok _) with
        | some _, _ => s
        | none, some r => failRead s c d.sourceCore r
        | none, none => begin' src)
    | r => failRead s c d.sourceCore r

/-- COL_RUN. -/
def execColRun (c : HostCmd) (data : List Byte) (s : State) : Host.Outcome State Fault Refusal :=
  runCmd s 0x0131 c fun s =>
    if s.col.jobs.any (·.cmd = c) then settleCollectives (takeAllEarly (retryPieces s c))
    else if operandOut s c 64 then refuse s c 0x18
    else
      match operandFault s c 64 with
      | some a => failUE s c a
      | none =>
        let bs := operandBytes s c data 64
        let d := colDescOf bs
        let ring := mget s.col.rings d.ringId
        match colFault s c.fn bs ring with
        | some d0 => refuse s c d0
        | none =>
          let ms := (ring.map (·.members)).getD []
          let same := fun (j : ColJob) => j.desc.operation = d.operation && j.desc.ringId = d.ringId && j.desc.tensor = d.tensor
            && j.cmd.slot.step = c.slot.step
          if d.layoutEpoch != s.job.layoutEpoch then finish s c 0x21 d.layoutEpoch s.job.layoutEpoch
          else if ring.any (·.broken) then
            (let lost := (ms.find? fun m => !isMember s m).getD 0
            finish s c 0x27 lost (removalStep s lost % 2 ^ 32))
          else if s.col.jobs.any same || (d.toUpdate && (paramsFor s d.tensor c.slot.step).isNone) then refuse s c condition
          else if d.sourceSram && (physOf s d.sourceCore).isNone then finish s c 0x22 0 d.sourceCore
          else if d.destSram && (physOf s d.destCore).isNone then finish s c 0x22 0 d.destCore
          else startCol s c d ms

/-! ### Rows -/

/-- Outlier channel maxima of another module (R113 step 1): one code for each channel from the offset's channel on. -/
def takeMaxima (s : State) (h : MsgHdr) (elems : List Nat) : State :=
  let o := (mget s.outliers h.tensorId).getD noOutliers
  let new := elems.zipIdx.map fun q => (h.step, h.offset / 4 + q.2, q.1)
  { s with outliers := mput s.outliers h.tensorId { o with peers := o.peers ++ new } }

/-- The factored table that a tensor's column sums belong to. -/
def factoredTable (s : State) (tensor : Nat) : Option TableDesc :=
  (s.tables.descs.find? fun e => e.2.optimiser = 6 && e.2.tensor = tensor).map (·.2)

/-- REDUCTION_PARTIAL: of a registered ring, of the column sums of a factored table, or of outlier maxima (R251, R182, R113). -/
def execReductionPartial (h : MsgHdr) (elems : List Nat) (s : State) : Host.Outcome State Fault Refusal :=
  .next (receive s h fun s =>
    if h.ringId != 0 then takePiece s h 1 (.partialSum elems)
    else if h.last && elems.isEmpty then setCol s fun c => { c with maxima := c.maxima ++ [(h.step, h.srcClass)] }
    else
      match factoredTable s h.tensorId with
      | some d => takeColumns s d h elems
      | none => takeMaxima s h elems)

/-- GATHER_CHUNK. -/
def execGatherChunk (h : MsgHdr) (bytes : List Byte) (s : State) : Host.Outcome State Fault Refusal :=
  .next (receive s h fun s => takePiece s h 2 (.chunk bytes))

/-- ALL_TO_ALL_BLOCK. -/
def execAllToAllBlock (h : MsgHdr) (bytes : List Byte) (s : State) : Host.Outcome State Fault Refusal :=
  .next (receive s h fun s => takePiece s h 3 (.block bytes))

/-! ### Re-sharding (R260 to R262, R302) -/

/-- Bytes of a plan. -/
def planBytes (bs : List Byte) : Nat := 64 + 128 * leAt bs 0 4 + 128 * leAt bs 4 4 + 32 * leAt bs 8 4

/-- The CRC of a plan: over the whole of it with the field taken as zero. -/
def planCrc (bs : List Byte) : Nat :=
  let p := padTo (planBytes bs) (bs.take (planBytes bs))
  crc32c (p.take 0x3C ++ [0, 0, 0, 0] ++ p.drop 64)

/-- The state that the descriptors of a plan are checked against: those that stay in force, and the others of the plan that
share this module with the checked one (R33). m is a module whose memory the checked descriptor uses. -/
def planState (s : State) (bs : List Byte) (m : Nat) : State :=
  let ts := (planTables bs).map tableDescOf
  let ds := (planShards bs).filter fun e => leAt e 0 1 = m
  let tensors := ds.map fun e => leAt e 0x40 2
  let here := ts.filter fun d => (tableModules d).any fun x => x = m || (d.twinned && x = twinOfNumber m)
  setTables (setCol s fun c => { c with reshard := none }) fun t =>
    { t with newDescs := []
             descs := (t.descs.filter fun e => !ts.any fun d => d.table = e.1) ++ here.map fun d => (d.table, d)
             shards := (t.shards.filter fun e => m = s.twin.number && !tensors.contains e.1)
               ++ ds.map fun e => (leAt e 0x40 2, shardDescOf (e.drop 64)) }

/-- The first descriptor of a plan that breaks its rules, as an offset into the plan. -/
def planFault (s : State) (bs : List Byte) (epoch : Nat) : Option Nat :=
  let tb := (planTables bs).zipIdx.filterMap fun q =>
    (if leAt q.1 0xC 2 != epoch then some 0xC
      else (let ms := tableModules (tableDescOf q.1); if ms.isEmpty then [s.twin.number] else ms).findSome? fun m => tableFault (planState s bs m) q.1).map fun o => 64 + 128 * q.2 + o
  let base := 64 + 128 * leAt bs 0 4
  let sh := (planShards bs).zipIdx.filterMap fun q =>
    (if leAt q.1 0x44 2 != epoch then some 4 else shardFault (planState s bs (leAt q.1 0 1)) (q.1.drop 64)).map fun o =>
      base + 128 * q.2 + 64 + o
  let moves := base + 128 * leAt bs 4 4
  let mv := (planMoves bs).zipIdx.filterMap fun q =>
    let n := leAt q.1 8 8
    ((if !devRange s (leAt q.1 0 8) n then [0] else []) ++ (if leAt q.1 0x10 1 ≥ classSize s then [0x10] else [])
      ++ (if leAt q.1 0x11 1 ≥ classSize s then [0x11] else []) ++ (if !devRange s (leAt q.1 0x18 8) n then [0x18] else [])).head?.map
        (moves + 32 * q.2 + ·)
  (tb ++ sh ++ mv).head?

/-- RESHARD on one member. -/
def installReshard : Install := fun c s =>
  let epoch := bitsOf c.slot.param0 0 16
  if c.slot.param1 < s.job.openStep + 2 then .error (rangeOf 0x28)
  else if !s.job.running || s.col.reshard.isSome then .error (rangeOf condition)
  else if epoch != (s.job.layoutEpoch + 1) % 65536 then .error (rangeOf 0x20)
  else if leAt c.data 0x3C 4 != planCrc c.data then .error (rangeOf (blockField 0x3C))
  else
    match planFault s c.data epoch with
    | some o => .error (rangeOf (blockField o))
    | none =>
      if planUnpaired s c.data then .error (twinUnavailable (twinOf s) s.twin.pair)
      else .ok (setCol s fun x => { x with reshard := some ⟨epoch, c.slot.param1, c.data, false, false, false, []⟩ })

def execReshard (c : HostCmd) (plan : List Byte) (s : State) : Host.Outcome State Fault Refusal :=
  runCmd s 0x0132 c fun s =>
    let n := planBytes (operandBytes s c plan 64)
    if operandOut s c n then refuse s c 0x18
    else
      match operandFault s c n with
      | some a => failUE s c a
      | none => startClass s c (operandBytes s c plan n) installReshard

def setReshard (s : State) (f : Reshard → Reshard) : State := setCol s fun c => { c with reshard := c.reshard.map f }

/-- Work of the old epoch on this module (R261): collectives, look-ups, backward passes, unacknowledged messages. -/
def inFlight (s : State) : Bool :=
  !s.col.jobs.isEmpty || !(unacked s).isEmpty || !s.att.isEmpty || !s.decodes.isEmpty || (s.tables.lookups.any fun l => !l.done)
    || !s.tables.backwards.isEmpty

/-- RESHARD_DRAIN: the drained flag set and sent round (R261 step 3). -/
def execReshardDrain (s : State) : Host.Outcome State Fault Refusal :=
  .next (match s.col.reshard with
    | none => s
    | some r =>
      if r.drained || s.job.openStep < r.boundary || inFlight s then s
      else passPart (setReshard s fun x => { x with drained := true }) r.boundary (.drained s.twin.number r.epoch))

/-- A tile under a new layout epoch: LAYOUT_EPOCH and HEADER_CRC rewritten (R262 step 4). -/
def rewriteEpoch (s : State) (a epoch : Nat) : State :=
  let h := devRead s a 64
  mark (devWrite s a (withCrc (h.take 6 ++ leBytes 2 epoch ++ h.drop 8))) a (granules (64 + leAt h 0x14 4))

/-- Every tile of a dense shard under the new epoch. -/
def rewriteShard (s : State) (d : ShardDesc) (epoch : Nat) : State :=
  (List.range d.tiles).foldl (fun t i =>
    let t1 := rewriteEpoch t (d.weightBase + i * d.weightStride) epoch
    if d.optimiser = 0 then t1 else rewriteEpoch t1 (d.stateBase + i * d.stateStride) epoch) s

/-- A range read for a move and sent. An uncorrectable one is counted and posted, and does not move (DESIGN CHOICE, log 110). -/
def sendRange (s : State) (dsts : List Nat) (owner tensor step src dst n : Nat) : State :=
  match badSector s src n with
  | some a => noteUE s a
  | none => sendMove s dsts owner 0 tensor step dst (devRead s src n) false

/-- The holders of what a move of the plan brings to a module: its twin too, where it lies in a twinned shard there (R262 step 2). -/
def moveHolders (s : State) (r : Reshard) (m addr : Nat) : List Nat :=
  let here := (planShards r.plan).any fun e => leAt e 0 1 = m && (shardDescOf (e.drop 64)).twinned
    && (shardSegments (shardDescOf (e.drop 64))).any fun g => g.1 * 2 ^ 20 ≤ addr && addr < g.2 * 2 ^ 20
  if here then holders s m r.boundary else [m]

/-- The records of a slot of a table that this module sends: those whose holders or address change (R262 step 2). -/
def moveSlot (s : State) (r : Reshard) (old new : TableDesc) (v : Nat) : State :=
  (List.range (min old.shards new.shards)).foldl (fun t k =>
    let o := ownerOf old k
    if readTarget t old o != some t.twin.number then t
    else (List.range (min old.rows new.rows)).foldl (fun u sl =>
      let key : RowKey := ⟨k, sl⟩
      let a := recordAddr old v key
      let b := recordAddr new v key
      let ca := checkAddr old v key
      let cb := checkAddr new v key
      if ownerOf new k = o && a = b && ca = cb && old.twinned = new.twinned then u
      else
        let dsts := rowHolders u new (ownerOf new k)
        let send := fun (w : State) (x y n : Nat) => sendRange w dsts (ownerOf new k) new.table r.boundary x y n
        send (send u a b old.stride) ca cb 4) t) s

/-- Every move of a module: table records, then dense tiles, then a LAST mark to every member. -/
def sendMoves (s : State) (r : Reshard) : State :=
  let s1 := (planTables r.plan).foldl (fun t bs =>
    let new := tableDescOf bs
    match tableAt t new.table with
    | none => t
    | some old =>
      let t1 := moveSlot t r old new 0
      if old.slot1 = 0 || new.slot1 = 0 then t1 else moveSlot t1 r old new 1) s
  let s2 := (planMoves r.plan).foldl (fun t e =>
    if leAt e 0x11 1 != t.twin.number then t
    else sendRange t (moveHolders t r (leAt e 0x10 1) (leAt e 0x18 8)) (leAt e 0x10 1) 0 r.boundary (leAt e 0 8) (leAt e 0x18 8) (leAt e 8 8)) s1
  (members s2).foldl (fun t m => sendMove t [m] m 0 0 r.boundary 0 [] true) s2

/-- RESHARD_PERMUTE: the drain all-reduce is complete; receive points switch, marks and numbers start again, moves are sent
(R261 step 4, R262 steps 1 to 4). -/
def execReshardPermute (s : State) : Host.Outcome State Fault Refusal :=
  .next (match s.col.reshard with
    | none => s
    | some r =>
      if !r.drained || r.switched || !partsIn s r.boundary 2 then s
      else
        let tensors := (planShards r.plan).map fun e => leAt e 0x40 2
        let s1 := (s.tables.shards.filter fun e => tensors.contains e.1).foldl (fun t e => rewriteShard t e.2 r.epoch) s
        let s2 := setReshard (setJob s1 fun j => { j with layoutEpoch := r.epoch }) fun x => { x with switched := true }
        sendMoves (setCol s2 fun c => { c with marks := [], nextSeq := [], idents := [] }) r)

/-- The permute-done flag: every move acknowledged and every member's LAST mark here (R262 step 5). -/
def settlePermute (s : State) : State :=
  match s.col.reshard with
  | none => s
  | some r =>
    if !r.switched || r.permuteDone || ((unacked s).any fun m => m.hdr.kind = 0x09)
        || !((members s).all r.marksIn.contains) then s
    else passPart (setReshard s fun x => { x with permuteDone := true }) r.boundary (.permuted s.twin.number r.epoch)

/-- PERMUTE_MOVE: written where it belongs; an empty LAST is the sender's end mark (R250, R262). -/
def execPermuteMove (h : MsgHdr) (addr : Nat) (bytes : List Byte) (s : State) : Host.Outcome State Fault Refusal :=
  .next (receive s h fun s =>
    let s1 := if bytes.isEmpty || !devRange s addr bytes.length then s else
      match tryWrite s addr bytes with
      | .ok t => mark t addr bytes.length
      | .error a => noteUE s a
    if h.last && h.ringId = 0 then
      settlePermute (setReshard s1 fun r => { r with marksIn := insertNat r.marksIn h.srcClass })
    else s1)

/-- The new layout in force (R262 step 6). -/
def installLayout (s : State) (r : Reshard) : State :=
  let s1 := (planTables r.plan).foldl (fun t bs =>
    let d := tableDescOf bs
    track (markDesc (setTables t fun x => { x with descs := mput x.descs d.table d }) d.table r.boundary) d.tensor) s
  (planShards r.plan).foldl (fun t e =>
    if leAt e 0 1 != t.twin.number then t
    else
      let d := shardDescOf (e.drop 64)
      track (markDesc (setTables t fun x => { x with shards := mput x.shards d.tensor d }) (2 ^ 16 + d.tensor) r.boundary) d.tensor) s1

/-- RESHARD_DONE: the permute-done all-reduce is complete; the module opens step b under the new epoch (R262 step 6). -/
def execReshardDone (s : State) : Host.Outcome State Fault Refusal :=
  .next (match s.col.reshard with
    | none => s
    | some r =>
      if !r.permuteDone || !partsIn s r.boundary 3 then s
      else
        let s1 := setCol (installLayout s r) fun c =>
          { c with reshard := none, parts := c.parts.filter fun q => partTag q.2 < 2 }
        advanceTables (post s1 .col 0 0x0600 [r.epoch, r.boundary]))

end Sys2Proof.Machine
end

