-- ==== Sys2Proof/Machine/Program.lean ====
section
/-! DEFINITION. Programs on cores, their transfers and boundaries, and the substitution of a failed core (R131 to R139,
R252, R298, R366 to R371). -/

namespace Sys2Proof.Machine

/-! ### PROGRAM_RUN (R298, R367) -/

/-- Logical cores of a range whose number is absent: no core is seated at it (R371). -/
def absentCore (s : State) (first count : Nat) : Option Nat := (rangeFrom first count).find? fun n => (physOf s n).isNone

/-- Physical cores of a range of logical numbers. -/
def seatedCores (s : State) (first count : Nat) : List Nat := (rangeFrom first count).filterMap (physOf s)

/-- Passes asked for by the cores that hold none (R339). -/
def requestPasses (s : State) (ps : List Nat) : State := (ps.filter fun p => !s.pwr.passes.contains p).foldl requestPass s

/-- A program starts: every core takes the command, its start is a boundary, and what it declares is noted. -/
def startProgram (s : State) (c : HostCmd) (decl : StepDecl) (ps : List Nat) : State :=
  let fresh := fun (k : Core) =>
    { k with command := some c, sendsIn := [], receiveLog := [], resumePoint := some (0, c.slot.operand) }
  let s1 := ps.foldl (fun t p => setCore t p (fresh (coreAt t p))) s
  requestPasses (setTables s1 fun t =>
    { t with decls := if t.decls.contains decl then t.decls else t.decls ++ [decl] }) ps

/-! ### Transfers (R137 to R139) -/

/-- Whether a transfer names places that exist: SRAM, buffer, alignment of tiles, device memory in device bias (R119,
R121, R131, R134, R288). -/
def transferOk (s : State) (t : Transfer) : Bool :=
  t.buffer < 64 && t.sramOffset + t.bytes ≤ sramBytes && (!t.isTile || t.sramOffset % 256 = 0)
    && (t.inHost || (devRange s t.addr t.bytes && !inShared s t.addr t.bytes && (!t.isTile || t.addr % 256 = 0)))

/-- A transfer issued in program order. -/
def issueTransfer (s : State) (phys kind : Nat) (t : Transfer) : State :=
  if transferOk s t then
    let k := coreAt s phys
    setCore s phys { k with transfers := k.transfers ++ [⟨kind, t⟩] }
  else failProgram s phys 0x12 condition 0

/-- STREAM_IN. -/
def execStreamIn (core : Nat) (t : Transfer) (s : State) : Host.Outcome State Fault Refusal :=
  .next (onCore s core fun s phys => issueTransfer s phys 0 t)

/-- GATHER: the shards come from the peers, as the operand brings them. -/
def execGather (core : Nat) (t : Transfer) (s : State) : Host.Outcome State Fault Refusal :=
  .next (onCore s core fun s phys => issueTransfer s phys 1 { t with inHost := true })

/-- OFFLOAD. -/
def execOffload (core : Nat) (t : Transfer) (s : State) : Host.Outcome State Fault Refusal :=
  .next (onCore s core fun s phys => issueTransfer s phys 2 t)

/-- FETCH. -/
def execFetch (core : Nat) (t : Transfer) (s : State) : Host.Outcome State Fault Refusal :=
  .next (onCore s core fun s phys => issueTransfer s phys 3 t)

/-- The oldest transfer of a core has completed. -/
def popTransfer (s : State) (phys : Nat) : State :=
  let k := coreAt s phys
  progress (setCore s phys { k with transfers := k.transfers.drop 1 }) .coreP phys 1

/-- The checks of a tile that arrives (R136); span is the room to the reserved region where it comes from device memory. -/
def tileCheck (s : State) (t : Transfer) (bs : List Byte) : TileCheck :=
  checkTile (bs.take 64) (bs.drop 64) (if t.inHost then none else some (Config.reservedBase s.part - t.addr)) t.layoutEpoch

/-- Bytes that a core receives, as a tile where they are one (R136). A corrupt tile that stands in device memory is read once more
from the twin, where R130 serves it; what is left ends the program. -/
def receiveTile (s : State) (logical phys : Nat) (t : Transfer) (bs : List Byte) (after : State → State) : State :=
  let put := fun (u : State) (b : List Byte) => after (sramWrite u logical t.sramOffset b)
  if !t.isTile then put s bs
  else
    match tileCheck s t bs with
    | .ok => put s bs
    | .corrupt =>
      if t.inHost then failProgram s phys 0x23 t.addr (ueDetail s)
      else
        (match readItem s t.addr t.bytes (coreStep s phys) t.twinned false true with
        | .ok b => put s b
        | .wait s' => s'
        | .fail s' a => failProgram s' phys 0x23 a (ueDetail s'))
    | .badField f => failProgram s phys 0x12 (0x1000 + f) t.addr
    | .epoch => failProgram s phys 0x21 (leAt bs 6 2) t.layoutEpoch

/-- A read of device memory for a core (R129, R130, R191). -/
def fetchBytes (s : State) (phys : Nat) (t : Transfer) (got : State → List Byte → State) : State :=
  match tornIn s t.addr t.bytes with
  | some a => failProgram s phys 0x23 a (ueDetail s)
  | none =>
    let s := meet s (metIn t.met t.addr t.bytes)
    match readItem s t.addr t.bytes (coreStep s phys) t.twinned false false with
    | .ok bs => got s bs
    | .wait s' => s'
    | .fail s' a => failProgram s' phys 0x23 a (ueDetail s')

/-- A tile as the store-path converter leaves it (R135, R136): its layout epoch, stamp, pre-scale exponent, body length and both CRCs
set, reserved bits 0, and the rest of the header as the program has placed it in SRAM (DESIGN CHOICE, log 91). -/
def sealTile (s : State) (t : Transfer) (step : Nat) (bs : List Byte) : List Byte :=
  let kind := leAt bs 1 1 % 8
  let sides := bitsOf (leAt bs 1 1) 3 2
  let n := match tagOf? (leAt bs 0 1) with
    | some (f, a) => tileBody f a sides
    | none => leAt bs 0x14 4
  let p := if kind = 2 || kind = 3 then preScale s (leAt bs 4 2) else 0
  let hd := bs.take 1 ++ leBytes 1 (leAt bs 1 1 % 32) ++ (bs.take 6).drop 2 ++ leBytes 2 t.layoutEpoch ++ (bs.take 0xC).drop 8
    ++ leBytes 3 step ++ leBytes 1 (leAt bs 0xF 1 % 128) ++ leBytes 1 (leAt bs 0x10 1 % 128) ++ leBytes 1 (p % 256).toNat ++ leBytes 2 0
    ++ leBytes 4 n ++ leBytes 4 (crc32c ((bs.drop 64).take n)) ++ List.replicate 0x20 0
  withCrc hd ++ bs.drop 64

/-- An OFFLOAD that runs: its source read, sealed as a tile where it is one, and written (R136, R137). -/
def offload (s : State) (logical phys : Nat) (t : Transfer) : State :=
  let s := meetWords s logical [(t.sramOffset, t.bytes)] t.words
  match sramBad s logical t.sramOffset t.bytes with
  | some off => failSram s logical phys off
  | none =>
    let bs := sramRead s logical t.sramOffset t.bytes
    let bs := if t.isTile then sealTile s t (coreStep s phys) bs else bs
    if t.inHost then popTransfer (hostWrite s (.data t.addr bs)) phys
    else if memWaits s t.addr t.bytes then s
    else
      match badWrite s t.addr t.bytes with
      | some a => failProgram (noteUE s a) phys 0x23 a (ueDetail s)
      | none => popTransfer (devWrite s t.addr bs) phys

/-- TRANSFER_COMPLETE: the oldest transfer of the core, in issue order (R137). One that names host memory waits while the host is
away (R309). -/
def execTransferComplete (core ident : Nat) (s : State) : Host.Outcome State Fault Refusal :=
  .next (match physOf s core with
    | none => s
    | some phys =>
      let got := fun (t : Transfer) (u : State) (bs : List Byte) => receiveTile u core phys t bs fun v => popTransfer v phys
      match (coreAt s phys).transfers with
      | [] => s
      | ⟨kind, t⟩ :: _ =>
        if t.ident != ident || (t.inHost && kind != 1 && hostAway s) then s
        else if kind = 2 then offload s core phys t
        else if t.inHost then got t s (padTo t.bytes (t.data.take t.bytes))
        else fetchBytes s phys t (got t))

/-! ### SEND (R252, R368) -/

/-- Last ordinal a core has received from a sender. -/
def lastSend (k : Core) (src : Nat) : Nat := (mget k.sendsIn src).getD 0

/-- SEND: a repeat is discarded by its ordinal and counted; a new one is copied and logged. One to an absent number ends the command
(R371); while a substitute is still to be seated there it waits. -/
def execSend (core dst : Nat) (ordinal srcOffset bytes buffer dstOffset : Nat) (s : State) :
    Host.Outcome State Fault Refusal :=
  .next (onCore s core fun s phys =>
    if buffer ≥ 64 || srcOffset + bytes > sramBytes || dstOffset + bytes > sramBytes || dst ≥ Config.logicalCores s.part
    then failProgram s phys 0x12 condition 0
    else
      match physOf s dst with
      | none => if s.cores.substituting.any (·.1 = dst) then s else failProgram s phys 0x22 0 dst
      | some q =>
        let k := coreAt s q
        if ordinal ≤ lastSend k core then progress s .coreP q 1
        else if readWaits (coreAt s phys) srcOffset bytes || writeWaits k dstOffset bytes then waitStream s phys
        else
          match sramBad s core srcOffset bytes with
          | some off => failSram s core phys off
          | none =>
            let bs := sramRead s core srcOffset bytes
            let k' := { k with sendsIn := mput k.sendsIn core ordinal, receiveLog := k.receiveLog ++ [(core, ordinal, bs)] }
            progress (sramWrite (setCore s q k') dst dstOffset bs) .coreP phys 1)

/-! ### Boundaries (R367, R368) -/

/-- BOUNDARY: a resume point outside the core, the receive log cleared, contributions committed. -/
def execBoundary (core position restoreAddr : Nat) (s : State) : Host.Outcome State Fault Refusal :=
  .next (onCore s core fun s phys =>
    let s1 := commitCore s core phys
    setCore s1 phys { coreAt s1 phys with resumePoint := some (position, restoreAddr), receiveLog := [] })

/-! ### Failure and substitution (R366 to R371) -/

/-- The lowest-numbered substitute in reserve on the die of a logical number. -/
def substituteFor (s : State) (logical : Nat) : Option Nat :=
  (rangeFrom (34 * (logical / 32)) 34).find? fun p => mget s.cores.seats p = some .reserve

/-- CORE_FAULT: the core's clock stops, it goes to detention, and the substitution of its number opens. -/
def execCoreFault (physical : Nat) (s : State) : Host.Outcome State Fault Refusal :=
  .next (match mget s.cores.seats physical with
    | none => s
    | some .detention => s
    | some .outOfService => s
    | some seat =>
      let n := match seat with
        | .seated n => n
        | _ => 0x1FF
      let k := coreAt s physical
      let s1 := setPwr s fun w => { w with passes := w.passes.filter (· != physical)
                                           requests := w.requests.filter (·.2 != physical)
                                           running := w.running.filter (· != physical) }
      let s2 := setCores s1 fun c => { c with
        seats := mput c.seats physical .detention
        cores := mput c.cores physical { k with uncommitted := [], accA := none, accB := none, tray := [], vecWait := none
                                                meWait := false }
        substituting := if seat = .reserve then c.substituting else c.substituting ++ [(n, physical)]
        recomputing := c.recomputing.filter (·.1 != n) }
      let s3 := post s2 .rel 0 0x0805 [physical, n]
      if seat = .reserve || s.rel.recovery != 0 then s3
      else
        match substituteFor s3 n with
        | some q => if field s .rel 0 0x010 1 1 = 1 then raise s3 .rel 0 1 [physical, n, q] else s3
        | none => s3)

/-- The attention runs whose range holds a core that becomes absent complete with CORE_ABSENT (R217). -/
def endRunsOn (s : State) (logical : Nat) : State :=
  let hit := fun (j : AttJob) => j.desc.coreFirst ≤ logical && logical < j.desc.coreFirst + j.desc.coreCount
  (s.att.filter hit).foldl (fun t j => finish t j.cmd 0x22 0 logical) { s with att := s.att.filter fun j => !hit j }

/-- A number without a core: its commands end with CORE_ABSENT (R371). -/
def makeAbsent (s : State) (logical failed : Nat) : State :=
  let k := coreAt s failed
  let s := endRunsOn s logical
  let s1 := bump (post (setCores s fun c => { c with substituting := c.substituting.filter (·.1 != logical) })
    .rel 0 0x0807 [logical, failed]) .rel 0 0x118 16 16 1
  match k.command with
  | none => s1
  | some c =>
    let s2 := setCore s1 failed { k with command := none }
    if s2.hif.running.contains c then finish (endProgram s2 c) c 0x22 0 logical else s2

/-- One entry of a restore list run again into SRAM, as a transfer that arrives: bytes of device memory as they stand, and host
bytes as the program's image names them (R129, R136, R367, R369, DESIGN CHOICE, log 31). An entry that fails has ended the command. -/
def restoreEntry (logical phys : Nat) (s : State) (t : Transfer) : State :=
  let got := fun (u : State) (bs : List Byte) => receiveTile u logical phys t bs id
  if (coreAt s phys).command.isNone then s
  else if t.inHost then got s (padTo t.bytes (t.data.take t.bytes))
  else fetchBytes s phys t got

/-- The restore list of the step of the command that runs on a core. -/
def restoreList (s : State) (phys : Nat) : List Transfer :=
  ((s.tables.decls.find? (·.step = coreStep s phys)).map (·.restoreList)).getD []

/-- Whether an entry of a restore list waits: for a channel that retrains, or for its twin's copy, which it asks for (R127, R130). -/
def restoreWaits (s : State) (phys : Nat) (t : Transfer) : Option State :=
  if t.inHost then none
  else
    match readItem s t.addr t.bytes (coreStep s phys) t.twinned false false with
    | .wait s' => some s'
    | _ => none

/-- A substitute seated at a failed number (R369 steps 2 and 3). The resume point, the receive log, the transfer ordinals
and the running command stand outside the core and go to it. -/
def seatSubstitute (s : State) (logical failed sub : Nat) : State :=
  let k := coreAt s failed
  let fresh : Core := { Core.reset with resumePoint := k.resumePoint, receiveLog := k.receiveLog, sendsIn := k.sendsIn,
                                        command := k.command }
  match (restoreList s failed).findSome? (restoreWaits s failed) with
  | some t => t
  | none =>
    let s1 := setCores s fun c => { c with
      seats := mput c.seats sub (.seated logical)
      cores := mput (mput c.cores sub fresh) failed { k with command := none }
      substituting := c.substituting.filter (·.1 != logical)
      recomputing := mput c.recomputing logical failed }
    requestPasses ((restoreList s failed).foldl (restoreEntry logical sub) s1) [sub]

/-- A substitution hand that stands for a logical number. -/
def substitutionHand (s : State) (logical : Nat) : Option Hand :=
  s.hif.hands.find? fun h => h.page = pageOf .rel 0 && h.bit = 1 && h.items.getD 1 0 = logical

/-- SUBSTITUTE_SEAT: the lowest substitute in reserve, or the number becomes absent; a standing hand holds it up (R370). -/
def execSubstituteSeat (logical : Nat) (s : State) : Host.Outcome State Fault Refusal :=
  .next (match s.cores.substituting.find? (·.1 = logical) with
    | none => s
    | some (_, failed) =>
      if (substitutionHand s logical).isSome then s
      else
        match substituteFor s logical with
        | none => makeAbsent s logical failed
        | some q => seatSubstitute s logical failed q)

/-- CORE_SUBSTITUTED: the substitute has passed the point of failure (R369 step 4). -/
def execCoreSubstituted (logical : Nat) (s : State) : Host.Outcome State Fault Refusal :=
  .next (match mget s.cores.recomputing logical, physOf s logical with
    | some failed, some p =>
      bump (post (setCores s fun c => { c with recomputing := mdel c.recomputing logical }) .rel 0 0x0806 [p, logical, failed])
        .rel 0 0x118 0 16 1
    | _, _ => s)

end Sys2Proof.Machine
end

