-- ==== Sys2Proof/Machine/Attend.lean ====
section
/-! DEFINITION. Blockwise attention over a sequence ring: ATT_RUN, parcels, ring open, abort notices (R197 to R218). -/

namespace Sys2Proof.Machine

/-! ### The descriptor (R201, R202) -/

/-- An attention descriptor from its 128 bytes. -/
def attDescOf (bs : List Byte) : AttDesc :=
  let b6 := leAt bs 6 1
  { tensor := leAt bs 0 2, qTag := leAt bs 2 1, kTag := leAt bs 3 1, vTag := leAt bs 4 1, outTag := leAt bs 5 1
    strictFormat := bitOf b6 7, minKey := bitsOf b6 5 2, causal := bitOf b6 4, backward := bitOf b6 3
    headDim := 64 * (bitsOf (leAt bs 7 1) 0 2 + 1), qHeads := leAt bs 8 1, kvHeads := leAt bs 9 1, ringSize := leAt bs 0xA 1
    ringPosition := leAt bs 0xB 1, ringId := leAt bs 0xC 2, layoutEpoch := leAt bs 0xE 2, chunk := leAt bs 0x10 4
    valid := leAt bs 0x14 4, scale := leAt bs 0x18 4, coreFirst := leAt bs 0x1C 2, coreCount := leAt bs 0x1E 2
    stateOffset := leAt bs 0x20 4, hostBases := leAt bs 0x24 4 % 512, qBase := leAt bs 0x28 8, qdBase := leAt bs 0x30 8
    kBase := leAt bs 0x38 8, kdBase := leAt bs 0x40 8, vBase := leAt bs 0x48 8, vtBase := leAt bs 0x50 8, oBase := leAt bs 0x58 8
    lseBase := leAt bs 0x60 8, ringBase := leAt bs 0x68 8, gradBase := leAt bs 0x70 8 }

def queryTag (t : Nat) : Bool := t = 3 || t = 0x14
def outTagOk (t : Nat) : Bool := t = 1 || t = 3 || t = 0x14 || t = 0x15

/-- Formats of stored keys and values beside a query format (R204). -/
def keyTagOk (q t : Nat) : Bool := t = 0x14 || t = 0x15 || t = 0x16 || (t = 3 && q = 3)

/-- Tokens of a shard, and blocks of 128 of them. -/
def shardTokens (d : AttDesc) : Nat := 2 * d.chunk
def shardBlocks (d : AttDesc) : Nat := shardTokens d / 128

/-- Dimension blocks of a head. -/
def dimBlocks (d : AttDesc) : Nat := (d.headDim + 127) / 128

/-- Bytes of one tile under a tag, and of the tiles of n heads. -/
def tagTile (tag : Nat) : Nat := granules (64 + tileBody (fmtOfTag tag).1 (fmtOfTag tag).2 0)
def headBytes (d : AttDesc) (tag n : Nat) : Nat := n * shardBlocks d * dimBlocks d * tagTile tag

/-- The arrays of a run: bit of HOST_BASES, base, bytes, and whether the run reads it. -/
def attArrays (s : State) (d : AttDesc) : List (Nat × Nat × Nat × Bool) :=
  let g := fun (i : Nat) => leNat (devRead s (d.gradBase + 8 * i) 8)
  let q := headBytes d d.qTag d.qHeads
  let o := headBytes d d.outTag d.qHeads
  let b := d.backward
  [(0, d.qBase, q, true), (1, d.qdBase, q, b), (2, d.kBase, headBytes d d.kTag d.kvHeads, true),
   (3, d.kdBase, headBytes d d.kTag d.kvHeads, b), (4, d.vBase, headBytes d d.vTag d.kvHeads, true),
   (5, d.vtBase, headBytes d d.vTag d.kvHeads, b), (6, d.oBase, o, b), (7, d.lseBase, 4 * d.qHeads * shardTokens d, b)]
    ++ (if b then [(8, g 0, o, true), (8, g 1, o, true), (8, g 2, o, false), (8, g 3, headBytes d d.outTag d.kvHeads, false),
          (8, g 4, headBytes d d.outTag d.kvHeads, false)] else [])

/-- Whether an array's base breaks R202. -/
def baseBad (s : State) (d : AttDesc) (a : Nat × Nat × Nat × Bool) : Bool :=
  if bitOf d.hostBases a.1 then a.2.1 % 4096 != 0 else a.2.1 % 256 != 0 || rangeBad s a.2.1 a.2.2.1

/-- Bytes of state on the core with the most query blocks (R206). -/
def stateArea (d : AttDesc) : Nat :=
  (d.qHeads * shardBlocks d + d.coreCount - 1) / max d.coreCount 1 * (512 * d.headDim + 1024)

/-- Whether the base of a backward pass's table of addresses breaks R202. -/
def gradTableBad (s : State) (d : AttDesc) : Bool := d.backward && (d.gradBase % 256 != 0 || rangeBad s d.gradBase 64)

/-- Bytes of a slot's room for the tiles of a parcel in the widest format beside the query's, and for dK and dV in FP32 (R204, R213,
R214). -/
def parcelRoom (d : AttDesc) : Nat := (if d.backward then 4 else 2) * headBytes d (if d.qTag = 3 then 3 else 0x14) d.kvHeads
def partialRoom (d : AttDesc) : Nat := if d.backward then 8 * d.kvHeads * shardTokens d * d.headDim else 0

/-- Bytes of a slot of the ring area: the parcel's tiles, its partials, returning partials, and 256 bytes that end with the completion
mark, before it the mark of the returning partials (R214, DESIGN CHOICE, log 100). -/
def slotBytes (d : AttDesc) : Nat := parcelRoom d + 2 * partialRoom d + 256

/-- DETAIL0 of the first bad field of a descriptor, in the order of R202. -/
def attFault (s : State) (m : NumMode) (bs : List Byte) : Option Nat :=
  let d := attDescOf bs
  let bad := fun (off : Nat) (b : Bool) => if b then [blockField off] else []
  let off := fun (i : Nat) => if i = 7 then 0x60 else 0x28 + 8 * i
  let ring := mget s.col.rings d.ringId
  let n := (ring.map (·.members.length)).getD 0
  let lim := if d.backward then 13 else 8
  let used : List ((Nat × Nat × Nat × Bool) × Nat) := ((attArrays s d).take lim).zipIdx.filter fun (q : (Nat × Nat × Nat × Bool) × Nat) => q.1.2.2.2 || q.2 = 6 || q.2 = 7 || q.2 ≥ 10
  let sc := decodeFmt .fp32 d.scale
  (bad 2 (!queryTag d.qTag) ++ bad 5 (!outTagOk d.outTag) ++ bad 6 (d.minKey = 3) ++ bad 8 (d.qHeads = 0 || d.qHeads > 128)
    ++ bad 9 (d.kvHeads = 0 || d.kvHeads > d.qHeads || d.qHeads % max d.kvHeads 1 != 0) ++ bad 0xA (d.ringSize = 0 || d.ringSize > 64)
    ++ bad 0xB (d.ringPosition ≥ d.ringSize) ++ bad 0x10 (d.chunk % 128 != 0 || d.chunk < 128 || d.chunk > 131072)
    ++ bad 0x14 (d.valid = 0 || d.valid > 2 * d.ringSize * d.chunk) ++ bad 0x18 (!sc.isFinite || sc.isZero || sc.sign)
    ++ bad 0x1E (d.coreCount = 0 || d.coreCount > 256) ++ bad 3 (!keyTagOk d.qTag d.kTag) ++ bad 4 (!keyTagOk d.qTag d.vTag)
    ++ bad 0xA (d.ringSize > Config.maxRing s.part || d.ringSize != n)
    ++ bad 0xB ((ring.bind fun r => r.members[d.ringPosition]?) != some s.twin.number)
    ++ bad 0x1C (d.coreFirst + d.coreCount > Config.logicalCores s.part)
    ++ bad 0x20 (d.stateOffset % 64 != 0 || d.stateOffset + stateArea d > sramBytes)
    ++ bad 0x70 (gradTableBad s d)
    ++ (used.flatMap fun (q : (Nat × Nat × Nat × Bool) × Nat) => bad (if q.2 < 8 then off q.2 else 0x70) (baseBad s d q.1))
    ++ bad 0x68 (d.ringBase % 256 != 0 || rangeBad s d.ringBase ((d.ringSize - 1) * slotBytes d))
    ++ (if m = NumMode.legacy && (d.qTag != 3 || d.kTag != 3 || d.vTag != 3 || d.outTag != 3) then [4] else [])
    ++ bad 0x7C (leAt bs 0x7C 4 != crc32c (bs.take 0x7C))).head?

/-! ### Lines of operands -/

/-- A line of a matrix operand: element values and, for group scales, one value to 32 elements. -/
structure ALine where
  vals : List Val
  scales : List Val
  deriving DecidableEq, Repr

/-- A line of a tile as stored. -/
def tileALine (tag : Nat) (bs : List Byte) (l : Nat) : ALine :=
  let fa := fmtOfTag tag
  let n := tileLineBytes fa.1
  let body := bs.drop 64
  ⟨(unpackElems fa.1 ((body.drop (l * n)).take n) 128).map (decodeFmt fa.1),
   match fa.2 with
   | .group _ => (List.range 4).map fun g => decodeFmt .e8m0 (leAt body (128 * n + 4 * l + g) 1)
   | _ => []⟩

/-- An element times its scale, in the format of c (R54, R62, R65): a NaN scale is invalid, a NaN element stays itself. -/
def scaledInto (c : Ctl) (v sc : Val) : Nat × Exc :=
  if sc.isNan then invalidResult c.lane
  else
    match nanResult c [v] with
    | some r => r
    | none =>
      match mulVal v sc with
      | none => invalidResult c.lane
      | some w => into c.lane c.mode (dirOf c.mode c.rounding) w

/-- A line widened into the query's format (R204): FP8 queries take it as stored, BF16 ones element times scale. -/
def widenALine (c : Ctl) (qTag tag : Nat) (x : ALine) : ALine × List Exc :=
  if qTag = 0x14 || tag = 3 || tag = 1 then (x, [])
  else
    let r := x.vals.zipIdx.map fun q => scaledInto { c with lane := .bf16 } q.1 (x.scales.getD (q.2 / 32) (.fin false 1 0))
    (⟨r.map fun p => decodeFmt .bf16 p.1, []⟩, r.map (·.2))

/-- FP32 codes of a line on the vector engine's load path, with the events met: element times scale (R93, R210). -/
def lineCodes (c : Ctl) (x : ALine) : List (Nat × Exc) :=
  x.vals.zipIdx.map fun q =>
    if x.scales.isEmpty then (exactCode .fp32 q.1, .none) else scaledInto c q.1 (x.scales.getD (q.2 / 32) (.fin false 1 0))

/-- A line with its elements from n on taken as +0: those of padding queries, which are not computed (R200). -/
def ALine.zeroFrom (x : ALine) (n : Nat) : ALine := { x with vals := x.vals.zipIdx.map fun q => if q.2 < n then q.1 else .fin false 0 0 }

/-- Two lines end to end. -/
def ALine.join (a b : ALine) : ALine := ⟨a.vals ++ b.vals, a.scales ++ b.scales⟩

/-- A line cut to n elements. -/
def ALine.cut (a : ALine) (n : Nat) : ALine := ⟨a.vals.take n, a.scales.take ((n + 31) / 32)⟩

/-- Tile i of an array. -/
def arrTile (tag : Nat) (arr : List Byte) (i : Nat) : List Byte := (arr.drop (i * tagTile tag)).take (tagTile tag)

/-- The token lines of a block of a head: 128 lines of d elements (R203). -/
def tokenLines (d : AttDesc) (tag : Nat) (arr : List Byte) (head b : Nat) : List ALine :=
  (List.range 128).map fun l =>
    ((List.range (dimBlocks d)).foldl (fun (x : ALine) q =>
      x.join (tileALine tag (arrTile tag arr ((head * shardBlocks d + b) * dimBlocks d + q)) l)) ⟨[], []⟩).cut d.headDim

/-- The dimension lines of a block of a head: d lines of 128 tokens. -/
def dimLines (d : AttDesc) (tag : Nat) (arr : List Byte) (head b : Nat) : List ALine :=
  (List.range d.headDim).map fun k =>
    tileALine tag (arrTile tag arr ((head * dimBlocks d + k / 128) * shardBlocks d + b)) (k % 128)

/-- Lines widened, with the events met. -/
def widenLines (c : Ctl) (qTag tag : Nat) (xs : List ALine) : List ALine × List Exc :=
  let r := xs.map (widenALine c qTag tag)
  (r.map (·.1), r.flatMap (·.2))

/-! ### Passes and vector lines -/

/-- What a piece of work counts: events, those among them of vector operations, replays, matrix passes with the cycles of those that did
not replay, the elements converted into scaled formats in true units, and the largest entry of a G value (R64, R97, R98, R106, R109). -/
structure AttCount where
  counts : Counts := {}
  vec : Counts := {}
  first : Nat := 0
  second : Nat := 0
  passes : Nat := 0
  cycles : Nat := 0
  fwd : List (Val × Val) := []
  bwd : List (Val × Val) := []
  own : Int := -128
  deriving DecidableEq, Repr

def AttCount.join (a b : AttCount) : AttCount :=
  ⟨a.counts.sum b.counts, a.vec.sum b.vec, a.first + b.first, a.second + b.second, a.passes + b.passes, a.cycles + b.cycles,
   a.fwd ++ b.fwd, a.bwd ++ b.bwd, max a.own b.own⟩

/-- Events of loads and matrix operands, and events of vector operations. -/
def AttCount.ofLoad (xs : List Exc) : AttCount := { counts := countsOf xs }
def AttCount.of (xs : List Exc) : AttCount := { counts := countsOf xs, vec := countsOf xs }

/-- Cycles of 128 lines against 128 lines for each 16 of the reduction, in the query's format (R73, R204). -/
def attRate (qTag : Nat) : Nat := if qTag = 3 then 32 else 16

/-- A matrix pass of a sequencer: lines of a against lines of b, copied into the tray and drained under R82. -/
def attPass (c : Ctl) (qTag : Nat) (a b : List ALine) (init : Option (List (List Nat))) : List (List Nat) × AttCount :=
  let op : MatOperand := ⟨0, 0, 0, 0, 0⟩
  let p : PassIn := { tileRow := 0, tileCol := 0, a := op, b := op, k := 0, rows := 0, cols := 0, mode := c.mode, rounding := c.rounding
                      accIn := none, sideBase := 0, tensorId := 0, outFormat := 0, outliers := [] }
  let xs := a.zipIdx.map fun ra => b.zipIdx.map fun rb =>
    ({ init := init.map fun t => (t.getD ra.2 []).getD rb.2 0, a := ra.1.vals, b := rb.1.vals, sa := ra.1.scales, sb := rb.1.scales
       side := [], chan := none } : ElemIn)
  let f := fillTile p (a.any fun x => !x.scales.isEmpty) xs
  let drained := f.1.map fun r => r.map fun e =>
    if f.2.1 = 0 then (e.code, Exc.none)
    else clampShift f.2.1 .fp32 (laneResult c (scaleVal (decodeFmt .fp32 e.code) f.2.1))
  let vec := countsOf (drained.flatMap fun r => r.map (·.2))
  (drained.map fun r => r.map (·.1),
   { counts := (countsOf (f.1.flatMap fun r => r.map (·.exc))).sum vec, vec := vec, first := b2n (f.2.2 = 1), second := b2n (f.2.2 = 2)
     passes := 1, cycles := if f.2.2 = 0 then fillCycles (attRate qTag) ((a.headD ⟨[], []⟩).vals.length) c.mode else 0 })

/-- FP32 operations of the vector engine on codes. -/
def vAdd (c : Ctl) (a b : Nat) : Nat × Exc := opAdd c (decodeFmt .fp32 a) (decodeFmt .fp32 b)
def vSub (c : Ctl) (a b : Nat) : Nat × Exc := opSub c (decodeFmt .fp32 a) (decodeFmt .fp32 b)
def vMul (c : Ctl) (a b : Nat) : Nat × Exc := opMul c (decodeFmt .fp32 a) (decodeFmt .fp32 b)
def vFma (c : Ctl) (a b d : Nat) : Nat × Exc := opFma c (decodeFmt .fp32 a) (decodeFmt .fp32 b) (decodeFmt .fp32 d)
def vNeg (a : Nat) : Nat := a ^^^ 2 ^ 31
def vMax (c : Ctl) (a b : Nat) : Nat × Exc := opMinMax c true (decodeFmt .fp32 a) (decodeFmt .fp32 b)
def vExp2 (c : Ctl) (a : Nat) : Nat × Exc := opSpecial c.mode c.rounding .exp2 (decodeFmt .fp32 a)

/-- A fold of codes from the first one. -/
def vFold (f : Nat → Nat → Nat × Exc) (xs : List Nat) : Nat × List Exc :=
  match xs with
  | [] => (0, [])
  | x :: t => t.foldl (fun (a : Nat × List Exc) y => let r := f a.1 y; (r.1, a.2 ++ [r.2])) (x, [])

/-- c of R207: the scale times log2 e, rounded once. -/
def scoreScale (c : Ctl) (tau : Nat) : Nat := (vMul c tau 0x3FB8AA3B).1

/-- What a masked score reads as (R208). -/
def maskedScore : Nat := 0xFF7FFFFF

/-- A line on its way through the store-path converter: the operand it becomes and what that counts. -/
structure StoredALine where
  line : ALine
  count : AttCount
  deriving DecidableEq, Repr

/-- A line of FP32 codes stored in the query's format, as an operand (R207, R210). g is the pre-scale of a G line, none for one of kind
A: what leaves the converter enters the tensor's statistics and, of G, its history in true units (R106, R109). -/
def storeLine (c : Ctl) (qTag : Nat) (f : Fmt) (g : Option Int) (xs : List Nat) : StoredALine :=
  let vs := xs.map (decodeFmt .fp32)
  let own := g.elim (-128) fun p => (vs.filterMap fun v => magnitudeEntry (scaleVal v (-p))).foldl max (-128)
  if qTag = 3 then
    let r := storeRow c .bf16 .plain 0 [] vs
    ⟨⟨r.elems.map (decodeFmt .bf16), []⟩, { AttCount.of r.excs with own := own }⟩
  else
    let r := storeRow c f (.group 32) 0 [] vs
    let qs := trueUnits (g.getD 0) 0 0 vs r.values
    ⟨⟨r.elems.map (decodeFmt f), r.scales.map fun b => decodeFmt .e8m0 b.toNat⟩,
     { AttCount.of r.excs with own := own, fwd := if g.isNone then qs else [], bwd := if g.isNone then [] else qs }⟩

/-- One query row against one key block: the new maximum, alpha, the probabilities and their sum (R207, R208). -/
structure SoftRow where
  m : Nat
  alpha : Nat
  ps : List Nat
  rsum : Nat
  excs : List Exc
  deriving DecidableEq, Repr

def softRow (c : Ctl) (cs : Nat) (st : Option RowState) (ss : List Nat) (vis : List Bool) : SoftRow :=
  let masked := (ss.zip vis).map fun p => if p.2 then p.1 else maskedScore
  let mx := vFold (vMax c) masked
  let mr := vMul c mx.1 cs
  let mn := match st with
    | none => (mr.1, Exc.none)
    | some r => vMax c r.m mr.1
  let al := match st with
    | none => (0, [])
    | some r =>
      let d := vSub c r.m mn.1
      let e := vExp2 c d.1
      (e.1, [d.2, e.2])
  let ps := masked.map fun x =>
    let f := vFma c x cs (vNeg mn.1)
    let e := vExp2 c f.1
    (e.1, [f.2, e.2])
  let pm := (ps.zip vis).map fun q => if q.2 then q.1.1 else 0
  let rs := vFold (vAdd c) pm
  ⟨mn.1, al.1, pm, rs.1, mx.2 ++ [mr.2, mn.2] ++ al.2 ++ ps.flatMap (·.2) ++ rs.2⟩

/-- A row's state after a block pair. -/
def nextRow (c : Ctl) (st : Option RowState) (r : SoftRow) (pv : List Nat) : RowState × List Exc :=
  match st with
  | none => (⟨r.m, r.rsum, pv⟩, [])
  | some x =>
    let l := vFma c x.l r.alpha r.rsum
    let o := (x.o.zip pv).map fun q => vFma c q.1 r.alpha q.2
    (⟨r.m, l.1, o.map (·.1)⟩, l.2 :: o.map (·.2))

/-! ### Positions (R198, R200, R208) -/

/-- Global position of a local one at a ring position. -/
def globalPos (d : AttDesc) (i r : Nat) : Nat :=
  if r < d.chunk then i * d.chunk + r else (2 * d.ringSize - 1 - i) * d.chunk + (r - d.chunk)

/-- Whether a query at a position sees a key at a position. -/
def sees (d : AttDesc) (q k : Nat) : Bool := q < d.valid && k < d.valid && (!d.causal || k ≤ q)

/-- Whether a block pair is skipped: no query of it sees a key. -/
def skipsPair (d : AttDesc) (me src b kb : Nat) : Bool :=
  let q := globalPos d me (128 * b)
  let k := globalPos d src (128 * kb)
  k ≥ d.valid || q ≥ d.valid || (d.causal && k > min (q + 127) (d.valid - 1))

/-- Core that works a query block (R206). -/
def blockCore (d : AttDesc) (h b : Nat) : Nat := d.coreFirst + (h * shardBlocks d + b) % max d.coreCount 1

/-- The source at an ordinal of the ring order, with its direction (R212). -/
def sourceAt (n i o : Nat) : Nat × Bool :=
  let cw := n / 2
  let ccw := n - 1 - cw
  let seq := (List.range cw).flatMap fun r => [((i + n - (r + 1)) % n, true)] ++ (if r + 1 ≤ ccw then [((i + r + 1) % n, false)] else [])
  if o = 0 then (i, true) else seq.getD (o - 1) (i, true)

/-! ### Forward (R206 to R209) -/

/-- State of a query row by head and local row. -/
def rowOf (j : AttJob) (h r : Nat) : Option RowState := mget j.rows (h * shardTokens j.desc + r)

/-- Queries of a block that are not padding: the first ones of its lines (R200). -/
def validQueries (d : AttDesc) (b : Nat) : Nat := min 128 (d.valid - globalPos d d.ringPosition (128 * b))

/-- Formats of the keys and values of the shard at a ring position: those its member sent at ring open (R205). -/
def shardTags (j : AttJob) (src : Nat) : Nat × Nat :=
  match j.heard.find? fun e => some e.1 = j.ring[src]? with
  | some e => (e.2.kFormat, e.2.vFormat)
  | none => (j.desc.kTag, j.desc.vTag)

/-- One block pair of the forward pass. -/
def forwardPair (c : Ctl) (j : AttJob) (src : Nat) (kArr vArr : List Byte) (h b kb : Nat) : AttJob × AttCount :=
  let d := j.desc
  let tags := shardTags j src
  let g := h / (d.qHeads / d.kvHeads)
  let nq := validQueries d b
  let ks := widenLines c d.qTag tags.1 (tokenLines d tags.1 kArr g kb)
  let vs := widenLines c d.qTag tags.2 (dimLines d tags.2 vArr g kb)
  let sc := attPass c d.qTag ks.1 ((tokenLines d d.qTag (j.data.getD 0 []) h b).take nq) none
  let cs := scoreScale c d.scale
  let vis := fun (q : Nat) => (List.range 128).map fun k =>
    sees d (globalPos d d.ringPosition (128 * b + q)) (globalPos d src (128 * kb + k))
  let soft := (List.range nq).map fun q => softRow c cs (rowOf j h (128 * b + q)) (sc.1.map fun row => row.getD q 0) (vis q)
  let ps := soft.map fun r => storeLine c d.qTag .e4m3 none r.ps
  let pv := attPass c d.qTag (ps.map (·.line)) vs.1 none
  let upd := (List.range nq).foldl (fun (a : List (Nat × RowState) × List Exc) q =>
    let r := soft.getD q ⟨0, 0, [], 0, []⟩
    let n := nextRow c (rowOf j h (128 * b + q)) r (pv.1.getD q [])
    (mput a.1 (h * shardTokens d + 128 * b + q) n.1, a.2 ++ r.excs ++ n.2)) (j.rows, [])
  let stored := ps.foldl (fun (a : AttCount) r => a.join r.count) {}
  ({ j with rows := upd.1 }, (((sc.2.join pv.2).join (AttCount.of upd.2)).join (AttCount.ofLoad (ks.2 ++ vs.2))).join stored)

/-- What a core's work counts: on its VEC page and its CORE page, in the gradebook record of the run's tensor, in the tensor's history,
and on its sequencer (R97, R98, R106, R218, R268). The cycles of replayed passes are a free value (DESIGN CHOICE, log 7). -/
def noteAtt (s : State) (tensor core pairs : Nat) (a : AttCount) : State :=
  let s1 := countVec s core a.vec
  let s2 := match physOf s1 core with
    | none => s1
    | some p =>
      let f := if a.first + a.second = 0 then (s1, 0) else drawFree s1
      bump (bump (bump64 (bump64 f.1 .coreP p 0x108 (a.cycles + f.2)) .coreP p 0x118 a.passes) .coreP p 0x114 0 16 a.first)
        .coreP p 0x114 16 16 a.second
  let s3 := noteGradeWith s2 core tensor fun g =>
    { g with counts := g.counts.sum a.counts, replayFirst := g.replayFirst + a.first, replaySecond := g.replaySecond + a.second
             fwd := g.fwd.addAll a.fwd, bwd := g.bwd.addAll a.bwd }
  let s4 := { s3 with scaling := mmod s3.scaling tensor fun r => { r with own := max r.own a.own } }
  bump64 s4 .att (core / 32) 0x108 pairs

/-- Query heads and blocks of the module, each core's ascending block, then head. -/
def queryBlocks (d : AttDesc) : List (Nat × Nat) :=
  (List.range (shardBlocks d)).flatMap fun b => (List.range d.qHeads).map fun h => (h, b)

/-- Key blocks of a source that a query block works. -/
def keyBlocks (d : AttDesc) (src b : Nat) : List Nat :=
  (List.range (shardBlocks d)).filter fun kb => !skipsPair d d.ringPosition src b kb

/-- The state area of a query block on its core (R206): o, then m, then l, each row by row (DEDUCED, log 101). -/
def stateAddr (d : AttDesc) (h b : Nat) : Nat :=
  let mine := (queryBlocks d).filter fun q => blockCore d q.1 q.2 = blockCore d h b
  d.stateOffset + mine.findIdx (· = (h, b)) * (512 * d.headDim + 1024)

/-- The state of a query block written in its core's SRAM (R206). -/
def saveBlock (s : State) (j : AttJob) (h b : Nat) : State :=
  let d := j.desc
  let rows := (List.range 128).map fun r => (rowOf j h (128 * b + r)).getD ⟨0, 0, List.replicate d.headDim 0⟩
  sramWrite s (blockCore d h b) (stateAddr d h b)
    (rows.flatMap (fun r => r.o.flatMap (leBytes 4)) ++ rows.flatMap (fun r => leBytes 4 r.m) ++ rows.flatMap fun r => leBytes 4 r.l)

/-- A source worked in the forward pass. -/
def forwardSource (s : State) (j : AttJob) (src : Nat) (items : List (List Byte)) : State × AttJob :=
  let c := ctlOf j.cmd
  (queryBlocks j.desc).foldl (fun (a : State × AttJob) q =>
    let kbs := keyBlocks j.desc src q.2
    if kbs.isEmpty then a
    else
      let r := kbs.foldl (fun (x : AttJob × AttCount) kb =>
        let y := forwardPair c x.1 src (items.getD 0 []) (items.getD 1 []) q.1 q.2 kb
        (y.1, x.2.join y.2)) (a.2, {})
      (saveBlock (noteAtt a.1 j.desc.tensor (blockCore j.desc q.1 q.2) kbs.length r.2) r.1 q.1 q.2, r.1)) (s, j)

/-! ### Backward (R210, R211) -/

/-- A sum across the elements of a row in the order of R91. -/
def laneSum (c : Ctl) (xs : List Nat) : Nat × List Exc :=
  let parts := chunksOf 128 (xs.length + 1) xs
  let pad := fun (l : List Nat) => l ++ List.replicate (128 - l.length) 0
  let base := match parts with
    | [] => (pad [], [])
    | p :: t => t.foldl (fun (a : List Nat × List Exc) q =>
        let r := (a.1.zip (pad q)).map fun z => vAdd c z.1 z.2
        (r.map (·.1), a.2 ++ r.map (·.2))) (pad p, [])
  let r := [64, 32, 16, 8, 4, 2, 1].foldl (fun (a : List Nat × List Exc) dist =>
    let z := a.1.zipIdx.map fun q => vAdd c q.1 (a.1.getD (q.2 ^^^ dist) 0)
    (z.map (·.1), a.2 ++ z.map (·.2))) base
  (r.1.headD 0, r.2)

/-- Dq of every valid row of a query block (R210): O and dO widened under R204, multiplied, and summed across lanes. -/
def rowDots (c : Ctl) (j : AttJob) (h b : Nat) : List (Nat × List Exc) :=
  let d := j.desc
  let lines := fun (i : Nat) => ((tokenLines d d.outTag (j.data.getD i []) h b).take (validQueries d b)).map fun x =>
    let w := widenALine c d.qTag d.outTag x
    let l := lineCodes c w.1
    (l.map (·.1), w.2 ++ l.map (·.2))
  ((lines 6).zip (lines 8)).map fun p =>
    let prods := (p.2.1.zip p.1.1).map fun q => vMul c q.1 q.2
    let sum := laneSum c (prods.map (·.1))
    (sum.1, p.1.2 ++ p.2.2 ++ prods.map (·.2) ++ sum.2)

/-- What one block pair of the backward pass computes: P and dS in key lines, dS in query lines. -/
structure BackPair where
  p : List ALine
  dsKey : List ALine
  dsQuery : List ALine
  count : AttCount
  deriving DecidableEq, Repr

/-- Scores, probabilities and score gradients of a block pair; pre is the pre-scale of the tensor. A masked p is +0 and goes on through
the equations; padding queries are not computed (R200, R210). -/
def backPair (c : Ctl) (j : AttJob) (pre : Int) (src : Nat) (items : List (List Byte)) (h b kb : Nat) : BackPair :=
  let d := j.desc
  let tags := shardTags j src
  let g := h / (d.qHeads / d.kvHeads)
  let nq := validQueries d b
  let ks := widenLines c d.qTag tags.1 (tokenLines d tags.1 (items.getD 0 []) g kb)
  let vt := widenLines c d.qTag tags.2 (tokenLines d tags.2 (items.getD 3 []) g kb)
  let dO := widenLines c d.qTag d.outTag ((tokenLines d d.outTag (j.data.getD 8 []) h b).take nq)
  let sc := attPass c d.qTag ks.1 ((tokenLines d d.qTag (j.data.getD 0 []) h b).take nq) none
  let dp := attPass c d.qTag vt.1 dO.1 none
  let cs := scoreScale c d.scale
  let lse := fun (q : Nat) => leAt (j.data.getD 7 []) (4 * (h * shardTokens d + 128 * b + q)) 4
  let dq := rowDots c j h b
  let cell := fun (k q : Nat) =>
    if q ≥ nq then (0, 0, ([] : List Exc))
    else
      let f := vFma c ((sc.1.getD k []).getD q 0) cs (vNeg (lse q))
      let e := vExp2 c f.1
      let p := if sees d (globalPos d d.ringPosition (128 * b + q)) (globalPos d src (128 * kb + k)) then e.1 else 0
      let u := vSub c ((dp.1.getD k []).getD q 0) (dq.getD q (0, [])).1
      let v := vMul c p d.scale
      let ds := vMul c u.1 v.1
      (p, ds.1, [f.2, e.2, u.2, v.2, ds.2])
  let t := (List.range 128).map fun k => (List.range 128).map fun q => cell k q
  let pk := t.map fun row => storeLine c d.qTag .e4m3 none (row.map (·.1))
  let dqs := (List.range nq).map fun q => storeLine c d.qTag .e5m2 (some pre) (t.map fun row => (row.getD q (0, 0, [])).2.1)
  let dk := t.map fun row => storeLine c d.qTag .e5m2 (some pre) (row.map (·.2.1))
  let stored := (pk ++ dqs ++ dk).foldl (fun (a : AttCount) r => a.join r.count) {}
  ⟨pk.map (·.line), dk.map (·.line), dqs.map (·.line),
   (((sc.2.join dp.2).join (AttCount.of (t.flatMap fun row => row.flatMap (·.2.2)))).join (AttCount.ofLoad (ks.2 ++ vt.2 ++ dO.2))).join stored⟩

/-- 128 rows of d codes taken from, and put back into, a flat array of codes. -/
def rowsAt (arr : List Nat) (d base : Nat) : List (List Nat) := (List.range 128).map fun r => (arr.drop ((base + r) * d)).take d

def putRows (arr : List Nat) (d base : Nat) (rows : List (List Nat)) : List Nat :=
  arr.take (base * d) ++ rows.flatten ++ arr.drop (base * d + rows.flatten.length)

/-- dK and dV of one core for one key block of a head (R211 step 1), and dQ of the query blocks it works. -/
def backCore (c : Ctl) (j : AttJob) (pre : Int) (src : Nat) (items : List (List Byte)) (core g kb : Nat) :
    AttJob × List (List Nat) × List (List Nat) × AttCount × Nat :=
  let d := j.desc
  let tags := shardTags j src
  let zero := List.replicate 128 (List.replicate d.headDim 0)
  let mine := (queryBlocks d).filter fun q => blockCore d q.1 q.2 = core && q.1 / (d.qHeads / d.kvHeads) = g
    && !skipsPair d d.ringPosition src q.2 kb
  mine.foldl (fun (a : AttJob × List (List Nat) × List (List Nat) × AttCount × Nat) q =>
    let nq := validQueries d q.2
    let p := backPair c a.1 pre src items q.1 q.2 kb
    let dOd := widenLines c d.qTag d.outTag ((dimLines d d.outTag (j.data.getD 9 []) q.1 q.2).map fun x => x.zeroFrom nq)
    let qd := (dimLines d d.qTag (j.data.getD 1 []) q.1 q.2).map fun x => x.zeroFrom nq
    let kd := widenLines c d.qTag tags.1 (dimLines d tags.1 (items.getD 2 []) g kb)
    let dv := attPass c d.qTag p.p dOd.1 (some a.2.2.1)
    let dk := attPass c d.qTag p.dsKey qd (some a.2.1)
    let key := q.1 * shardBlocks d + q.2
    let old := (mget a.1.dq key).getD (List.replicate (128 * d.headDim) 0)
    let dq := attPass c d.qTag p.dsQuery kd.1 (some (rowsAt old d.headDim 0))
    let cnt := ((((a.2.2.2.1.join p.count).join dv.2).join dk.2).join dq.2).join (AttCount.ofLoad (dOd.2 ++ kd.2))
    ({ a.1 with dq := mput a.1.dq key (putRows old d.headDim 0 dq.1) }, dk.1, dv.1, cnt, a.2.2.2.2 + 1)) (j, zero, zero, {}, 0)

/-- Codes added one by one. -/
def addCodes (c : Ctl) (xs ys : List Nat) : List Nat × List Exc :=
  let r := (xs.zip ys).map fun p => vAdd c p.1 p.2
  (r.map (·.1), r.map (·.2))

/-- dQ of every query block written in its core's state area, in the place of o (R206, R210, DEDUCED, log 101). -/
def saveGradients (s : State) (j : AttJob) : State :=
  (queryBlocks j.desc).foldl (fun t q => match mget j.dq (q.1 * shardBlocks j.desc + q.2) with
    | none => t
    | some xs => sramWrite t (blockCore j.desc q.1 q.2) (stateAddr j.desc q.1 q.2) (xs.flatMap (leBytes 4))) s

/-- The row values Dq are formed once for each query block; their events count on its core (R210). -/
def noteDots (s : State) (j : AttJob) : State :=
  (queryBlocks j.desc).foldl (fun t q =>
    noteAtt t j.desc.tensor (blockCore j.desc q.1 q.2) 0 (AttCount.of ((rowDots (ctlOf j.cmd) j q.1 q.2).flatMap (·.2)))) s

/-- A source worked in the backward pass: the module sums of dK and dV by key head, key row and dimension (R211). -/
def backwardSource (s : State) (j : AttJob) (src : Nat) (items : List (List Byte)) : State × AttJob × List (List Nat) :=
  let c := ctlOf j.cmd
  let d := j.desc
  let pre := preScale s d.tensor
  let flat := List.replicate (d.kvHeads * shardTokens d * d.headDim) 0
  let keys := (List.range d.kvHeads).flatMap fun g => (List.range (shardBlocks d)).map fun kb => (g, kb)
  let r := keys.foldl (fun (a : State × AttJob × List (List Nat)) q =>
    let base := q.1 * shardTokens d + 128 * q.2
    (rangeFrom d.coreFirst d.coreCount).foldl (fun (x : State × AttJob × List (List Nat)) core =>
      let r := backCore c x.2.1 pre src items core q.1 q.2
      if r.2.2.2.2 = 0 then x
      else
        let dk := addCodes c ((rowsAt (x.2.2.getD 0 []) d.headDim base).flatten) r.2.1.flatten
        let dv := addCodes c ((rowsAt (x.2.2.getD 1 []) d.headDim base).flatten) r.2.2.1.flatten
        (noteAtt x.1 d.tensor core r.2.2.2.2 (r.2.2.2.1.join (AttCount.of (dk.2 ++ dv.2))), r.1,
          [putRows (x.2.2.getD 0 []) d.headDim base [dk.1], putRows (x.2.2.getD 1 []) d.headDim base [dv.1]])) a)
    (if src = d.ringPosition then noteDots s j else s, j, [flat, flat])
  (saveGradients r.1 r.2.1, r.2)

/-! ### Outputs -/

/-- An array written where HOST_BASES says it lies. -/
def attWrite (s : State) (d : AttDesc) (bit a : Nat) (bs : List Byte) : Except Nat State :=
  if bitOf d.hostBases bit then .ok (hostWrite s (.data a bs)) else tryWrite s a bs

/-- A tile of token lines of an output (R203), and what its conversion counts: kind 1 is A, 2 is G (R99, R106, R109). -/
def outTile (s : State) (j : AttJob) (kind : Nat) (line q : Nat) (rows : List (List Nat)) : List Byte × AttCount :=
  let d := j.desc
  let c := ctlOf j.cmd
  let fa := fmtOfTag d.outTag
  let depth := min 128 (d.headDim - 128 * q)
  let vals := rows.map fun r => ((r.drop (128 * q)).take depth).map (decodeFmt .fp32)
  let st := vals.map (storeRow c fa.1 fa.2 0 [])
  let n := tileLineBytes fa.1
  let body := (st.flatMap fun r => padTo n (packElems fa.1 r.elems))
    ++ (if fa.2 = .plain then [] else st.flatMap fun r => r.scales ++ List.replicate (4 - r.scales.length) 0x7F)
  let p : Int := if kind = 2 then preScale s d.tensor else 0
  let hd := leBytes 1 d.outTag ++ leBytes 1 kind ++ leBytes 1 128 ++ leBytes 1 depth ++ leBytes 2 d.tensor ++ leBytes 2 s.job.layoutEpoch
    ++ leBytes 2 line ++ leBytes 2 q ++ leBytes 3 (j.cmd.slot.step % 2 ^ 24) ++ [0, 0] ++ leBytes 1 (unsignedOf 8 p) ++ leBytes 2 0
    ++ leBytes 4 body.length ++ leBytes 4 (crc32c body) ++ List.replicate 32 0
  let qs := if fa.2 = .plain then [] else (vals.zip st).flatMap fun r => trueUnits p 0 0 r.1 r.2.values
  let own := if kind = 2 then (vals.flatten.filterMap fun v => magnitudeEntry (scaleVal v (-p))).foldl max (-128) else -128
  (padTo (granules (64 + body.length)) (withCrc hd ++ body),
   { AttCount.of (st.flatMap (·.excs)) with fwd := if kind = 2 then [] else qs, bwd := if kind = 2 then qs else [], own := own })

/-- The tiles of an output of n heads from its rows; their conversions count on the core that works each block. -/
def outTiles (s : State) (j : AttJob) (kind n : Nat) (row : Nat → Nat → List Nat) : State × List Byte :=
  let d := j.desc
  let places := (List.range n).flatMap fun h => (List.range (shardBlocks d)).flatMap fun b => (List.range (dimBlocks d)).map fun q => (h, b, q)
  places.foldl (fun (a : State × List Byte) x =>
    let t := outTile s j kind (x.1 * shardBlocks d + x.2.1) x.2.2 ((List.range 128).map fun r => row x.1 (128 * x.2.1 + r))
    (noteAtt a.1 d.tensor (blockCore d x.1 x.2.1) 0 t.2, a.2 ++ t.1)) (s, [])

def dropAtt (s : State) (j : AttJob) : State := { s with att := s.att.filter fun x => x.cmd != j.cmd }
def setAtt (s : State) (j : AttJob) : State := { s with att := s.att.map fun x => if x.cmd = j.cmd then j else x }

/-- A run that ends with a status; format failures are counted on its sequencers. -/
def failAtt (s : State) (j : AttJob) (st d0 d1 : Nat) : State :=
  let dies := rangeFrom (j.desc.coreFirst / 32) ((j.desc.coreFirst + j.desc.coreCount - 1) / 32 + 1 - j.desc.coreFirst / 32)
  let s1 := if st = 0x20 then dies.foldl (fun t i => bump t .att i 0x11C 0 16 1) s else s
  finish (dropAtt s1 j) j.cmd st d0 d1

/-- A header of ring traffic. -/
def ringHeader (s : State) (j : AttJob) (kind dst : Nat) : MsgHdr :=
  { header s kind 8 0x18 dst j.cmd.slot.step with ringId := j.desc.ringId, tensorId := j.desc.tensor, srcPosition := j.desc.ringPosition }

/-- The other members of a run's ring. -/
def ringOthers (s : State) (j : AttJob) : List Nat := j.ring.filter (· != s.twin.number)

/-- MEMORY_UNCORRECTABLE on one member: every member of the ring is told (R217). -/
def abortAtt (s : State) (j : AttJob) (a : Nat) : State :=
  let s1 := (ringOthers s j).foldl (fun t m => sendHdr t m (ringHeader t j 0x0F m) (.abort t.twin.number a)) s
  failAtt (noteUE s1 a) j 0x23 a (ueDetail s1)

/-- One finished row: O, λ and the events of finishing it (R209); a padding row is +0 (R200). -/
def finishRow (j : AttJob) (h r : Nat) : List Nat × Nat × List Exc :=
  let c := ctlOf j.cmd
  match rowOf j h r with
  | none => (List.replicate j.desc.headDim 0, 0, [])
  | some st =>
    let rc := opSpecial c.mode c.rounding .recip (decodeFmt .fp32 st.l)
    let o := st.o.map fun x => vMul c x rc.1
    let lg := opSpecial c.mode c.rounding .log2 (decodeFmt .fp32 st.l)
    let lam := vAdd c st.m lg.1
    (o.map (·.1), lam.1, rc.2 :: lg.2 :: lam.2 :: o.map (·.2))

/-- The events of finishing every row, on the cores that do it. -/
def noteFinish (s : State) (j : AttJob) : State :=
  (queryBlocks j.desc).foldl (fun t q => noteAtt t j.desc.tensor (blockCore j.desc q.1 q.2) 0
    (AttCount.of ((List.range 128).flatMap fun r => (finishRow j q.1 (128 * q.2 + r)).2.2))) s

/-- O and λ written, and the run complete (R209). -/
def finishForward (s : State) (j : AttJob) : State :=
  let d := j.desc
  let o := outTiles (noteFinish s j) j 1 d.qHeads fun h r => (finishRow j h r).1
  match attWrite o.1 d 6 d.oBase o.2 with
  | .error a => abortAtt o.1 j a
  | .ok s2 =>
    match attWrite s2 d 7 d.lseBase ((List.range d.qHeads).flatMap fun h =>
        (List.range (shardTokens d)).flatMap fun r => leBytes 4 (finishRow j h r).2.1) with
    | .error a => abortAtt s2 j a
    | .ok s3 => done (dropAtt s3 j) j.cmd

/-- FP32 codes of an array. -/
def codesOf (bs : List Byte) : List Nat := (List.range (bs.length / 4)).map fun k => leAt bs (4 * k) 4

/-- dK and dV of the owner: its module sums, the clockwise partials, the counter-clockwise ones, each addition rounded (R213). -/
def ownerSum (c : Ctl) (j : AttJob) (returned : Bool → Option (List (List Byte))) (i : Nat) : List Nat × List Exc :=
  [true, false].foldl (fun (a : List Nat × List Exc) cw => match returned cw with
    | none => a
    | some bs =>
      let r := addCodes c a.1 (codesOf (bs.getD i []))
      (r.1, a.2 ++ r.2)) (j.own.getD i [], [])

/-- The gradients of a backward pass written once every partial is back (R211, R213). -/
def finishBackward (s : State) (j : AttJob) (returned : Bool → Option (List (List Byte))) : State :=
  let d := j.desc
  let sk := ownerSum (ctlOf j.cmd) j returned 0
  let sv := ownerSum (ctlOf j.cmd) j returned 1
  let at' := fun (arr : List Nat) (g r : Nat) => (arr.drop ((g * shardTokens d + r) * d.headDim)).take d.headDim
  let dq := fun (h r : Nat) => (((mget j.dq (h * shardBlocks d + r / 128)).getD []).drop ((r % 128) * d.headDim)).take d.headDim
  let pad := fun (l : List Nat) => if l.isEmpty then List.replicate d.headDim 0 else l
  let g := fun (i : Nat) => leNat (devRead s (d.gradBase + 8 * i) 8)
  let oq := outTiles (noteAtt s d.tensor d.coreFirst 0 (AttCount.of (sk.2 ++ sv.2))) j 2 d.qHeads fun h r => pad (dq h r)
  let ok := outTiles oq.1 j 2 d.kvHeads (at' sk.1)
  let ov := outTiles ok.1 j 2 d.kvHeads (at' sv.1)
  match attWrite ov.1 d 8 (g 2) oq.2 with
  | .error a => abortAtt ov.1 j a
  | .ok s2 =>
    match attWrite s2 d 8 (g 3) ok.2 with
    | .error a => abortAtt s2 j a
    | .ok s3 =>
      match attWrite s3 d 8 (g 4) ov.2 with
      | .error a => abortAtt s3 j a
      | .ok s4 => done (dropAtt s4 j) j.cmd

end Sys2Proof.Machine
end

