-- ==== Sys2Proof/Machine/Ring.lean ====
section
/-! DEFINITION. The ring of a blockwise attention: parcels, the ring area, ring open, ATT_RUN and abort notices (R205, R212 to R217). -/

namespace Sys2Proof.Machine

/-! ### Parcels (R212, R213) -/

/-- Identity of a parcel of a run. -/
def parcelId (s : State) (j : AttJob) (src : Nat) (cw ret : Bool) : ParcelId :=
  ⟨j.cmd.slot.step, j.desc.ringId, j.desc.tensor, j.desc.backward, src, cw, ret, s.job.layoutEpoch, s.job.number⟩

/-- A parcel sent from a ring position to the next one: with the ring's order, or against it. -/
def passParcel (s : State) (ring : List Nat) (me : Nat) (pid : ParcelId) (up : Bool) (items : List (List Byte)) : State :=
  let n := ring.length
  let dst := ring.getD (if up then (me + 1) % n else (me + n - 1) % n) 0
  sendHdr s dst { header s 0x08 8 0x18 dst pid.step with ringId := pid.ringId, tensorId := pid.tensorId, srcPosition := me, direction := !up }
    (.parcel pid items)

/-- A parcel of a run sent one position on. -/
def sendParcel (s : State) (j : AttJob) (pid : ParcelId) (up : Bool) (items : List (List Byte)) : State :=
  passParcel s j.ring j.desc.ringPosition pid up items

/-- Hops a parcel has travelled to this position, and how many it travels in all (R212). -/
def hops (j : AttJob) (src : Nat) (cw : Bool) : Nat × Nat :=
  let n := j.ring.length
  if cw then ((j.desc.ringPosition + n - src) % n, n / 2) else ((src + n - j.desc.ringPosition) % n, n - 1 - n / 2)

/-- A parcel worked or received here and now passed on; the last user of a backward one sends its partials back (R213). -/
def forwardParcel (s : State) (j : AttJob) (src : Nat) (cw : Bool) (items : List (List Byte)) : State :=
  let h := hops j src cw
  if h.1 < h.2 then sendParcel s j (parcelId s j src cw false) cw items
  else if j.desc.backward then sendParcel s j (parcelId s j src cw true) (!cw) (items.drop 4)
  else s

/-- A partial array as bytes. -/
def codeBytes (xs : List Nat) : List Byte := xs.flatMap (leBytes 4)

/-- The module sums added into a parcel's partials, and the events of that; the first user writes them (R213). -/
def addPartials (c : Ctl) (items : List (List Byte)) (sums : List (List Nat)) : List (List Byte) × List Exc :=
  let one := fun (i : Nat) =>
    let bs := items.getD (4 + i) []
    let new := sums.getD i []
    if bs.isEmpty then (codeBytes new, [])
    else
      let r := addCodes c (codesOf bs) new
      (codeBytes r.1, r.2)
  (items.take 4 ++ [(one 0).1, (one 1).1], (one 0).2 ++ (one 1).2)

/-! ### The ring area (R214): slots and marks in device memory -/

/-- The ordinal of a source in the ring order. -/
def ordinalOfSource (j : AttJob) (src : Nat) : Nat :=
  (List.range j.ring.length).findIdx fun o => (sourceAt j.ring.length j.desc.ringPosition o).1 = src

/-- The slot of a source: the ordinals 1 to n - 1 in turn. -/
def slotAddr (d : AttDesc) (o : Nat) : Nat := d.ringBase + (o - 1) * slotBytes d

/-- Where a parcel lies in the ring area: address, and that of its mark. The partials of the own parcel that come back lie in the slot of
the first source of their direction. -/
def parcelPlace (j : AttJob) (pid : ParcelId) : Nat × Nat :=
  let d := j.desc
  if pid.returning then
    let a := slotAddr d (if pid.clockwise then 1 else 2)
    (a + parcelRoom d + partialRoom d, a + slotBytes d - 128)
  else
    let a := slotAddr d (ordinalOfSource j pid.source)
    (a, a + slotBytes d - 64)

/-- Whether the mark of a parcel is there and matches. -/
def slotMarked (s : State) (j : AttJob) (pid : ParcelId) : Bool := devRead s (parcelPlace j pid).2 64 = markBytes pid

/-- A parcel stored: its tiles, its partials, and then its mark. -/
def storeParcel (s : State) (j : AttJob) (pid : ParcelId) (items : List (List Byte)) : Except Nat State :=
  let d := j.desc
  let at' := parcelPlace j pid
  let parts := if pid.returning then [(at'.1, items.flatten.take (partialRoom d))]
    else [(at'.1, (items.take 4).flatten.take (parcelRoom d)), (at'.1 + parcelRoom d, (items.drop 4).flatten.take (partialRoom d))]
  (parts ++ [(at'.2, markBytes pid)]).foldl (fun (a : Except Nat State) p => a.bind fun t => tryWrite t p.1 p.2) (.ok s)

/-- Bytes of the items of a source's parcel, in their order. -/
def itemSizes (j : AttJob) (src : Nat) : List Nat :=
  let d := j.desc
  let tags := shardTags j src
  let kv := [headBytes d tags.1 d.kvHeads, headBytes d tags.2 d.kvHeads]
  if d.backward then kv ++ kv else kv

/-- Consecutive pieces of given sizes. -/
def piecesOf : List Nat → List Byte → List (List Byte)
  | [], _ => []
  | n :: ns, bs => bs.take n :: piecesOf ns (bs.drop n)

/-- The parcel of a source in its slot: the tiles, and the partials of the users before this one. -/
def slotItems (s : State) (j : AttJob) (src : Nat) (cw : Bool) : List (List Byte) :=
  let d := j.desc
  let a := slotAddr d (ordinalOfSource j src)
  let sizes := itemSizes j src
  let half := partialRoom d / 2
  piecesOf sizes (devRead s a sizes.sum)
    ++ (if d.backward && (hops j src cw).1 > 1 then piecesOf [half, half] (devRead s (a + parcelRoom d) (2 * half)) else [])

/-- The partials of the own parcel that have come back in a direction. -/
def returnedItems (s : State) (j : AttJob) (cw : Bool) : Option (List (List Byte)) :=
  let pid := parcelId s j j.desc.ringPosition cw true
  let n := j.ring.length
  if n < (if cw then 2 else 3) || !slotMarked s j pid then none
  else
    let half := partialRoom j.desc / 2
    some (piecesOf [half, half] (devRead s (parcelPlace j pid).1 (2 * half)))

/-- Whether every partial of a backward pass that is due is back. -/
def partialsBack (s : State) (j : AttJob) : Bool :=
  let n := j.ring.length
  (n < 2 || (returnedItems s j true).isSome) && (n < 3 || (returnedItems s j false).isSome)

/-- What a read of the slots of the ring area meets: a channel that retrains, or a bad sector. -/
def slotBad (s : State) (j : AttJob) (o : Nat) : Option Nat := badSector s (slotAddr j.desc o) (slotBytes j.desc)
def slotWaits (s : State) (j : AttJob) (o : Nat) : Bool := memWaits s (slotAddr j.desc o) (slotBytes j.desc)

/-! ### Narrow tiles (R205) -/

/-- Narrow tiles used of a source (R205): bits below MIN_KEY. -/
def minWidth (m : Nat) : Nat := if m = 0 then 16 else if m = 1 then 8 else 4
def narrowTag (m tag : Nat) : Bool := fmtBits (fmtOfTag tag).1 < minWidth m

/-- Key blocks of a source that some query block works. -/
def usedKeyBlocks (d : AttDesc) (src : Nat) : Nat :=
  ((List.range (shardBlocks d)).filter fun kb =>
    (List.range (shardBlocks d)).any fun b => !skipsPair d d.ringPosition src b kb).length

/-- Narrow tiles of a source counted, once each: K and V, in the backward pass KD and VT as well. -/
def countNarrow (s : State) (j : AttJob) (src : Nat) : State :=
  let d := j.desc
  let tags := shardTags j src
  let n := usedKeyBlocks d src * d.kvHeads * dimBlocks d * (if d.backward then 2 else 1)
  let k := if narrowTag d.minKey tags.1 then n else 0
  let v := if narrowTag d.minKey tags.2 then n else 0
  let s1 := bump (bump s .att (d.coreFirst / 32) 0x110 0 16 k) .att (d.coreFirst / 32) 0x110 16 16 v
  noteGrade s1 d.coreFirst d.tensor { GradeRec.zero with narrowKey := k, narrowValue := v }

/-! ### A run at work -/

/-- The dies whose sequencers take part in a run. -/
def runDies (d : AttDesc) : List Nat := rangeFrom (d.coreFirst / 32) ((d.coreFirst + d.coreCount - 1) / 32 + 1 - d.coreFirst / 32)

/-- A wait on a slot mark, on every die of the run; the core-cycles are free values (R214, R218, DESIGN CHOICE, log 7). -/
def waitParcel (s : State) (d : AttDesc) : State :=
  (runDies d).foldl (fun t i =>
    let f := drawFree t
    bump f.1 .att i 0x114 0 32 f.2) s

/-- The arrays of this module's own shard that travel in its parcel. -/
def ownItems (j : AttJob) : List (List Byte) :=
  if j.desc.backward then [j.data.getD 2 [], j.data.getD 4 [], j.data.getD 3 [], j.data.getD 5 []]
  else [j.data.getD 2 [], j.data.getD 4 []]

/-- A source worked whose tiles are here; a backward one goes on with this module's sums in its partials. -/
def workItems (s : State) (j : AttJob) (src : Nat) (cw : Bool) (items : List (List Byte)) : State :=
  let s0 := countNarrow s j src
  if j.desc.backward then
    let r := backwardSource s0 j src items
    let j1 := { r.2.1 with source := j.source + 1, own := if j.source = 0 then r.2.2 else j.own }
    let s1 := setAtt r.1 j1
    if j.source = 0 then s1
    else
      let p := addPartials (ctlOf j.cmd) items r.2.2
      forwardParcel (noteAtt s1 j.desc.tensor j.desc.coreFirst 0 (AttCount.of p.2)) j1 src cw p.1
  else
    let r := forwardSource s0 j src items
    setAtt r.1 { r.2 with source := j.source + 1 }

/-- One source of a run worked, where its slot's mark is here (R214). -/
def workSource (s : State) (j : AttJob) : State :=
  let n := j.ring.length
  if !j.opened || j.source ≥ n then s
  else
    let so := sourceAt n j.desc.ringPosition j.source
    if j.source = 0 then workItems s j so.1 so.2 (ownItems j)
    else if slotWaits s j j.source then s
    else
      match slotBad s j j.source with
      | some a => abortAtt s j a
      | none =>
        if slotMarked s j (parcelId s j so.1 so.2 false) then workItems s j so.1 so.2 (slotItems s j so.1 so.2) else waitParcel s j.desc

/-- Whether a backward run waits with its G conversions: for the exchange that settles the pre-scale of the step, or for a pre-scale hand
(R106, R108). -/
def attGWaits (s : State) (j : AttJob) : Bool :=
  j.desc.backward && (mget s.scaling j.desc.tensor).any fun r => r.waitP || !s.job.exchangesDue.isEmpty

/-- A run whose sources are all worked: its outputs written, once the host is there for them and every partial is back. -/
def endRun (s : State) (j : AttJob) : State :=
  if hostAway s && j.desc.hostBases != 0 then s
  else if !j.desc.backward then finishForward s j
  else if (j.ring.length ≥ 2 && slotWaits s j 1) || (j.ring.length ≥ 3 && slotWaits s j 2) then s
  else if partialsBack s j then finishBackward s j (returnedItems s j) else s

/-- A run moved on as far as its parcels allow. A core of its range that has become absent ends it (R217); an unreadable scaling record
ends a backward one (R107). -/
def advanceAtt : Nat → State → HostCmd → State
  | 0, s, _ => s
  | k + 1, s, c =>
    match s.att.find? (·.cmd = c) with
    | none => s
    | some j =>
      match absentCore s j.desc.coreFirst j.desc.coreCount, (if j.desc.backward then scaleRead s j.desc.tensor c.slot.step else .ok []) with
      | some n, _ => failAtt s j 0x22 0 n
      | none, .wait u => u
      | none, .fail u a => failAtt u j 0x23 a (ueDetail u)
      | none, .ok _ =>
        if !j.opened || attGWaits s j then s
        else if j.source ≥ j.ring.length then endRun s j
        else
          let t := workSource s j
          match t.att.find? (·.cmd = c) with
          | none => t
          | some j' => if j'.source = j.source then t else advanceAtt k t c

/-! ### Ring open (R205) -/

/-- The first narrow format that a member with STRICT_FORMAT 1 finds, with the tag it requires (R205, DEDUCED, log 44). -/
def openFault (j : AttJob) : Option (Nat × Nat) :=
  let all := j.heard.map (·.2)
  (all.filter (·.strict)).findSome? fun m => all.findSome? fun x =>
    let need := if m.minKey = 0 then 3 else if m.minKey = 1 then 0x14 else 0x16
    if narrowTag m.minKey x.kFormat then some (x.kFormat, need)
    else if narrowTag m.minKey x.vFormat then some (x.vFormat, need) else none

/-- A format of another member that is wider than this one's queries (R204, DEDUCED, log 44). -/
def wideFault (j : AttJob) : Option Nat :=
  if j.heard.any fun e => !keyTagOk j.desc.qTag e.2.kFormat then some 3
  else if j.heard.any fun e => !keyTagOk j.desc.qTag e.2.vFormat then some 4 else none

/-- Parcels whose marks stand in the ring area already, passed on (R214, R217). -/
def forwardHeld (s : State) (j : AttJob) : State :=
  if j.desc.backward then s
  else
    (rangeFrom 1 (j.ring.length - 1)).foldl (fun t o =>
      let so := sourceAt j.ring.length j.desc.ringPosition o
      if slotMarked t j (parcelId t j so.1 so.2 false) && (slotBad t j o).isNone then forwardParcel t j so.1 so.2 (slotItems t j so.1 so.2)
      else t) s

/-- The ring open exchange complete: the run begins, and its parcel goes both ways (R205, R212). -/
def tryOpen (s : State) (j : AttJob) : State :=
  if j.opened || !(j.ring.all fun m => j.heard.any (·.1 = m)) then s
  else
    match openFault j, wideFault j with
    | some f, _ => failAtt s j 0x20 f.1 f.2
    | none, some off => failAtt s j 0x12 (blockField off) 0
    | none, none =>
      let n := j.ring.length
      let me := j.desc.ringPosition
      let j1 := { j with opened := true }
      let s1 := setAtt s j1
      let s2 := if n ≥ 2 then sendParcel s1 j1 (parcelId s j1 me true false) true (ownItems j) else s1
      let s3 := if n ≥ 3 then sendParcel s2 j1 (parcelId s j1 me false false) false (ownItems j) else s2
      advanceAtt (n + 2) (forwardHeld s3 j1) j.cmd

/-- The run that ring traffic belongs to. -/
def attFor (s : State) (h : MsgHdr) : Option AttJob :=
  s.att.find? fun j => j.desc.ringId = h.ringId && j.desc.tensor = h.tensorId && j.cmd.slot.step = h.step

/-- The run of a pass that ring traffic belongs to. -/
def attOf (s : State) (h : MsgHdr) (backward : Bool) : Option AttJob :=
  s.att.find? fun j => j.desc.ringId = h.ringId && j.desc.tensor = h.tensorId && j.cmd.slot.step = h.step && j.desc.backward = backward

/-- The formats of a run's own shard. -/
def ownFormats (d : AttDesc) : OpenFormats := ⟨d.kTag, d.vTag, d.strictFormat, d.minKey, d.backward⟩

/-- Formats of a member taken in. A run that is open already answers a member whose command was reissued (R217); the answer is marked
LAST and is not answered. -/
def takeOpen (s : State) (h : MsgHdr) (f : OpenFormats) : State :=
  match attOf s h f.backward with
  | none => keepEarly s h (.ringOpen f)
  | some j =>
    if j.opened then
      (if h.last then s
      else sendHdr s h.srcClass { ringHeader s j 0x08 h.srcClass with last := true } (.ringOpen (ownFormats j.desc)))
    else if j.heard.any (·.1 = h.srcClass) then s
    else
      let j1 := { j with heard := j.heard ++ [(h.srcClass, f)] }
      tryOpen (setAtt s j1) j1

/-! ### Parcels that arrive (R213 to R215) -/

/-- A returning copy that no run of this module waits for, passed on to its owner (R213). -/
def relayReturn (s : State) (h : MsgHdr) (pid : ParcelId) (items : List (List Byte)) : State :=
  let ring := ((mget s.col.rings h.ringId).map (·.members)).getD []
  match ring.findIdx? (· = s.twin.number) with
  | none => s
  | some me => if me = pid.source then s else passParcel s ring me pid (!pid.clockwise) items

/-- A parcel that came before its run: kept until then; one of a module's own run that has ended is a repeat. -/
def earlyParcel (s : State) (h : MsgHdr) (pid : ParcelId) (items : List (List Byte)) : State :=
  if pid.returning then relayReturn s h pid items
  else if s.col.early.any fun m => m.body = .parcel pid items then bump s .att 0 0x118 0 32 1
  else keepEarly s h (.parcel pid items)

/-- A parcel in its slot; a forward one is passed on at once (R214), a returning one goes to its owner (R213). -/
def takeParcel (s : State) (h : MsgHdr) (pid : ParcelId) (items : List (List Byte)) : State :=
  match attOf s h pid.backward with
  | none => earlyParcel s h pid items
  | some j =>
    if pid.layoutEpoch != j.desc.layoutEpoch then failAtt s j 0x21 pid.layoutEpoch j.desc.layoutEpoch
    else if pid.returning && pid.source != j.desc.ringPosition then sendParcel s j pid (!pid.clockwise) items
    else if memWaits s (parcelPlace j pid).1 (slotBytes j.desc) then keepEarly s h (.parcel pid items)
    else if slotMarked s j pid then bump s .att (j.desc.coreFirst / 32) 0x118 0 32 1
    else
      match storeParcel s j pid items with
      | .error a => abortAtt s j a
      | .ok s1 =>
        let s2 := if j.desc.backward || pid.returning || !j.opened then s1 else forwardParcel s1 j pid.source pid.clockwise items
        advanceAtt (j.ring.length + 2) s2 j.cmd

/-- A parcel of another layout epoch is discarded, and the run it was for ends (R215). -/
def refuseParcel (s : State) (h : MsgHdr) : State :=
  if !h.crcOk || deaf s || s.pwr.recess || h.layoutEpoch = s.job.layoutEpoch then s
  else
    match attFor s h with
    | none => s
    | some j => failAtt s j 0x21 h.layoutEpoch j.desc.layoutEpoch

/-! ### ATT_RUN -/

/-- What reading the arrays of a run meets. -/
inductive AttRead where
  | ok (arrays : List (List Byte))
  | wait
  | bad (addr : Nat)
  | fail (st d0 d1 : Nat)
  deriving DecidableEq, Repr

/-- The first tile of an array that fails R136. -/
def checkArray (s : State) (a : Nat) (dev : Bool) (tag : Nat) (bs : List Byte) : Option AttRead :=
  let n := tagTile tag
  (List.range (bs.length / n)).findSome? fun i =>
    let t := (bs.drop (i * n)).take n
    let ad := a + i * n
    match checkTile (t.take 64) (t.drop 64) (if dev then some (Config.reservedBase s.part - ad) else none) s.job.layoutEpoch with
    | .corrupt => some (.bad ad)
    | .badField f => some (.fail 0x12 (0x1000 + f) ad)
    | .epoch => some (.fail 0x21 (leAt t 6 2) s.job.layoutEpoch)
    | .ok => if leAt t 0 1 != tag then some (.fail 0x20 (leAt t 0 1) tag) else none

/-- Every array a run reads; host arrays come in the operand, one after another in the order of HOST_BASES, once the host is there. -/
def readArrays (s : State) (d : AttDesc) (data : List Byte) : AttRead :=
  let tags := [d.qTag, d.qTag, d.kTag, d.kTag, d.vTag, d.vTag, d.outTag, 0, d.outTag, d.outTag]
  ((attArrays s d).zipIdx.take 10).foldl (fun (acc : AttRead × Nat) q =>
    match acc.1 with
    | .ok xs =>
      let a := q.1
      if !a.2.2.2 then (.ok (xs ++ [[]]), acc.2)
      else
        let host := bitOf d.hostBases a.1
        let n := a.2.2.1
        let got : AttRead :=
          if host then (if hostAway s then .wait else .ok [padTo n ((data.drop acc.2).take n)])
          else if memWaits s a.2.1 n then .wait
          else
            match badSector s a.2.1 n with
            | some x => .bad x
            | none => .ok [devRead s a.2.1 n]
        (match got with
        | .ok [bs] =>
          (match (if q.2 = 7 then none else checkArray s a.2.1 (!host) (tags.getD q.2 0) bs) with
          | some f => (f, acc.2)
          | none => (.ok (xs ++ [bs]), if host then acc.2 + n else acc.2))
        | r => (r, acc.2))
    | _ => acc) (.ok [], 0) |>.1

/-- Ring traffic that came before its run, taken now: the ring open exchange, and parcels. -/
def takeEarlyRing (s : State) (j : AttJob) : State :=
  let mine := fun (m : Msg) =>
    m.hdr.ringId = j.desc.ringId && m.hdr.tensorId = j.desc.tensor && m.hdr.step = j.cmd.slot.step && (match m.body with
      | .ringOpen f => f.backward = j.desc.backward
      | .parcel pid _ => pid.backward = j.desc.backward
      | _ => false)
  let ms := s.col.early.filter mine
  ms.foldl (fun t m => match m.body with
    | .ringOpen f => takeOpen t m.hdr f
    | .parcel pid items => takeParcel t m.hdr pid items
    | _ => t) (setCol s fun c => { c with early := c.early.filter fun m => !mine m })

/-- A run admitted: the ring open exchange begins. -/
def startAtt (s : State) (c : HostCmd) (d : AttDesc) (ring : List Nat) (arrays : List (List Byte)) : State :=
  let f := ownFormats d
  let j : AttJob := ⟨c, d, ring, arrays, [(s.twin.number, f)], false, 0, [], [], []⟩
  let s1 := { s with att := s.att ++ [j] }
  let s2 := (ringOthers s1 j).foldl (fun t m => sendHdr t m (ringHeader t j 0x08 m) (.ringOpen f))
    ((runDies d).foldl (fun t i => startDomain t (domAtt i)) s1)
  let s3 := takeEarlyRing s2 j
  match s3.att.find? (·.cmd = c) with
  | none => s3
  | some j1 => tryOpen s3 j1

/-- A run that is under way, moved on with what has come meanwhile. -/
def resumeAtt (s : State) (c : HostCmd) : State :=
  match s.att.find? (·.cmd = c) with
  | none => s
  | some j => advanceAtt (j.ring.length + 2) (takeEarlyRing s j) c

/-- A run whose descriptor is good: its arrays read, its ring open exchange begun. -/
def admitAtt (s : State) (c : HostCmd) (d : AttDesc) (data : List Byte) : State :=
  let ring := ((mget s.col.rings d.ringId).map (·.members)).getD []
  if d.layoutEpoch != s.job.layoutEpoch then finish s c 0x21 d.layoutEpoch s.job.layoutEpoch
  else if (mget s.col.rings d.ringId).any (·.broken) then
    (let lost := (ring.find? fun m => !isMember s m).getD 0
    finish s c 0x27 lost (removalStep s lost % 2 ^ 32))
  else
    match absentCore s d.coreFirst d.coreCount with
    | some n => finish s c 0x22 0 n
    | none =>
      match readArrays s d data with
      | .wait => s
      | .bad a => abortAtt s ⟨c, d, ring, [], [], false, 0, [], [], []⟩ a
      | .fail st d0 d1 => finish s c st d0 d1
      | .ok arrays => startAtt s c d ring arrays

/-- The bad sector of a backward pass's table of addresses, where the table may be read. -/
def gradTableLost (s : State) (d : AttDesc) : Option Nat :=
  if d.backward && !gradTableBad s d then badSector s d.gradBase 64 else none

/-- ATT_RUN. -/
def execAttRun (c : HostCmd) (data : List Byte) (s : State) : Host.Outcome State Fault Refusal :=
  runCmd s 0x0120 c fun s =>
    let d := attDescOf (devRead s c.slot.operand 128)
    if s.att.any (·.cmd = c) then resumeAtt s c
    else if rangeBad s c.slot.operand 128 then refuse s c 0x18
    else if memWaits s c.slot.operand 128 || (d.backward && !gradTableBad s d && memWaits s d.gradBase 64) then s
    else
      match badSector s c.slot.operand 128, attFault s (modeOf c.slot.ctl) (devRead s c.slot.operand 128), gradTableLost s d with
      | some a, _, _ => failUE s c a
      | none, some d0, none => refuse s c d0
      | none, _, some a => failUE s c a
      | none, none, none => admitAtt s c d data

/-! ### Rows -/

/-- RING_OPEN (R205). -/
def execRingOpen (h : MsgHdr) (f : OpenFormats) (s : State) : Host.Outcome State Fault Refusal :=
  .next (receive s h fun s => takeOpen s h f)

/-- ABORT_NOTICE: every member's command completes, naming the member and the address (R217). -/
def execAbortNotice (h : MsgHdr) (cls addr : Nat) (s : State) : Host.Outcome State Fault Refusal :=
  .next (receive s h fun s =>
    match attFor s h with
    | none => s
    | some j => failAtt s j 0x23 addr (0xFFFF + cls * 2 ^ 16))

end Sys2Proof.Machine
end

