-- ==== Sys2Proof/Machine/KV.lean ====
section
/-! DEFINITION. Paged keys and values: pools, pages, lists, cubbies, and the decode command (R219 to R237). -/

namespace Sys2Proof.Machine

/-! ### Pools (R222, R223) -/

/-- "No page", and the page never allocated (R220). -/
def noPage : Nat := 0xFFFFFF

/-- Element format of a pool's tag. -/
def poolFmt (tag : Nat) : Option Fmt :=
  match tag with
  | 3 => some .bf16 | 0x54 => some .e4m3 | 0x55 => some .e5m2 | 0x16 => some .fp4
  | _ => none

/-- Bytes of the keys of a page, and of their group scales. -/
def pageKeys (p : Pool) : Nat := p.group * 16 * packedBytes ((poolFmt p.tag).getD .bf16) p.headDim
def pageScales (p : Pool) : Nat := if p.tag = 0x16 then p.group * 16 * (p.headDim / 32) else 0
def pageBody (p : Pool) : Nat := 2 * (pageKeys p + pageScales p)

def poolOf (bs : List Byte) : Pool :=
  { tag := leAt bs 1 1, headDim := 64 * (bitsOf (leAt bs 2 1) 0 2 + 1), group := leAt bs 3 1, first := leAt bs 4 3
    count := leAt bs 8 4, stride := leAt bs 0xC 4, base := leAt bs 0x10 8 }

def pageAddr (p : Pool) (n : Nat) : Nat := p.base + (n - p.first) * p.stride

def setKvp (s : State) (f : Kvp → Kvp) : State := { s with kvp := f s.kvp }

/-- Entry of a page; one that no pool has named is unused. -/
def pageEntry (s : State) (n : Nat) : PageEntry := (mget s.kvp.entries n).getD ⟨0, .unused, 0, 0, 0, 0, 0⟩

/-- STATE of an entry (R220). -/
def PageState.code (x : PageState) : Nat :=
  match x with
  | .unused => 0
  | .free => 1
  | .held => 2
  | .live => 3

/-- An entry as its 16 bytes (R220); NEXT is 0 unless the page is free. -/
def pageEntryBytes (e : PageEntry) : List Byte :=
  let b := leBytes 3 (if e.state = .free then e.next else 0) ++ [byteOf (e.state.code * 64 + e.pool % 16), byteOf e.valid, byteOf e.kScale,
    byteOf e.vScale, 0] ++ leBytes 4 e.refs ++ [0, 0]
  b ++ leBytes 2 (crc16 b)

def setEntry (s : State) (n : Nat) (e : PageEntry) : State := setKvp s fun k => { k with entries := mput k.entries n e }

/-- Page-manager operations completed (R237). -/
def kvOps (s : State) (n : Nat) : State := progress (bump64 s .kvp 0 0x110 n) .kvp 0 n

/-- Address of an entry (R220), and the first uncorrectable one of a pool: it stops every operation on it (R236). -/
def entryAddr (s : State) (n : Nat) : Nat := Config.reservedBase s.part + 16 * n
def poolBad (s : State) (p : Pool) : Option Nat :=
  (s.gddr.badSectors.find? fun x => x < entryAddr s (p.first + p.count) && entryAddr s p.first < x + 64)

/-- Pages of a pool free now, from the head of its list. -/
def freeList : Nat → State → Nat → List Nat
  | 0, _, _ => []
  | k + 1, s, n => if n = noPage then [] else n :: freeList k s (pageEntry s n).next

def poolFree (s : State) (pool : Nat) (n : Nat) : List Nat := freeList n s ((mget s.kvp.heads pool).getD noPage)

/-- n pages taken from the head of a pool's list and held; none where the pool is short. -/
def holdPages (s : State) (pool n : Nat) : Option (State × List Nat) :=
  let ps := poolFree s pool n
  if ps.length < n then none
  else
    let last := ps.getLast?.map fun p => (pageEntry s p).next
    let s1 := ps.foldl (fun t p => setEntry t p ⟨0, .held, pool, 0, 0, 0, 0⟩) s
    some (kvOps (match last with
      | none => s1
      | some h => setKvp s1 fun k => { k with heads := mput k.heads pool h }) n, ps)

/-- A page returned to the head of its pool's list. -/
def freePage (s : State) (n : Nat) : State :=
  let pool := (pageEntry s n).pool
  let s1 := setEntry s n ⟨(mget s.kvp.heads pool).getD noPage, .free, pool, 0, 0, 0, 0⟩
  setKvp s1 fun k => { k with heads := mput k.heads pool n }

def pinsOf (s : State) (n : Nat) : Nat := (mget s.kvp.pins n).getD 0

/-- A live page with no reference and no pin returns to its list (R227). -/
def settlePage (s : State) (n : Nat) : State :=
  let e := pageEntry s n
  if e.state = .live && e.refs = 0 && pinsOf s n = 0 then freePage s n else s

/-- One reference less, within an operation (R229) and as one of its own. -/
def lowerRef (s : State) (n : Nat) : State :=
  let e := pageEntry s n
  settlePage (setEntry s n { e with refs := e.refs - 1 }) n

def dropRef (s : State) (n : Nat) : State := kvOps (lowerRef s n) 1

def pinPage (s : State) (n : Nat) : State := kvOps (setKvp s fun k => { k with pins := mput k.pins n (pinsOf s n + 1) }) 1

def unpinPage (s : State) (n : Nat) : State :=
  let m := pinsOf s n - 1
  settlePage (kvOps (setKvp s fun k => { k with pins := if m = 0 then mdel k.pins n else mput k.pins n m }) 1) n

/-- DETAIL0 of a bad pool descriptor, in the order of R222 (DEDUCED, log 45). -/
def poolFault (s : State) (bs : List Byte) : Option Nat :=
  let p := poolOf bs
  let pool := bitsOf (leAt bs 0 1) 0 4
  let bad := fun (off : Nat) (b : Bool) => if b then [blockField off] else []
  let busy := s.kvp.entries.any fun e => e.2.pool = pool && (e.2.state = .held || e.2.state = .live)
  let meets := s.kvp.pools.any fun q => q.1 != pool && overlaps p.first p.count q.2.first q.2.count
  ((if busy then [condition] else []) ++ bad 4 (meets || p.first + p.count > noPage)
    ++ bad 0x10 (rangeBad s p.base (p.stride * p.count)) ++ bad 1 (poolFmt p.tag).isNone ++ bad 3 (p.group = 0 || p.group > 8)
    ++ bad 8 (p.count = 0) ++ bad 0xC (p.stride != granules (pageBody p)) ++ bad 0x10 (p.base % 256 != 0)
    ++ bad 0x1C (leAt bs 0x1C 4 != crc32c (bs.take 0x1C))).head?

/-- A pool defined: its old pages leave it, its new ones are free in ascending order; the entries' sectors are written. -/
def definePool (s : State) (pool : Nat) (p : Pool) : State :=
  let old := s.kvp.entries.filter fun e => e.2.pool != pool || e.2.state = .unused
  let new := (rangeFrom p.first p.count).map fun n =>
    (n, (⟨if n + 1 < p.first + p.count then n + 1 else noPage, .free, pool, 0, 0, 0, 0⟩ : PageEntry))
  let s1 := setKvp s fun k =>
    { k with entries := new.foldl (fun m e => mput m e.1 e.2) old, pools := mput k.pools pool p, heads := mput k.heads pool p.first }
  setGddr s1 fun g => { g with badSectors := healed g.badSectors (entryAddr s p.first / 64 * 64) (16 * p.count + 64) }

/-- KV_POOL_DEFINE. -/
def execKvPoolDefine (c : HostCmd) (s : State) : Host.Outcome State Fault Refusal :=
  runCmd s 0x0128 c fun s =>
    let bs := inlineOf c.slot 32
    match poolFault s bs with
    | some d0 => refuse s c d0
    | none => done (definePool (startDomain s domKvp) (bitsOf (leAt bs 0 1) 0 4) (poolOf bs)) c

/-! ### Sequence records, lists and cubbies (R224, R225) -/

structure SeqRec where
  pool : Nat
  byPosition : Bool
  layers : Nat
  groups : Nat
  capacity : Nat
  span : Nat
  ringId : Nat
  ringSize : Nat
  position : Nat
  listBase : Nat
  cubbyBase : Nat
  crcOk : Bool
  deriving DecidableEq, Repr

def seqOf (bs : List Byte) : SeqRec :=
  { pool := bitsOf (leAt bs 4 1) 0 4, byPosition := bitOf (leAt bs 4 1) 4, layers := leAt bs 5 1, groups := leAt bs 6 1
    capacity := leAt bs 8 2, span := leAt bs 0xA 2, ringId := leAt bs 0xC 2, ringSize := leAt bs 0xE 1, position := leAt bs 0xF 1
    listBase := leAt bs 0x10 8, cubbyBase := leAt bs 0x18 8, crcOk := leAt bs 0x3C 4 = crc32c (bs.take 0x3C) }

def seqPool (s : State) (q : SeqRec) : Pool := (mget s.kvp.pools q.pool).getD ⟨3, 64, 1, 0, 0, 0, 0⟩

/-- Lists of a record, and where one starts. -/
def seqLists (q : SeqRec) : Nat := q.layers * q.groups
def listAddr (q : SeqRec) (l : Nat) : Nat := q.listBase + 4 * l * q.capacity
def listBytes (q : SeqRec) : Nat := 4 * seqLists q * q.capacity

def cubbyStride (p : Pool) : Nat := granules (64 + 64 * p.group * p.headDim)
def cubbyAddr (s : State) (q : SeqRec) (l : Nat) : Nat := q.cubbyBase + l * cubbyStride (seqPool s q)
def cubbyBytes (s : State) (q : SeqRec) : Nat := seqLists q * cubbyStride (seqPool s q)

def listEntry (s : State) (q : SeqRec) (l j : Nat) : Nat := leNat (devRead s (listAddr q l + 4 * j) 3)
def setListEntry (s : State) (q : SeqRec) (l j n : Nat) : State := devWrite s (listAddr q l + 4 * j) (leBytes 4 n)

/-- The pages that a list names. -/
def listPages (s : State) (q : SeqRec) (l : Nat) : List Nat :=
  let bs := devRead s (listAddr q l) (4 * q.capacity)
  ((List.range q.capacity).map fun j => leAt bs (4 * j) 3).filter (· != noPage)

/-- A cubby header. -/
structure Cubby where
  tokens : Nat
  count : Nat
  tail : Nat
  deriving DecidableEq, Repr

def cubbyOf (s : State) (q : SeqRec) (l : Nat) : Option Cubby :=
  let bs := devRead s (cubbyAddr s q l) 64
  if leAt bs 0x3C 4 = crc32c (bs.take 0x3C) then some ⟨leAt bs 0 4, bitsOf (leAt bs 4 1) 0 5, bitsOf (leAt bs 5 1) 0 5⟩ else none

def setCubby (s : State) (q : SeqRec) (l : Nat) (k : Cubby) : State :=
  devWrite s (cubbyAddr s q l) (withCrc (leBytes 4 k.tokens ++ [byteOf k.count, byteOf k.tail] ++ List.replicate 54 0))

/-- DETAIL0 of the first bad field of a sequence record. -/
def seqFault (s : State) (q : SeqRec) : Option Nat :=
  let bad := fun (off : Nat) (b : Bool) => if b then [blockField off] else []
  let ring := (mget s.col.rings q.ringId).map (·.members)
  let pos := q.byPosition
  (bad 4 (mget s.kvp.pools q.pool).isNone ++ bad 5 (q.layers = 0) ++ bad 6 (q.groups = 0 || q.groups > 64)
    ++ bad 8 (q.capacity = 0 || q.capacity > 16384) ++ bad 0xA (if pos then q.span = 0 || q.span % 8 != 0 else q.span != 0)
    ++ bad 0xC (if pos then ring.isNone else q.ringId != 0)
    ++ bad 0xE (if pos then q.ringSize = 0 || q.ringSize > Config.maxRing s.part || (ring.map (·.length)) != some q.ringSize else q.ringSize != 1)
    ++ bad 0xF (if pos then q.position ≥ q.ringSize || (ring.bind fun r => r[q.position]?) != some s.twin.number else q.position != 0)
    ++ bad 0x10 (rangeBad s q.listBase (listBytes q)) ++ bad 0x18 (rangeBad s q.cubbyBase (cubbyBytes s q))
    ++ bad 0x3C (!q.crcOk)).head?

/-- Every entry set to "no page", and every cubby header cleared. -/
def clearSeq (s : State) (q : SeqRec) : State :=
  let s1 := devWrite s q.listBase ((List.replicate (seqLists q * q.capacity) noPage).flatMap (leBytes 4))
  (List.range (seqLists q)).foldl (fun t l => setCubby t q l ⟨0, 0, 0⟩) s1

/-- Whether a list of a record already names a page: a list that is open, which its cubby header shows (DEDUCED, log 46). -/
def seqNames (s : State) (q : SeqRec) : Bool :=
  (List.range (seqLists q)).any fun l => (cubbyOf s q l).isSome && !(listPages s q l).isEmpty

/-- Work on ranges of device memory: the command waits for a channel that retrains, and fails on an uncorrectable sector
(R127, R129). -/
def gated (s : State) (c : HostCmd) (rs : List (Nat × Nat)) (k : State → State) : State :=
  if rs.any fun r => memWaits s r.1 r.2 then s
  else
    match rs.findSome? fun r => badSector s r.1 r.2 with
    | some a => failUE s c a
    | none => k s

/-- The operand record of a command. -/
def withSeq (s : State) (c : HostCmd) (data : List Byte) (k : State → SeqRec → State) : State :=
  if bitOf c.slot.ctl 6 && rangeBad s c.slot.operand 64 then refuse s c 0x18
  else gated s c (if bitOf c.slot.ctl 6 then [(c.slot.operand, 64)] else []) fun s => k s (seqOf (operandBytes s c data 64))

/-- KV_SEQ_OPEN (R224, R226). -/
def execKvSeqOpen (c : HostCmd) (data : List Byte) (s : State) : Host.Outcome State Fault Refusal :=
  runCmd s 0x0129 c fun s => withSeq s c data fun s q =>
    match seqFault s q with
    | some d0 => refuse s c d0
    | none =>
      gated s c [(q.listBase, listBytes q), (q.cubbyBase, cubbyBytes s q)] fun s =>
        if seqNames s q then refuse s c condition else done (clearSeq (startDomain s domKvp) q) c

/-- Operations on a pool stop at an uncorrectable entry (R236). -/
def poolGate (s : State) (c : HostCmd) (pools : List Nat) (k : State → State) : State :=
  match pools.findSome? fun n => (mget s.kvp.pools n).bind (poolBad s) with
  | some a => failUE s c a
  | none => k s

/-- DETAIL0 of a field that a release cannot work with: its CRC, a value that R224 reserves, or lists and cubbies that lie where no address
may (R16, R119). -/
def releaseFault (s : State) (q : SeqRec) : Option Nat :=
  let bad := fun (off : Nat) (b : Bool) => if b then [blockField off] else []
  (bad 0x3C (!q.crcOk) ++ bad 5 (q.layers = 0) ++ bad 6 (q.groups = 0 || q.groups > 64) ++ bad 8 (q.capacity = 0 || q.capacity > 16384)
    ++ bad 0x10 (rangeBad s q.listBase (listBytes q)) ++ bad 0x18 (rangeBad s q.cubbyBase (cubbyBytes s q))).head?

/-- KV_RELEASE (R226); it needs no page-table read that could stop it (R236). -/
def execKvRelease (c : HostCmd) (data : List Byte) (s : State) : Host.Outcome State Fault Refusal :=
  runCmd s 0x012B c fun s => withSeq s c data fun s q =>
    match releaseFault s q with
    | some d0 => refuse s c d0
    | none =>
      gated s c [(q.listBase, listBytes q), (q.cubbyBase, cubbyBytes s q)] fun s =>
        let ps := (List.range (seqLists q)).flatMap fun l => if (cubbyOf s q l).isSome then listPages s q l else []
        done (clearSeq (ps.foldl dropRef s) q) c

/-! ### Layout over modules (R230) -/

/-- List entry on this module of a global page, where it lies here. -/
def localEntry (q : SeqRec) (g : Nat) : Option Nat :=
  if !q.byPosition then some g
  else
    let k := g / q.span
    if k % q.ringSize = q.position then some (k / q.ringSize * q.span + g % q.span) else none

/-- List entry of a global page on the member that stores it. -/
def storeEntry (q : SeqRec) (g : Nat) : Nat := if q.byPosition then g / q.span / q.ringSize * q.span + g % q.span else g

/-- Global page of a list entry of this module. -/
def globalPage (q : SeqRec) (e : Nat) : Nat :=
  if !q.byPosition then e else (e / q.span * q.ringSize + q.position) * q.span + e % q.span

/-- Ring position of the member that stores a position. -/
def holderOf (q : SeqRec) (pos : Nat) : Nat := if q.byPosition then pos / 16 / q.span % q.ringSize else q.position

/-- Global page of the tokens that a cubby with COUNT > 0 holds: that of the last position that this module stores, since TOKENS counts
those of all modules (R225, R230). -/
def cubbyPage (q : SeqRec) (k : Cubby) : Nat :=
  let g := (k.tokens - 1) / 16
  let span := g / q.span
  if (localEntry q g).isSome then g else (span - (span + q.ringSize - q.position) % q.ringSize) * q.span + (q.span - 1)

/-! ### Flushes (R228, R229) -/

/-- Values of a token line of a page, at slot t of head h: keys or values. -/
def pageLine (s : State) (p : Pool) (n : Nat) (isValue : Bool) (h t : Nat) : ALine :=
  let f := (poolFmt p.tag).getD .bf16
  let e := pageEntry s n
  let half := if isValue then pageKeys p + pageScales p else 0
  let lb := packedBytes f p.headDim
  let elems := (unpackElems f (devRead s (pageAddr p n + half + (h * 16 + t) * lb) lb) p.headDim).map (decodeFmt f)
  let sc := if isValue then e.vScale else e.kScale
  let gs := p.headDim / 32
  ⟨elems,
   if p.tag = 3 then []
   else if p.tag = 0x16 then
     (devRead s (pageAddr p n + half + pageKeys p + (h * 16 + t) * gs) gs).map fun b => decodeFmt .e8m0 b.toNat
   else List.replicate gs (decodeFmt .e8m0 sc)⟩

/-- Values of a token line of a cubby (R225). -/
def cubbyLine (s : State) (q : SeqRec) (l : Nat) (isValue : Bool) (h t : Nat) : ALine :=
  let p := seqPool s q
  let half := if isValue then 32 * p.group * p.headDim else 0
  ⟨(unpackElems .bf16 (devRead s (cubbyAddr s q l + 64 + half + (h * 16 + t) * 2 * p.headDim) (2 * p.headDim)) p.headDim).map
    (decodeFmt .bf16), []⟩

/-- A line as exact values (R228): a NaN element stays itself, a NaN scale makes the canonical NaN (R54, R65). -/
def ALine.exact (x : ALine) : List Val :=
  x.vals.zipIdx.map fun q =>
    let sc := x.scales.getD (q.2 / 32) (.fin false 1 0)
    if x.scales.isEmpty || (q.1.isNan && !sc.isNan) then q.1 else (mulVal q.1 sc).getD (.nan false 0)

/-- Keys or values of a page as stored: its bytes and its page scale. BF16 values stay as they stand (R228). -/
def convertHalf (c : Ctl) (p : Pool) (lines : List (List Val)) : List Byte × Nat :=
  let f := (poolFmt p.tag).getD .bf16
  if p.tag = 3 then (lines.flatMap fun x => packElems .bf16 (x.map (exactCode .bf16)), 0)
  else if p.tag = 0x16 then
    let st := lines.map fun x => storeRow c f (.group 32) 0 [] x
    (st.flatMap (fun r => packElems f r.elems) ++ st.flatMap (·.scales), 0)
  else
    let st := storeGroup c f 0 lines.flatten
    (packElems f st.elems, ((st.scales.head?.map (·.toNat)).getD 0x7F))

/-- The flush of a cubby with COUNT > 0 (R228): held are the pages of the command's reservation; answers the state and the
pages left. An install or a copy on write is one page-manager operation (R219, R229; DEDUCED, log 104). -/
def flush (s : State) (c : Ctl) (q : SeqRec) (l : Nat) (k : Cubby) (held : List Nat) : State × List Nat :=
  let p := seqPool s q
  let j := (localEntry q (cubbyPage q k)).getD 0
  let old := listEntry s q l j
  let e := pageEntry s old
  let inPlace := k.tail > 0 && e.refs = 1 && pinsOf s old = 0
  let target := if inPlace then old else held.headD noPage
  let line := fun (isValue : Bool) (h t : Nat) =>
    if t < k.tail then (pageLine s p old isValue h t).exact
    else if t < k.tail + k.count then (cubbyLine s q l isValue h t).exact
    else List.replicate p.headDim (.fin false 0 0)
  let lines := fun (isValue : Bool) => (List.range p.group).flatMap fun h => (List.range 16).map fun t => line isValue h t
  let ks := convertHalf c p (lines false)
  let vs := convertHalf c p (lines true)
  let v := k.tail + k.count
  let scaled := p.tag = 0x54 || p.tag = 0x55
  let s1 := devWrite s (pageAddr p target) (padTo p.stride (ks.1 ++ vs.1))
  let s2 := setEntry s1 target ⟨0, .live, q.pool, v, if scaled then ks.2 else 0, if scaled then vs.2 else 0, 1⟩
  let s3 := if inPlace then bump s2 .kvp 0 0x11C 16 16 1
    else kvOps (setListEntry (if k.tail > 0 then bump (lowerRef s2 old) .kvp 0 0x11C 0 16 1 else s2) q l j target) 1
  (bump (setCubby s3 q l ⟨k.tokens, 0, if v < 16 then v else 0⟩) .kvp 0 0x118 0 32 1,
   if inPlace then held else held.drop 1)

/-- Pages that the flush of a cubby reserves (R232): one, and one more where its tail needs a copy. -/
def flushNeeds (s : State) (q : SeqRec) (l : Nat) (k : Cubby) : Nat :=
  let old := listEntry s q l ((localEntry q (cubbyPage q k)).getD 0)
  let e := pageEntry s old
  if k.tail > 0 && (e.refs > 1 || pinsOf s old > 0) then 2 else 1

/-- Whether the body of a page lies on a channel that retrains, so that what would write it waits (R126). -/
def pageWaits (s : State) (n : Nat) : Bool :=
  match mget s.kvp.pools (pageEntry s n).pool with
  | none => false
  | some p => memWaits s (pageAddr p n) p.stride

/-- The body of the partial tail that a flush of a list would read. -/
def tailRange (s : State) (q : SeqRec) (l : Nat) : List (Nat × Nat) :=
  match cubbyOf s q l with
  | none => []
  | some k =>
    if k.tail = 0 then []
    else [(pageAddr (seqPool s q) (listEntry s q l ((localEntry q (cubbyPage q k)).getD 0)), pageBody (seqPool s q))]

/-- KV_POOL_EMPTY: counted, posted, the command ended (R232). -/
def failPool (s : State) (c : HostCmd) (pool short : Nat) : State :=
  finish (post (bump s .kvp 0 0x120 0 32 1) .kvp 0 0x0401 [pool, short]) c 0x26 pool short

/-! ### KV_SHARE (R226) -/

/-- Cubbies of a record that a FLUSH writes. -/
def sharedFlushes (s : State) (q : SeqRec) : List (Nat × Cubby) :=
  (List.range (seqLists q)).filterMap fun l => (cubbyOf s q l).bind fun k => if k.count > 0 then some (l, k) else none

/-- The parent's lists and cubbies copied into a child (R226). -/
def copySeq (s : State) (par child : SeqRec) : State :=
  (List.range (seqLists par)).foldl (fun t l =>
    let n := min par.capacity child.capacity
    let t1 := devWrite t (listAddr child l)
      (devRead t (listAddr par l) (4 * n) ++ (List.replicate (child.capacity - n) noPage).flatMap (leBytes 4))
    devWrite t1 (cubbyAddr t1 child l) (devRead t1 (cubbyAddr t1 par l) (cubbyStride (seqPool t1 par)))) s

/-- References that children take on the parent's pages: one for each child whose list has the entry (R227, DEDUCED, log 47). -/
def shareRefs (s : State) (par : SeqRec) (children : List SeqRec) : State :=
  (List.range (seqLists par)).foldl (fun t l =>
    (List.range par.capacity).foldl (fun u j =>
      let n := listEntry u par l j
      if n = noPage then u
      else
        let e := pageEntry u n
        kvOps (setEntry u n { e with refs := e.refs + (children.filter fun x => j < x.capacity).length }) 1) t) s

/-- DETAIL0 of a child that differs from its parent. -/
def childFault (s : State) (par x : SeqRec) : Option Nat :=
  let bad := fun (off : Nat) (b : Bool) => if b then [off] else []
  let used := (List.range (seqLists x)).any fun l => match cubbyOf s x l with
    | some k => k.tokens != 0
    | none => true
  (bad condition used ++ bad (blockField 4) (x.pool != par.pool || x.byPosition != par.byPosition) ++ bad (blockField 5) (x.layers != par.layers)
    ++ bad (blockField 6) (x.groups != par.groups) ++ bad (blockField 0xA) (x.span != par.span)
    ++ bad (blockField 0xC) (x.ringId != par.ringId) ++ bad (blockField 0xE) (x.ringSize != par.ringSize)
    ++ bad (blockField 0xF) (x.position != par.position)).head?

/-- KV_SHARE. -/
def execKvShare (c : HostCmd) (data : List Byte) (s : State) : Host.Outcome State Fault Refusal :=
  runCmd s 0x012A c fun s => withSeq s c data fun s par =>
    let n := bitsOf c.slot.param1 0 11 + 1
    if n > 1024 then refuse s c 0x28
    else if rangeBad s c.slot.param0 (8 * n) then refuse s c 0x20
    else if let some d0 := seqFault s par then refuse s c d0
    else
      gated s c [(c.slot.param0, 8 * n), (par.listBase, listBytes par), (par.cubbyBase, cubbyBytes s par)] fun s =>
        let addrs := (List.range n).map fun i => leNat (devRead s (c.slot.param0 + 8 * i) 8)
        if addrs.any fun a => rangeBad s a 64 then refuse s c condition
        else gated s c (addrs.map fun a => (a, 64)) fun s =>
          let kids := addrs.map fun a => seqOf (devRead s a 64)
          match kids.findSome? (seqFault s) with
          | some d0 => refuse s c d0
          | none =>
            gated s c (kids.flatMap fun x => [(x.listBase, listBytes x), (x.cubbyBase, cubbyBytes s x)]) fun s =>
              poolGate s c [par.pool] fun s => gated s c ((List.range (seqLists par)).flatMap (tailRange s par)) fun s =>
                match kids.findSome? (childFault s par), (List.range (seqLists par)).find? fun l => (cubbyOf s par l).isNone with
                | some d0, _ => refuse s c d0
                | none, some l => failUE s c (cubbyAddr s par l)
                | none, none =>
                  let fl := if bitOf c.slot.param1 31 then sharedFlushes s par else []
                  let need := (fl.map fun e => flushNeeds s par e.1 e.2).sum
                  match holdPages s par.pool need with
                  | none => failPool s c par.pool (need - (poolFree s par.pool need).length)
                  | some h =>
                    if h.2.any (pageWaits h.1) then s
                    else
                    let r := fl.foldl (fun (a : State × List Nat) e => flush a.1 (ctlOf c) par e.1 e.2 a.2) h
                    let s1 := r.2.foldl freePage r.1
                    done (kids.foldl (fun t x => copySeq t par x) (shareRefs (startDomain s1 domKvp) par kids)) c

/-! ### ATT_DECODE (R231 to R235) -/

/-- The decode block (R301). -/
structure DecDesc where
  layer : Nat
  outFp32 : Bool
  strict : Bool
  minKey : Nat
  perSplit : Nat
  scale : Nat
  coreFirst : Nat
  coreCount : Nat
  rows : Nat
  appends : Nat
  rowBase : Nat
  appendBase : Nat
  queryBase : Nat
  outBase : Nat
  keyBase : Nat
  valueBase : Nat
  deriving DecidableEq, Repr

def decDescOf (bs : List Byte) : DecDesc :=
  let b1 := leAt bs 1 1
  { layer := leAt bs 0 1, outFp32 := bitOf b1 3, strict := bitOf b1 2, minKey := bitsOf b1 0 2, perSplit := leAt bs 2 2
    scale := leAt bs 4 4, coreFirst := leAt bs 8 2, coreCount := leAt bs 0xA 1, rows := leAt bs 0xC 4, appends := leAt bs 0x10 4
    rowBase := leAt bs 0x18 8, appendBase := leAt bs 0x20 8, queryBase := leAt bs 0x28 8, outBase := leAt bs 0x30 8
    keyBase := leAt bs 0x38 8, valueBase := leAt bs 0x40 8 }

def decFault (s : State) (bs : List Byte) : Option Nat :=
  let d := decDescOf bs
  let bad := fun (off : Nat) (b : Bool) => if b then [blockField off] else []
  let sc := decodeFmt .fp32 d.scale
  (bad 1 (d.minKey = 3) ++ bad 2 (d.perSplit = 0 || d.perSplit > 1024) ++ bad 4 (!sc.isFinite || sc.isZero || sc.sign)
    ++ bad 8 (d.coreFirst + d.coreCount > Config.logicalCores s.part) ++ bad 0xA (d.coreCount = 0 || d.coreCount > 32)
    ++ bad 0xC (d.rows = 0 || d.rows > 65536) ++ bad 0x10 (d.appends > 65536) ++ bad 0x18 (rangeBad s d.rowBase (16 * d.rows))
    ++ bad 0x20 (d.appends > 0 && rangeBad s d.appendBase (24 * d.appends)) ++ bad 0x7C (leAt bs 0x7C 4 != crc32c (bs.take 0x7C))).head?

/-- A row: its record, head group, head within the group, and line. -/
structure DecRow where
  seq : SeqRec
  group : Nat
  head : Nat
  line : Nat
  deriving DecidableEq, Repr

/-- An append: its record, head group, position, and line. -/
structure DecAppend where
  seq : SeqRec
  group : Nat
  pos : Nat
  line : Nat
  deriving DecidableEq, Repr

def decRows (s : State) (d : DecDesc) : List DecRow :=
  (List.range d.rows).map fun i =>
    let bs := devRead s (d.rowBase + 16 * i) 16
    ⟨seqOf (devRead s (leAt bs 0 8) 64), leAt bs 8 1, leAt bs 9 1, leAt bs 0xC 4⟩

def decAppends (s : State) (d : DecDesc) : List DecAppend :=
  (List.range d.appends).map fun i =>
    let bs := devRead s (d.appendBase + 24 * i) 24
    ⟨seqOf (devRead s (leAt bs 0 8) 64), leAt bs 8 1, leAt bs 0xC 4, leAt bs 0x10 4⟩

/-- List number of a head group of a layer. -/
def listOf (d : DecDesc) (q : SeqRec) (g : Nat) : Nat := d.layer * q.groups + g

/-- What step 1 finds of the appends in order (R228, R232): the headers as they will stand, by cubby address, the cubbies that flush,
pages needed by pool, or the refusal. -/
structure AppendPlan where
  heads : List (Nat × Cubby)
  flushed : List Nat
  need : List (Nat × Nat)
  fault : Option Nat
  corrupt : Option Nat
  deriving DecidableEq, Repr

def planAppend (s : State) (d : DecDesc) (a : AppendPlan) (x : DecAppend) : AppendPlan :=
  let l := listOf d x.seq x.group
  let at' := cubbyAddr s x.seq l
  match (mget a.heads at').or (cubbyOf s x.seq l) with
  | none => { a with corrupt := a.corrupt.or (some at') }
  | some k =>
    if a.fault.isSome || x.pos < k.tokens then a
    else if x.pos > k.tokens || storeEntry x.seq (x.pos / 16) ≥ x.seq.capacity then { a with fault := some condition }
    else
      match localEntry x.seq (x.pos / 16) with
      | none => { a with heads := mput a.heads at' { k with tokens := k.tokens + 1 } }
      | some _ =>
        if k.count + k.tail = 16 then
          { a with need := mput a.need x.seq.pool ((mget a.need x.seq.pool).getD 0 + flushNeeds s x.seq l k)
                   heads := mput a.heads at' ⟨k.tokens + 1, 1, 0⟩, flushed := a.flushed ++ [at'] }
        else { a with heads := mput a.heads at' { k with tokens := k.tokens + 1, count := k.count + 1 } }

/-- One append (R228), a page-manager operation of its own (R232; DEDUCED, log 104); the pages held are by pool, and its g lines follow one another from its line index (DEDUCED, log 49). -/
def runAppend (c : Ctl) (d : DecDesc) (a : State × List (Nat × List Nat)) (x : DecAppend) : State × List (Nat × List Nat) :=
  let s := kvOps a.1 1
  let l := listOf d x.seq x.group
  match cubbyOf s x.seq l with
  | none => (s, a.2)
  | some k =>
    if x.pos < k.tokens then (bump s .kvp 0 0x128 0 32 1, a.2)
    else if (localEntry x.seq (x.pos / 16)).isNone then (setCubby s x.seq l { k with tokens := k.tokens + 1 }, a.2)
    else
      let p := seqPool s x.seq
      let f := if k.count + k.tail = 16 then flush s c x.seq l k ((mget a.2 x.seq.pool).getD []) else (s, (mget a.2 x.seq.pool).getD [])
      let k1 : Cubby := if k.count + k.tail = 16 then ⟨k.tokens, 0, 0⟩ else k
      let lb := 2 * p.headDim
      let s1 := (List.range p.group).foldl (fun t h =>
        let body := cubbyAddr t x.seq l + 64 + (h * 16 + x.pos % 16) * lb
        let from' := fun (base : Nat) => devRead t (base + (x.line + h) * lb) lb
        devWrite (devWrite t body (from' d.keyBase)) (body + 32 * p.group * p.headDim) (from' d.valueBase)) f.1
      (setCubby s1 x.seq l ⟨k1.tokens + 1, k1.count + 1, k1.tail⟩, mput a.2 x.seq.pool f.2)

/-- Entries of a list on this module that hold a position below TOKENS. -/
def usedEntries (q : SeqRec) (tokens : Nat) : Nat :=
  ((List.range q.capacity).filter fun e => 16 * globalPage q e < tokens).length

/-- Key blocks of a row on this module. -/
def rowBlocks (q : SeqRec) (tokens : Nat) : Nat := (usedEntries q tokens + 7) / 8

/-- Pages that a row reads. -/
def rowPages (s : State) (d : DecDesc) (r : DecRow) : List Nat :=
  match cubbyOf s r.seq (listOf d r.seq r.group) with
  | none => []
  | some k => ((List.range (usedEntries r.seq k.tokens)).map fun e => listEntry s r.seq (listOf d r.seq r.group) e).filter (· != noPage)

/-- The line of slot t of a list entry, widened (R204); none where no token stands there. -/
def tokenAt (s : State) (c : Ctl) (d : DecDesc) (r : DecRow) (k : Cubby) (e t : Nat) (isValue : Bool) : Option (ALine × List Exc) :=
  let l := listOf d r.seq r.group
  let p := seqPool s r.seq
  let g := globalPage r.seq e
  let n := listEntry s r.seq l e
  if 16 * g + t ≥ k.tokens then none
  else if n != noPage && t < (pageEntry s n).valid then some (widenALine c 3 p.tag (pageLine s p n isValue r.head t))
  else if g = cubbyPage r.seq k && k.tail ≤ t && t < k.tail + k.count then some (cubbyLine s r.seq l isValue r.head t, [])
  else none

/-- One key block of a row, and what it counts (R207, R233). -/
def decodeBlock (s : State) (c : Ctl) (d : DecDesc) (r : DecRow) (k : Cubby) (query : ALine) (b : Nat) (st : Option RowState × AttCount) :
    Option RowState × AttCount :=
  let p := seqPool s r.seq
  let zero : ALine := ⟨List.replicate p.headDim (.fin false 0 0), []⟩
  let get := fun (isValue : Bool) => (List.range 128).map fun i => tokenAt s c d r k (8 * b + i / 16) (i % 16) isValue
  let ks := get false
  let vs := get true
  let vis := ks.map (·.isSome)
  if !vis.any id then st
  else
    let key := ks.map fun x => (x.map (·.1)).getD zero
    let val := vs.map fun x => (x.map (·.1)).getD zero
    let sc := attPass c 3 key [query] none
    let sr := softRow c (scoreScale c d.scale) st.1 (sc.1.map fun row => row.getD 0 0) vis
    let ps := storeLine c 3 .e4m3 none sr.ps
    let dims := (List.range p.headDim).map fun i => (⟨val.map fun x => x.vals.getD i (.fin false 0 0), []⟩ : ALine)
    let pv := attPass c 3 [ps.line] dims none
    let n := nextRow c st.1 sr (pv.1.getD 0 [])
    let loads := AttCount.ofLoad ((ks ++ vs).flatMap fun x => (x.map (·.2)).getD [])
    (some n.1, ((((st.2.join sc.2).join pv.2).join loads).join (AttCount.of (sr.excs ++ n.2))).join ps.count)

/-- Two partials merged (R235), and the events of that. -/
def mergeRow (c : Ctl) (a b : RowState) : RowState × List Exc :=
  let mn := vMax c a.m b.m
  let da := vSub c a.m mn.1
  let ea := vExp2 c da.1
  let db := vSub c b.m mn.1
  let eb := vExp2 c db.1
  let pl := vMul c b.l eb.1
  let l := vFma c a.l ea.1 pl.1
  let o := (a.o.zip b.o).map fun q =>
    let p := vMul c q.2 eb.1
    let f := vFma c q.1 ea.1 p.1
    (f.1, [p.2, f.2])
  (⟨mn.1, l.1, o.map (·.1)⟩, [mn.2, da.2, ea.2, db.2, eb.2, pl.2, l.2] ++ o.flatMap (·.2))

/-- Partials merged in order, empty ones skipped. -/
def mergeRows (c : Ctl) (xs : List (Option RowState)) : Option RowState × List Exc :=
  xs.foldl (fun a x => match a.1, x with
    | none, x => (x, a.2)
    | _, none => a
    | some y, some z => let r := mergeRow c y z; (some r.1, a.2 ++ r.2)) (none, [])

/-- The splits of a row in ascending z, each with what its core counts (R234). -/
def rowSplits (s : State) (c : Ctl) (d : DecDesc) (r : DecRow) : List (Option RowState × AttCount) :=
  match cubbyOf s r.seq (listOf d r.seq r.group) with
  | none => []
  | some k =>
    let hd := (seqPool s r.seq).headDim
    let query : ALine := ⟨(unpackElems .bf16 (devRead s (d.queryBase + 2 * hd * r.line) (2 * hd)) hd).map (decodeFmt .bf16), []⟩
    let n := rowBlocks r.seq k.tokens
    (List.range ((n + d.perSplit - 1) / d.perSplit)).map fun z =>
      (rangeFrom (z * d.perSplit) (min d.perSplit (n - z * d.perSplit))).foldl (fun st b => decodeBlock s c d r k query b st) (none, {})

/-- The module's partial of a row, with the events of its merge on the core of split 0 (R234, R235). -/
def rowPartial (s : State) (c : Ctl) (d : DecDesc) (r : DecRow) : Option RowState × List Exc :=
  mergeRows c ((rowSplits s c d r).map (·.1))

/-- Blocks of a split of a row. -/
def splitBlocks (d : DecDesc) (n z : Nat) : Nat := min d.perSplit (n - z * d.perSplit)

/-- What the splits of the rows count on their cores and sequencers; the command names no tensor, so nothing enters the gradebook
(R98, R218, R234, DEDUCED, log 102). Rows that share a score pass raise the pass and cycle counters together: a free value (R233,
DESIGN CHOICE, log 7). -/
def noteSplits (s : State) (c : Ctl) (d : DecDesc) (rows : List DecRow) : State :=
  rows.foldl (fun t r =>
    let n := match cubbyOf t r.seq (listOf d r.seq r.group) with
      | none => 0
      | some k => rowBlocks r.seq k.tokens
    let t1 := (rowSplits t c d r).zipIdx.foldl (fun u q =>
      let f := drawFree u
      let g := drawFree f.1
      noteAtt g.1 0xFFFF (d.coreFirst + q.2) (splitBlocks d n q.2) { q.1.2 with passes := f.2, cycles := g.2 }) t
    noteAtt t1 0xFFFF d.coreFirst 0 (AttCount.of (rowPartial t c d r).2)) s

/-- Ring position of the member that merges a row: the one that holds its cubby (R235). -/
def mergerOf (s : State) (d : DecDesc) (r : DecRow) : Nat :=
  match cubbyOf s r.seq (listOf d r.seq r.group) with
  | none => r.seq.position
  | some k => holderOf r.seq (k.tokens - 1)

/-- A partial as it travels: 8 + 4d bytes, or nothing (R234). -/
def partialBytes (x : Option RowState) : List Byte :=
  match x with
  | none => []
  | some r => leBytes 4 r.m ++ leBytes 4 r.l ++ codeBytes r.o

def partialOf (bs : List Byte) : Option RowState :=
  if bs.isEmpty then none else some ⟨leAt bs 0 4, leAt bs 4 4, (List.range (bs.length / 4 - 2)).map fun i => leAt bs (8 + 4 * i) 4⟩

def dropDecode (s : State) (j : DecodeJob) : State :=
  let s1 := { s with decodes := s.decodes.filter fun x => x.cmd != j.cmd }
  j.held.foldl freePage (j.pinned.foldl unpinPage s1)

def setDecode (s : State) (j : DecodeJob) : State :=
  { s with decodes := s.decodes.map fun x => if x.cmd = j.cmd then j else x }

/-- Rings by position that a command's rows use. -/
def decodeRings (rows : List DecRow) : List Nat := dedup [] ((rows.filter (·.seq.byPosition)).map (·.seq.ringId))

/-- Rows of a ring that a position merges, with their ordinals. -/
def rowsFor (j : DecodeJob) (rows : List DecRow) (ring pos : Nat) : List (DecRow × Nat) :=
  rows.zipIdx.filter fun r => r.1.seq.byPosition && r.1.seq.ringId = ring && j.merge.getD r.2 0 = pos

def ringMembersOf (s : State) (ring : Nat) : List Nat := ((mget s.col.rings ring).map (·.members)).getD []

/-- Whether every partial that this module merges is in. -/
def decodeReady (s : State) (rows : List DecRow) (j : DecodeJob) : Bool :=
  j.rings.all fun ring =>
    let ms := ringMembersOf s ring
    let me := (ms.findIdx? (· = s.twin.number)).getD 0
    (rowsFor j rows ring me).isEmpty || (ms.filter (· != s.twin.number)).all fun m => j.heard.any fun h => h.hdr.ringId = ring && h.hdr.srcClass = m

/-- The partials that a message carries. -/
def partialItems (m : Msg) : List (List Byte) :=
  match m.body with
  | .parcel _ items => items
  | _ => []

/-- The final partial of a row that this module merges (R235). -/
def rowTotal (s : State) (c : Ctl) (rows : List DecRow) (j : DecodeJob) (r : DecRow × Nat) : Option RowState × List Exc :=
  let own := (j.own.getD r.2 none)
  if !r.1.seq.byPosition then (own, [])
  else
    let ms := ringMembersOf s r.1.seq.ringId
    let idx := ((rowsFor j rows r.1.seq.ringId r.1.seq.position).findIdx? (·.2 = r.2)).getD 0
    mergeRows c (ms.map fun m =>
      if m = s.twin.number then own
      else partialOf (((j.heard.find? fun h => h.hdr.ringId = r.1.seq.ringId && h.hdr.srcClass = m).map partialItems).getD [] |>.getD idx []))

/-- An output line (R235) with its events; a row without any visible key has no value the spec states: free values (DESIGN CHOICE,
log 48). -/
def outputLine (s : State) (c : Ctl) (d : DecDesc) (hd : Nat) (x : Option RowState) : State × List Byte × List Exc :=
  let f : Fmt := if d.outFp32 then .fp32 else .bf16
  match x with
  | none => ({ s with freeCtr := s.freeCtr + hd }, packElems f ((List.range hd).map fun i => Config.freeNat (s.freeCtr + i) % 2 ^ fmtBits f), [])
  | some r =>
    let rc := opSpecial c.mode c.rounding .recip (decodeFmt .fp32 r.l)
    let o := r.o.map fun v => vMul c v rc.1
    let st := storeRow c f .plain 0 [] (o.map fun v => decodeFmt .fp32 v.1)
    (s, packElems f st.elems, rc.2 :: (o.zip st.excs).map fun q => Exc.first q.1.2 q.2)

/-- Where the output line of a row lies. -/
def outputAt (s : State) (d : DecDesc) (r : DecRow) : Nat × Nat :=
  let n := (if d.outFp32 then 4 else 2) * (seqPool s r.seq).headDim
  (d.outBase + n * r.line, n)

/-- Stages 4 and 5: outputs written, pages unpinned, the command complete (R232). -/
def finishDecode (s : State) (j : DecodeJob) : State :=
  let d := decDescOf (devRead s j.cmd.slot.operand 128)
  let rows := decRows s d
  let mine := rows.zipIdx.filter fun r => j.merge.getD r.2 0 = r.1.seq.position
  if !decodeReady s rows j || mine.any (fun q => memWaits s (outputAt s d q.1).1 (outputAt s d q.1).2) then s
  else
    let c := ctlOf j.cmd
    let r := mine.foldl (fun (a : State × Option Nat) q =>
      match a.2 with
      | some _ => a
      | none =>
        let tot := rowTotal a.1 c rows j q
        let o := outputLine a.1 c d (seqPool a.1 q.1.seq).headDim tot.1
        (match tryWrite o.1 (outputAt s d q.1).1 o.2.1 with
        | .error x => (o.1, some x)
        | .ok t => (noteAtt t 0xFFFF d.coreFirst 0 (AttCount.of (tot.2 ++ o.2.2)), none))) (s, none)
    match r.2 with
    | some x => failUE (dropDecode r.1 j) j.cmd x
    | none => done (dropDecode r.1 j) j.cmd

/-- Partials sent to the members that merge them (R234, R235). -/
def sendPartials (s : State) (d : DecDesc) (rows : List DecRow) (j : DecodeJob) : State :=
  j.rings.foldl (fun t ring =>
    let ms := ringMembersOf s ring
    let me := (ms.findIdx? (· = s.twin.number)).getD 0
    ms.zipIdx.foldl (fun u m =>
      let rs := rowsFor j rows ring m.2
      if m.1 = s.twin.number || rs.isEmpty then u
      else
        let h := { header u 0x08 8 0x18 m.1 j.cmd.slot.step with ringId := ring, tensorId := 0xFFFF, srcPosition := me }
        let pid : ParcelId := ⟨j.cmd.slot.step, ring, d.layer, false, me, true, false, u.job.layoutEpoch, u.job.number⟩
        sendHdr u m.1 h (.parcel pid (rs.map fun r => partialBytes (j.own.getD r.2 none)))) t) s

/-- Partials of another member taken in by the first command of that step, layer and ring that has none of that member's; where no such
command runs yet, they are kept. -/
def takePartials (s : State) (h : MsgHdr) (pid : ParcelId) (items : List (List Byte)) : State :=
  match s.decodes.find? fun j => j.cmd.slot.step = h.step && (decDescOf (devRead s j.cmd.slot.operand 128)).layer = pid.tensorId
      && j.rings.contains h.ringId && !j.heard.any fun m => m.hdr.ringId = h.ringId && m.hdr.srcClass = h.srcClass with
  | none => keepEarly s h (.parcel pid items)
  | some j =>
    let j1 := { j with heard := j.heard ++ [{ dst := s.twin.number, hdr := h, body := .parcel pid items }] }
    let s1 := setDecode s j1
    if j1.own.isEmpty then s1 else finishDecode s1 j1

/-- Whether the pages of a row are narrow (R205, R231). -/
def narrowPool (s : State) (d : DecDesc) (r : DecRow) : Bool := fmtBits ((poolFmt (seqPool s r.seq).tag).getD .bf16) < minWidth d.minKey

/-- Narrow pages of a command, each counted once for keys and once for values (R205, R231). -/
def noteNarrow (s : State) (d : DecDesc) (rows : List DecRow) : State :=
  let n := (dedup [] ((rows.filter fun r => narrowPool s d r).flatMap (rowPages s d))).length
  bump (bump s .att (d.coreFirst / 32) 0x110 0 16 n) .att (d.coreFirst / 32) 0x110 16 16 n

/-- Device memory that the rows and appends of a decode name beside its block: lists and cubbies, query lines, new keys and values (R129,
R224, R231). -/
def decodeRanges (s : State) (d : DecDesc) (rows : List DecRow) (apps : List DecAppend) : List (Nat × Nat) :=
  let recs := dedup [] ((rows.map (·.seq)) ++ apps.map (·.seq))
  let line := fun (q : SeqRec) (base l n : Nat) => (base + 2 * (seqPool s q).headDim * l, 2 * (seqPool s q).headDim * n)
  recs.flatMap (fun q => [(q.listBase, listBytes q), (q.cubbyBase, cubbyBytes s q)])
    ++ rows.map (fun r => line r.seq d.queryBase r.line 1)
    ++ apps.flatMap fun a => [line a.seq d.keyBase a.line (seqPool s a.seq).group, line a.seq d.valueBase a.line (seqPool s a.seq).group]

/-- Stages 3 and 4 (R232): the pages pinned, the partials worked and sent. -/
def attendDecode (s : State) (c : HostCmd) : State :=
  match s.decodes.find? (·.cmd = c) with
  | none => s
  | some j =>
    let d := decDescOf (devRead s c.slot.operand 128)
    let rows := decRows s d
    let pages := dedup [] (rows.flatMap (rowPages s d))
    if (decodeRanges s d rows []).any fun r => memWaits s r.1 r.2 then s
    else if let some a := ((decodeRanges s d rows []).findSome? fun r => badSector s r.1 r.2).or
        ((rows.map fun r => r.seq.pool).findSome? fun n => (mget s.kvp.pools n).bind (poolBad s)) then failUE (dropDecode s j) c a
    else if let some n := absentCore s d.coreFirst d.coreCount then finish (dropDecode s j) c 0x22 0 n
    else if pages.any fun n => pinsOf s n ≥ 255 then
      (if j.pinWait then s
       else bump (setDecode s { j with pinWait := true }) .kvp 0 0x124 0 32 (pages.filter fun n => pinsOf s n ≥ 255).length)
    else
      let rs := pages.map fun n => (pageAddr ((mget s.kvp.pools (pageEntry s n).pool).getD ⟨3, 64, 1, 0, 0, 0, 0⟩) n,
        pageBody ((mget s.kvp.pools (pageEntry s n).pool).getD ⟨3, 64, 1, 0, 0, 0, 0⟩))
      match rs.findSome? fun r => badSector s r.1 r.2 with
      | some a => failUE (dropDecode s j) c a
      | none =>
        if rs.any fun r => memWaits s r.1 r.2 then s
        else
          let s1 := pages.foldl pinPage s
          let own := rows.map fun r => (rowPartial s1 (ctlOf c) d r).1
          let j1 := { j with pinWait := false, pinned := pages, own := own, merge := rows.map (mergerOf s1 d) }
          let s2 := noteNarrow (noteSplits (sendPartials (setDecode s1 j1) d rows j1) (ctlOf c) d rows) d rows
          let mine := fun (m : Msg) => match m.body with
            | .parcel pid _ => m.hdr.tensorId = 0xFFFF && pid.tensorId = d.layer && m.hdr.step = c.slot.step
            | _ => false
          let early := s2.col.early.filter mine
          let s3 := early.foldl (fun t m => match m.body with
            | .parcel pid items => takePartials t m.hdr pid items
            | _ => t) (setCol s2 fun x => { x with early := x.early.filter fun m => !mine m })
          match s3.decodes.find? (·.cmd = c) with
          | none => s3
          | some j2 => finishDecode s3 j2

/-- The first reason for which step 1 refuses: status, DETAIL0, DETAIL1 (R231, R232). -/
def decodeFault (s : State) (c : HostCmd) (d : DecDesc) (rows : List DecRow) (apps : List DecAppend) (pl : AppendPlan) :
    Option (Nat × Nat × Nat) :=
  let recs := (rows.map fun r => (r.seq, r.group)) ++ apps.map fun a => (a.seq, a.group)
  let pools := recs.map fun r => seqPool s r.1
  let tokens := fun (r : DecRow) =>
    let l := listOf d r.seq r.group
    (((mget pl.heads (cubbyAddr s r.seq l)).or (cubbyOf s r.seq l)).map (·.tokens)).getD 0
  let wide := rows.any fun r =>
    let z := (rowBlocks r.seq (tokens r) + d.perSplit - 1) / d.perSplit
    z > 32 || z > d.coreCount
  let paged := fun (r : DecRow) => !(rowPages s d r).isEmpty || pl.flushed.contains (cubbyAddr s r.seq (listOf d r.seq r.group))
  let narrow := if d.strict then ((rows.filter fun r => narrowPool s d r && paged r).map fun r => seqPool s r.seq).head? else none
  let broken := (rows.find? fun r => r.seq.byPosition && (mget s.col.rings r.seq.ringId).any (·.broken)).map fun r =>
    ((ringMembersOf s r.seq.ringId).find? fun m => !isMember s m).getD 0
  match recs.findSome? fun r => seqFault s r.1 with
  | some d0 => some (0x12, d0, 0)
  | none =>
    if recs.any fun r => d.layer ≥ r.1.layers then some (0x12, blockField 0, 0)
    else if (recs.any fun r => r.2 ≥ r.1.groups) || rows.any fun r => r.head ≥ (seqPool s r.seq).group then some (0x12, condition, 0)
    else if modeOf c.slot.ctl = .legacy && pools.any (·.tag != 3) then some (0x12, 4, 0)
    else
      match broken, absentCore s d.coreFirst d.coreCount, narrow, pl.corrupt, pl.fault with
      | some m, _, _, _, _ => some (0x27, m, removalStep s m % 2 ^ 32)
      | none, some n, _, _, _ => some (0x22, 0, n)
      | none, none, some p, _, _ => some (0x20, p.tag, if d.minKey = 0 then 3 else if d.minKey = 1 then 0x14 else 0x16)
      | none, none, none, some a, _ => some (0x23, a, ueDetail s)
      | none, none, none, none, some d0 => some (0x12, d0, 0)
      | none, none, none, none, none => if wide then some (0x12, condition, 0) else none

/-- Pages held for every pool of a plan, or the pool that is short and by how much. -/
def holdAll (s : State) (need : List (Nat × Nat)) : Except (Nat × Nat) (State × List (Nat × List Nat)) :=
  need.foldl (fun (a : Except (Nat × Nat) (State × List (Nat × List Nat))) e =>
    match a with
    | .error x => .error x
    | .ok t =>
      match holdPages t.1 e.1 e.2 with
      | none => .error (e.1, e.2 - (poolFree t.1 e.1 e.2).length)
      | some h => .ok (h.1, mput t.2 e.1 h.2)) (.ok (s, []))

/-- Ranges of lines that a command names: queries, outputs, new keys and values; whether each lies in device memory. -/
def linesOk (s : State) (d : DecDesc) (rows : List DecRow) (apps : List DecAppend) : Option Nat :=
  let q := fun (r : DecRow) (base w : Nat) => rangeBad s (base + w * (seqPool s r.seq).headDim * r.line) (w * (seqPool s r.seq).headDim)
  let k := fun (a : DecAppend) (base : Nat) =>
    let n := 2 * (seqPool s a.seq).headDim
    rangeBad s (base + n * a.line) (n * (seqPool s a.seq).group)
  let bad := fun (off : Nat) (b : Bool) => if b then [blockField off] else []
  (bad 0x28 (rows.any fun r => q r d.queryBase 2) ++ bad 0x30 (rows.any fun r => q r d.outBase (if d.outFp32 then 4 else 2))
    ++ bad 0x38 (apps.any fun a => k a d.keyBase) ++ bad 0x40 (apps.any fun a => k a d.valueBase)).head?

/-- Stages 1 and 2 (R232): checks, reservation, appends. -/
def beginDecode (s : State) (c : HostCmd) (d : DecDesc) : State :=
  let rows := decRows s d
  let apps := decAppends s d
  let recs := dedup [] ((rows.map (·.seq)) ++ apps.map (·.seq))
  let pl := apps.foldl (planAppend s d) ⟨[], [], [], none, none⟩
  match decodeFault s c d rows apps pl, linesOk s d rows apps with
  | some f, _ => if f.1 = 0x23 then failUE s c f.2.1 else finish s c f.1 f.2.1 f.2.2
  | none, some d0 => refuse s c d0
  | none, none =>
    gated s c (decodeRanges s d rows apps) fun s =>
      poolGate s c (recs.map (·.pool)) fun s => gated s c (apps.flatMap fun a => tailRange s a.seq (listOf d a.seq a.group)) fun s =>
        match holdAll s pl.need with
        | .error e => failPool s c e.1 e.2
        | .ok h =>
          if (h.2.flatMap (·.2)).any (pageWaits h.1) then s
          else
          let r := apps.foldl (runAppend (ctlOf c) d) h
          let dies := rangeFrom (d.coreFirst / 32) ((d.coreFirst + d.coreCount - 1) / 32 + 1 - d.coreFirst / 32)
          let s1 := dies.foldl (fun t i => startDomain t (domAtt i)) (startDomain r.1 domKvp)
          attendDecode { s1 with decodes := s1.decodes ++ [⟨c, true, false, [], r.2.flatMap (·.2), [], [], decodeRings rows, []⟩] } c

/-- ATT_DECODE. Its block and arrays lie in device memory (R301). -/
def execAttDecode (c : HostCmd) (s : State) : Host.Outcome State Fault Refusal :=
  runCmd s 0x0121 c fun s =>
    match s.decodes.find? (·.cmd = c) with
    | some j => if j.own.isEmpty then attendDecode s c else finishDecode s j
    | none =>
      if rangeBad s c.slot.operand 128 then refuse s c 0x18
      else gated s c [(c.slot.operand, 128)] fun s =>
        let bs := devRead s c.slot.operand 128
        match decFault s bs with
        | some d0 => refuse s c d0
        | none =>
          let d := decDescOf bs
          gated s c [(d.rowBase, 16 * d.rows), (d.appendBase, 24 * d.appends)] fun s =>
            let addrs := ((List.range d.rows).map fun i => leNat (devRead s (d.rowBase + 16 * i) 8))
              ++ (List.range d.appends).map fun i => leNat (devRead s (d.appendBase + 24 * i) 8)
            if addrs.any fun a => rangeBad s a 64 then refuse s c condition
            else gated s c (addrs.map fun a => (a, 64)) fun s => beginDecode s c d

/-! ### PARCEL -/

/-- PARCEL: an attention parcel or returning partial, a hand-over of a ring pass, or the partials of a decode (R214, R215,
R235, R250). -/
def execParcel (h : MsgHdr) (pid : ParcelId) (items : List (List Byte)) (s : State) : Host.Outcome State Fault Refusal :=
  .next (receive (refuseParcel s h) h fun s =>
    let pass := s.col.jobs.any fun j => j.desc.operation = 6 && j.desc.ringId = h.ringId && j.desc.tensor = h.tensorId && j.cmd.slot.step = h.step
    if h.tensorId = 0xFFFF then takePartials s h pid items
    else if pass then takePiece s h 8 (.chunk items.flatten) else takeParcel s h pid items)

/-- What the page manager does with the decodes that a reset ends: pins dropped, held pages returned; the partials of other members are
kept for the reissued command (R236). -/
def abortDecodes (s : State) (hit : HostCmd → Bool) : State :=
  (s.decodes.filter fun j => hit j.cmd).foldl
    (fun t j => setCol (dropDecode t j) fun c => { c with early := c.early ++ j.heard }) s

/-- After device recovery every held page, and every live page without a reference, is free (R236). -/
def recoverPages (s : State) : State :=
  let s1 := setKvp s fun k => { k with pins := [] }
  (s1.kvp.entries.filter fun e => e.2.state = .held || (e.2.state = .live && e.2.refs = 0)).foldl (fun t e => freePage t e.1)
    { s1 with decodes := [] }

end Sys2Proof.Machine
end

