-- ==== Sys2Proof/Machine/Members.lean ====
section
/-! DEFINITION. Acknowledgements and rejects, and the membership of the class: losing a twin, removal and re-admission
(R41 to R43, R242, R244, R254 to R256). -/

namespace Sys2Proof.Machine

/-! ### ACKNOWLEDGEMENT and REJECT -/

/-- Commands that waited for an acknowledgement complete. -/
def settleAll (s : State) : State := settlePermute (settleCollectives (settleBackwards s))

/-- ACKNOWLEDGEMENT (R242). It carries no number of its own (DEDUCED, log 18). -/
def execAcknowledgement (h : MsgHdr) (stream : StreamKey) (dst upTo : Nat) (s : State) : Host.Outcome State Fault Refusal :=
  .next (if !h.crcOk || deaf s then s else settleAll (takeAck s stream dst upTo))

/-- The command that a message belongs to ends with LAYOUT_EPOCH_MISMATCH (R244). -/
def failOwner (s : State) (m : Msg) (held : Nat) : State :=
  let same := fun (c : HostCmd) => c.slot.step = m.hdr.step
  let e := m.hdr.layoutEpoch
  match m.hdr.kind with
  | 4 =>
    (match s.tables.lookups.find? fun lk => !lk.done && lk.table = m.hdr.tensorId && lk.step = m.hdr.step with
    | some lk => finish (dropLookup s lk) lk.cmd 0x21 e held
    | none => s)
  | 6 =>
    (match s.tables.backwards.find? fun b => b.1 = m.hdr.tensorId && b.2.1 = m.hdr.step with
    | some b => finish (dropBackward s b) b.2.2 0x21 e held
    | none => s)
  | _ =>
    match s.col.jobs.find? fun j => j.desc.ringId = m.hdr.ringId && j.desc.tensor = m.hdr.tensorId && same j.cmd,
        s.att.find? fun j => j.desc.ringId = m.hdr.ringId && j.desc.tensor = m.hdr.tensorId && same j.cmd,
        s.decodes.find? fun j => m.hdr.tensorId = 0xFFFF && same j.cmd with
    | some j, _, _ => failCol s j 0x21 e held
    | none, some j, _ => failAtt s j 0x21 e held
    | none, none, some j => finish (dropDecode s j) j.cmd 0x21 e held
    | none, none, none => s

/-- REJECT (R244): the message is not sent again. -/
def execReject (h : MsgHdr) (stream : StreamKey) (dst sequence held : Nat) (s : State) : Host.Outcome State Fault Refusal :=
  .next (
    let hit := fun (m : Msg) => streamOf m.hdr = stream && m.dst = dst && m.hdr.sequence = sequence
    if !h.crcOk || deaf s then s
    else
      match s.col.retry.find? hit with
      | none => s
      | some m => settleAll (failOwner (issueUnsent (setCol s fun c => { c with retry := c.retry.filter fun x => !hit x })) m held))

/-! ### Removal (R254) -/

/-- Rings that contain a module are broken. -/
def breakRings (m : Nat) (rs : List (Nat × Ring)) : List (Nat × Ring) :=
  rs.map fun e => (e.1, if e.2.members.contains m then { e.2 with broken := true } else e.2)

/-- Collective, attention and decode commands that wait on a module complete with MEMBER_LOST. -/
def endWaiters (s : State) (hit : List Nat → Bool) (lost step : Nat) : State :=
  let d1 := step % 2 ^ 32
  let s1 := (s.col.jobs.filter fun j => hit j.ring && !j.expect.isEmpty).foldl (fun t j => failCol t j 0x27 lost d1) s
  let s2 := (s1.att.filter fun j => hit j.ring).foldl (fun t j => failAtt t j 0x27 lost d1) s1
  (s2.decodes.filter fun j => j.rings.any fun r => hit (ringMembersOf s2 r)).foldl
    (fun t j => finish (dropDecode t j) j.cmd 0x27 lost d1) s2

/-- The items of routed commands that a lost module still owed an answer to end with MEMBER_LOST (R43, R254, R297). -/
def endRouted (s : State) (lost step : Nat) : State :=
  s.tables.routed.foldl (fun t r =>
    (r.owed.filter (· = lost)).foldl (fun u _ => match u.tables.routed.find? (·.tag = r.tag) with
      | some x => routedAnswer u x lost 0x27 lost (step % 2 ^ 32)
      | none => u) t) s

/-- Whether a message is a removal notice that names a module. -/
def isNotice (m : Msg) (lost : Nat) : Bool :=
  match m.body with
  | .removal l _ => l = lost
  | _ => false

/-- The kept parts of the class exchanges sent to the module that is next now. -/
def repassParts (s : State) : State :=
  match nextMember s with
  | none => s
  | some m => s.col.parts.foldl (fun t q => if partOrigin q.2 = m then t else send t m 0x0B 8 0x18 q.1 (.exchange q.2)) s

/-- A module leaves COL_MEMBERS, with the five effects of R254; a recess notice of it lapses (R350). -/
def removeMember (s : State) (lost step : Nat) : State :=
  if !isMember s lost then s
  else
    let wasNext := nextMember s = some lost
    let s1 := endRouted s lost step
    let s2 := setCol s1 fun c =>
      { c with members := c.members &&& ~~~((1 : W64) <<< lost), rings := breakRings lost c.rings, newRings := breakRings lost c.newRings }
    let s3 := endWaiters s2 (·.contains lost) lost step
    let keep := fun (m : Msg) => m.dst != lost || isNotice m lost || leftAfter s3 lost m.hdr.step
    let s4 := issueUnsent (setCol s3 fun c => { c with retry := c.retry.filter keep, unsent := c.unsent.filter keep })
    let s5 := post (if lost = twinOf s then setTwin s4 fun t => { t with twinRecess := false } else s4) .col 0 0x0108 [lost, step]
    let s6 := (s5.col.relays.filter fun r => r.waiting.contains lost).foldl
      (fun t r => settle t { r with waiting := r.waiting.filter (· != lost) }) s5
    advanceTables (retryLookups (settleAll (if wasNext then repassParts s6 else s6)) lost)

/-- A removal noted with its sender, for the rule of partitioned twins. -/
def noteRemoval (s : State) (lost step sender : Nat) : State :=
  setTwin s fun t => { t with removals := t.removals.filter (·.1 != lost) ++ [(lost, step, sender)] }

/-- A removal notice sent to every module, the lost one included, with its effect here (R254). -/
def sendRemoval (s : State) (lost : Nat) : State :=
  let r := s.job.openStep
  let s1 := sendAll s ((members s).filter (· != s.twin.number)) 0x0F 8 0x18 r (.removal lost r)
  removeMember (noteRemoval s1 lost r s.twin.number) lost r

/-! ### Losing the twin (R41, R43) -/

/-- Repairs given up: their records keep the survivor's copy, their hands are withdrawn (R38). -/
def abandonRepairs (s : State) : State :=
  s.twin.repairs.foldl (fun t r =>
    let t1 := (if r.closed then r.waiting else r.items).foldl (fun u a => post u .rel 0 0x0106 [a]) t
    match r.hand.bind fun q => t1.hif.hands.find? (·.seq = q) with
    | some h => withdraw t1 h
    | none => t1) (setTwin s fun t => { t with repairs := [] })

/-- The command that waits for an enrolment ends with a status: it was routed here by its accepting module (R43). -/
def answerAttach (s : State) (e : Enrolment) (st d0 d1 : Nat) : State :=
  match e.attach with
  | none => s
  | some a => sendAnswer s a.1 a.2 st d0 d1

/-- The twin declared lost: cause 1 heartbeat timeout, 2 its notice, 3 enrolment partner lost (R41, R43, R443). -/
def declareLost (s : State) (cause : Nat) : State :=
  let lost := twinOf s
  let s := setTwin s fun t => { t with twinRecess := false }
  let notice := fun (t : State) => if isMember t lost then sendRemoval t lost else t
  match s.twin.pair with
  | .paired =>
    let s1 := setTwin s fun t =>
      { t with pair := .sole, noticeSent := false, waits := t.waits.map fun w => { w with refused := true }
               held := t.held.filter fun m => match m.body with
                 | .digests _ _ => false
                 | _ => true }
    kickUpdates (notice (abandonRepairs (post s1 .rel 0 0x0102 [lost, cause, s.job.openStep])))
  | .enrollingSource =>
    let s1 := post (post (setTwin s fun t => { t with pair := .sole, enrolment := none }) .rel 0 0x0102 [lost, 3, s.job.openStep])
      .rel 0 0x0107 [lost, 1]
    notice (match s.twin.enrolment with
      | some e => answerAttach s1 e 0x27 lost (s.job.openStep % 2 ^ 32)
      | none => s1)
  | .enrollingTarget =>
    let s1 := post (post (setTwin s fun t => { t with pair := .detached, enrolment := none }) .rel 0 0x0102 [lost, 3, s.job.openStep])
      .rel 0 0x0107 [lost, 0]
    notice s1
  | _ => s

/-! ### REMOVAL_NOTICE and RE_ADMISSION_NOTICE -/

/-- A module that a notice names and that does not stand: DETACHED, its waiting commands ended (R254). -/
def leaveClass (s : State) (step : Nat) : State :=
  let me := s.twin.number
  let s1 := endWaiters (setTwin s fun t =>
    { t with pair := .detached, enrolment := none, waits := t.waits.map fun w => { w with refused := true } }) (fun _ => true) me step
  let keep := fun (m : Msg) => !([4, 5, 6, 7, 8, 0xA, 0xB].contains m.hdr.kind)
  let s2 := setCol s1 fun c =>
    { c with members := c.members &&& ~~~((1 : W64) <<< me), rings := breakRings me c.rings, newRings := breakRings me c.newRings
             retry := c.retry.filter keep, unsent := c.unsent.filter keep }
  abandonRepairs (post (issueUnsent s2) .col 0 0x0108 [me, step])

/-- The senior of two modules of a pair (R21). -/
def seniorOf (c : Nat) : Nat := if c / 4 % 2 = 0 then c else twinOfNumber c

/-- Whether two removals name both twins of a pair, each sent by the other. -/
def partitioned (s : State) (lost sender : Nat) : Bool :=
  sender = twinOfNumber lost && s.twin.removals.any fun r => r.1 = sender && r.2.2 = lost

/-- A removal notice taken (R254). -/
def takeRemoval (s : State) (lost step sender : Nat) : State :=
  let s1 := noteRemoval s lost step sender
  if lost = s.twin.number then
    (if senior s && sender = twinOf s && !s.twin.noticeSent then declareLost s1 1 else leaveClass s1 step)
  else if partitioned s lost sender then
    let sen := seniorOf lost
    if lost = sen then s1
    else
      let back := if isMember s1 sen then s1 else
        post (setCol s1 fun c => { c with members := c.members ||| ((1 : W64) <<< sen) }) .col 0 0x0109 [sen, s1.job.openStep]
      removeMember back lost step
  else
    let s2 := removeMember s1 lost step
    if lost = sender && lost = twinOf s && s.twin.pair = .paired then
      abandonRepairs (setTwin s2 fun t => { t with pair := .sole, waits := t.waits.map fun w => { w with refused := true } })
    else s2

/-- A notice that takes effect at a step this module has not opened yet is kept until then (R40, R256). -/
def holdNotice (s : State) (h : MsgHdr) (b : Body) : State := setTwin s fun t => { t with held := t.held ++ [{ dst := t.number, hdr := h, body := b }] }

/-- A re-admission taken (R256). -/
def takeReadmission (s : State) (target step : Nat) : State :=
  let s1 := setCol s fun c => { c with members := c.members ||| ((1 : W64) <<< target) }
  let s2 := setTwin s1 fun t =>
    { t with removals := t.removals.filter (·.1 != target)
             pair := if target = t.number then .paired else t.pair
             noticeSent := if target = t.number then false else t.noticeSent
             enrolment := if target = t.number then none else t.enrolment
             digestsOff := if target = t.number then false else t.digestsOff }
  post s2 .col 0 0x0109 [target, step]

/-- RE_ADMISSION_NOTICE. The module re-admitted waits for the end-of-step mark of the step before (R43). -/
def execReAdmissionNotice (h : MsgHdr) (target step : Nat) (s : State) : Host.Outcome State Fault Refusal :=
  .next (receive s h fun s =>
    if target != s.twin.number then
      (if s.job.running && s.job.openStep < step then holdNotice s h (.readmission target step) else takeReadmission s target step)
    else if s.twin.pair = .enrollingTarget && !(s.twin.endMark.any fun k => step ≤ k + 1) then
      holdNotice s h (.readmission target step)
    else kickUpdates (takeReadmission s target step))

/-- Held notices whose step is open now. -/
def releaseNotices (s : State) : State :=
  let due := fun (m : Msg) => match m.body with
    | .removal _ st => st ≤ s.job.openStep
    | .readmission c st => c != s.twin.number && st ≤ s.job.openStep
    | _ => false
  (s.twin.held.filter due).foldl (fun t m => match m.body with
    | .removal l st => takeRemoval t l st m.hdr.srcClass
    | .readmission c st => takeReadmission t c st
    | _ => t) (setTwin s fun t => { t with held := t.held.filter fun m => !due m })

end Sys2Proof.Machine
end

