-- ==== Sys2Proof/Machine/Twin.lean ====
section
/-! DEFINITION. The twin of a module: items of twinned state, digests, repair, served copies, heartbeats, enrolment, detach
and attach (R34 to R45, R130, R191). -/

namespace Sys2Proof.Machine

/-! ### Items of twinned state -/

/-- How an item is checked: by a check word, as a tile, as a state tile with the body that its optimiser has (R175), or not at
all. -/
inductive ItemCheck where
  | none
  | word (addr : Nat) (bytes : Nat)
  | tile
  | stateTile (body : Nat)
  deriving DecidableEq, Repr

/-- A record, tile, factor array or scaling record of twinned state on this module. -/
structure TwinItem where
  addr : Nat
  len : Nat
  check : ItemCheck
  deriving DecidableEq, Repr

/-- Records and factors of a twinned table that this module holds. -/
def tableItems (s : State) (d : TableDesc) : List TwinItem :=
  let slots := [0] ++ (if d.slot1 = 0 then [] else [1])
  let recs := ((List.range d.shards).filter fun k => holdsRows s d (ownerOf d k)).flatMap fun k =>
    slots.flatMap fun v => (List.range d.rows).map fun r =>
      let key : RowKey := ⟨k, r⟩
      (⟨recordAddr d v key, d.stride, .word (checkAddr d v key) (recordLength d)⟩ : TwinItem)
  if d.aux = 0 then recs else recs ++ [⟨d.aux, 4 * (d.elements + 1), .none⟩]

/-- Bytes of the body of a state tile (R175). -/
def stateBody (d : ShardDesc) : Nat :=
  match d.optimiser with
  | 2 => 2 * 16384 * momentSize d.momentFp32
  | 3 => 2 * 16384 * momentSize d.momentFp32
  | 5 => 512
  | 6 => 1024
  | _ => 16384 * momentSize d.momentFp32

/-- Tiles of a twinned shard. -/
def shardItems (d : ShardDesc) : List TwinItem :=
  (List.range d.tiles).flatMap fun i =>
    ⟨d.weightBase + i * d.weightStride, d.weightStride, .tile⟩ ::
      (if d.optimiser = 0 then [] else [⟨d.stateBase + i * d.stateStride, d.stateStride, .stateTile (stateBody d)⟩])

/-- Every item of twinned state of this module. -/
def twinItems (s : State) : List TwinItem :=
  ((s.tables.descs.filter (·.2.twinned)).flatMap fun e => tableItems s e.2)
    ++ ((s.tables.shards.filter (·.2.twinned)).flatMap fun e => shardItems e.2)
    ++ s.scaling.map fun e => ⟨scaleAddr s.part e.1, 32, .none⟩

def findItem (s : State) (a : Nat) : Option TwinItem := (twinItems s).find? (·.addr = a)

/-- The tensor whose scaling record stands at an address. -/
def scaleAt (s : State) (a : Nat) : Option (Nat × ScaleRec) := s.scaling.find? fun e => scaleAddr s.part e.1 = a

/-- A range as it lies in memory, the scaling array from its records. -/
def twinRead (s : State) (a n : Nat) : List Byte :=
  if a + n ≤ scaleAddr s.part 0 then devRead s a n
  else
    (List.range n).map fun i =>
      let x := a + i
      match s.scaling.find? fun e => scaleAddr s.part e.1 ≤ x && x < scaleAddr s.part e.1 + 32 with
      | some e => (scaleBytes e.1 e.2).getD (x - scaleAddr s.part e.1) 0
      | none => readByte s.mem x

def itemBytes (s : State) (it : TwinItem) : List Byte := twinRead s it.addr it.len

def checkWordOf (s : State) (it : TwinItem) : Nat × Nat :=
  match it.check with
  | .word a _ => (a, leNat (devRead s a 4))
  | _ => (0, 0)

/-- Whether an item can be read and passes its check (R36 step 2). -/
def itemOk (s : State) (it : TwinItem) : Bool :=
  (badSector s it.addr it.len).isNone &&
    match it.check with
    | .none => true
    | .word a n => (badSector s a 4).isNone && leNat (devRead s a 4) = crc32c (devRead s it.addr n)
    | .tile =>
      let bs := devRead s it.addr it.len
      match checkTile (bs.take 64) (bs.drop 64) (some (Config.reservedBase s.part - it.addr)) s.job.layoutEpoch with
      | .ok => true
      | _ => false
    | .stateTile n =>
      let bs := devRead s it.addr it.len
      leAt bs 0x3C 4 = crc32c (bs.take 60) && leAt bs 0x14 4 = n && leAt bs 0x18 4 = crc32c ((bs.drop 64).take n)
        && leAt bs 6 2 = s.job.layoutEpoch && bitsOf (leAt bs 1 1) 0 3 = 6

/-- A scaling record from its bytes; what the bytes do not hold stays. -/
def scaleFrom (r : ScaleRec) (bs : List Byte) : ScaleRec :=
  { r with p := signedOf 8 (leAt bs 2 1), count := leAt bs 3 1, lift := leAt bs 4 1, step := leAt bs 8 8
           hist := (List.range 16).map fun i => signedOf 8 (leAt bs (16 + i) 1) }

/-- A copy of the twin written over an item. -/
def putItem (s : State) (x : StoredItem) : State :=
  match scaleAt s x.addr with
  | some e => mark (healScale { s with scaling := mput s.scaling e.1 (scaleFrom e.2 x.bytes) } e.1) x.addr 32
  | none =>
    let s1 := devWrite s x.addr x.bytes
    let s2 := if x.checkAddr = 0 then s1 else devWrite s1 x.checkAddr (leBytes 4 x.checkWord)
    setTables s2 fun t => { t with torn := t.torn.filter (· != x.addr) }

def storedOf (s : State) (it : TwinItem) : StoredItem := ⟨it.addr, itemBytes s it, (checkWordOf s it).1, (checkWordOf s it).2⟩

/-! ### Digests (R34, R35) -/

def segmentHashes (s : State) (seg : Nat) : List Nat :=
  (List.range 4096).map fun g => granuleHash g (twinRead s (seg * 2 ^ 20 + 256 * g) 256)

def segmentDigest (s : State) (seg : Nat) : Nat := (segmentHashes s seg).foldl (· ^^^ ·) 0

/-- The partial digests of a segment as its memory controllers compute them from memory (R35), by key. -/
def freshPartials (s : State) (seg : Nat) : List (Nat × Nat) :=
  (segmentHashes s seg).zipIdx.foldl (fun ps q =>
    let k := 16 * seg + memOf s.part (seg * 2 ^ 20 + 256 * q.2)
    mput ps k (((mget ps k).getD 0) ^^^ q.1)) []

/-- The segment of a partial digest. -/
def partialsOf (s : State) (seg : Nat) : List (Nat × Nat) := s.twin.partials.filter fun e => e.1 / 16 = seg

/-- The XOR of partial digests: the digest of their segment. -/
def xorPartials (ps : List (Nat × Nat)) : Nat := ps.foldl (fun x e => x ^^^ e.2) 0

/-- Partial digests of a segment maintained from now on: those of memory where none were. -/
def keepPartials (s : State) (seg : Nat) : State :=
  if (partialsOf s seg).isEmpty then
    { s with twin := { s.twin with partials := (freshPartials s seg).foldl (fun ps e => mput ps e.1 e.2) s.twin.partials } }
  else s

/-- The rotation's turn at a segment: memory is the authority (R35 step 4). The answer says whether the maintained digest differed. -/
def rotateSegment (s : State) (seg : Nat) : State × Bool :=
  let new := freshPartials s seg
  let others := s.twin.partials.filter fun e => e.1 / 16 != seg
  let s1 := { s with twin := { s.twin with partials := new.foldl (fun ps e => mput ps e.1 e.2) others } }
  (s1, xorPartials new != xorPartials (partialsOf s seg))

/-- Segments whose digests a step recomputes (R35 step 4). -/
def rotationCount (s : State) : Nat :=
  let n := match field s .rel 0 0x100 0 2 with
    | 0 => 0 | 1 => 1 | 2 => 4 | _ => 16
  n * Config.memDevices s.part

/-- Digest traffic runs: PAIRED, and not suspended by an enrolment (R43). -/
def digesting (s : State) : Bool := paired s && !s.twin.digestsOff

/-! ### Repair (R36 to R38) -/

/-- Whether the pair repairs in host-assisted mode: bit 0 of the senior's BLK_MODE (R38). -/
def assisted (s : State) : Bool := senior s && field s .rel 0 0x10 0 1 = 1

def repairOf (s : State) (key : Nat) : Option Repair := s.twin.repairs.find? (·.key = key)

def setRepair (s : State) (r : Repair) : State :=
  setTwin s fun t => { t with repairs := t.repairs.map fun x => if x.key = r.key then r else x }

def dropRepair (s : State) (key : Nat) : State := setTwin s fun t => { t with repairs := t.repairs.filter (·.key != key) }

def newRepair (key step : Nat) (mine : Bool) (sent : List Nat) : Repair :=
  ⟨key, step, mine, sent, none, 0, false, 0, false, [], [], [], [], none⟩

/-- A mismatched segment: its granule hashes are sent (R36 step 1). -/
def openRepair (s : State) (seg step : Nat) (mine : Bool) : State :=
  let hs := segmentHashes s seg
  sendTwin (setTwin s fun t => { t with repairs := t.repairs ++ [newRepair (seg * 2 ^ 20) step mine hs] })
    (.granuleHashes (seg * 2 ^ 20) step hs)

/-- Granules of a segment whose hashes differ. -/
def differing (a b : List Nat) : List Nat := ((a.zip b).zipIdx.filter fun q => q.1.1 != q.1.2).map (·.2)

/-- Items that overlap the granules of a segment, by their bytes or their check words. -/
def itemsIn (s : State) (base : Nat) (gs : List Nat) : List Nat :=
  let hit := fun (a n : Nat) => gs.any fun g => overlaps a n (base + 256 * g) 256
  ((twinItems s).filter fun it => hit it.addr it.len || match it.check with
    | .word a _ => hit a 4
    | _ => false).map (·.addr)

/-- The repair step proposed: the open step plus 2 (R37). -/
def proposeStep (s : State) (r : Repair) : State :=
  let u := s.job.openStep + 2
  sendTwin (setRepair s { r with u := max r.u u }) (.repairStep r.key u false r.act)

/-- The record of an address with its table, slot and key. -/
def recordOf (s : State) (a : Nat) : Option (TableDesc × Nat × RowKey) :=
  s.tables.descs.findSome? fun e =>
    let d := e.2
    (([0] ++ (if d.slot1 = 0 then [] else [1])).flatMap fun v =>
      (List.range d.shards).flatMap fun k => (List.range d.rows).map fun r => (d, v, (⟨k, r⟩ : RowKey))).find? fun q =>
        holdsRows s d (ownerOf d q.2.2.shard) && recordAddr d q.2.1 q.2.2 = a

/-- The tile pair that a tile's address belongs to. -/
def pairOf (s : State) (a : Nat) : Option (ShardDesc × Nat) :=
  s.tables.shards.findSome? fun e =>
    ((List.range e.2.tiles).find? fun i => e.2.weightBase + i * e.2.weightStride = a
      || (e.2.optimiser != 0 && e.2.stateBase + i * e.2.stateStride = a)).map fun i => (e.2, i)

/-- The repair of a torn record or tile pair that runs before the check of R36 (R190). -/
def mendItem (s : State) (a : Nat) : Ready :=
  match recordOf s a, pairOf s a with
  | some (d, v, key), _ =>
    let t := finishOpen s a
    let bs := devRead t a d.stride
    if stillOpen t a then .wait t
    else if (badSector t a d.stride).isNone && headOk bs && momentStamp bs != weightStamp d bs && !t.tables.torn.contains a
      then repairTorn t d v key bs
    else .ok t bs
  | none, some (d, i) =>
    let wa := d.weightBase + i * d.weightStride
    let t := finishOpen s wa
    if stillOpen t wa then .wait t
    else if (badSector t wa 64).isNone && (badSector t (d.stateBase + i * d.stateStride) 64).isNone && pairTorn t d i
        && !t.tables.torn.contains wa then mendTile t d i
    else .ok t []
  | none, none => .ok s []

/-- The state that a repair of an item leaves. -/
def Ready.state : Ready → State
  | .ok s _ => s
  | .wait s => s
  | .gone s _ => s

/-- Both sets of hashes are here: the items are found, and the module that detected the mismatch proposes a step. -/
def matchHashes (s : State) (r : Repair) (theirs : List Nat) : State :=
  let items := itemsIn s r.key (differing r.sent theirs)
  let r1 := { r with got := some theirs, items := items }
  if items.isEmpty then dropRepair s r.key
  else if r.mine then proposeStep (setRepair s r1) r1 else setRepair s r1

/-- Received digests against the snapshot of their step; the twin's digests come in order of steps, so no snapshot up to it is
needed any more. -/
def compareDigests (s : State) (step : Nat) (ds : List (Nat × Nat)) : State :=
  let s0 := setTwin s fun t => { t with snapshots := t.snapshots.filter fun e => e.1 > step }
  match mget s.twin.snapshots step with
  | none => s0
  | some snap =>
    ds.foldl (fun t e =>
      match mget snap (e.1 / 2 ^ 20) with
      | none => t
      | some own => if own = e.2 || (repairOf t e.1).isSome then t else openRepair t (e.1 / 2 ^ 20) step true) s0

/-- Digests of a step that this module has closed now. -/
def takeHeldDigests (s : State) (step : Nat) : State :=
  (s.twin.held.filter fun m => match m.body with
    | .digests st _ => st = step
    | _ => false).foldl (fun t m => match m.body with
      | .digests st ds => compareDigests t st ds
      | _ => t) (setTwin s fun t => { t with held := t.held.filter fun m => match m.body with
        | .digests st _ => st != step
        | _ => true })

/-- The digest of a segment: the XOR of its maintained partials; the scaling array's from its records. -/
def keptDigest (s : State) (seg : Nat) : Nat :=
  if seg * 2 ^ 20 ≥ Config.reservedBase s.part then segmentDigest s seg else xorPartials (partialsOf s seg)

/-- The segments of a rotation recomputed; those whose maintained digest differed come with the state. -/
def rotate (s : State) (segs : List Nat) : State × List Nat :=
  segs.foldl (fun (q : State × List Nat) g =>
    let r := rotateSegment q.1 g
    (r.1, if r.2 then q.2 ++ [g] else q.2)) (s, [])

/-- The digest work of a step that closes: digests of the segments written and of the rotation sent, a snapshot kept until the twin's
of the step have come, and a mismatch within the module taken to R36 (R35). The scaling array is written at every step; it takes
part once the exchanges of earlier steps are done (DEDUCED, log 51). -/
def closeDigests (s : State) (step : Nat) : State :=
  if !digesting s then setTwin s fun t => { t with dirty := [], snapshots := [], partials := [] }
  else
    let low := fun (g : Nat) => g * 2 ^ 20 < Config.reservedBase s.part
    let segs := (twinSegments s).filter fun g => low g || s.job.exchangesDue.isEmpty
    let n := min (rotationCount s) segs.length
    let rot := (List.range n).map fun i => segs.getD ((s.twin.rotation + i) % max segs.length 1) 0
    let s1 := (segs.filter low).foldl keepPartials (setTwin s fun t =>
      { t with partials := t.partials.filter fun e => segs.contains (e.1 / 16) })
    let r := rotate s1 (rot.filter low)
    let snap := segs.map fun g => (g, keptDigest r.1 g)
    let out := (snap.filter fun e => s.twin.dirty.contains e.1 || rot.contains e.1 || !low e.1).map fun e => (e.1 * 2 ^ 20, e.2)
    let s2 := setTwin r.1 fun t =>
      { t with dirty := [], rotation := (t.rotation + n) % max segs.length 1, snapshots := mput t.snapshots step snap }
    let s3 := sendTwin s2 (.digests step out)
    takeHeldDigests (r.2.foldl (fun t g => if (repairOf t (g * 2 ^ 20)).isSome then t else openRepair t g step true) s3) step

/-- DIGEST (R35): compared with the own snapshot of the step, which a module that is behind still has to take. -/
def execDigest (h : MsgHdr) (step : Nat) (ds : List (Nat × Nat)) (s : State) : Host.Outcome State Fault Refusal :=
  .next (receive s h fun s =>
    if !digesting s then s
    else if step ≥ s.job.openStep then setTwin s fun t => { t with held := t.held ++ [{ dst := t.number, hdr := h, body := .digests step ds }] }
    else compareDigests s step ds)

/-- GRANULE_HASHES (R36 step 1): answered with the own ones where this module has not sent them. -/
def execGranuleHashes (h : MsgHdr) (segment step : Nat) (hashes : List Nat) (s : State) : Host.Outcome State Fault Refusal :=
  .next (receive s h fun s =>
    if !paired s then s
    else
      let t := if (repairOf s segment).isSome then s else openRepair s (segment / 2 ^ 20) step false
      match repairOf t segment with
      | none => t
      | some r => if r.got.isSome then t else matchHashes t r hashes)

/-- An item repaired at a step of R37 by itself: one found by scrub, or one its twin could not serve (R129, R130). -/
def repairItem (s : State) (a : Nat) : State :=
  if (repairOf s a).isSome || !paired s then s
  else
    let r := { newRepair a s.job.openStep true [] with items := [a], got := some [] }
    proposeStep (setTwin s fun t => { t with repairs := t.repairs ++ [r] }) r

/-- REPAIR_STEP_PROPOSAL and its answer (R37): both twins use the larger step. act 1 and 2 carry the host's choice of R38;
3 ends a repair whose copies stay as they are. -/
def execRepairStepProposal (h : MsgHdr) (addr u : Nat) (isAnswer : Bool) (act : Nat) (s : State) : Host.Outcome State Fault Refusal :=
  .next (receive s h fun s =>
    if !paired s then s
    else if act = 3 then dropRepair s addr
    else
      let s1 := if (repairOf s addr).isSome || isAnswer then s else
        setTwin s fun t => { t with repairs := t.repairs ++ [{ newRepair addr s.job.openStep false [] with items := [addr], got := some [] }] }
      match repairOf s1 addr with
      | none => s1
      | some r =>
        let v := if isAnswer then max r.u u else max (max r.u u) (s1.job.openStep + 2)
        let s2 := setRepair s1 { r with u := v, agreed := true, act := max r.act act }
        if isAnswer then s2 else sendTwin s2 (.repairStep addr v true act))

/-- Whether this side offers its copy of divergent items: the senior in hardware mode, else the side the host named. -/
def offers (s : State) (r : Repair) : Bool :=
  if senior s then r.act = 1 || (r.act = 0 && !assisted s) else r.act = 2

/-- Lowest differing bit and number of differing bits of two byte strings. -/
def bitDiff (a b : List Byte) : Nat × Nat :=
  let ds := (a.zip b).zipIdx.flatMap fun q =>
    (List.range 8).filterMap fun i => if q.1.1.getLsbD i != q.1.2.getLsbD i then some (8 * q.2 + i) else none
  (ds.headD 0, ds.length)

/-- TWIN_DIVERGENT posted and, with a copy, counted. -/
def postDivergent (s : State) (a : Nat) (d : Nat × Nat) (u : Nat) (copied : Bool) : State :=
  let s1 := post s .rel 0 0x0105 [a, d.1, d.2, u]
  if copied then bump s1 .rel 0 0x108 16 16 1 else s1

/-- Every item of a repair has been compared: it ends, or waits for the host's choice on its divergent items (R38). -/
def endRepair (s : State) (r : Repair) : State :=
  if !r.waiting.isEmpty then setRepair s r
  else if r.divergent.isEmpty then dropRepair s r.key
  else
    let r1 := { r with items := r.divergent.map (·.1), agreed := false, closed := false, u := 0 }
    if senior s then
      raise (setRepair s { r1 with hand := some s.hif.handSeq }) .rel 0 0
        [r.key, r.step, (differing r.sent (r.got.getD [])).length, r.divergent.length]
    else setRepair s r1

/-- Sectors of an item that no twin can serve from now on (R36 step 4). -/
def loseItem (s : State) (it : TwinItem) : State :=
  let ss := (rangeFrom (it.addr / 64) ((it.addr + it.len + 63) / 64 - it.addr / 64)).map (· * 64)
  setGddr s fun g => { g with badSectors := ss.foldl insertNat g.badSectors, unserved := ss.foldl insertNat g.unserved }

/-- The twin's copy of an item against the own one at the repair step (R36 steps 3 to 5). In hardware mode the target of a copy, the
junior, posts TWIN_DIVERGENT and counts it; R38 names the senior for host-assisted mode (DESIGN CHOICE, log 87). -/
def compareCopy (s : State) (r : Repair) (x : StoredItem) (ok offered : Bool) : State :=
  let r1 := { r with waiting := r.waiting.filter (· != x.addr) }
  match findItem s x.addr with
  | none => endRepair s r1
  | some it =>
    let own := itemOk s it
    let mine := itemBytes s it
    let d := bitDiff mine x.bytes
    if !own && ok then endRepair (bump (post (putItem s x) .rel 0 0x0103 [x.addr, r.u]) .rel 0 0x108 0 16 1) r1
    else if !own && !ok then endRepair (post (loseItem s it) .rel 0 0x0104 [x.addr, r.u]) r1
    else if own && !ok then endRepair s r1
    else if mine = x.bytes then endRepair s r1
    else if offered then
      let s1 := putItem s x
      endRepair (if r.act = 0 || senior s then postDivergent s1 x.addr d r.u true else s1) r1
    else if offers s r then endRepair (if r.act != 0 && senior s then postDivergent s x.addr d r.u true else s) r1
    else endRepair s { r1 with divergent := r1.divergent ++ [(x.addr, d.1, d.2)] }

/-- The repair that a copy of an item belongs to, once this side has sent its own. -/
def repairFor (s : State) (a : Nat) : Option Repair :=
  s.twin.repairs.find? fun r => r.closed && r.waiting.contains a && r.offered.contains a

/-- Copies that arrived before this module had closed the repair step, or had sent its own copy. -/
def takeHeldCopies (s : State) : State :=
  let isCopy := fun (m : Msg) => match m.body with
    | .repairCopy _ _ _ => true
    | _ => false
  (s.twin.held.filter isCopy).foldl (fun t m =>
    match m.body with
    | .repairCopy x ok off =>
      (match repairFor t x.addr with
      | some r => compareCopy t r x ok off
      | none => setTwin t fun w => { w with held := w.held ++ [m] })
    | _ => t) (setTwin s fun t => { t with held := t.held.filter fun m => !isCopy m })

/-- An item of a repair whose step has closed: torn records are repaired first, then its copy is sent with the outcome of its check
(R36 step 2, R37 step 4, R190). One that waits for the twin's own copy of a torn record is sent once that has come. -/
def offerItem (s : State) (key a : Nat) : State :=
  match repairOf s key with
  | none => s
  | some r =>
    if !r.closed || r.offered.contains a || !r.waiting.contains a then s
    else
      match mendItem s a with
      | .wait t => t
      | m =>
        let t := m.state
        let t1 := match repairOf t key with
          | some x => setRepair t { x with offered := x.offered ++ [a] }
          | none => t
        match findItem t1 a with
        | none => t1
        | some it => sendTwin t1 (.repairCopy (storedOf t1 it) (itemOk t1 it) (offers t1 r))

/-- Every item of the repairs whose step has closed that can be offered now. -/
def offerItems (s : State) : State :=
  takeHeldCopies ((s.twin.repairs.filter (·.closed)).foldl (fun t r => r.items.foldl (fun u a => offerItem u r.key a) t) s)

/-- Repairs whose step has closed: every item's copy is sent, and messages for the items are held (R37 steps 3 and 4). -/
def closeRepairs (s : State) (closed : Nat) : State :=
  offerItems ((s.twin.repairs.filter fun r => r.agreed && !r.closed && r.u ≤ closed).foldl (fun t r =>
    setRepair t { r with closed := true, waiting := r.items, offered := [], divergent := [] }) s)

/-- REPAIR_COPY. -/
def execRepairCopy (h : MsgHdr) (item : StoredItem) (ok offered : Bool) (s : State) : Host.Outcome State Fault Refusal :=
  .next (receive s h fun s =>
    match repairFor s item.addr with
    | some r => kickUpdates (compareCopy s r item ok offered)
    | none => if paired s then setTwin s fun t => { t with held := t.held ++ [{ dst := t.number, hdr := h, body := .repairCopy item ok offered }] } else s)

/-- The host's choice on a standing twin-repair hand (R38): none for a reserved value. -/
def answerTwin (s : State) (hnd : Hand) (v : Nat) : Option State :=
  match s.twin.repairs.find? fun r => r.hand = some hnd.seq with
  | none => if v < 3 then some s else none
  | some r =>
    let r1 := { r with hand := none, divergent := [] }
    match v with
    | 0 => some (proposeStep (setRepair s { r1 with act := 1 }) { r1 with act := 1 })
    | 1 => some (proposeStep (setRepair s { r1 with act := 2 }) { r1 with act := 2 })
    | 2 =>
      let s1 := r.divergent.foldl (fun t d => postDivergent t d.1 d.2 (2 ^ 64 - 1) false) s
      some (sendTwin (dropRepair s1 r.key) (.repairStep r.key 0 false 3))
    | _ => none

/-! ### Copies served to the twin (R130, R191) -/

/-- The step whose update an item carries, from its weight stamp; none for an item without one. -/
def itemStep (s : State) (it : TwinItem) : Option Nat :=
  match it.check with
  | .word _ n => some (stepOfStamp s (leAt (devRead s it.addr it.len) (n - 4) 3))
  | .tile => some (stepOfStamp s (leAt (devRead s it.addr 64) 0xC 3))
  | .stateTile _ => some (stepOfStamp s (leAt (devRead s it.addr 64) 0xC 3))
  | .none => none

/-- The address under which the update of an item is open between its writes: a state tile's is its weight tile's. -/
def openAddr (s : State) (a : Nat) : Nat :=
  match pairOf s a with
  | some (d, i) => d.weightBase + i * d.weightStride
  | none => a

/-- Whether the two stamps of an item differ: it cannot serve its twin (R191, R195). -/
def itemTorn (s : State) (a : Nat) : Bool :=
  match recordOf s a, pairOf s a with
  | some (d, _, _), _ =>
    let bs := devRead s a d.stride
    headOk bs && momentStamp bs != weightStamp d bs
  | none, some (d, i) => pairTorn s d i
  | none, none => false

/-- TWIN_SERVE_REQUEST: the copy, the module's own result of the same message, or a refusal, which is an empty copy. An update that
is between its two writes is finished first, so what is sent is whole. -/
def execTwinServeRequest (h : MsgHdr) (addr bytes step : Nat) (byUpdate : Bool) (s : State) : Host.Outcome State Fault Refusal :=
  .next (receive s h fun s =>
    let s := finishOpen s (openAddr s addr)
    let it := (findItem s addr).getD ⟨addr, bytes, .none⟩
    let no := sendTwin s (.servedCopy ⟨addr, [], 0, 0⟩ false)
    if !paired s || itemTorn s addr || !itemOk s it then no
    else
      match itemStep s it with
      | none => sendTwin s (.servedCopy (storedOf s it) false)
      | some st =>
        if st < step then sendTwin s (.servedCopy (storedOf s it) false)
        else if st = step && byUpdate then sendTwin s (.servedCopy (storedOf s it) true)
        else no)

/-- Waiting updates of an item that the twin's own result settles (R130). -/
def settleOwn (s : State) (a : Nat) : State :=
  let rowHere := fun (pr : PendRow) => match tableAt s pr.table with
    | some d => recordAddr d 0 pr.key = a || recordAddr d 1 pr.key = a
    | none => false
  let tileHere := fun (t : PendTile) => match mget s.tables.shards t.hdr.tensorId with
    | some d => (findTile s d t.line t.depth).any fun i => pairOf s a = some (d, i) && !pairTorn s d i
    | none => false
  let done' := s.tables.pendTiles.filter tileHere
  done'.foldl (fun t p => countTile t p.hdr.step) (setTables s fun t =>
    { t with pendRows := t.pendRows.filter fun p => !rowHere p, pendTiles := t.pendTiles.filter fun p => !tileHere p })

/-- SERVED_COPY: written, posted, and what waited for it goes on; a refused item is repaired at a repair step. -/
def execServedCopy (h : MsgHdr) (item : StoredItem) (ownResult : Bool) (s : State) : Host.Outcome State Fault Refusal :=
  .next (receive s h fun s =>
    match s.twin.waits.find? (·.addr = item.addr) with
    | none => s
    | some w =>
      if item.bytes.isEmpty then
        let s1 := setTwin s fun t => { t with waits := t.waits.map fun x => if x.addr = w.addr then { x with refused := true } else x }
        kickUpdates (offerItems (if w.torn then s1 else repairItem s1 w.addr))
      else
        let sector := (badSector s w.addr w.bytes).getD (sectorOf w.addr)
        let u := memOf s.part w.addr
        let s1 := setTwin (putItem s item) fun t => { t with waits := t.waits.filter (·.addr != w.addr) }
        let s2 := if w.torn then post (bump s1 .upd u 0x11C 10 10 1) .upd u 0x0300 [w.addr, 2]
          else post s1 .mem (memOf s.part sector) 0x0201 [sector]
        kickUpdates (offerItems (if ownResult then settleOwn s2 w.addr else s2)))

/-! ### Heartbeats and notices (R41) -/

/-- TWIN_HEARTBEAT: the sender of timer rows restarts its count (R41). -/
def execTwinHeartbeat (h : MsgHdr) (s : State) : Host.Outcome State Fault Refusal := .next (receive s h id)

/-- HEARTBEAT_SEND: none to a twin whose recess notice stands (R345). -/
def execHeartbeatSend (s : State) : Host.Outcome State Fault Refusal :=
  .next (if !inClass s || s.pwr.recess || s.twin.twinRecess || deaf s then s else sendTwin s .heartbeat)

/-- TWIN_LOSS_TIMEOUT: nothing heard for LOSS_TIMEOUT; a twin in recess is not lost (R347). -/
def execTwinLossTimeout (s : State) : Host.Outcome State Fault Refusal :=
  .next (if s.twin.twinRecess || deaf s then s else declareLost s 1)

/-- RECOVERY_NOTICE: the twin is lost; a module in recovery itself only takes note of it (R362, R365). -/
def execRecoveryNotice (h : MsgHdr) (state : PairState) (channelLost : Bool) (s : State) : Host.Outcome State Fault Refusal :=
  .next (if s.rel.recovery != 0 then
      (if h.crcOk && !channelLost then setTwin s fun t => { t with notedRecovery := some state } else s)
    else receive s h fun s => declareLost s 2)

/-- REMOVAL_NOTICE; that of a leaving module waits for its step (R40), and a module in recovery only takes note (R362). -/
def execRemovalNotice (h : MsgHdr) (lost step : Nat) (s : State) : Host.Outcome State Fault Refusal :=
  .next (if s.rel.recovery != 0 then
      (if h.crcOk && lost = s.twin.number then setTwin s fun t => { t with notedRemoval := true } else s)
    else receive s h fun s =>
      if lost = h.srcClass && s.job.running && s.job.openStep < step then holdNotice s h (.removal lost step)
      else takeRemoval s lost step h.srcClass)

/-! ### Enrolment (R43, R45) -/

/-- ENROLMENT_START: a DETACHED module whose channels are all in service begins (R42, R394). -/
def execEnrolmentStart (s : State) : Host.Outcome State Fault Refusal :=
  .next (if s.twin.pair != .detached || !(deadChannels s).isEmpty || deaf s then s
    else sendTwin (setTwin s fun t =>
      { t with pair := .enrollingTarget, endMark := none, enrolment := some ⟨twinOf s, 0, false, none, none⟩ }) .enrolRequest)

/-- The job state that a source sends (R45 step 3). -/
def jobStateOf (s : State) : JobStateMsg :=
  ⟨if s.job.running then s.job.number else 0, s.job.layoutEpoch, s.job.openStep, s.col.members, s.tables.descs, s.tables.factors,
   s.tables.shards, s.tables.params, s.col.rings, s.scaling, s.outliers, s.col.marks⟩

/-- A twinned segment as it stands: its listed bytes, without those of uncorrectable sectors. -/
def segmentMsg (s : State) (seg : Nat) : Body :=
  let base := seg * 2 ^ 20
  .segment base (2 ^ 20) ((memSlice s.mem base (2 ^ 20)).filter fun c => (badSector s (base + c.1) 1).isNone) [] none

/-- Every twinned segment below the reserved region, in address order. -/
def copySegments (s : State) (segs : List Nat) : State :=
  (segs.filter fun g => g * 2 ^ 20 < Config.reservedBase s.part).foldl (fun t g => sendTwin t (segmentMsg t g)) s

/-- The source's side begun: digests suspended, the copy sent, the cut-over step fixed (R43 steps 1 to 3). -/
def startSource (s : State) (attach : Option (Nat × Nat)) : State :=
  let e : Enrolment := ⟨twinOf s, 0, true, some (s.job.openStep + 2), attach⟩
  let s1 := setTwin s fun t => { t with pair := .enrollingSource, digestsOff := true, enrolment := some e, dirty := [], forward := [] }
  let s2 := if attach.isSome then sendTwin s1 (.jobState (jobStateOf s1)) else s1
  copySegments s2 (twinSegments s2)

/-- ENROLMENT_AGREE: the target's request reaches a source that holds the state alone. -/
def execEnrolmentAgree (h : MsgHdr) (s : State) : Host.Outcome State Fault Refusal :=
  .next (receive s h fun s => if s.twin.pair = .sole && h.srcClass = twinOf s then startSource s none else s)

/-- JOB_STATE: installed whole before any message is accepted (R45 step 3); at cut-over it carries the marks (R43). -/
def execJobState (h : MsgHdr) (j : JobStateMsg) (s : State) : Host.Outcome State Fault Refusal :=
  .next (receive s h fun s =>
    if h.srcClass != twinOf s || !(s.twin.pair = .detached || s.twin.pair = .enrollingTarget) then s
    else
      let s1 := setTwin s fun t =>
        { t with pair := .enrollingTarget
                 endMark := if t.pair = .detached then none else t.endMark
                 enrolment := if t.pair = .detached then some ⟨twinOfNumber t.number, 0, false, none, none⟩ else t.enrolment }
      let s2 := setJob s1 fun _ =>
        ⟨j.job != 0, j.job, j.layoutEpoch, j.openStep, j.openStep - 1, [], j.openStep⟩
      let s3 := setTables s2 fun t => { t with descs := j.descs, factors := j.factors, shards := j.shards, params := j.params, applied := [] }
      let s4 := setCol s3 fun c =>
        { c with members := j.members, rings := j.rings
                 marks := j.marks ++ c.marks.filter fun m => !(j.marks.any fun x => x.1 = m.1) }
      let keys := j.descs.map (·.1) ++ j.shards.map fun e => 2 ^ 16 + e.1
      let s5 := keys.foldl (fun t k => markDesc t k j.openStep) { s4 with scaling := j.scaling, outliers := j.outliers }
      j.scaling.foldl (fun t e => mark t (scaleAddr t.part e.1) 32) s5)

/-- A forwarded write at the target. -/
def putForward (s : State) (x : StoredItem) : State := if devRange s x.addr x.bytes.length then devWrite s x.addr x.bytes else s

/-- The target's own re-admission, held until the end-of-step mark before it has come (R43). -/
def finishEnrolment (s : State) : State :=
  let mine := fun (m : Msg) => match m.body with
    | .readmission c st => c = s.twin.number && s.twin.endMark.any fun k => st ≤ k + 1
    | _ => false
  match s.twin.held.find? mine with
  | some m => (match m.body with
    | .readmission c st => kickUpdates (takeReadmission (setTwin s fun t => { t with held := t.held.filter fun x => !mine x }) c st)
    | _ => s)
  | none => s

/-- ENROLMENT_SEGMENT: a copied segment written whole at the target, then the forwarded writes in their order; the end-of-step
mark of the step before its re-admission makes it PAIRED (R43). -/
def execEnrolmentSegment (h : MsgHdr) (base length : Nat) (content : SegmentContent) (s : State) : Host.Outcome State Fault Refusal :=
  .next (receive s h fun s =>
    if s.twin.pair != .enrollingTarget || !devRange s base length then s
    else
      let m := content.cells.foldl (fun m c => writeByte m (base + c.1) c.2) (zeroRange s.mem base length)
      let s1 := mark (setGddr { s with mem := m } fun g =>
        { g with badSectors := healed g.badSectors base length, unserved := healed g.unserved base length }) base length
      let s2 := content.forwards.foldl putForward s1
      finishEnrolment (setTwin s2 fun t => { t with endMark := content.stepEnd.or t.endMark }))

/-- ENROLMENT_CUT_OVER: the source has closed step s: marks and job state sent, the target re-admitted, both PAIRED (R43
steps 3 and 4, R256). -/
def execEnrolmentCutOver (s : State) : Host.Outcome State Fault Refusal :=
  .next (match s.twin.enrolment with
    | none => s
    | some e =>
      if s.twin.pair != .enrollingSource || !e.copied || (s.job.running && s.job.closedStep < e.cutOver.getD 0) then s
      else
        let r := s.job.openStep
        let s1 := sendForward (sendTwin s (.jobState (jobStateOf s))) (some (r - 1))
        let dsts := (members s1).filter (· != s1.twin.number) ++ (if isMember s1 e.partner then [] else [e.partner])
        let s2 := sendAll s1 dsts 0x0F 8 0x18 r (.readmission e.partner r)
        let s3 := takeReadmission (setTwin s2 fun t =>
          { t with pair := .paired, digestsOff := false, enrolment := none, noticeSent := false, dirty := [], forward := [] }) e.partner r
        answerAttach s3 e 0 0 0)

/-! ### TWIN_DETACH, TWIN_ATTACH, ROUTED_ITEM -/

/-- TWIN_DETACH: routed to the leaving module (R40). -/
def execTwinDetach (c : HostCmd) (s : State) : Host.Outcome State Fault Refusal :=
  runCmd s 0x0019 c fun s =>
    if c.slot.param0 ≥ s.twin.size || !inClass s then refuse s c 0x20
    else startRouted s c [(c.slot.param0, .detach c.slot.param0)]

/-- TWIN_ATTACH: routed to the new module's twin. What the new module reports comes with the item where it takes effect
(R45, DEDUCED, log 50). -/
def execTwinAttach (c : HostCmd) (s : State) : Host.Outcome State Fault Refusal :=
  runCmd s 0x001A c fun s =>
    if c.slot.param0 ≥ s.twin.size || !inClass s then refuse s c 0x20
    else startRouted s c [(twinOfNumber c.slot.param0, .attach c.slot.param0 0 0 0 false)]

/-- ROUTED_ITEM: one item of a routed command at its owner. -/
def execRoutedItem (h : MsgHdr) (item : RoutedItem) (tag : Nat) (s : State) : Host.Outcome State Fault Refusal :=
  .next (receive s h fun s =>
    let answer := fun (r : State × Refused) => sendAnswer r.1 h.srcClass tag r.2.1 r.2.2.1 r.2.2.2
    match item with
    | .roll t i v z w none => answer (takeRoll s t i v z w none tag)
    | .roll t i v z w (some r) => (takeRoll s t i v z w (some r) tag).1
    | .stage t i rec' last => answer (takeStage s t i rec' last)
    | .detach _ =>
      if s.twin.pair != .paired then answer (s, twinUnavailable (twinOf s) s.twin.pair)
      else if s.twin.detachAt.isSome then answer (s, rangeOf condition)
      else setTwin s fun t => { t with detachAt := some (s.job.openStep, h.srcClass, tag) }
    | .attach joiner part size seed reports =>
      if joiner != twinOf s || s.twin.pair != .sole then answer (s, twinUnavailable s.twin.number s.twin.pair)
      else if !reports || part != Config.partNumber s.part || size != s.twin.size || seed != s.twin.seed then
        answer (s, rangeOf condition)
      else startSource s (some (h.srcClass, tag)))

/-- The detach of a leaving module at the close of its step (R40): every module is told, the module is DETACHED. -/
def closeDetach (s : State) (step : Nat) : State :=
  match s.twin.detachAt with
  | none => s
  | some d =>
    if d.1 > step then s
    else
      let me := s.twin.number
      let s1 := noteRemoval (sendAll s ((members s).filter (· != me)) 0x0F 8 0x18 (step + 1) (.removal me (step + 1))) me (step + 1) me
      let s2 := setTwin (abandonRepairs s1) fun t => { t with pair := .detached, detachAt := none }
      let s3 := setCol s2 fun c =>
        { c with members := c.members &&& ~~~((1 : W64) <<< me), rings := breakRings me c.rings, newRings := breakRings me c.newRings }
      sendAnswer (post s3 .col 0 0x0108 [me, step + 1]) d.2.1 d.2.2 0 0 0

/-! ### CLASS_FORM (R20, R45) -/

/-- Class sizes of a part (R20). -/
def sizeAllowed (p : Part) (n : Nat) : Bool := n = 16 || p != .nst8016

/-- CLASS_FORM: PAIRED with every module of the class a member, or DETACHED where the class already runs a job (R45). -/
def execClassForm (c : HostCmd) (joining : Bool) (s : State) : Host.Outcome State Fault Refusal :=
  runCmd s 0x0018 c fun s =>
    let number := bitsOf c.slot.param0 0 6
    let size := 16 * (bitsOf c.slot.param0 8 2 + 1)
    if s.job.running then refuse s c condition
    else if !sizeAllowed s.part size || number ≥ size then refuse s c 0x20
    else
      let all := BitVec.ofNat 64 (2 ^ size - 1)
      let t := { Twin.reset with pair := if joining then .detached else .paired, number := number, size := size
                                 seed := BitVec.ofNat 64 c.slot.param1 }
      let mask := if joining then all &&& ~~~((1 : W64) <<< number) else all
      done (setCol { s with twin := t } fun x =>
        { x with members := mask, marks := [], nextSeq := [], idents := [], retry := [], unsent := [], ways := [], rings := [], newRings := [] }) c

end Sys2Proof.Machine
end

