-- ==== Sys2Proof/Machine/Close.lean ====
section
/-! DEFINITION. Programs that open a step, the close of a step, and jobs (R30, R253, R367). -/

namespace Sys2Proof.Machine

/-- PROGRAM_RUN (DESIGN CHOICE, log 11): the row comes once to start the program, and once more when its cores have come to its end. -/
def execProgramRun (c : HostCmd) (image : List Byte) (decl : StepDecl) (s : State) : Host.Outcome State Fault Refusal :=
  runCmd s 0x0100 c fun s =>
    let first := bitsOf c.slot.param0 0 16
    let count := bitsOf c.slot.param0 16 16
    if !(coresOf s c).isEmpty then
      if (coresOf s c).all fun e => (coreAt s e.2).transfers.isEmpty then done (endProgram s c) c else s
    else if count = 0 || first + count > Config.logicalCores s.part
        || ((rangeFrom first count).any fun n => s.hif.dies.getD (n / 32) 0 != c.fn) then refuse s c 0x20
    else if bitOf c.slot.ctl 6 && rangeBad s c.slot.operand 64 then refuse s c 0x18
    else if bitOf c.slot.ctl 6 && memWaits s c.slot.operand 64 then s
    else
      match (if bitOf c.slot.ctl 6 then badSector s c.slot.operand 64 else none) with
      | some a => failUE s c a
      | none =>
        let hd := operandBytes s c image 64
        if leAt hd 60 4 ≠ crc32c (hd.take 60) then refuse s c (blockField 0x3C)
        else
          match absentCore s first count with
          | some n => finish s c 0x22 0 n
          | none =>
            let ps := seatedCores s first count
            if ps.any fun p => (coreAt s p).command.isSome then s
            else advanceTables (declareMarks (startProgram s c decl ps))

/-! ### STEP_CLOSE -/

/-- Whether every gradient message that the step's program declares is applied and acknowledged (R30). -/
def stepDone (s : State) : Bool :=
  let step := s.job.openStep
  match declOf s step with
  | none => false
  | some d =>
    (d.lookups.all fun e => countAt s.tables.lookupsDone e.1 step ≥ declared d.lookups e.1)
      && (d.backwards.all fun e => countAt s.tables.backwardsDone e.1 step ≥ declared d.backwards e.1)
      && !(s.tables.backwards.any fun b => b.2.1 ≤ step)
      && (mget s.tables.tilesDone step).getD 0 ≥ d.denseTiles
      && !(s.tables.pendTiles.any fun t => t.hdr.step ≤ step)
      && (s.tables.descs.all fun e => !(allHolders s e.2).contains s.twin.number || appliedThrough s e.2 step)
      && s.tables.open2.isEmpty

/-- Whether the module closes its open step now: a DETACHED module closes none (R254). -/
def mayClose (s : State) : Bool := marking s && s.rel.recovery = 0 && stepDone s

/-- NUMERIC_INVALID: one event for the step (R271). -/
def postInvalid (s : State) (step : Nat) : State :=
  let ts := (List.range s.grade.count).filter fun t => (tensorGrade s.grade.recs t).counts.invalid + (tensorStat s.tables.stats t).invalid > 0
  match ts with
  | [] => s
  | t :: _ => post s .mgt 0 0x0502 [step, t, ts.length]

/-- The records of the step set aside for its exchange, and fresh ones begun (R268, R106). -/
def closeRecords (s : State) (step : Nat) : State :=
  let c : Closing := ⟨step, s.grade.recs, s.tables.stats, s.scaling.map (fun e => (e.1, e.2.p)), s.grade.base, s.grade.count⟩
  let s1 := { s with grade := { s.grade with recs := [], closings := s.grade.closings ++ [c] }
                     scaling := s.scaling.map fun e => (e.1, { e.2 with own := -128 }) }
  setTables s1 fun t => { t with stats := [] }

/-- The end of this module's channel maxima for a selection step, to every other member. -/
def endMaxima (selection : Nat) (s : State) : State :=
  ((members s).filter (· != s.twin.number)).foldl (fun w m =>
    sendHdr w m { header w 0x01 8 0x18 m selection with last := true } (.partialSum [])) s

/-- Channel maxima of the W tensors sent to the other members, a block of 128 to a message, and after them an empty message that is marked
LAST: a selection waits for it from every member (R113 step 1). -/
def sendMaxima (s : State) (selection : Nat) : State :=
  if !isSelection s selection then s
  else
    endMaxima selection <| (s.outliers.filter fun e => (mget s.tables.shards e.1).isSome && !e.2.stats.isEmpty).foldl (fun t e =>
      (dedup [] (e.2.stats.map fun q => q.1 / 128)).foldl (fun u b =>
        let codes := (rangeFrom (128 * b) 128).map fun k => (mget e.2.stats k).getD 0
        ((members u).filter (· != u.twin.number)).foldl (fun w m =>
          sendHdr w m { header w 0x01 8 0x18 m selection with tensorId := e.1, offset := 512 * b } (.partialSum codes)) u) t) s

/-- The gradebook setting of the module that comes into force at its step boundary (R266). -/
def takeGradebook (s : State) : State :=
  match s.grade.pending with
  | none => s
  | some p => { s with grade := { s.grade with base := p.1, count := p.2, pending := none } }

/-- A stamp renewal started on every update unit (R188). -/
def startRenewal (s : State) (step : Nat) : State :=
  if step % 2 ^ 22 != 0 then s
  else setTables s fun t => { t with renewal := (List.range (Config.memDevices s.part)).map fun u => (u, step, 0) }

/-- Step-bound notes of steps before the previous one, dropped. -/
def pruneSteps (s : State) : State :=
  let old := fun (st : Nat) => st + 1 < s.job.openStep
  let s1 := setTables s fun t =>
    { t with decls := t.decls.filter fun d => !old d.step
             lookups := t.lookups.filter fun l => !(l.done && old l.step)
             lookupsDone := t.lookupsDone.filter fun e => !old e.2.1
             backwardsDone := t.backwardsDone.filter fun e => !old e.2.1
             markSent := t.markSent.filter fun e => !old e.2
             endSent := t.endSent.filter fun e => !old e.2
             tilesDone := t.tilesDone.filter fun e => !old e.1 }
  setCol s1 fun c =>
    { c with idents := c.idents.filter fun b => !old b.step
             early := c.early.filter fun m => !old m.hdr.step
             maxima := c.maxima.filter fun q => !old q.1 }

/-- The next step opened. -/
def openNext (s : State) (step : Nat) : State :=
  let s1 := setJob s fun j => { j with closedStep := step, openStep := nextStep step, exchangesDue := j.exchangesDue ++ [step] }
  let s2 := releaseNotices (closeRepairs s1 step)
  let s3 := raiseSwitches (advanceLists (pruneParams (pruneSteps s2)))
  kickUpdates (declareMarks s3)

/-- STEP_CLOSE (R30, R253): the module closes its open step, once everything the step declares is applied. -/
def execStepClose (s : State) : Host.Outcome State Fault Refusal :=
  .next (if !mayClose s then s
    else
      let step := s.job.openStep
      let s1 := postInvalid (closeDigests s step) step
      let s2 := passPart s1 step (closePart s1)
      let s3 := startRenewal (closeRecords (closeColumns s2 step) step) step
      let s4 := takeGradebook (sendMaxima (takeLifts s3 step) (nextStep step))
      openNext (closeDetach (sendForward s4 (some step)) step) step)

/-! ### Jobs -/

/-- JOB_START on one member: the first open step is the slot's; a new layout epoch starts marks and numbers again (R241). -/
def installJobStart : Install := fun c s =>
  let number := bitsOf c.slot.param0 0 16
  let epoch := bitsOf c.slot.param0 16 16
  if number = 0 then .error (rangeOf 0x20)
  else if s.job.running then .error (rangeOf condition)
  else
    let s1 := if epoch = s.job.layoutEpoch then s else setCol s fun x => { x with marks := [], nextSeq := [], idents := [] }
    let s1 := setCol s1 fun x => { x with maxima := [] }
    let s2 := setTables s1 fun t => { t with applied := [], lookupsDone := [], backwardsDone := [], markSent := [], endSent := [], decls := []
                                             tilesDone := [], stats := [] }
    .ok (raiseSwitches (advanceLists { setJob s2 (fun j => ⟨true, number, epoch, c.slot.step, j.closedStep, [], c.slot.step⟩) with
      grade := { s2.grade with recs := [], closings := [] } }))

def execJobStart (c : HostCmd) (s : State) : Host.Outcome State Fault Refusal :=
  runCmd s 0x001B c fun s => startClass s c [] installJobStart

/-- Whether a command of the job still runs beside one (R298). -/
def jobBusy (s : State) (c : HostCmd) : Bool := s.hif.running.any fun d => d != c && d.slot.opcode ≥ 0x0100

/-- Restarts that no step boundary of the job has taken, with the job's end. -/
def restartAsked (s : State) : State :=
  (s.scaling.filter fun e => e.2.resetAsked).foldl (fun t e => restartHist t e.1 s.job.openStep) s

/-- JOB_END on one member. -/
def installJobEnd : Install := fun c s =>
  if !s.job.running || c.slot.param0 != s.job.number then .error (rangeOf 0x20)
  else .ok (setJob (restartAsked (takeForce (takeGradebook s) s.job.openStep fun _ => true)) fun j => { j with running := false })

/-- JOB_END: it waits for every command of the job. -/
def execJobEnd (c : HostCmd) (s : State) : Host.Outcome State Fault Refusal :=
  runCmd s 0x001C c fun s => if jobBusy s c then s else startClass s c [] installJobEnd

end Sys2Proof.Machine
end

