-- ==== Sys2Proof/Machine/Copy.lean ====
section
/-! DEFINITION. Copies that the host asks for: CXL.mem writes, DMA_COPY, and the object table (R132, R133, R287, R298). -/

namespace Sys2Proof.Machine

/-! ### Records that the host writes whole (R191) -/

/-- Whether a record or tile reported torn still is, after bytes from a to a + n were written: it ends when it is written
whole with equal stamps and a correct check (R191). -/
def stillTorn (s : State) (a n x : Nat) : Bool :=
  if !overlaps a n x 64 then true
  else
    let inSlot := fun (d : TableDesc) (v base : Nat) => base != 0 && base ≤ x && (List.range d.shards).any fun k =>
      holdsRows s d (ownerOf d k) && (List.range d.rows).any fun r => recordAddr d v ⟨k, r⟩ = x
    match s.tables.descs.find? fun e => inSlot e.2 0 e.2.slot0 || inSlot e.2 1 e.2.slot1 with
    | some e =>
      let d := e.2
      let v := if inSlot d 0 d.slot0 then 0 else 1
      let key := ((List.range d.shards).flatMap fun k => (List.range d.rows).map fun r => (⟨k, r⟩ : RowKey)).find? fun q =>
        recordAddr d v q = x
      let bs := devRead s x d.stride
      !(a ≤ x && x + d.stride ≤ a + n && headOk bs && momentStamp bs = weightStamp d bs
        && leNat (devRead s (checkAddr d v (key.getD ⟨0, 0⟩)) 4) = crc32c (bs.take (recordLength d)))
    | none =>
      let t := tileBytes s x
      let torn := s.tables.shards.any fun e => (List.range e.2.tiles).any fun i =>
        e.2.weightBase + i * e.2.weightStride = x && pairTorn s e.2 i
      !(a ≤ x && x + t.length ≤ a + n && leAt t 0x3C 4 = crc32c (t.take 60)
        && leAt t 0x18 4 = crc32c ((t.drop 64).take (leAt t 0x14 4)) && !torn)

/-- Device memory written by the host. -/
def hostPut (s : State) (a : Nat) (bs : List Byte) : State :=
  let s1 := devWrite s a bs
  setTables s1 fun t => { t with torn := t.torn.filter (stillTorn s1 a bs.length) }

/-- The first address of an access, and its length. -/
def CxlAccess.range : CxlAccess → Nat × Nat
  | .read a n _ => (a, n)
  | .write a bs => (a, bs.length)

/-- An access in device memory: a read of an uncorrectable sector is answered all ones (R289), a partial write to one changes
nothing (R129). -/
def cxlAccess (s : State) (x : CxlAccess) : State :=
  match x with
  | .read a n met =>
    let t := meet s (metIn met a n)
    (match badSector t a n with
    | some y => bump (noteUE (reply t (.bytes (List.replicate n 0xFF))) y) .hif 0 0x138 16 16 1
    | none => reply t (.bytes (devRead t a n)))
  | .write a bs =>
    match badWrite s a bs.length with
    | some y => noteUE s y
    | none => hostPut s a bs

/-- An access at the controllers: it waits behind a transfer that its channel retries, and behind an earlier access to its bytes
(R126). -/
def cxlOffer (s : State) (x : CxlAccess) : State :=
  let r := x.range
  if memWaits s r.1 r.2 || s.gddr.held.any fun y => overlaps r.1 r.2 y.range.1 y.range.2 then
    setGddr s fun g => { g with held := g.held ++ [x] }
  else cxlAccess s x

/-- The accesses that waited, in their original order (R126). -/
def runHeld (s : State) : State := s.gddr.held.foldl cxlOffer (setGddr s fun g => { g with held := [] })

/-- CXL_MEM_READ. -/
def execCxlMemRead (addr : Nat) (read : LineRead) (s : State) : Host.Outcome State Fault Refusal :=
  .next (if !devRange s addr read.bytes then
      bump (reply s (.bytes (List.replicate read.bytes 0xFF))) .hif 0 0x138 0 16 1
    else cxlOffer s (.read addr read.bytes read.met))

/-- CXL_MEM_WRITE. -/
def execCxlMemWrite (addr : Nat) (data : List Byte) (s : State) : Host.Outcome State Fault Refusal :=
  .next (if !devRange s addr data.length then bump s .hif 0 0x138 0 16 1 else cxlOffer s (.write addr data))

/-! ### Places of a copy -/

/-- Where bytes stand: host memory, device memory, or the SRAM of a logical core. -/
inductive Place where
  | host (addr : Nat)
  | device (addr : Nat)
  | sram (core off : Nat)
  deriving DecidableEq, Repr

/-- What moving bytes meets. -/
inductive Moved (α : Type) where
  | ok (x : α)
  | wait (s : State)
  | fail (s : State) (status d0 d1 : Nat)

/-- Bytes of a place; data are what the device reads from host memory (DESIGN CHOICE, log 2). Twinned items are served by the twin
(R130). -/
def takeFrom (s : State) (p : Place) (n : Nat) (data : List Byte) : Moved (List Byte) :=
  match p with
  | .host _ => if hostAway s then .wait s else .ok (padTo n (data.take n))
  | .sram core off =>
    (match physOf s core with
    | none => .fail s 0x22 0 core
    | some phys =>
      if readWaits (coreAt s phys) off n then .wait s
      else
        match sramBad s core off n with
        | some x => .fail s 0x23 x (core + s.twin.number * 2 ^ 16)
        | none => .ok (sramRead s core off n))
  | .device a =>
    if memWaits s a n then .wait s
    else
      match badSector s a n with
      | none => (match tornIn s a n with
        | some x => .fail s 0x23 x (ueDetail s)
        | none => .ok (devRead s a n))
      | some x =>
        match (twinItems s).find? fun it => overlaps it.addr it.len x 64 with
        | none => .fail (noteUE s x) 0x23 x (ueDetail s)
        | some it =>
          match readItem s it.addr it.len s.job.openStep true false false with
          | .ok _ => .fail (noteUE s x) 0x23 x (ueDetail s)
          | .wait t => .wait t
          | .fail t y => .fail t 0x23 y (ueDetail s)

/-- Bytes written at a place. -/
def putAt (s : State) (p : Place) (bs : List Byte) : Moved State :=
  match p with
  | .host a => if hostAway s then .wait s else .ok (hostWrite s (.data a bs))
  | .sram core off =>
    (match physOf s core with
    | none => .fail s 0x22 0 core
    | some phys => if writeWaits (coreAt s phys) off bs.length then .wait s else .ok (sramWrite s core off bs))
  | .device a =>
    if memWaits s a bs.length then .wait s
    else
      match badWrite s a bs.length with
      | some x => .fail (noteUE s x) 0x23 x (ueDetail s)
      | none => .ok (hostPut s a bs)

/-- A copy from place to place. -/
def copyBytes (s : State) (src dst : Place) (n : Nat) (data : List Byte) : Moved State :=
  match takeFrom s src n data with
  | .wait t => .wait t
  | .fail t st d0 d1 => .fail t st d0 d1
  | .ok bs => putAt s dst bs

/-- Whether a place lies where the function may name it; shared pages are allowed (R119, R121, R288). -/
def placeOk (s : State) (fn : Nat) (p : Place) (n : Nat) : Bool :=
  match p with
  | .host _ => true
  | .device a => devRange s a n
  | .sram core off => core < Config.logicalCores s.part && s.hif.dies.getD (core / 32) 0 = fn && sramOk off n

/-! ### DMA_COPY -/

/-- DMA_COPY. -/
def execDmaCopy (c : HostCmd) (data : List Byte) (s : State) : Host.Outcome State Fault Refusal :=
  runCmd s 0x0101 c fun s =>
    let n := c.slot.param1
    let core := bitsOf c.slot.param2 16 16
    let src : Place := if bitOf c.slot.ctl 6 then .device c.slot.operand else .host c.slot.operand
    let toSram := bitOf c.slot.param2 1
    let dst : Place := if toSram then .sram core c.slot.param0 else if bitOf c.slot.param2 0 then .device c.slot.param0 else .host c.slot.param0
    if !placeOk s c.fn src n then refuse s c 0x18
    else if toSram && !sramOk c.slot.param0 n then refuse s c 0x20
    else if !toSram && !placeOk s c.fn dst n then refuse s c 0x20
    else if n % 64 != 0 then refuse s c 0x28
    else if (toSram && bitOf c.slot.param2 0) || !placeOk s c.fn dst n then refuse s c 0x30
    else
      match copyBytes s src dst n data with
      | .wait t => t
      | .fail t st d0 d1 => finish t c st d0 d1
      | .ok t => done t c

/-! ### Objects (R132, R133) -/

/-- Key of an object: its function's table and its handle. -/
def objectKey (fn handle : Nat) : Nat := fn * 2 ^ 32 + handle

/-- The place of an object table entry. -/
def placeOf (bs : List Byte) : Place :=
  match bitsOf (leAt bs 4 1) 0 2 with
  | 0 => .device (leAt bs 8 8)
  | 1 => .sram (leAt bs 6 2) (leAt bs 8 8)
  | _ => .host (leAt bs 8 8)

/-- DETAIL0 of a bad entry. -/
def objectFault (s : State) (fn : Nat) (bs : List Byte) : Option Nat :=
  let bad := fun (off : Nat) (b : Bool) => if b then [blockField off] else []
  let tier := bitsOf (leAt bs 4 1) 0 2
  let tag := tagOf? (leAt bs 5 1)
  let size := leAt bs 0x10 8
  let core := leAt bs 6 2
  (bad 0 (leAt bs 0 4 = 0) ++ bad 4 (tier = 3) ++ bad 5 (match tag with
      | some (_, .page) => true
      | some _ => false
      | none => true)
    ++ bad 6 (if tier = 1 then core ≥ Config.logicalCores s.part || s.hif.dies.getD (core / 32) 0 != fn else core != 0)
    ++ bad 8 (match placeOf bs with
      | .sram _ off => off % 64 != 0 || off + size > sramBytes
      | p => !placeOk s fn p size)
    ++ bad 0x10 (size % 256 != 0)).head?

/-- The entry as the table keeps it: reserved bits and MOVING 0. -/
def objectEntry (bs : List Byte) : List Byte :=
  leBytes 4 (leAt bs 0 4) ++ [byteOf (bitsOf (leAt bs 4 1) 0 2)] ++ (bs.drop 5).take 19 ++ List.replicate 8 0

/-- OBJECT_PLACE: a new object takes its entry; a known one is moved whole. No command of the model uses a handle beside it,
so its use count is zero (DEDUCED, log 52). -/
def execObjectPlace (c : HostCmd) (data : List Byte) (s : State) : Host.Outcome State Fault Refusal :=
  runCmd s 0x0102 c fun s =>
    let bs := inlineOf c.slot 32
    let key := objectKey c.fn (leAt bs 0 4)
    let put := fun (t : State) => done (setGddr t fun g => { g with objects := mput g.objects key (objectEntry bs) }) c
    match objectFault s c.fn bs with
    | some d0 => refuse s c d0
    | none =>
      match mget s.gddr.objects key with
      | none => if (s.gddr.objects.filter fun e => e.1 / 2 ^ 32 = c.fn).length ≥ 2 ^ 20 then refuse s c condition else put s
      | some old =>
        if placeOf old = placeOf bs then put s
        else
          match copyBytes s (placeOf old) (placeOf bs) (min (leAt old 0x10 8) (leAt bs 0x10 8)) data with
          | .wait t => t
          | .fail t st d0 d1 => finish t c st d0 d1
          | .ok t => put t

/-- OBJECT_FREE. -/
def execObjectFree (c : HostCmd) (s : State) : Host.Outcome State Fault Refusal :=
  runCmd s 0x0103 c fun s =>
    let key := objectKey c.fn (c.slot.param0 % 2 ^ 32)
    if (mget s.gddr.objects key).isNone || c.slot.param0 ≥ 2 ^ 32 then refuse s c 0x20
    else done (setGddr s fun g => { g with objects := mdel g.objects key }) c

end Sys2Proof.Machine
end

