-- ==== Sys2Proof/Machine/Class.lean ====
section
/-! DEFINITION. A class command at the members it is relayed to (R299). -/

namespace Sys2Proof.Machine

/-- What each class command installs; none for an opcode that is no class command. -/
def installerOf : Nat → Option Install
  | 0x001B => some installJobStart
  | 0x001C => some installJobEnd
  | 0x0110 => some installTableDefine
  | 0x0111 => some installTableSwitch
  | 0x0119 => some installOptimSet
  | 0x011A => some installScaleReset
  | 0x011B => some installOutlierSet
  | 0x0130 => some installRing
  | 0x0132 => some installReshard
  | 0x0138 => some installGradebookLift
  | _ => none

/-- Whether a relayed command waits here: JOB_END for every command of the job (R298). -/
def relayWaits (s : State) (c : ClassCmd) : Bool :=
  c.slot.opcode = 0x001C && !c.withdraw && s.hif.running.any fun d => d.slot.opcode ≥ 0x0100

/-- A relayed class command installed or refused, and answered; a withdrawal takes the change back (R299, DEDUCED, log 19). -/
def takeRelay (s : State) (c : ClassCmd) : State :=
  if c.withdraw then takeBack s c
  else
    match installerOf c.slot.opcode with
    | none => s
    | some inst =>
      let r := installHere s c inst
      sendAnswer r.1 c.accepter c.tag r.2.1 r.2.2.1 r.2.2.2

/-- CLASS_COMMAND_RELAY. A message that waits is not accepted, and its sender sends it again. -/
def execClassCommandRelay (h : MsgHdr) (c : ClassCmd) (s : State) : Host.Outcome State Fault Refusal :=
  .next (if relayWaits s c then s else receive s h fun s => takeRelay s c)

end Sys2Proof.Machine
end

