-- ==== Sys2Proof/Machine/Abort.lean ====
section
/-! DEFINITION. Running commands ended by a reset, and the function reset (R264, R357 to R360, R376). -/

namespace Sys2Proof.Machine

/-- A core without the work of a command: tiles, tray, statistics and transfers gone; SRAM and buffers kept (R96, R115, R141,
R280, R358). -/
def emptyCore (k : Core) : Core :=
  { k with accA := none, accB := none, tray := [], transfers := [], uncommitted := [], command := none, vecWait := none,
           meWait := false }

/-- What commands had under way on cores. -/
def abortCores (s : State) (hit : HostCmd → Bool) : State :=
  setCores s fun x => { x with cores := x.cores.map fun e => (e.1, if e.2.command.any hit then emptyCore e.2 else e.2) }

/-- Class commands under way: no member keeps their change (DEDUCED, log 53). -/
def abortRelays (s : State) (hit : HostCmd → Bool) : State :=
  (s.col.relays.filter fun r => hit r.cmd).foldl (fun t r =>
    let cc := classCmdOf t r.tag r.cmd []
    let others := (members t).filter (· != t.twin.number)
    let t1 := others.foldl (fun u m => sendRelay u m { cc with withdraw := true }) (takeBack t cc)
    setCol t1 fun x => { x with relays := x.relays.filter (·.tag != r.tag) }) s

/-- What commands had under way outside cores: look-ups, backward passes, routed items, collectives, attention, decodes
(R168, R217, R236, R263). -/
def abortEngines (s : State) (hit : HostCmd → Bool) : State :=
  let s1 := setTables ((s.tables.backwards.filter fun b => hit b.2.2).foldl dropBackward s) fun t =>
    { t with lookups := t.lookups.filter fun l => l.done || !hit l.cmd
             routed := t.routed.filter fun r => !hit r.cmd }
  let s2 := setCol s1 fun c => { c with jobs := c.jobs.filter fun j => !hit j.cmd }
  abortDecodes { s2 with att := s2.att.filter fun j => !hit j.cmd } hit

/-- Every running command of a choice ends with ABORTED_BY_RESET. A duplicate that this starts is not one of them (R294). -/
def abortCommands (s : State) (hit : HostCmd → Bool) : State :=
  let cs := s.hif.running.filter hit
  cs.foldl (fun t c => finish t c 0x30 0 0) (abortEngines (abortRelays (abortCores s hit) hit) hit)

/-! ### Function reset -/

/-- Function of a compute die (R285). -/
def dieFunction (s : State) (d : Nat) : Nat := s.hif.dies.getD d 0

/-- Compute dies of a function. -/
def diesOf (s : State) (fn : Nat) : List Nat :=
  (List.range (Config.computeDies s.part)).filter fun d => dieFunction s d = fn

/-- Physical cores of a function. -/
def coresOfFn (s : State) (fn : Nat) : List Nat := (diesOf s fn).flatMap fun d => rangeFrom (34 * d) 34

/-- CORE, VEC and ATT counters of a function cleared (R97, R98, R143, R218). -/
def clearCounters (s : State) (fn : Nat) : State :=
  (diesOf s fn).foldl (fun t d =>
    let t1 := (rangeFrom (34 * d) 34).foldl (fun u c => clearRegs u .coreP c [0x108, 0x10C, 0x110, 0x114, 0x118, 0x11C, 0x120]) t
    let t2 := (rangeFrom (34 * d) 34).foldl (fun u c =>
      { u with regs := [0x104, 0x110, 0x114, 0x118, 0x11C].foldl (fun m o => mdel m (vecPage c + o)) u.regs }) t1
    clearRegs t2 .att d [0x108, 0x10C, 0x110, 0x114, 0x118, 0x11C]) s

/-- The seating that a function reset finds under way is completed; the recomputation is abandoned (R376). -/
def settleSeats (s : State) (fn : Nat) : State :=
  let mine := fun (n : Nat) => dieFunction s (n / 32) = fn
  let s1 := (s.cores.substituting.filter fun e => mine e.1 && (substitutionHand s e.1).isNone).foldl (fun t e =>
    match substituteFor t e.1 with
    | none => makeAbsent t e.1 e.2
    | some q => seatSubstitute t e.1 e.2 q) s
  setCores s1 fun c => { c with recomputing := c.recomputing.filter fun e => !mine e.1 }

/-- A function reset (R358): PF0 has no compute part, and a module that is down or in recovery has none running. -/
def functionReset (s : State) (fn cause : Nat) : State :=
  if fn = 0 || fn > 8 || !isUp s then s
  else
    let s1 := abortCommands (settleSeats s fn) fun c => c.fn = fn
    let mine := coresOfFn s fn
    let s2 := setCores s1 fun x => { x with cores := x.cores.map fun e => (e.1, if mine.contains e.1 then emptyCore e.2 else e.2) }
    let s3 := setPwr (clearCounters s2 fn) fun p =>
      { p with passes := p.passes.filter fun c => !mine.contains c
               requests := p.requests.filter fun c => !mine.contains c.2
               running := p.running.filter fun c => !mine.contains c }
    let s4 := setRel s3 fun r => { r with resetEnds := mput r.resetEnds fn s.tick }
    post (bump s4 .rel 0 0x110 16 16 1) .rel 0 0x0801 [fn, cause]

/-- FUNCTION_RESET. -/
def execFunctionReset (fn cause : Nat) (s : State) : Host.Outcome State Fault Refusal := .next (functionReset s fn cause)

/-- FLR_COMPUTE_FUNCTION (R311). -/
def execFlrComputeFunction (fn : Nat) (s : State) : Host.Outcome State Fault Refusal := .next (functionReset s fn 3)

/-- The self reset of R309 step 3: every compute function, after 100 ms without the host link. -/
def execSelfReset (s : State) : Host.Outcome State Fault Refusal :=
  .next (if !s.hif.detached || s.hif.waitGo || !isUp s then s
    else (rangeFrom 1 8).foldl (fun t f => functionReset t f 4) (setHif s fun h => { h with cause := 2 }))

/-- The function that a write of BLK_RESET.REQUEST names; none where the bit is reserved (R323). -/
def resetTarget (s : State) (b : Blk) (i : Nat) : Option Nat :=
  match b with
  | .cmd => if i = 0 then none else some i
  | .coreL => some (dieFunction s (i / 32))
  | .vec => some (dieFunction s (i / 32))
  | .coreP => some (dieFunction s (i / 34))
  | .att => some (dieFunction s i)
  | _ => none

/-- A function reset requested through a page. -/
def requestReset (s : State) (b : Blk) (i : Nat) : State :=
  match resetTarget s b i with
  | none => s
  | some f => functionReset s f 2

/-- FUNCTION_RESET_REQUEST: a write of BLK_RESET at a BAR0 offset of a CMD, CORE, VEC or ATT page. -/
def execFunctionResetRequest (fn offset : Nat) (s : State) : Host.Outcome State Fault Refusal :=
  .next (if !s.pwr.auxGood then s
    else
      match locate s.part offset with
      | none => unmapped s
      | some (b, i, _) => guardWrite s fn b i fun s => if absentPage s b i then s else requestReset s b i)

end Sys2Proof.Machine
end

