-- ==== Sys2Proof/Machine/Sec.lean ====
section
/-! DEFINITION. The security block: images, the boot chain, attestation, staging, rollback, debug (R403 to R425). -/

namespace Sys2Proof.Machine

/-- The first n bytes of a string, 0 beyond its end. -/
def exactly (n : Nat) (bs : List Byte) : List Byte := bs.take n ++ List.replicate (n - bs.length) 0

def allZero (bs : List Byte) : Bool := bs.all (· = 0)

/-! ### Fuses of the security region (R405) -/

/-- Consecutive fuse words as bytes, 4 to a word (R414). -/
def fuseBytes (s : State) (w n : Nat) : List Byte := (rangeFrom w n).flatMap fun k => leBytes 4 (fuseWord s k)

def rootKeyHash (s : State) : List Byte := fuseBytes s 0x200 8
def identityHash (s : State) : List Byte := fuseBytes s 0x208 8

/-- The thermometer word ROLLBACK. -/
def rollback (s : State) : Nat := fuseWord s 0x218 + fuseWord s 0x219 * 2 ^ 32

/-- The minimum security version: blown bits of ROLLBACK. -/
def minVersion (s : State) : Nat := popcount 64 (rollback s)

/-! ### Images (R407, R408) -/

def imageVersion (im : List Byte) : Nat := leAt im 8 4

/-- The first check of R408 that an image of a choice of kinds fails, with the offset of its field; check 1 takes in that
the body has the length the header gives (DEDUCED, log 55). -/
def imageFault (s : State) (kinds : List Nat) (im : List Byte) : Option (Nat × Nat) :=
  if leAt im 0 4 ≠ 0x4E534649 then some (1, 0)
  else if !kinds.contains (leAt im 4 1) then some (1, 4)
  else if leAt im 6 2 ≠ 1 then some (1, 6)
  else if leAt im 0xC 4 + 1024 ≠ im.length || leAt im 0xC 4 + 1024 > (if leAt im 4 1 = 1 then 2 ^ 23 else 2 ^ 22) then some (1, 0xC)
  else if !allZero ((im.drop 0x10).take 16) then some (1, 0x10)
  else if !allZero ((im.drop 0x1C0).take 0xC0) then some (1, 0x1C0)
  else if leAt im 5 1 ≠ 0xFF && leAt im 5 1 ≠ bitsOf (fuseWord s 0) 8 8 then some (2, 5)
  else if Config.sha256 ((im.drop 0x40).take 384) ≠ rootKeyHash s then some (3, 0x40)
  else if imageVersion im < minVersion s then some (4, 8)
  else if Config.sha256 (im.drop 1024) ≠ (im.drop 0x20).take 32 then some (5, 0x20)
  else if !Config.rsaVerify ((im.drop 0x40).take 384) (im.take 0x280) ((im.drop 0x280).take 384) then some (6, 0x280)
  else none

/-- The image in a slot of a kind: 1 management, 2 core; slot A (false) or B. -/
def slotImage (s : State) (kind : Nat) (b : Bool) : List Byte :=
  match kind, b with
  | 1, false => s.boot.mgmtA.image
  | 1, true => s.boot.mgmtB.image
  | _, false => s.boot.coreA.image
  | _, true => s.boot.coreB.image

def currentSlot (s : State) (kind : Nat) : Bool := if kind = 1 then s.boot.mgmtCurrent else s.boot.coreCurrent

/-! ### The boot chain (R409 to R411) -/

/-- SEC_VERSION as it stands. -/
def showVersions (s : State) : State :=
  setReg s .sec 0 0x104 (minVersion s * 2 ^ 24 + s.boot.mgmtRunning % 256 * 2 ^ 16 + s.boot.coreRunning % 256 * 2 ^ 8)

/-- An image kind booted from a slot: its measurement and version. -/
def bootSlot (s : State) (kind : Nat) (b : Bool) : State :=
  let im := slotImage s kind b
  let m := Config.sha256 (im.take 1024)
  showVersions (setBoot s fun x =>
    if kind = 1 then { x with mgmtSlot := b, mgmtRunning := imageVersion im, m0 := m }
    else { x with coreSlot := b, coreRunning := imageVersion im, m1 := m })

/-- The current slot, else the other one; the flag says whether one of them is valid. -/
def bootKind (s : State) (kind : Nat) : State × Bool :=
  let cur := currentSlot s kind
  match imageFault s [kind] (slotImage s kind cur) with
  | none => (bootSlot s kind cur, true)
  | some f =>
    let s1 := setField (bump s .sec 0 0x10C 0 16 1) .sec 0 0x100 2 1 1
    let s2 := post s1 .sec 0 0x0A00 [kind, b2n cur, f.1]
    match imageFault s2 [kind] (slotImage s2 kind (!cur)) with
    | none => (bootSlot s2 kind (!cur), true)
    | some _ => (bump s2 .sec 0 0x10C 0 16 1, false)

/-- The identity key checked and unwrapped (R411). Once scan has cleared the cache it stays empty until power-on (R422). -/
def checkIdentity (s : State) : State :=
  if s.boot.scan || s.boot.clearFail then s
  else if Config.sha256 s.boot.identityModulus = identityHash s && Config.identityUnwraps then setBoot s fun x => { x with cacheFull := true }
  else post (setBoot s fun x => { x with cacheFull := false }) .sec 0 0x0A01 []

/-- The management firmware booted, with M0 and the identity; false if both slots fail. -/
def bootManagement (s : State) : State × Bool :=
  let r := bootKind (setField s .sec 0 0x100 2 1 0) 1
  if r.2 then (checkIdentity r.1, true) else r

/-! ### SEC_ATTEST (R413, R414) -/

def fuseDigest (s : State) : List Byte :=
  Config.sha256 (fuseBytes s 0 0x200 ++ fuseBytes s 0x200 0x10 ++ fuseBytes s 0x218 5)

/-- The seating chart of a report: 256 logical numbers, 0xFFFF for an absent one. -/
def chartBytes (s : State) : List Byte := (List.range 256).flatMap fun n => leBytes 2 ((physOf s n).getD 0xFFFF)

/-- Bytes 0x000 to 0x37F of a report. -/
def reportBody (s : State) (nonce : List Byte) : List Byte :=
  leBytes 4 0x4E534152 ++ leBytes 4 1 ++ fuseBytes s 0x21B 2 ++ exactly 32 nonce ++ leBytes 8 s.tick ++ leBytes 8 s.boot.reports
    ++ exactly 32 s.boot.m0 ++ exactly 32 s.boot.m1 ++ exactly 32 (fuseDigest s) ++ leBytes 4 (regValue s .dev 0 0x100)
    ++ leBytes 1 (minVersion s) ++ leBytes 1 (fuseWord s 0x21A) ++ leBytes 1 s.boot.granted ++ List.replicate 25 0
    ++ chartBytes s ++ List.replicate 0xC0 0

/-- SEC_ATTEST: refused while the wrapped-key cache is empty. -/
def execSecAttest (c : HostCmd) (s : State) : Host.Outcome State Fault Refusal :=
  runCmd s 0x0040 c fun s =>
    if !s.boot.cacheFull then refuse s c condition
    else if hostAway s then s
    else
      let b := reportBody s (inlineOf c.slot 32)
      let s1 := setBoot s fun x => { x with reports := x.reports + 1 }
      done (hostWrite s1 (.data c.slot.operand (b ++ exactly 384 (Config.rsaSign b)))) c

/-- SEC_IDENTITY_READ: the certificate, its length in DETAIL0 (R412). -/
def execSecIdentityRead (c : HostCmd) (s : State) : Host.Outcome State Fault Refusal :=
  runCmd s 0x0041 c fun s =>
    if hostAway s then s
    else finish (hostWrite s (.data c.slot.operand s.boot.certificate)) c 0 s.boot.certificate.length 0

/-! ### Staging and rollback (R415 to R417) -/

/-- A valid image in the slot of its kind that is not current, which then becomes current. -/
def stageImage (s : State) (im : List Byte) : State :=
  setBoot s fun x =>
    if leAt im 4 1 = 1 then
      (if x.mgmtCurrent then { x with mgmtA := ⟨im⟩, mgmtCurrent := false } else { x with mgmtB := ⟨im⟩, mgmtCurrent := true })
    else if x.coreCurrent then { x with coreA := ⟨im⟩, coreCurrent := false } else { x with coreB := ⟨im⟩, coreCurrent := true }

/-- SEC_FIRMWARE_STAGE. -/
def execSecFirmwareStage (c : HostCmd) (image : List Byte) (s : State) : Host.Outcome State Fault Refusal :=
  runCmd s 0x0042 c fun s =>
    if c.slot.param0 < 1024 || c.slot.param0 > 2 ^ 23 then refuse (bump s .sec 0 0x10C 0 16 1) c 0x20
    else if hostAway s then s
    else
      let im := exactly c.slot.param0 image
      match imageFault s [1, 2] im with
      | some f => refuse (post (bump s .sec 0 0x10C 0 16 1) .sec 0 0x0A02 [0x0042, f.1]) c (blockField f.2)
      | none => done (stageImage s im) c

/-- SEC_ROLLBACK_COMMIT. -/
def execSecRollbackCommit (c : HostCmd) (s : State) : Host.Outcome State Fault Refusal :=
  runCmd s 0x0043 c fun s =>
    let v := c.slot.param0
    if v < minVersion s || v > 64 || v > s.boot.mgmtRunning || v > s.boot.coreRunning
        || v > imageVersion (slotImage s 1 (currentSlot s 1)) || v > imageVersion (slotImage s 2 (currentSlot s 2)) then refuse s c 0x20
    else
      let w := 2 ^ v - 1
      let s1 := setBoot s fun x => { x with fuses := mput (mput x.fuses 0x218 (w % 2 ^ 32)) 0x219 (w / 2 ^ 32) }
      done (post (showVersions s1) .sec 0 0x0A06 []) c

/-! ### Debug (R418 to R422) -/

/-- SEC_DEBUG_CHALLENGE: a fresh nonce, free (DESIGN CHOICE, log 7), replaces the standing one. -/
def execSecDebugChallenge (c : HostCmd) (s : State) : Host.Outcome State Fault Refusal :=
  runCmd s 0x0044 c fun s =>
    if hostAway s then s
    else
      let n := exactly 32 (Config.freeNonce s.freeCtr)
      let s1 := setBoot { s with freeCtr := s.freeCtr + 1 } fun x => { x with challenge := some n }
      done (hostWrite s1 (.data c.slot.operand (n ++ identityHash s))) c

/-- The reason and the field of a token's first failed check (R419, R420): layout, identity, nonce, modulus, signature,
CONTROL (DEDUCED, log 55). -/
def tokenFault (s : State) (t : List Byte) : Option (Nat × Nat) :=
  let perms := leAt t 4 4
  let control := fuseWord s 0x21A
  if leAt t 0 4 ≠ 0x4E534454 then some (10, 0)
  else if perms ≥ 8 then some (10, 4)
  else if !allZero ((t.drop 8).take 8) then some (10, 8)
  else if !allZero ((t.drop 0x1D0).take 0xB0) then some (10, 0x1D0)
  else if (t.drop 0x10).take 32 ≠ identityHash s then some (7, 0x10)
  else if s.boot.challenge ≠ some ((t.drop 0x30).take 32) then some (8, 0x30)
  else if Config.sha256 ((t.drop 0x50).take 384) ≠ rootKeyHash s then some (10, 0x50)
  else if !Config.rsaVerify ((t.drop 0x50).take 384) (t.take 0x280) ((t.drop 0x280).take 384) then some (10, 0x280)
  else if (bitOf control 0 && perms % 4 ≠ 0) || (bitOf control 1 && bitOf perms 2) then some (9, 4)
  else none

/-- Secrets cleared before scan (R422). Whether the read-back of step 5 succeeds is a free value: 0 says that it does. -/
def clearSecrets (s : State) : State :=
  let s1 := abortCommands s fun d => d.slot.opcode != 0x0001
  let d := drawFree (setBoot s1 fun x => { x with cacheFull := false })
  if d.2 = 0 then post (setBoot d.1 fun x => { x with scan := true }) .sec 0 0x0A05 []
  else setBoot d.1 fun x => { x with clearFail := true }

/-- A token's permissions granted. -/
def grantDebug (s : State) (perms : Nat) : State :=
  post (setBoot s fun x => { x with granted := x.granted ||| perms }) .sec 0 0x0A03 [perms]

/-- SEC_DEBUG_UNLOCK: the challenge is consumed in every case. -/
def execSecDebugUnlock (c : HostCmd) (token : List Byte) (s : State) : Host.Outcome State Fault Refusal :=
  runCmd s 0x0045 c fun s =>
    if hostAway s then s else
    let t := exactly 1024 token
    let perms := leAt t 4 4
    let s1 := setBoot s fun x => { x with challenge := none }
    match tokenFault s t with
    | some f => refuse (post (bump s1 .sec 0 0x10C 16 16 1) .sec 0 0x0A02 [0x0045, f.1]) c (blockField f.2)
    | none =>
      if bitOf perms 2 && (s.job.running || !(s.twin.pair = .unformed || s.twin.pair = .detached)) then
        refuse (bump s1 .sec 0 0x10C 16 16 1) c condition
      else
        let s2 := done (grantDebug s1 perms) c
        if bitOf perms 2 then clearSecrets s2 else s2

/-- SEC_DEBUG_LOCK: the debug permissions end; scan lasts until power-on. -/
def execSecDebugLock (c : HostCmd) (s : State) : Host.Outcome State Fault Refusal :=
  runCmd s 0x0046 c fun s =>
    done (post (setBoot s fun x => { x with granted := x.granted / 4 * 4 }) .sec 0 0x0A04 []) c

end Sys2Proof.Machine
end

