-- ==== Sys2Proof/Machine/Boot.lean ====
section
/-! DEFINITION. Supplies and power-on: fuses, roll call, self-test, seating, firmware, training, zero-fill (R379 to R395,
R428, R429). -/

namespace Sys2Proof.Machine

/-! ### Self-test (R384 to R388) -/

/-- TST instance of the die of a unit: block type and instance. -/
def unitDie (ty i : Nat) : Nat :=
  match ty with
  | 4 => 1 + i / 34
  | 5 => 1 + i / 32
  | 9 => 1 + i
  | 6 => 9 + i / 2
  | 7 => 9 + i / 4
  | 8 => 9 + i / 4
  | 0xB => 9 + i
  | 0xC => 9 + i / 6
  | _ => 9

/-- A unit that failed logic BIST twice: posted, and latched if it is the first of its die (R386). -/
def lbistFail (s : State) (ty i sig : Nat) : State :=
  let s1 := post s .tst 0 0x0902 [ty, i, sig % 2 ^ 32]
  let d := unitDie ty i
  if kept s1 .tst d 0x110 ≠ 0 then s1
  else setReg (setReg s1 .tst d 0x110 (ty * 2 ^ 24 + i % 65536)) .tst d 0x114 sig

/-- The first failing row of a die latched. Which row and bit it is, is a free value (DESIGN CHOICE, log 7). -/
def latchRow (s : State) (c : Nat) : State :=
  let d := 1 + c / 34
  if bitOf (kept s .tst d 0x108) 0 then s
  else
    let a := drawFree s
    let b := drawFree a.1
    let e := drawFree b.1
    let w := c * 2 ^ 23 + a.2 % 30 * 2 ^ 18 + b.2 % 16384 * 2 ^ 4 + 1
    setReg (setReg e.1 .tst d 0x108 w) .tst d 0x10C (e.2 % 2048)

/-- Hard repairs of a compute die in the fuses (R387). -/
def hardRepairs (s : State) (die : Nat) : Nat :=
  ((rangeFrom 0x10 0x1F0).filter fun w => bitOf (fuseWord s w) 0 && bitsOf (fuseWord s w) 23 9 / 34 = die).length

/-- Spare rows of a compute die: those in use, hard and soft, and those left of 8,160. -/
def showRepairs (s : State) (die : Nat) : State :=
  let soft := ((s.boot.softRepairs.filter fun e => e.1 / 34 = die).map (·.2)).sum
  let used := hardRepairs s die + soft
  setReg s .tst (1 + die) 0x104 (satN 16 used * 2 ^ 16 + (8160 - used))

/-- Units of the dies counted at roll call (R381, R384): the good cores of a compute die with their vector engines, its sequencer and
its network interface; the network interface of an I/O die with its four controllers, four update units, two engines, slice and six
links, and on IOD0 the KV page manager and the host interface (DEDUCED, log 56). -/
def showTested (s : State) : State :=
  let s1 := (List.range (Config.computeDies s.part)).foldl (fun t d =>
    setField t .tst (1 + d) 0x100 24 8 (2 * ((rangeFrom (34 * d) 34).filter (goodCore s)).length + 2)) s
  (List.range (Config.ioDies s.part)).foldl (fun t d => setField t .tst (9 + d) 0x100 24 8 (if d = 0 then 20 else 18)) s1

/-- Units of a report that leave the module in the failed state: neither a core nor a peer link (R385). -/
def brokenUnits (r : TestReport) : List (Nat × Nat) := r.unitFail.filter fun u => u.1 != 4 && u.1 != 0xC

/-- Roll call and self-test as the report finds them. ROLL_CALL_FAILED names a unit that leaves the module in the failed state; the
signature of a unit that does not answer is a free value (R384, R385, DESIGN CHOICE, log 7). -/
def selfTest (s : State) (r : TestReport) : State :=
  let s1 := r.unitFail.foldl (fun t u =>
    let d := drawFree (if (brokenUnits r).contains u then post t .tst 0 0x0901 [u.1, u.2] else t)
    lbistFail d.1 u.1 u.2 d.2) (showTested s)
  let s2 := r.lbistTwice.foldl (fun t c => lbistFail t 4 c.1 c.2) s1
  let s3 := r.mbistFail.foldl (fun t c => post (latchRow t c) .tst 0 0x0904 []) s2
  let s4 := r.softRepairs.foldl (fun t e =>
    setBoot (post (latchRow t e.1) .tst 0 0x0903 [e.2]) fun b =>
      { b with softRepairs := mput b.softRepairs e.1 ((mget b.softRepairs e.1).getD 0 + e.2) }) s3
  (List.range (Config.computeDies s.part)).foldl showRepairs s4

/-! ### Seating and firmware (R389, R390) -/

/-- Whether a core is in service after the tests. -/
def coreUp (s : State) (r : TestReport) (c : Nat) : Bool :=
  goodCore s c && !(r.lbistTwice.any (·.1 = c)) && !r.unitFail.contains (4, c) && !r.mbistFail.contains c

/-- The chart of power-on: the first 32 cores in service of a die seated in order, the rest in reserve. -/
def chartSeat (s : State) (r : TestReport) (c : Nat) : Seat :=
  let d := c / 34
  let pos := ((rangeFrom (34 * d) (c % 34)).filter (coreUp s r)).length
  if !coreUp s r c then .outOfService else if pos < 32 then .seated (32 * d + pos) else .reserve

/-- A number without a core announced (R371). -/
def announceAbsent (s : State) (n failed : Nat) : State := bump (post s .rel 0 0x0807 [n, failed]) .rel 0 0x118 16 16 1

def buildChart (s : State) (r : TestReport) : State :=
  let s1 := setCores s fun c =>
    { c with seats := (List.range (Config.physicalCores s.part)).map fun p => (p, chartSeat s r p)
             cores := [], substituting := [], recomputing := [] }
  ((List.range (Config.logicalCores s.part)).filter fun n => (physOf s1 n).isNone).foldl (fun t n => announceAbsent t n 0xFFFF) s1

def setSeat (s : State) (p : Nat) (x : Seat) : State := setCores s fun c => { c with seats := mput c.seats p x }

/-- Cores that do not take their firmware go out of service; the numbers that this frees, with the core that held each. -/
def dropUnloaded (s : State) (r : TestReport) : State × List (Nat × Nat) :=
  (sortBy id r.firmwareFail).foldl (fun (q : State × List (Nat × Nat)) p =>
    match mget q.1.cores.seats p with
    | some (.seated n) => (post (setSeat q.1 p .outOfService) .tst 0 0x090A [], q.2 ++ [(n, p)])
    | some .reserve => (post (setSeat q.1 p .outOfService) .tst 0 0x090A [], q.2)
    | _ => q) (s, [])

/-- The broadcast of R390: a number whose core was lost goes to the lowest substitute that loaded, or is absent. -/
def loadCores (s : State) (r : TestReport) : State :=
  let q := dropUnloaded s r
  q.2.foldl (fun t e =>
    match substituteFor t e.1 with
    | some p => setSeat t p (.seated e.1)
    | none => announceAbsent t e.1 e.2) q.1

/-! ### Training and zero-fill (R391 to R395) -/

/-- Every enabled link aligned and still in training; one that failed three attempts, or its self-test twice, in detention (R385,
R391). -/
def trainLinks (s : State) (r : TestReport) : State :=
  { s with links := (List.range (Config.peerLinks s.part)).map fun n =>
      (n, if r.linkFail.contains n || r.unitFail.contains (0xC, n) then { Link.reset with state := .detention } else { Link.reset with state := .training, aligned := true }) }

/-- The step of R123 at or below a rate; 0 below 32 Gbit/s. -/
def rateStep (v : Nat) : Nat := if v < 32 then 0 else min 48 (v / 4 * 4)

/-- Rate a channel trains to by the report; 48 Gbit/s where it says nothing. -/
def trainedRate (r : TestReport) (c : Nat) : Nat := rateStep ((mget r.channelRates c).getD 48)

/-- The rate of a channel with its device: the lowest of the channels that trained (R123, R393). -/
def settledRate (r : TestReport) (c : Nat) : Nat :=
  if trainedRate r c = 0 then 0
  else (((List.range 4).map fun k => trainedRate r (4 * (c / 4) + k)).filter (· > 0)).foldl min (trainedRate r c)

def trainMemory (s : State) (r : TestReport) : State :=
  let rates := (List.range (Config.channels s.part)).map fun c => (c, settledRate r c)
  (rates.filter (·.2 = 0)).foldl (fun t e => post t .mem (e.1 / 4) 0x0908 [e.1])
    (setGddr s fun g => { g with rates := rates, retraining := [], attempts := [], waiting := [], retrying := [] })

/-- Zero-fill, and the read-back that TST_CTL.SWEEP_VERIFY asks for (R395). -/
def zeroFill (s : State) (r : TestReport) : State :=
  let s1 := setGddr { s with mem := [] } fun g => { g with badSectors := r.sweepFail.foldl insertNat [], marks := [] }
  if !bitOf (kept s1 .tst 0 0x104) 2 then s1
  else r.sweepFail.foldl (fun t a =>
    let t1 := if kept t .tst 0 0x114 = 0 then setPair64 t .tst 0 0x118 a else t
    post (bump t1 .tst 0 0x114 0 32 1) .tst 0 0x0905 [a]) s1

/-! ### Power-on (R382, R383, R385) -/

/-- Step 8: the module up, or the host interface only in the failed state. -/
def finishPowerOn (s : State) (r : TestReport) : State :=
  let seated := ((List.range (Config.logicalCores s.part)).filter fun n => (physOf s n).isSome).length
  let subs := (s.cores.seats.filter (·.2 = .reserve)).length
  let s1 := setReg s .tst 0 0x100 (9 * 2 ^ 24 + b2n s.boot.failed * 4 + 1)
  let s2 := setReg s1 .tst 0 0x110 (satN 32 (r.durationTicks / 25000))
  let hif := if field s2 .hif 0 0x100 0 1 = 1 then [domHif] else []
  let s3 := setPwr s2 fun p => { p with running := (hif ++ (if s.boot.failed then [] else mgtDomains)).foldl insertNat [] }
  post s3 .tst 0 0x0900 [r.durationTicks, seated, subs]

def enterFailed (s : State) : State := setBoot s fun b => { b with failed := true }

/-- The module answers registers and management buses only, from here on (R380, R409). -/
def stopBoot (s : State) : State := setField (setBoot s fun b => { b with stopped := true }) .tst 0 0x100 1 1 1

/-- Steps 2 to 8, with what the tests find. -/
def powerOn (s : State) (r : TestReport) : State :=
  let s0 := setPwr s fun p => { p with braked := p.pwrbrk }
  let b := bootManagement s0
  if !b.2 then stopBoot b.1
  else
    let s1 := selfTest b.1 r
    if !(brokenUnits r).isEmpty then finishPowerOn (enterFailed s1) r
    else
      let k := bootKind (buildChart s1 r) 2
      if !k.2 then finishPowerOn (enterFailed k.1) r
      else finishPowerOn (zeroFill (trainMemory (trainLinks (loadCores k.1 r) r) r) r) r

/-- Power-on step under way, 9 when done. -/
def bootStep (s : State) : Nat := field s .tst 0 0x100 24 4

/-- Power-on goes on from step 2 once MAIN_PG is good and PERST# deasserted; not after a trip (R399). -/
def continueBoot (s : State) (r : TestReport) : State :=
  if bootStep s = 2 && s.pwr.mainPg && !s.pwr.perst && !s.boot.stopped && !s.pwr.tripped then powerOn s r else s

/-- Whether the fuses are those of the part, and ROLLBACK a thermometer (R380, R405). -/
def fusesOk (s : State) : Bool :=
  fuseWord s 1 = Config.fuseDies s.part && fuseWord s 2 = Config.fuseLinks s.part && fuseWord s 3 = Config.fuseMemory s.part
    && (List.range 65).any fun k => 2 ^ k - 1 = rollback s

/-- AUX_POWER_GOOD: step 1. -/
def execAuxPowerGood (s : State) : Host.Outcome State Fault Refusal :=
  .next (if s.pwr.auxGood then s
    else
      let s1 := setPwr s fun p => { p with auxGood := true }
      if fusesOk s1 then setReg s1 .tst 0 0x100 (2 * 2 ^ 24) else stopBoot (setReg s1 .tst 0 0x100 (2 ^ 24)))

/-- MAIN_PG_ASSERTED. -/
def execMainPgAsserted (report : TestReport) (s : State) : Host.Outcome State Fault Refusal :=
  .next (if !s.pwr.auxGood || s.pwr.mainPg then s
    else continueBoot (setPwr s fun p => { p with mainPg := true }) report)

/-- Boot state that no supply loss touches: fuses, boot store, identity area. -/
def keptBoot (s : State) : Boot :=
  { Boot.reset s.part with
    fuses := s.boot.fuses, mgmtA := s.boot.mgmtA, mgmtB := s.boot.mgmtB, coreA := s.boot.coreA, coreB := s.boot.coreB,
    mgmtCurrent := s.boot.mgmtCurrent, coreCurrent := s.boot.coreCurrent, certificate := s.boot.certificate,
    identityModulus := s.boot.identityModulus }

/-- The module without power. What stands in the command queue, and what it has sent, is not the module's to lose. -/
def powerCut (s : State) : State :=
  { State.resetOf s.part with
    pending := s.pending, freeCtr := s.freeCtr, replies := s.replies, hostOut := s.hostOut, boot := keptBoot s }

/-- MAIN_PG_LOST: only the always-on domain keeps power: the tick, TST_CTL, PWR_SIDEBAND, the filtered inputs, the soft
repairs, the I3C address (R429, R438, R441). -/
def execMainPgLost (s : State) : Host.Outcome State Fault Refusal :=
  .next (if !s.pwr.mainPg then s
    else
      let c := powerCut s
      let keep := s.regs.filter fun e => e.1 = pageOf .tst 0 + 0x104 || e.1 = pageOf .pwr 0 + 0x118
      let t := { c with
        tick := s.tick
        regs := keep
        pwr := { c.pwr with auxGood := true, perst := s.pwr.perst, pwrbrk := s.pwr.pwrbrk, releasing := s.pwr.releasing }
        boot := { c.boot with softRepairs := s.boot.softRepairs, i3cAddress := s.boot.i3cAddress } }
      if bootStep s = 1 then stopBoot (setReg t .tst 0 0x100 (2 ^ 24)) else setReg t .tst 0 0x100 (2 * 2 ^ 24))

/-- AUX_POWER_LOST: the always-on domain loses power too, and with it the tick and every soft repair. -/
def execAuxPowerLost (s : State) : Host.Outcome State Fault Refusal := .next (if s.pwr.auxGood then powerCut s else s)

end Sys2Proof.Machine
end

