-- ==== Sys2Proof/Machine/Recovery.lean ====
section
/-! DEFINITION. Device recovery, PERST#, I/O rail faults, the hall monitor, escalation and the answers of the REL page (R354
to R356, R359 to R375, R430). -/

namespace Sys2Proof.Machine

/-! ### Steps 1 to 3 -/

/-- Hands whose decision outlasts a recovery: those of MGT instance 0, an answered silent-layer hand included, and those of a
table switch (R115, R280, R362, DEDUCED, log 57). -/
def handsToRaise (s : State) : List Hand :=
  (s.hif.hands.filter fun h => h.page = pageOf .mgt 0 || h.page = pageOf .emb 0) ++ (s.scaling.filter fun e => e.2.silentHand && (mgtHand s 2 e.1).isNone).map fun e =>
    ⟨0, pageOf .mgt 0, 2, e.2.silentItems⟩

/-- Every standing hand withdrawn, oldest first. -/
def withdrawAll (s : State) : State := s.hif.hands.foldl withdraw s

/-- The recovery notice, and the answers to routed commands that the recovery ends (R41, R43, R44, R365). -/
def giveNotice (s : State) : State :=
  if !inClass s then s
  else
    let s1 := setTwin (sendTwin s (.recoveryNotice s.twin.pair false)) fun t =>
      { t with noticeSent := true, startPair := t.pair, notedRecovery := none, notedRemoval := false }
    let s2 := match s.twin.enrolment with
      | some e => answerAttach s1 e 0x27 s.twin.number (s.job.openStep % 2 ^ 32)
      | none => s1
    let s3 := match s.twin.detachAt with
      | some d => sendAnswer s2 d.2.1 d.2.2 0x24 s.twin.number (pairCode .detached)
      | none => s2
    abandonRepairs (setTwin s3 fun t =>
      { t with enrolment := none, detachAt := none, waits := [], snapshots := [], forward := [], endMark := none, digestsOff := false })

/-- The update units through every accepted update that no channel holds up: what waited tried again, each second write made (R171,
R195). -/
def drainUpdates (s : State) : State :=
  let t := retryTiles (retryRows s)
  (t.tables.open2.filter fun o => !writeHeld t o).foldl secondWrite t

/-- Whether an accepted update waits for a channel that retrains: the drain goes on until it is back (R127, R362 step 2). What waits for
the twin's copy or for the host waits for the return (DEDUCED, log 103). -/
def drainWaits (s : State) : Bool :=
  s.tables.open2.any (writeHeld s)
    || (s.tables.pendRows.any fun p => match tableAt s p.table with
      | some d => memWaits s (recordAddr d p.slot p.key) d.stride
      | none => false)
    || s.tables.pendTiles.any fun p => match mget s.tables.shards p.hdr.tensorId with
      | some d => (findTile s d p.line p.depth).any fun i =>
          memWaits s (d.weightBase + i * d.weightStride) d.weightStride || memWaits s (d.stateBase + i * d.stateStride) d.stateStride
      | none => false

/-- Core SRAM, pins, tiles and clocks lost; GDDR7 in self-refresh (R362 step 3). -/
def stopUnits (s : State) : State :=
  let s1 := setCores s fun c => { c with cores := [], sram := [], badWords := [] }
  let s2 := setPwr s1 fun p => { p with passes := [], requests := [], running := [] }
  setGddr s2 fun g => { g with selfRefresh := true }

/-- Step 2 as far as it goes, and step 3 after it; a die without its rail holds the recovery there (R362, R430). -/
def drainRecovery (s : State) : State :=
  let t := drainUpdates s
  if drainWaits t then t else stopUnits (setRel t fun r => { r with recovery := if r.railDie.isSome then 3 else 4 })

/-- Device recovery started: steps 1 to 3. A second start merges with the one under way (R335). -/
def startRecovery (s : State) (cause : Nat) : State :=
  if !isUp s then s
  else
    let s1 := post (bump s .rel 0 0x110 0 16 1) .rel 0 0x0803 [cause]
    let s2 := giveNotice (setRel s1 fun r => { r with afterReturn := handsToRaise s1 })
    let s3 := detachHost (withdrawAll s2) 3
    let s4 := setHif s3 fun h => { h with cause := 3, waitGo := false }
    let s5 := abortCommands s4 fun _ => true
    let s6 := setBoot s5 fun b => { b with m0 := [], m1 := [], challenge := none, granted := b.granted / 4 * 4 }
    let s7 := { s6 with scaling := s6.scaling.map fun e => (e.1, { e.2 with answer := if e.2.silentHand then none else e.2.answer }) }
    drainRecovery (setRel s7 fun r => { r with recovery := 2, recoveryCause := cause, recoveryStart := s.tick, hall := [] })

/-! ### Steps 4 to 6 -/

/-- Cores in detention retested by one run: a pass is a substitute in reserve, a failure out of service. How the result is
coded in CORE_RETESTED is a free value (DESIGN CHOICE, log 7). -/
def retestCores (s : State) (r : TestReport) : State :=
  (s.cores.seats.filter (·.2 = .detention)).foldl (fun t e =>
    if r.lbistOnce.contains e.1 || r.lbistTwice.any (·.1 = e.1) then
      (let d := drawFree (setSeat t e.1 .outOfService)
       post d.1 .rel 0 0x0808 [d.2])
    else setSeat t e.1 .reserve) s

/-- The chart rebuilt from the one in force; lost pairs the numbers that lost their core since with that core (R373). -/
def rebuildChart (s : State) (lost : List (Nat × Nat)) : State :=
  let empty := (List.range (Config.logicalCores s.part)).filter fun n => (physOf s n).isNone
  empty.foldl (fun t n =>
    match substituteFor t n with
    | some p => bump (post (setSeat t p (.seated n)) .rel 0 0x0806 [p, n, 0xFFFF]) .rel 0 0x118 0 16 1
    | none =>
      match mget lost n with
      | some f => announceAbsent t n f
      | none => t) (setCores s fun c => { c with substituting := [], recomputing := [] })

/-- Memory trained again with its contents kept: a channel that was waiting or out of service returns, or is out (R394). -/
def retrainMemory (s : State) (r : TestReport) : State :=
  let away := (deadChannels s) ++ s.gddr.retraining
  let s1 := trainMemory s r
  let back := (List.range (Config.channels s.part)).filter fun c => away.contains c && settledRate r c > 0
  setGddr (back.foldl (fun t c => post t .mem (c / 4) 0x0202 [c, settledRate r c]) s1) fun g => { g with selfRefresh := false }

/-- Steps 4 to 6, once PERST# and the rails let recovery go on (R363, R430). -/
def runRecovery (s : State) (r : TestReport) : State :=
  if s.rel.recovery != 4 || s.pwr.perst || s.pwr.tripped || s.rel.railDie.isSome || s.boot.stopped then s
  else
    let b := bootManagement s
    if !b.2 then stopBoot b.1
    else
      let k := bootKind b.1 2
      let ret := fun (t : State) => setRel t fun x => { x with recovery := 7 }
      if !k.2 then ret (enterFailed k.1)
      else
        let q := dropUnloaded k.1 r
        ret (retrainMemory (trainLinks (rebuildChart (retestCores q.1 r) (q.1.cores.substituting ++ q.2)) r) r)

/-- DEVICE_RECOVERY. -/
def execDeviceRecovery (cause : Nat) (report : TestReport) (s : State) : Host.Outcome State Fault Refusal :=
  .next (runRecovery (startRecovery s cause) report)

/-- DEVICE_RECOVERY_REQUEST. -/
def execDeviceRecoveryRequest (fn : Nat) (s : State) : Host.Outcome State Fault Refusal :=
  .next (guardWrite s fn .dev 0 fun s => startRecovery s 2)

/-! ### Step 7 -/

/-- The pair state of a module that returns, by the first case of R365 that applies. -/
def choosePair (s : State) : State :=
  let t := s.twin
  let put := fun (p : PairState) => setTwin s fun t => { t with pair := p }
  if !inClass s then s
  else if t.notedRemoval then leaveClass s s.job.openStep
  else if t.startPair = .paired && t.notedRecovery = some .paired then
    (if !senior s then put .detached
     else if isMember s (twinOf s) then sendRemoval (put .sole) (twinOf s) else put .sole)
  else if t.startPair = .sole then put .sole
  else put .detached

/-- Hands whose decision still stands, raised again as new hands. -/
def raiseAgain (s : State) : State :=
  s.rel.afterReturn.foldl (fun t h => raise t (if h.page = pageOf .emb 0 then .emb else .mgt) 0 h.bit h.items) (setRel s fun r => { r with afterReturn := [] })

/-- RECOVERY_RETURN. -/
def execRecoveryReturn (s : State) : Host.Outcome State Fault Refusal :=
  .next (if s.rel.recovery != 7 || s.pwr.perst || s.pwr.tripped then s
    else
      let s1 := setPwr s fun p =>
        { p with recess := false, recessing := false, noticed := false
                 running := ((if field s .hif 0 0x100 0 1 = 1 then [domHif] else []) ++ mgtDomains).foldl insertNat [] }
      let ticks := s.tick - s.rel.recoveryStart
      let s2 := setField (setRel s1 fun r => { r with recovery := 0 }) .rel 0 0x114 0 20 (satN 20 (ticks / 25000))
      let s3 := kickUpdates ((s.tables.shards.map (·.2)).foldl repairShard (recoverPages (choosePair s2)))
      let s4 := setTwin s3 fun t => { t with notedRecovery := none, notedRemoval := false }
      setHif (raiseAgain (post s4 .rel 0 0x0804 [ticks])) fun h => { h with waitGo := field s .hif 0 0x100 0 1 = 1 })

/-! ### PERST# (R363, R436) -/

/-- PERST_ASSERTED: recovery, or a hold of the one under way before its step 4. -/
def execPerstAsserted (s : State) : Host.Outcome State Fault Refusal :=
  .next (if !s.pwr.auxGood then s
    else
      let s1 := setPwr s fun p => { p with perst := true }
      if s.rel.recovery = 0 then startRecovery s1 3
      else if s.rel.recovery < 4 then s1
      else stopUnits (setRel s1 fun r => { r with recovery := 4 }))

/-- PERST_DEASSERTED: recovery goes on at step 4, power-on at step 2. -/
def execPerstDeasserted (report : TestReport) (s : State) : Host.Outcome State Fault Refusal :=
  .next (
    let s1 := setPwr s fun p => { p with perst := false }
    if s.rel.recovery = 4 then runRecovery s1 report else continueBoot s1 report)

/-! ### I/O rail faults (R430) -/

/-- The units of an I/O die stopped where they stand: updates between their writes stay torn, and accepted gradient rows,
merges and tiles that are not written yet are lost. -/
def loseDie (s : State) (die : Nat) : State :=
  let onDie := fun (a : Nat) => memOf s.part a / 4 = die
  let rowAt := fun (p : PendRow) => match tableAt s p.table with
    | some d => recordAddr d p.slot p.key
    | none => 0
  let tileAt := fun (p : PendTile) => match mget s.tables.shards p.hdr.tensorId with
    | some d => d.weightBase + ((findTile s d p.line p.depth).getD 0) * d.weightStride
    | none => 0
  setTables s fun t =>
    { t with open2 := t.open2.filter fun o => o.unit / 4 != die
             pendRows := t.pendRows.filter fun p => !onDie (rowAt p)
             pendTiles := t.pendTiles.filter fun p => !onDie (tileAt p)
             grads := t.grads.map fun g => if g.engine % Config.embEngines s.part / 2 = die then { g with rows := [] } else g }

/-- IO_RAIL_FAULT. Recovery waits after its step 3 for the rail. -/
def execIoRailFault (die : Nat) (s : State) : Host.Outcome State Fault Refusal :=
  .next (if die ≥ Config.ioDies s.part || !s.pwr.mainPg || !(isUp s || s.rel.recovery != 0) then s
    else
      let s1 := startRecovery (setRel (loseDie s die) fun r => { r with railDie := some die }) 4
      if s1.rel.recovery < 4 then s1 else setRel s1 fun r => { r with recovery := 3 })

/-- IO_RAIL_RESTORE: recovery goes on, or the module enters the failed state. -/
def execIoRailRestore (die : Nat) (restored : Bool) (s : State) : Host.Outcome State Fault Refusal :=
  .next (if s.rel.railDie != some die then s
    else if restored then setRel s fun r => { r with railDie := none, recovery := if r.recovery = 3 then 4 else r.recovery }
    else
      let s1 := setRel (enterFailed s) fun r => { r with railDie := none, recovery := 0 }
      let s2 := setField s1 .tst 0 0x100 2 1 1
      if die = 0 then setBoot s2 fun b => { b with stopped := true }
      else setHif s2 fun h => { h with waitGo := field s .hif 0 0x100 0 1 = 1 })

/-! ### Escalation (R359, R360) -/

/-- A standing escalation hand of a function. -/
def escalationHand (s : State) (fn : Nat) : Option Hand :=
  s.hif.hands.find? fun h => h.page = pageOf .rel 0 && h.bit = 2 && h.items.headD 0 = fn

/-- Hang escalation: recovery, or a hand that names the function (0xF for a shared block), the page and the stall. -/
def escalate (s : State) (fn page ticks : Nat) : State :=
  let s1 := post (bump s .rel 0 0x11C 16 16 1) .rel 0 0x0802 [fn]
  if field s .rel 0 0x010 2 1 = 0 then startRecovery s1 1
  else if (escalationHand s fn).isSome then s1
  else raise s1 .rel 0 2 [fn, page, ticks]

/-! ### The hall monitor (R354 to R356) -/

/-- A unit as the monitor finds it: key, kind of deadline, function (0xF for a shared block), counters, clock held. -/
structure HallView where
  key : Nat
  kind : Nat
  fn : Nat
  progress : List Nat
  held : Bool

def pageProgress (s : State) (b : Blk) (i : Nat) : Nat := kept s b i 0x28

/-- Whether a substitution holds the deadlines of a function (R355). -/
def fnHeld (s : State) (fn : Nat) : Bool :=
  (s.cores.substituting.any fun e => dieFunction s (e.1 / 32) = fn) || s.cores.recomputing.any fun e => dieFunction s (e.1 / 32) = fn

def linkRetrains (s : State) : Bool := s.links.any fun e => e.2.state = .retraining

/-- Whether a hand stands that work waits for: no work waits for a thermal, a silent-layer or an escalation hand (R275, R343, R360). -/
def workHand (s : State) : Bool := s.hif.hands.any fun h =>
  !((h.page = pageOf .rel 0 && h.bit = 2) || (h.page = pageOf .pwr 0 && h.bit = 1) || (h.page = pageOf .mgt 0 && h.bit = 2))

/-- Cores with work issued and unfinished. -/
def hallCores (s : State) : List HallView :=
  s.cores.seats.filterMap fun e =>
    match e.2 with
    | .seated n =>
      let k := coreAt s e.1
      let work := k.accA.isSome || k.accB.isSome || !k.tray.isEmpty || !k.transfers.isEmpty || k.vecWait.isSome || k.meWait
        || s.pwr.requests.any (·.2 = e.1)
      let mem := match k.transfers with
        | x :: _ => !x.t.inHost && memWaits s x.t.addr x.t.bytes
        | [] => false
      let stagger := !s.pwr.passes.contains e.1 && (handsOn s (pageOf .pwr 0)).any (·.bit = 0)
      let gwait := (!k.tray.isEmpty || k.vecWait.isSome) && (handsOn s (pageOf .mgt 0)).any (·.bit = 0)
      if work then some ⟨pageOf .coreL n, 0, dieFunction s (n / 32), [pageProgress s .coreP e.1],
        fnHeld s (dieFunction s (n / 32)) || mem || stagger || gwait⟩ else none
    | _ => none

/-- Counters of the units that serve a command. -/
def servingProgress (s : State) (c : HostCmd) : List Nat :=
  let all := fun (b : Blk) => (List.range (blkMax b)).map (pageProgress s b)
  match c.slot.opcode / 8 with
  | 0x20 => ((coresOf s c).flatMap fun e => [pageProgress s .coreP e.2, pageProgress s .vec e.1]) ++ all .mem
  | 0x22 => all .emb ++ all .col ++ all .upd
  | 0x23 => all .col ++ all .upd
  | 0x24 => all .att ++ all .col ++ all .kvp
  | 0x25 => all .kvp
  | _ => all .col

/-- Queues with a consumed command that has not completed. -/
def hallQueues (s : State) : List HallView :=
  s.hif.queues.filterMap fun q =>
    let cs := s.hif.running.filter fun c => c.fn = q.fn && c.queue = q.queue
    if cs.isEmpty then none
    else some ⟨pageOf .cmd q.fn + q.queue + 1, 1, q.fn, q.cqTail :: cs.flatMap (servingProgress s),
      fnHeld s q.fn || !q.held.isEmpty || q.stopped || workHand s || !s.gddr.retraining.isEmpty || linkRetrains s⟩

/-- Shared blocks with work queued. -/
def hallShared (s : State) : List HallView :=
  let view := fun (b : Blk) (i : Nat) (held : Bool) =>
    (⟨pageOf b i, 2, 0xF, [pageProgress s b i], held || workHand s⟩ : HallView)
  let chan := fun (m : Nat) => s.gddr.retraining.any fun c => c / 4 = m
  let any := !s.gddr.retraining.isEmpty
  let pick := fun (b : Blk) (work : Nat → Bool) (held : Nat → Bool) =>
    (List.range (blkMax b)).filterMap fun i => if blkPresent s.part b i && work i then some (view b i (held i)) else none
  pick .upd (fun i => s.tables.open2.any (·.unit = i) || s.tables.pendRows.any (·.unit = i) || s.tables.pendTiles.any (·.unit = i)) chan
    ++ pick .mem (fun i => s.gddr.waiting.any fun w => w.1 / 4 = i) chan
    ++ pick .emb (fun i => s.tables.batches.any (fun b => b.hdr.dstPoint % Config.embEngines s.part = i)
        || s.tables.lookups.any fun l => !l.done && l.keys.any fun k => engineOf k % Config.embEngines s.part = i
            && !(l.replies.any fun r => r.key = k)) (fun _ => any)
    ++ pick .col (fun i => (unacked s).any fun m => channelSlice s m.hdr.srcChannel = i) (fun _ => any || linkRetrains s)
    ++ pick .kvp (fun _ => s.decodes.any (·.pinWait)) (fun _ => any)

/-- A unit's entry after one more reading. -/
def hallEntry (s : State) (v : HallView) : HallUnit :=
  match s.rel.hall.find? (·.key = v.key) with
  | none => ⟨v.key, v.progress, 0, false⟩
  | some o =>
    if o.progress ≠ v.progress then ⟨v.key, v.progress, 0, false⟩
    else if v.held || s.pwr.recess || s.pwr.recessing then o
    else { o with stalled := o.stalled + 1 }

/-- Deadline of a kind in milliseconds. -/
def hallDeadline (s : State) (kind : Nat) : Nat :=
  if kind = 0 then 10 * field s .rel 0 0x10C 0 8 else 100 * field s .rel 0 0x10C 8 8

/-- Whether a reset of a function ended within REPEAT_WINDOW (R359). -/
def resetRecent (s : State) (fn : Nat) : Bool :=
  match mget s.rel.resetEnds fn with
  | none => false
  | some t => s.tick - t ≤ field s .rel 0 0x10C 16 8 * 25000000

/-- One firing (R356, R376); acted names the functions already reset in this millisecond. -/
def fireHall (q : State × List Nat) (v : HallView) (stalled : Nat) : State × List Nat :=
  let page := v.key / 4096 * 4096
  let s1 := post (bump q.1 .rel 0 0x11C 0 16 1) .rel 0 0x0800 [page, v.kind, stalled * 25000]
  if v.kind = 2 then (if (escalationHand s1 0xF).isSome then s1 else escalate s1 0xF page (stalled * 25000), q.2)
  else if v.fn = 0 || q.2.contains v.fn || (escalationHand s1 v.fn).isSome then (s1, q.2)
  else if resetRecent s1 v.fn then (escalate s1 v.fn page (stalled * 25000), q.2 ++ [v.fn])
  else (functionReset s1 v.fn 1, q.2 ++ [v.fn])

/-- HALL_MONITOR_CHECK: one reading of every page. -/
def execHallMonitorCheck (s : State) : Host.Outcome State Fault Refusal :=
  .next (if !isUp s then s
    else
      let vs := hallCores s ++ hallQueues s ++ hallShared s
      let hung := (vs.map fun v => (v, hallEntry s v)).filter fun p => p.2.stalled ≥ hallDeadline s p.1.kind && !p.2.ignored
      let keep := vs.map fun v =>
        let e := hallEntry s v
        if hung.any fun p => p.1.key = v.key then { e with stalled := 0 } else e
      (hung.foldl (fun q p => fireHall q p.1 p.2.stalled) (setRel s fun r => { r with hall := keep }, [])).1)

/-! ### Answers of the REL page (R375) -/

/-- The answer to a substitution hand: the proposed substitute, or the next in reserve, seated; or the number absent. -/
def answerSubstitution (s : State) (h : Hand) (v : Nat) : Option State :=
  let n := h.items.getD 1 0
  let q := h.items.getD 2 0
  if v > 1 then none
  else
    match s.cores.substituting.find? (·.1 = n) with
    | none => some s
    | some (_, failed) =>
      if v = 1 then some (makeAbsent s n failed)
      else if mget s.cores.seats q = some .reserve then some (seatSubstitute s n failed q)
      else
        match substituteFor s n with
        | some p => some (seatSubstitute s n failed p)
        | none => some (makeAbsent s n failed)

/-- The answer to an escalation hand. -/
def answerEscalation (s : State) (h : Hand) (v : Nat) : Option State :=
  match v with
  | 0 => some (startRecovery s 1)
  | 1 => some (functionReset s (h.items.headD 0) 5)
  | 2 => some (setRel s fun r =>
      { r with hall := r.hall.map fun u => if u.key / 4096 * 4096 = h.items.getD 1 0 then { u with ignored := true } else u })
  | _ => none

/-- A write of BLK_ANSWER of the REL page: MODE_BIT of the oldest hand selects the meaning. -/
def answerRel (s : State) (v : Nat) : State :=
  answer s .rel 0 fun h t =>
    match h.bit with
    | 0 => answerTwin t h v
    | 1 => answerSubstitution t h v
    | _ => answerEscalation t h v

/-- TWIN_REPAIR_ANSWER (R38). -/
def execTwinRepairAnswer (fn : Nat) (value : W32) (s : State) : Host.Outcome State Fault Refusal :=
  .next (guardWrite s fn .rel 0 fun s => answerRel s value.toNat)

/-- SUBSTITUTION_ANSWER. -/
def execSubstitutionAnswer (fn : Nat) (value : W32) (s : State) : Host.Outcome State Fault Refusal :=
  .next (guardWrite s fn .rel 0 fun s => answerRel s value.toNat)

/-- HANG_ESCALATION_ANSWER. -/
def execHangEscalationAnswer (fn : Nat) (value : W32) (s : State) : Host.Outcome State Fault Refusal :=
  .next (guardWrite s fn .rel 0 fun s => answerRel s value.toNat)

end Sys2Proof.Machine
end

