-- ==== Sys2Proof/Machine/Sweep.lean ====
section
/-! DEFINITION. The transcript: marked items, sweeps, and placement in the ring (R31, R107, R307, DEDUCED, log 60). -/

namespace Sys2Proof.Machine

/-- An item of the transcript: its place, its header fields, whether it is twinned, and the address whose stamp a tile of a
pair must equal (0 for none). -/
structure SweepItem where
  addr : Nat
  len : Nat
  kind : Nat
  tensor : Nat
  epoch : Nat
  twinned : Bool
  record : Nat
  partner : Nat
  deriving DecidableEq, Repr

/-- Row records of a table that this module holds, in both slots. -/
def tableSweep (s : State) (d : TableDesc) : List SweepItem :=
  let slots := [0] ++ (if d.slot1 = 0 then [] else [1])
  ((List.range d.shards).filter fun k => holdsRows s d (ownerOf d k)).flatMap fun k =>
    slots.flatMap fun v => (List.range d.rows).map fun r =>
      let key : RowKey := ⟨k, r⟩
      (⟨recordAddr d v key, recordLength d, 1, d.tensor, epochOfSlot d v, d.twinned, recordNumber d key, 0⟩ : SweepItem)

/-- Record number of a tile from its header (R185). -/
def tileRecord (s : State) (a : Nat) : Nat :=
  let h := devRead s a 64
  leAt h 8 2 * 65536 + leAt h 0xA 2

/-- Weight and state tiles of a shard. -/
def shardSweep (s : State) (d : ShardDesc) : List SweepItem :=
  (List.range d.tiles).flatMap fun i =>
    let w := d.weightBase + i * d.weightStride
    let t := d.stateBase + i * d.stateStride
    let one := fun (a k p : Nat) => (⟨a, (tileBytes s a).length, k, d.tensor, 0, d.twinned, tileRecord s a, p⟩ : SweepItem)
    if d.optimiser = 0 then [one w 2 0] else [one w 2 t, one t 3 w]

/-- Every item in memory of this module, in ascending address. -/
def sweepItems (s : State) : List SweepItem :=
  sortBy (·.addr) ((s.tables.descs.flatMap fun e => tableSweep s e.2) ++ (s.tables.shards.flatMap fun e => shardSweep s e.2)
    ++ s.scaling.map fun e => ⟨scaleAddr s.part e.1, 32, 4, e.1, 0, true, 0, 0⟩)

/-- Whether an item has been written since it was last emitted. -/
def isMarked (s : State) (it : SweepItem) : Bool := s.gddr.marks.any fun m => overlaps m.1 m.2 it.addr it.len

/-- Whether this module emits twinned items: the senior of a pair, or the module that holds the state alone (R31). -/
def emitsTwinned (s : State) : Bool :=
  (paired s && senior s) || s.twin.pair = .sole || s.twin.pair = .enrollingSource

/-- Marked items that the module may emit now. -/
def markedItems (s : State) : List SweepItem :=
  if s.gddr.marks.isEmpty then [] else (sweepItems s).filter fun it => isMarked s it && (!it.twinned || emitsTwinned s)

/-- A marked descriptor with its bytes. -/
def descItem (s : State) (key : Nat) : Option (Nat × List Byte) :=
  if key < 2 ^ 16 then (mget s.tables.descs key).map fun d => (d.tensor, tableDescBytes d)
  else (mget s.tables.shards (key - 2 ^ 16)).map fun d => (d.tensor, shardDescBytes d)

/-- Bytes of items marked and not yet emitted that the module may emit now (R306). -/
def backlog (s : State) : Nat :=
  ((markedItems s).map (·.len)).sum + (s.gddr.descMarks.filterMap fun m => (descItem s m.1).map (·.2.length)).sum

/-- Written ranges without those of an emitted item. -/
def unmark (ms : List (Nat × Nat)) (a n : Nat) : List (Nat × Nat) :=
  ms.foldl (fun r m =>
    if !overlaps m.1 m.2 a n then addMark r m.1 m.2
    else addMark (addMark r m.1 (a - m.1)) (max m.1 (a + n)) (m.1 + m.2 - (a + n))) []

/-- Stamp of an item as it lies in memory, or none while it is torn. -/
def itemStamp (s : State) (it : SweepItem) (bs : List Byte) : Option Nat :=
  match it.kind with
  | 1 => if leAt bs 0 3 = leAt bs (it.len - 4) 3 then some (leAt bs 0 3) else none
  | 4 => some (leAt bs 8 3)
  | _ => if it.partner = 0 || leAt (devRead s it.partner 64) 0xC 3 = leAt bs 0xC 3 then some (leAt bs 0xC 3) else none

/-- What the emitter may still write in this row: bytes left under the rate cap, and bytes written. -/
structure SweepRoom where
  cap : Option Nat
  used : Nat
  whole : Bool

/-- Whether an item of n bytes with its header fits the ring and the cap. -/
def fits (s : State) (r : Rings) (m : SweepRoom) (n : Nat) : Bool :=
  let size := r.trMib * 2 ^ 20
  let head := pair64 s .hif 0 0x120 % size
  let inUse := (s.hif.trOffset + size - head) % size
  n + inUse < size && match m.cap with
    | none => true
    | some c => m.used + n ≤ c || (m.used = 0 && m.whole)

/-- An item written at the offset of the ring. -/
def emit (s : State) (r : Rings) (kind tensor epoch record stamp : Nat) (bs : List Byte) : State :=
  let t : TranscriptItem := ⟨s.hif.itemSeq, kind, tensor, epoch, s.job.layoutEpoch, record, stamp % 2 ^ 24, bs⟩
  setHif (hostWrite s (.transcript (r.trBase + s.hif.trOffset) t)) fun h =>
    { h with itemSeq := h.itemSeq + 1, trOffset := (h.trOffset + 64 + bs.length) % (r.trMib * 2 ^ 20) }

/-- A sweep in progress: the state, the room, and where it stopped. -/
structure Sweeping where
  s : State
  room : SweepRoom
  stopped : Option Nat

/-- One item of a sweep: emitted, passed with its mark kept, or the place where the sweep stops. -/
def sweepOne (r : Rings) (q : Sweeping) (it : SweepItem) : Sweeping :=
  if q.stopped.isSome then q
  else if memWaits q.s it.addr it.len then { q with stopped := some it.addr }
  else
    match badSector q.s it.addr it.len with
    | some a =>
      let t := if q.s.twin.waits.any (·.addr = it.addr) then q.s else noteUE q.s a
      { q with s := if it.twinned && paired t then requestItem t it.addr it.len t.job.openStep false false else t }
    | none =>
      let bs := if it.kind = 4 then twinRead q.s it.addr it.len else devRead q.s it.addr it.len
      match itemStamp q.s it bs with
      | none => q
      | some st =>
        if !fits q.s r q.room (64 + bs.length) then { q with stopped := some it.addr }
        else
          let t := emit q.s r it.kind it.tensor it.epoch it.record st bs
          { q with s := setGddr t fun g => { g with marks := unmark g.marks it.addr it.len }
                   room := { q.room with used := q.room.used + 64 + bs.length } }

/-- Where descriptors stand in the order of a sweep: behind every address. -/
def descPlace (key : Nat) : Nat := 2 ^ 64 + key

def sweepDesc (r : Rings) (q : Sweeping) (m : Nat × Nat) : Sweeping :=
  if q.stopped.isSome then q
  else
    let clear := fun (t : State) => setGddr t fun g => { g with descMarks := mdel g.descMarks m.1 }
    match descItem q.s m.1 with
    | none => { q with s := clear q.s }
    | some (tn, bs) =>
      if !fits q.s r q.room (64 + bs.length) then { q with stopped := some (descPlace m.1) }
      else { q with s := clear (emit q.s r 5 tn 0 0 m.2 bs), room := { q.room with used := q.room.used + 64 + bs.length } }

/-- The end of a sweep: its mark, and the ranges that belong to no item dropped. -/
def endSweep (r : Rings) (q : Sweeping) (step : Nat) : State :=
  let stop := fun (t : State) (a : Nat) => setHif t fun h => { h with sweep := some (a, step), trWait := true }
  match q.stopped with
  | some a => stop q.s a
  | none =>
    if !fits q.s r q.room 72 then stop q.s (2 ^ 65)
    else
      let items := sweepItems q.s
      let t := setHif (emit q.s r 6 0 0 0 step (leBytes 8 step)) fun h => { h with sweep := none, trWait := false }
      setGddr t fun g => { g with marks := g.marks.filter fun m => items.any fun it => overlaps m.1 m.2 it.addr it.len }

/-- One run of the emitter from where the last one stopped. -/
def runSweep (s : State) (r : Rings) (budget : Nat) : State :=
  let start := s.hif.sweep.getD (0, s.job.openStep)
  let full := r.rateCap * 1000000
  let room : SweepRoom := ⟨if r.rateCap = 0 then none else some (min budget full), 0, budget ≥ full⟩
  let q := ((markedItems s).filter fun it => start.1 ≤ it.addr).foldl (sweepOne r) ⟨s, room, none⟩
  endSweep r ((q.s.gddr.descMarks.filter fun m => start.1 ≤ descPlace m.1).foldl (sweepDesc r) q) start.2

/-- TRANSCRIPT_SWEEP: the emitter runs, with what the rate cap still allows. -/
def execTranscriptSweep (budget : Nat) (s : State) : Host.Outcome State Fault Refusal :=
  .next (if !isUp s || s.boot.failed || s.pwr.recess || hostAway s then s
    else
      match s.hif.rings with
      | none => s
      | some r => runSweep s r budget)

end Sys2Proof.Machine
end

