-- ==== Sys2Proof/Machine/Power.lean ====
section
/-! DEFINITION. Hall passes, staggering, brake, thermal steps, recess and the report card (R306, R336 to R350, R435 to R438). -/

namespace Sys2Proof.Machine

/-! ### Hall passes and clocks (R338, R339) -/

/-- Whether a staggering hand holds every pass issuer (R340). -/
def passesHeld (s : State) : Bool := (handsOn s (pageOf .pwr 0)).any (·.bit = 0)

/-- Whether the issuer of a die may grant: the effective interval has passed since its last grant. -/
def grantDue (s : State) (die : Nat) : Bool :=
  match mget s.pwr.lastGrant die with
  | none => true
  | some t => t + effInterval s ≤ s.tick

/-- HALL_PASS_GRANT: the first request of the die is granted and the core's clock starts. -/
def execHallPassGrant (die : Nat) (s : State) : Host.Outcome State Fault Refusal :=
  .next (
    match (s.pwr.requests.find? fun q => q.2 / 34 = die).map (·.2) with
    | none => s
    | some p =>
      if !isUp s || passesHeld s || (s.pwr.recess && !s.pwr.recessing) || !grantDue s die then s
      else
        let s1 := setPwr s fun w =>
          { w with passes := insertNat w.passes p, requests := w.requests.filter (·.2 != p), lastGrant := mput w.lastGrant die s.tick
                   running := insertNat w.running p }
        bump s1 .pwr (1 + die) 0x104 0 32 1)

/-- Whether a core has nothing under way. -/
def coreIdle (k : Core) : Bool := k.accA.isNone && k.accB.isNone && k.tray.isEmpty && k.transfers.isEmpty

/-- HALL_PASS_RELEASE. -/
def execHallPassRelease (physical : Nat) (s : State) : Host.Outcome State Fault Refusal :=
  .next (if !s.pwr.passes.contains physical || !coreIdle (coreAt s physical) then s
    else setPwr s fun w => { w with passes := w.passes.filter (· != physical), running := w.running.filter (· != physical) })

/-- Whether a non-core domain keeps its clock when idle (R338). -/
def keepsClock (s : State) (d : Nat) : Bool :=
  if domMem 0 ≤ d && d < domMem 16 then s.gddr.waiting.any fun w => domMem (w.1 / 4) = d
  else if domMgt 0 ≤ d then true
  else d = domHif && field s .hif 0 0x100 0 1 = 1

/-- DOMAIN_CLOCK_STOP. -/
def execDomainClockStop (domain : Nat) (s : State) : Host.Outcome State Fault Refusal :=
  .next (if domain < 272 || keepsClock s domain then s
    else setPwr s fun w => { w with running := w.running.filter (· != domain) })

/-! ### Power staggering (R340) -/

/-- The widened interval set by R340; a widening is counted. -/
def setWidened (s : State) (n : Nat) : State :=
  let s1 := setPwr s fun w => { w with widened := n, below := 0 }
  if n > s.pwr.widened then bump s1 .pwr 0 0x114 16 16 1 else s1

/-- POWER_READING. -/
def execPowerReading (watts : Nat) (s : State) : Host.Outcome State Fault Refusal :=
  .next (
    let s1 := setField s .pwr 0 0x100 16 16 (satN 16 watts)
    let limit := field s .pwr 0 0x108 0 16
    let now := s.pwr.widened
    let wide := min (2 * now) 16
    if !isUp s then s1
    else if watts > limit then
      if field s .pwr 0 0x010 0 1 = 0 then post (setWidened s1 wide) .pwr 0 0x0707 [watts, wide]
      else
        let s2 := setPwr s1 fun w => { w with below := 0 }
        if wide = now || passesHeld s then s2 else raise s2 .pwr 0 0 [watts, now, wide]
    else if 10 * watts < 9 * limit then
      if s.pwr.below + 1 < 100 then setPwr s1 fun w => { w with below := w.below + 1 }
      else setPwr s1 fun w => { w with widened := max 1 (now / 2), below := 0 }
    else setPwr s1 fun w => { w with below := 0 })

/-! ### Thermal steps (R343) -/

/-- PWR instance of die k of R351: CD0 to CD7, then IOD0 to IOD3. -/
def dieInstance (k : Nat) : Nat := k + 1

/-- The hottest die that is present, with its temperature in 1/16 °C. -/
def hottest (s : State) (temps : List Int) : Option (Nat × Int) :=
  (temps.zipIdx.filter fun q => blkPresent s.part .pwr (dieInstance q.2)).foldl (fun (m : Option (Nat × Int)) q =>
    match m with
    | some (_, t) => if t < q.1 then some (q.2, q.1) else m
    | none => some (q.2, q.1)) none

/-- The readings shown in PWR_THERMAL and PWR_DIE_STAT. -/
def showTemps (s : State) (temps : List Int) : State :=
  let s1 := temps.zipIdx.foldl (fun t q =>
    if blkPresent t.part .pwr (dieInstance q.2) then setField t .pwr (dieInstance q.2) 0x100 16 16 (unsignedOf 16 q.1) else t) s
  match hottest s temps with
  | none => s1
  | some (k, v) => setReg s1 .pwr 0 0x10C (unsignedOf 16 v * 2 ^ 16 + k)

/-- The trip at 120 °C: clocks stopped but for the memory controllers, GDDR7 in self-refresh, THERMTRIP# low. -/
def trip (s : State) : State :=
  let s1 := if hostAway s then s else post s .pwr 0 0x0706 []
  setGddr (setPwr s1 fun w =>
    { w with tripped := true, recess := false, recessing := false, passes := [], requests := []
             running := w.running.filter fun d => domMem 0 ≤ d && d < domMem 16 }) fun g => { g with selfRefresh := true }

/-- A thermal hand is due: the hottest temperature and the return, 700 MHz (DEDUCED, log 58). -/
def raiseThermal (s : State) (t : Int) : State := raise s .pwr 0 1 [unsignedOf 64 t, 700]

/-- A reading with every die below 100 °C while a step holds: ten in a row bring the return, or its hand; after answer 0b10
the hand comes again after 1,000 further readings. -/
def coolReading (s : State) (t : Int) : State :=
  let s1 := setPwr s fun w => { w with cool := w.cool + 1 }
  if (handsOn s (pageOf .pwr 0)).any (·.bit = 1) then s1
  else if field s .pwr 0 0x010 1 1 = 0 then
    if s.pwr.cool + 1 < 10 then s1
    else post (setPwr s1 fun w => { w with thermalStep := false, cool := 0, coolHand := 0 }) .pwr 0 0x0705 []
  else if s.pwr.coolHand > 0 then
    let s2 := setPwr s1 fun w => { w with coolHand := w.coolHand - 1 }
    if s.pwr.coolHand = 1 then raiseThermal s2 t else s2
  else if s.pwr.cool + 1 < 10 then s1
  else raiseThermal s1 t

/-- THERMAL_READING. -/
def execThermalReading (temps : List Int) (s : State) : Host.Outcome State Fault Refusal :=
  .next (
    let s1 := showTemps s temps
    match hottest s temps with
    | none => s1
    | some (_, v) =>
      if !s.pwr.mainPg || s.pwr.tripped then s1
      else if v ≥ 1920 then trip s1
      else if v ≥ 1680 && !s.pwr.thermalStep then
        post (bump (setPwr s1 fun w => { w with thermalStep := true, cool := 0, coolHand := 0 }) .pwr 0 0x110 0 16 1) .pwr 0 0x0704 []
      else if v < 1600 && s.pwr.thermalStep then coolReading s1 v
      else setPwr s1 fun w => { w with cool := 0 })

/-! ### Answers of PWR instance 0 (R351) -/

/-- The answer to a staggering hand. -/
def answerStagger (s : State) (h : Hand) (action v : Nat) : Option State :=
  match action with
  | 0 => some (setWidened s (h.items.getD 2 1))
  | 1 => if 1 ≤ v && v ≤ 16 then some (setWidened s v) else none
  | 2 => some s
  | _ => none

/-- The answer to a thermal hand. -/
def answerThermal (s : State) (action : Nat) : Option State :=
  match action with
  | 0 => some (setPwr s fun w => { w with thermalStep := false, cool := 0, coolHand := 0 })
  | 2 => some (setPwr s fun w => { w with coolHand := 1000 })
  | _ => none

def answerPwr (s : State) (v : Nat) : State :=
  answer s .pwr 0 fun h t =>
    if h.bit = 0 then answerStagger t h (bitsOf v 8 2) (bitsOf v 0 8) else answerThermal t (bitsOf v 8 2)

/-- STAGGERING_ANSWER. -/
def execStaggeringAnswer (fn : Nat) (value : W32) (s : State) : Host.Outcome State Fault Refusal :=
  .next (guardWrite s fn .pwr 0 fun s => answerPwr s value.toNat)

/-- THERMAL_STEP_ANSWER. -/
def execThermalStepAnswer (fn : Nat) (value : W32) (s : State) : Host.Outcome State Fault Refusal :=
  .next (guardWrite s fn .pwr 0 fun s => answerPwr s value.toNat)

/-! ### The brake (R342, R436, R438) -/

/-- PWRBRK_ASSERTED: braked, or recorded while the module has no power or is tripped. -/
def execPwrbrkAsserted (s : State) : Host.Outcome State Fault Refusal :=
  .next (if !s.pwr.auxGood then s
    else
      let s1 := bump (setPwr s fun w => { w with pwrbrk := true, releasing := false }) .pwr 0 0x110 16 16 1
      if s.pwr.tripped || s.pwr.braked then s1
      else post (setPwr s1 fun w => { w with braked := true }) .pwr 0 0x0702 [])

/-- PWRBRK_RELEASED: 25,000 deasserted samples. -/
def execPwrbrkReleased (s : State) : Host.Outcome State Fault Refusal :=
  .next (
    let s1 := setPwr s fun w => { w with pwrbrk := false, releasing := false }
    if s.pwr.tripped || !s.pwr.braked then s1
    else post (setPwr s1 fun w => { w with braked := false }) .pwr 0 0x0703 [])

/-- ASSERTION_NOT_TAKEN: pin 0 PERST#, 1 PWRBRK#. One of PWRBRK# while the brake holds restarts the release count. -/
def execAssertionNotTaken (pin : Nat) (s : State) : Host.Outcome State Fault Refusal :=
  .next (if !s.pwr.auxGood || pin > 1 then s
    else
      let s1 := bump s .pwr 0 0x118 16 16 1
      if pin = 1 && s.pwr.pwrbrk then setPwr s1 fun w => { w with releasing := true } else s1)

/-! ### Recess (R344 to R347) -/

/-- Whether the recess notice still waits for its acknowledgement. -/
def noticeOpen (s : State) : Bool := (unacked s).any fun m => m.body = .recessNotice

/-- The pair states in which a module does not enter recess. -/
def enrolling (s : State) : Bool := s.twin.pair = .enrollingSource || s.twin.pair = .enrollingTarget

/-- Steps 2 and 3 of R345 as far as they have come: the state with its notice sent, and whether both have ended. -/
def approachSleep (s : State) (keep : Bool) : State × Bool :=
  let s1 := setPwr s fun w => { w with recessing := true }
  if !keep && backlog s != 0 then (s1, false)
  else if isMember s (twinOf s) && !s.pwr.noticed then (sendTwin (setPwr s1 fun w => { w with noticed := true }) .recessNotice, false)
  else (s1, !noticeOpen s)

/-- Links that carry traffic, in low power or back. -/
def linkPower (s : State) (a b : LinkState) : State :=
  { s with links := s.links.map fun e => (e.1, if e.2.state = a then { e.2 with state := b } else e.2) }

/-- Whether a doorbell has given a queue slots that are not read yet. -/
def doorbellOpen (s : State) : Bool := s.hif.queues.any fun q => q.head != q.tail && !q.stopped

/-- Step 5 of R345, once memory retraining has finished: the entry stays under way until then. A doorbell that has arrived
meanwhile starts the wake at once (R350). -/
def sleep (s : State) : State :=
  if !s.gddr.retraining.isEmpty then setPwr s fun w => { w with sleeping := true } else
  let s1 := setPwr (linkPower s .inService .lowPower) fun w => { w with
    recess := true
    recessing := false
    sleeping := false
    passes := []
    requests := []
    running := [] }
  let s2 := bump (setGddr s1 fun g => { g with selfRefresh := true }) .pwr 0 0x114 0 16 1
  if doorbellOpen s2 then beginWake s2 else s2

/-- RECESS_ENTER: the row comes again until its steps are done. What forbids recess is looked at until step 1 has ended. -/
def execRecessEnter (c : HostCmd) (s : State) : Host.Outcome State Fault Refusal :=
  runCmd s 0x001E c fun s =>
    if !s.pwr.recessing && (s.job.running || enrolling s || !s.hif.hands.isEmpty) then refuse s c condition
    else if (s.hif.running.any (· != c)) || !s.hif.duplicates.isEmpty then s
    else
      let r := approachSleep s (bitOf c.slot.param0 0)
      if r.2 then sleep (post (done r.1 c) .pwr 0 0x0700 [0]) else r.1

/-- Whether a consumed or unread command keeps the module from automatic recess. -/
def hostBusy (s : State) : Bool :=
  !s.hif.running.isEmpty || doorbellOpen s

/-- AUTO_RECESS: the idle time has passed (R346). A doorbell before the module sleeps ends the entry. -/
def execAutoRecess (s : State) : Host.Outcome State Fault Refusal :=
  .next (if !isUp s || s.pwr.recess || s.pwr.sleeping || field s .pwr 0 0x104 16 16 = 0 then s
    else if s.job.running || enrolling s || !s.hif.hands.isEmpty || hostBusy s then
      let s1 := setPwr s fun w => { w with recessing := false, noticed := false }
      if s.pwr.noticed then sendTwin s1 .wakeNotice else s1
    else
      let r := approachSleep s false
      if r.2 then sleep (post r.1 .pwr 0 0x0700 [1]) else r.1)

/-- WAKE: clocks, links and memory back, the twin told (R347). -/
def execWake (s : State) : Host.Outcome State Fault Refusal :=
  .next (if !s.pwr.recess || s.pwr.tripped then s
    else
      let s1 := setPwr (linkPower s .lowPower .inService) fun w =>
        { w with recess := false, recessing := false, noticed := false
                 running := (domHif :: (ioNetDomains s ++ memDomains s ++ mgtDomains)).foldl insertNat w.running }
      let s2 := setGddr s1 fun g => { g with selfRefresh := false }
      post (if s.pwr.noticed then sendTwin s2 .wakeNotice else s2) .pwr 0 0x0701 [])

/-- RECESS_NOTICE: it stands until the wake notice. -/
def execRecessNotice (h : MsgHdr) (s : State) : Host.Outcome State Fault Refusal :=
  .next (receive s h fun s => setTwin s fun t => { t with twinRecess := true })

/-- WAKE_NOTICE. -/
def execWakeNotice (h : MsgHdr) (s : State) : Host.Outcome State Fault Refusal :=
  .next (receive s h fun s => setTwin s fun t => { t with twinRecess := false })

/-! ### The report card (R306) -/

/-- The STATE byte of the card. -/
def cardState (s : State) : Nat :=
  let l := kept s .hif 0 0x100
  let degraded := bitOf l 0 && (bitsOf l 8 3 < 5 || bitsOf l 11 5 < 16)
  b2n s.pwr.recess + b2n s.pwr.braked * 2 + b2n s.pwr.thermalStep * 4 + b2n degraded * 8 + b2n (s.rel.recovery != 0) * 16
    + b2n s.hif.detached * 32

/-- The card as the module stands. -/
def cardOf (s : State) : Card where
  seq := s.hif.cardSeq
  tick := s.tick % 2 ^ 32
  state := cardState s
  pair := pairCode s.twin.pair + b2n (senior s) * 8
  classNumber := s.twin.number
  openStep := s.job.openStep
  closedStep := s.job.closedStep
  layoutEpoch := s.job.layoutEpoch
  job := if s.job.running then s.job.number else 0
  junction := field s .pwr 0 0x10C 16 16
  power := field s .pwr 0 0x100 16 16
  eventSeq := s.hif.eventSeq
  handSeq := s.hif.handSeq
  handsPending := s.hif.hands.length
  linksUp := ((s.links.filter (·.2.state = .inService)).map fun e => 2 ^ e.1).sum
  channelsUp := ((List.range (Config.channels s.part)).map fun c =>
    if ((mget s.gddr.rates c).getD 0) > 0 && !s.gddr.retraining.contains c then 2 ^ c else 0).sum
  coresAbsent := if s.cores.seats.isEmpty then [] else
    (List.range (Config.logicalCores s.part)).filter fun n => (physOf s n).isNone
  substitutes := (List.range 8).map fun d => (s.cores.seats.filter fun e => e.1 / 34 = d && e.2 = .reserve).length
  backlog := backlog s
  queues := s.hif.queues.map fun q => (q.fn, q.queue, q.head, q.cqTail)

/-- REPORT_CARD: none with no rings set, while detached, or after a trip. -/
def execReportCard (s : State) : Host.Outcome State Fault Refusal :=
  .next (match s.hif.rings with
    | none => s
    | some r =>
      if hostAway s || !isUp s then s
      else setHif (hostWrite s (.card r.card (cardOf s))) fun h => { h with cardSeq := h.cardSeq + 1 })

end Sys2Proof.Machine
end

