-- ==== Sys2Proof/Machine/Links.lean ====
section
/-! DEFINITION. Peer links: training, the identity exchange, retraining and detention (R25 to R27, R391, R396 to R399). -/

namespace Sys2Proof.Machine

def setLink (s : State) (n : Nat) (l : Link) : State := { s with links := mput s.links n l }

/-- Whether a row about a link has anything to act on. -/
def linkLives (s : State) (n : Nat) : Bool := isUp s && !s.boot.failed && n < Config.peerLinks s.part

/-! ### The identity exchange (R25, R26) -/

/-- Whether the far end is the one a link's role requires. -/
def rightFar (s : State) (n cls far : Nat) : Bool := requiredFar s.part s.twin.size s.twin.number n = some (cls, far)

/-- For PL11, the link in detention whose role requires this far end (R26, DEDUCED, log 61). -/
def standInFor (s : State) (cls far : Nat) : Option Nat :=
  (List.range (Config.peerLinks s.part)).find? fun n => n != 11 && (linkOf s n).state = .detention && rightFar s n cls far

/-- A retrain that has returned a link to service (R396). -/
def countReturned (s : State) (n : Nat) : State := post (bump s .lnk n 0x104 0 16 1) .lnk n 0x0906 []

/-- A retrain that has not (R396). -/
def countFailed (s : State) (n : Nat) : State := bump s .lnk n 0x104 16 16 1

/-- The streams of the retry stores as they stand to the links (R245, R263): one whose link has gone moves to another that its traffic may
take, or waits for one, and starts there with the resend of R242. -/
def moveStreams (s : State) : State :=
  (dedup [] (s.col.retry.map fun m => (streamOf m.hdr, m.dst))).foldl (fun t k =>
    let ms := t.col.retry.filter fun m => (streamOf m.hdr, m.dst) = k
    match ms.head? with
    | none => t
    | some m =>
      let links := (routeOf t m.dst m.hdr).links
      if links.isEmpty then setCol t fun c => { c with ways := c.ways.filter (·.1 != k) }
      else if (t.col.ways.find? (·.1 = k)).any fun w => links.contains w.2 then t
      else resend t ms) s

/-- A link whose exchange has found the right far end. -/
def admitLink (s : State) (n cls far : Nat) : State :=
  let l := linkOf s n
  let s1 := setLink s n { l with state := .inService, farClass := cls, farLink := far, fails := 0, retest := false }
  if l.retest then countReturned s1 n else s1

/-- A link held in detention for its far end; cause 1 wrong far end, 2 part number differs. -/
def holdMiswired (s : State) (n cls far cause : Nat) : State :=
  let l := linkOf s n
  let s1 := setLink s n { l with state := .detention, farClass := cls, farLink := far, fails := 0, retest := false, standIn := 0x1F }
  post (if l.retest then countFailed s1 n else s1) .lnk n 0x0100 [n, cls, far, cause]

/-- The exchange of a link with a formed far end. -/
def exchange (s : State) (n cls far part : Nat) : State :=
  let own := part = Config.partNumber s.part
  if linkRole n = .spare then
    match standInFor s cls far with
    | some m =>
      if !own then holdMiswired s n cls far 2
      else
        let s1 := admitLink s n cls far
        post (setLink s1 n { linkOf s1 n with standIn := m }) .lnk n 0x0101 [m]
    | none => holdMiswired s n cls far 1
  else if !rightFar s n cls far then holdMiswired s n cls far 1
  else if !own then holdMiswired s n cls far 2
  else admitLink s n cls far

/-- IDENTITY_EXCHANGE: an aligned link in training between formed ends, or one in service whose ends have been formed again. -/
def execIdentityExchange (link farClass farLink farPart : Nat) (farFormed : Bool) (s : State) : Host.Outcome State Fault Refusal :=
  .next (
    let l := linkOf s link
    if !linkLives s link || !inClass s || !farFormed then s
    else if (l.state = .training && l.aligned) || l.state = .inService then moveStreams (exchange s link farClass farLink farPart)
    else s)

/-! ### Training (R391) -/

/-- PEER_LINK_TRAINING_DONE: one attempt; the third failure in a row puts the link in detention. -/
def execPeerLinkTrainingDone (link : Nat) (aligned : Bool) (s : State) : Host.Outcome State Fault Refusal :=
  .next (
    let l := linkOf s link
    if !linkLives s link || l.state != .training then s
    else if aligned then setLink s link { l with aligned := true, fails := 0 }
    else if l.fails ≥ 2 then moveStreams (setLink s link { l with aligned := false, fails := 0, state := .detention })
    else setLink s link { l with aligned := false, fails := l.fails + 1 })

/-! ### Retraining (R396, R397) -/

/-- A standing hand of a link. -/
def linkHand (s : State) (n : Nat) : Option Hand := oldest s (pageOf .lnk n)

/-- One attempt begun: in hardware mode at once, in host-assisted mode behind a hand. -/
def attempt (s : State) (n : Nat) : State :=
  let l := linkOf s n
  if field s .lnk n 0x010 0 1 = 1 then raise s .lnk n 0 [n, l.cause, l.fails + 1] else s

/-- A retrain begun; one that runs already merges with it (R399). cause: 1 loss of lock, 2 replay rate, 3 BLK_RESET. -/
def beginRetrain (s : State) (n cause : Nat) : State :=
  let l := linkOf s n
  if l.state = .retraining || l.state = .down then s
  else
    let s := setReg s .lnk n 0x014 0
    attempt (moveStreams (setLink s n { l with state := .retraining, cause := cause, fails := 0,
                                               retest := true, aligned := l.aligned && l.state = .training })) n

/-- LINK_BLOCK_LOCK_LOSS. -/
def execLinkBlockLockLoss (link : Nat) (s : State) : Host.Outcome State Fault Refusal :=
  .next (if linkLives s link && (linkOf s link).state = .inService then beginRetrain s link 1 else s)

/-- LINK_REPLAY_RATE: frames replayed within 1 ms. -/
def execLinkReplayRate (link frames : Nat) (s : State) : Host.Outcome State Fault Refusal :=
  .next (if !(linkLives s link && (linkOf s link).state = .inService) then s
    else
      let s1 := bump s .lnk link 0x108 0 32 frames
      if frames > 1000 then beginRetrain s1 link 2 else s1)

/-- A retrain through BLK_RESET: also the retest of a link in detention (R398, R399). -/
def requestRetrain (s : State) (n : Nat) : State :=
  if linkLives s n then setReg (beginRetrain s n 3) .lnk n 0x014 1 else s

/-- LINK_RETRAIN_REQUEST. -/
def execLinkRetrainRequest (fn link : Nat) (s : State) : Host.Outcome State Fault Refusal :=
  .next (guardWrite s fn .lnk link fun s => requestRetrain s link)

/-- A retrain attempt that has aligned the link: the identity exchange follows (R25). -/
def retrained (s : State) (n : Nat) : State := setLink s n { linkOf s n with state := .training, aligned := true, fails := 0 }

/-- LINK_RETRAIN_DONE: one attempt; the third failure in a row ends in detention. -/
def execLinkRetrainDone (link : Nat) (ok : Bool) (s : State) : Host.Outcome State Fault Refusal :=
  .next (
    let l := linkOf s link
    if !linkLives s link || l.state != .retraining || (linkHand s link).isSome then s
    else if ok then retrained s link
    else if l.fails ≥ 2 then
      moveStreams (post (countFailed (setLink s link { l with state := .detention, fails := 0, retest := false, standIn := 0x1F }) link)
        .lnk link 0x0907 [])
    else attempt (setLink s link { l with fails := l.fails + 1 }) link)

/-- A write of BLK_ANSWER of a LNK page. -/
def answerLink (s : State) (n v : Nat) : State :=
  answer s .lnk n fun _ t =>
    match v with
    | 0 => some t
    | 1 => some (moveStreams (setLink t n { linkOf t n with state := .detention, fails := 0, retest := false, standIn := 0x1F }))
    | _ => none

/-- LINK_RETRAIN_ANSWER. -/
def execLinkRetrainAnswer (fn link : Nat) (value : W32) (s : State) : Host.Outcome State Fault Refusal :=
  .next (guardWrite s fn .lnk link fun s => answerLink s link value.toNat)

end Sys2Proof.Machine
end

