-- ==== Sys2Proof/Machine/Memory.lean ====
section
/-! DEFINITION. GDDR7: CRC retry, retraining, channels out of service, patrol scrub (R126 to R129, R392 to R394). -/

namespace Sys2Proof.Machine

/-- The rate of a channel; 0 out of service or untrained. -/
def channelRate (s : State) (c : Nat) : Nat := (mget s.gddr.rates c).getD 0

/-- A standing hand about a channel. -/
def channelHand (s : State) (c : Nat) : Option Hand :=
  (handsOn s (pageOf .mem (c / 4))).find? fun h => h.items.headD 0 = c

/-- Memory retraining of a controller is the host's to decide (R127). -/
def memAssisted (s : State) (m : Nat) : Bool := field s .mem m 0x010 0 1 = 1

/-- A channel whose traffic waits from now on. -/
def holdChannel (s : State) (c : Nat) : State :=
  setGddr s fun g => { g with retraining := insertNat g.retraining c, attempts := mdel g.attempts c }

/-- CRC_RETRY_EXHAUSTED: a transfer that fails its three retries. In host-assisted mode a hand names the channel; a transfer
tried again under answer 0x1 that fails raises it again (R126, R127). -/
def execCrcRetryExhausted (channel addr : Nat) (s : State) : Host.Outcome State Fault Refusal :=
  .next (
    let m := channel / 4
    let waits := s.gddr.retraining.contains channel
    if !isUp s || channelRate s channel = 0 || (waits && !s.gddr.retrying.contains channel) then s
    else
      let quiet := !(rangeFrom (4 * m) 4).any s.gddr.retraining.contains
      let s0 := if quiet then setReg s .mem m 0x014 0 else s
      let s1 := bump (bump s0 .mem m 0x118 0 16 3) .mem m 0x118 16 16 1
      let s2 := setGddr (holdChannel s1 channel) fun g =>
        { g with retrying := g.retrying.filter (· != channel)
                 waiting := if g.waiting.contains (channel, addr) then g.waiting else g.waiting ++ [(channel, addr)] }
      if memAssisted s m then raise s2 .mem m 0 [channel] else s2)

/-- A channel that carries traffic again, at a rate no higher than its device's (R123, R393). -/
def returnChannel (s : State) (c rate : Nat) : State :=
  let m := c / 4
  let dev := deviceRate s m
  let new := if dev = 0 then rate else min rate dev
  let s1 := setGddr s fun g =>
    { g with rates := mput g.rates c new, retraining := g.retraining.filter (· != c), attempts := mdel g.attempts c
             waiting := g.waiting.filter (·.1 != c) }
  let s2 := post s1 .mem m 0x0202 [c, new]
  let s3 := if new < dev then
      post (setGddr s2 fun g => { g with attempts := g.attempts.filter fun e => e.1 / 4 != m }) .mem m 0x0909 [m, new]
    else s2
  -- the next channel of the device that runs faster trains down
  match (rangeFrom (4 * m) 4).find? fun k => channelRate s3 k > new && !s3.gddr.retraining.contains k with
  | some k => if (rangeFrom (4 * m) 4).any s3.gddr.retraining.contains then s3 else holdChannel s3 k
  | none => s3

/-- What the pair does when a channel goes out of service (R394): a PAIRED module gives its notice and is DETACHED, as is the
target of an enrolment. -/
def loseTwinned (s : State) : State :=
  match s.twin.pair with
  | .paired =>
    abandonRepairs (setTwin (sendTwin s (.recoveryNotice .paired true)) fun t => { t with noticeSent := true, pair := .detached })
  | .enrollingTarget => setTwin s fun t => { t with pair := .detached, enrolment := none }
  | _ => s

/-- A channel that has failed three attempts. -/
def loseChannel (s : State) (c : Nat) : State :=
  let s1 := setGddr s fun g =>
    { g with rates := mput g.rates c 0, retraining := g.retraining.filter (· != c), attempts := mdel g.attempts c
             waiting := g.waiting.filter (·.1 != c) }
  kickUpdates (loseTwinned (post s1 .mem (c / 4) 0x0908 [c]))

/-- A waiting transfer that succeeds without retraining: its channel returns at its rate (R127). -/
def resumeChannel (s : State) (c : Nat) : State :=
  post (setGddr s fun g => { g with
    retraining := g.retraining.filter (· != c)
    retrying := g.retrying.filter (· != c)
    waiting := g.waiting.filter (·.1 != c) }) .mem (c / 4) 0x0202 [c, channelRate s c]

/-- CHANNEL_RETRAIN_DONE: an attempt ends; rate 0 says that it failed down to 32 Gbit/s, and any other is a step of R123. For a
channel whose waiting transfer is tried again under answer 0x1 it says that the transfer has succeeded. -/
def execChannelRetrainDone (channel rate : Nat) (s : State) : Host.Outcome State Fault Refusal :=
  .next (
    let n := (mget s.gddr.attempts channel).getD 0
    let back := fun (t : State) => if t.rel.recovery = 2 then drainRecovery t else
      let u := runHeld (kickUpdates t)
      if u.pwr.sleeping then sleep u else u
    if !(isUp s || s.rel.recovery = 2) || !s.gddr.retraining.contains channel || (channelHand s channel).isSome || (rate != 0 && rateStep rate != rate) then s
    else if s.gddr.retrying.contains channel then (if rate = 0 then s else back (resumeChannel s channel))
    else if rate != 0 then back (returnChannel s channel rate)
    else if n ≥ 2 then back (loseChannel s channel)
    else setGddr s fun g => { g with attempts := mput g.attempts channel (n + 1) })

/-- A write of BLK_ANSWER of a MEM page: 0x0 retrains the channel of the hand, 0x1 tries its waiting transfer three more times
without retraining (R127). -/
def answerMem (s : State) (m v : Nat) : State :=
  answer s .mem m fun h t =>
    if v = 0 then some t
    else if v = 1 then some (setGddr t fun g => { g with retrying := insertNat g.retrying (h.items.headD 0) })
    else none

/-- MEM_RETRAIN_ANSWER. -/
def execMemRetrainAnswer (fn unit : Nat) (value : W32) (s : State) : Host.Outcome State Fault Refusal :=
  .next (guardWrite s fn .mem unit fun s => answerMem s unit value.toNat)

/-- A retrain of all four channels through BLK_RESET, those out of service among them (R323, R394). -/
def requestMemory (s : State) (m : Nat) : State :=
  if !isUp s then s
  else ((rangeFrom (4 * m) 4).filter fun c => !s.gddr.retraining.contains c).foldl holdChannel (setReg s .mem m 0x014 1)

/-- MEM_RETRAIN_REQUEST. -/
def execMemRetrainRequest (fn unit : Nat) (s : State) : Host.Outcome State Fault Refusal :=
  .next (guardWrite s fn .mem unit fun s => requestMemory s unit)

/-! ### Patrol scrub (R128, R129) -/

/-- The twinned item that holds a sector. -/
def itemAtSector (s : State) (a : Nat) : Option TwinItem :=
  (twinItems s).find? fun it => overlaps it.addr it.len a 64 || match it.check with
    | .word w _ => overlaps w 4 a 64
    | _ => false

/-- A sector that scrub cannot read. -/
def scrubBad (s : State) (a : Nat) : State :=
  let s1 := setGddr (noteUE s a) fun g => { g with badSectors := insertNat g.badSectors (sectorOf a) }
  match (if paired s1 then itemAtSector s1 (sectorOf a) else none) with
  | some it => repairItem s1 it.addr
  | none => s1

/-- PATROL_SCRUB: one sector, unless scrub is stopped or the device sleeps; a sector that has a write queued is skipped (R128, R141). -/
def execPatrolScrub (addr : Nat) (read : ScrubRead) (s : State) : Host.Outcome State Fault Refusal :=
  .next (
    let a := sectorOf addr
    if !isUp s || s.pwr.recess || s.gddr.selfRefresh || a ≥ Config.reservedBase s.part + 2 ^ 32
        || field s .mem (memOf s.part a) 0x11C 0 16 = 0 || memWaits s a 64 || writeQueued s a then s
    else
      let t := meetSector s ⟨addr, read.wrong, read.misplaced, read.retries⟩
      if (badSector t a 64).isSome then scrubBad t a else t)

/-! ### The management buses (R434) -/

/-- Whether an I3C access names the module. -/
def i3cMine (s : State) (address : Nat) : Bool := s.pwr.auxGood && address = s.boot.i3cAddress.getD 0x3A

/-- I3C_DYNAMIC_ADDRESS. -/
def execI3cDynamicAddress (address : Nat) (s : State) : Host.Outcome State Fault Refusal :=
  .next (if s.pwr.auxGood && address < 128 then setBoot s fun b => { b with i3cAddress := some address } else s)

/-- I3C_REGISTER_READ: any register from the shadow, at an aligned offset. -/
def execI3cRegisterRead (address offset : Nat) (s : State) : Host.Outcome State Fault Refusal :=
  .next (if !s.pwr.auxGood then s
    else if !i3cMine s address || offset % 4 != 0 then reply s .nack
    else
      let r := read32 s offset
      reply r.1 (.value r.2 4))

/-- A write of the RW and W1C fields of a register (R13, R15, R16). -/
def writeFields (s : State) (b : Blk) (i off v : Nat) : State :=
  let w := writable b i off v
  if !w.ok then stick s b i 2
  else if w.rw = 0 && w.w1c = 0 then s
  else
    let old := kept s b i off
    let keep := old &&& (2 ^ 32 - 1 - w.rw)
    setReg s b i off ((keep &&& (2 ^ 32 - 1 - (v &&& w.w1c))) ||| (v &&& w.rw))

/-- I3C_REGISTER_WRITE: TST_CTL and PWR_LIMIT only. -/
def execI3cRegisterWrite (address offset : Nat) (value : W32) (s : State) : Host.Outcome State Fault Refusal :=
  .next (if !s.pwr.auxGood then s
    else if !i3cMine s address then reply s .nack
    else if offset = pageOf .tst 0 + 0x104 then reply (writeFields s .tst 0 0x104 value.toNat) .ack
    else if offset = pageOf .pwr 0 + 0x108 then reply (writeFields s .pwr 0 0x108 value.toNat) .ack
    else reply s .nack)

/-- A block read on SMBus, answered on auxiliary power. -/
def smbus (s : State) (n v : Nat) : Host.Outcome State Fault Refusal :=
  .next (if s.pwr.auxGood then reply s (.bytes (leBytes n v)) else s)

/-- SMBUS_READ_PART: DEV_PART. -/
def execSmbusReadPart (s : State) : Host.Outcome State Fault Refusal := smbus s 4 (regValue s .dev 0 0x100)

/-- SMBUS_READ_SERIAL: the SERIAL fuse words. -/
def execSmbusReadSerial (s : State) : Host.Outcome State Fault Refusal := smbus s 8 (fuseWord s 0x21B + fuseWord s 0x21C * 2 ^ 32)

/-- SMBUS_READ_JUNCTION: PWR_THERMAL.JUNCTION. -/
def execSmbusReadJunction (s : State) : Host.Outcome State Fault Refusal := smbus s 2 (field s .pwr 0 0x10C 16 16)

/-- SMBUS_READ_POWER: PWR_STAT.INPUT_W. -/
def execSmbusReadPower (s : State) : Host.Outcome State Fault Refusal := smbus s 2 (field s .pwr 0 0x100 16 16)

/-- SMBUS_READ_STATE: the STATE byte of the report card. -/
def execSmbusReadState (s : State) : Host.Outcome State Fault Refusal := smbus s 1 (cardState s)

/-- SMBUS_READ_TST_STAT: TST_STAT bits 7:0. -/
def execSmbusReadTstStat (s : State) : Host.Outcome State Fault Refusal := smbus s 1 (kept s .tst 0 0x100 % 256)

end Sys2Proof.Machine
end

