-- ==== Sys2Proof/Machine/Registers.lean ====
section
/-! DEFINITION. Register accesses of a function through BAR0 (R13 to R18, R284, R314 to R328). -/

namespace Sys2Proof.Machine

/-- A write of BLK_ANSWER (R326): a page without a deciding function discards it. -/
def writeAnswer (s : State) (b : Blk) (i v : Nat) : State :=
  match b with
  | .mem => answerMem s i v
  | .lnk => answerLink s i v
  | .rel => answerRel s v
  | .emb => if i = 0 then answerSwitch s v else stick s b i 1
  | .mgt => if i = 0 then answerMgt s v else stick s b i 1
  | .pwr => if i = 0 then answerPwr s v else stick s b i 1
  | b => stick s b i 1

/-- A write of 1 to BLK_RESET.REQUEST (R323). -/
def writeReset (s : State) (b : Blk) (i : Nat) : State :=
  match b with
  | .dev => startRecovery s 2
  | .mem => requestMemory s i
  | .lnk => requestRetrain s i
  | b => requestReset s b i

/-- A write of a register of the HIF page that does more than set a field (R290, R304, R305, R309). -/
def writeHif (s : State) (off v : Nat) : State :=
  match off with
  | 0x104 => writeAdminCtl s v
  | 0x118 => writeEventHead s v
  | 0x11C => writeHandHead s v
  | 0x128 => if bitOf v 0 then writeGo s else s
  | _ => writeFields s .hif 0 off v

/-- A word taken by a page. An absent core's logical page takes writes to BLK_ERR only (R329). -/
def writeWord (s : State) (b : Blk) (i off v : Nat) : State :=
  if absentPage s b i && off != 0x1C then s
  else
    match off with
    | 0x014 => if bitOf v 0 then writeReset s b i else s
    | 0x024 => writeAnswer s b i v
    | _ => if b = .hif && off ≥ 0x100 then writeHif s off v else writeFields s b i off v

/-- An aligned word written to a page. -/
def writePage (s : State) (fn : Nat) (b : Blk) (i off v : Nat) : State := guardWrite s fn b i fun s => writeWord s b i off v

/-- REGISTER_WRITE: of 4 or 8 aligned bytes; any other is discarded at the page of its first byte (R17). A 64-bit write takes
effect as two word writes, low half first, and each is judged by R16 for itself (DESIGN CHOICE, log 81). -/
def execRegisterWrite (fn offset width : Nat) (value : W64) (s : State) : Host.Outcome State Fault Refusal :=
  .next (if !s.pwr.auxGood then s
    else
      match locate s.part offset with
      | none => unmapped s
      | some (b, i, off) =>
        if !(width = 4 || width = 8) || offset % width != 0 then stick s b i 0
        else
          let s1 := writePage s fn b i off (value.toNat % 2 ^ 32)
          if width = 8 then writePage s1 fn b i (off + 4) (value.toNat / 2 ^ 32) else s1)

/-- One byte of the shadow. -/
def shadowByte (s : State) (offset : Nat) : Nat :=
  match locate s.part (offset / 4 * 4) with
  | none => 0
  | some (b, i, off) => regValue s b i off / 2 ^ (8 * (offset % 4)) % 256

/-- A narrow or misaligned read: the addressed bytes of the shadow, without a latch (R17). -/
def readNarrow (s : State) (offset width : Nat) : State × Nat :=
  (if (locate s.part offset).isNone then unmapped s else s,
   ((List.range width).map fun k => shadowByte s (offset + k) * 2 ^ (8 * k)).sum)

/-- A read of any width and alignment (R17, R18). -/
def readAccess (s : State) (offset width : Nat) : State × Nat :=
  if width = 4 && offset % 4 = 0 then read32 s offset
  else if width = 8 && offset % 8 = 0 then read64 s offset
  else readNarrow s offset width

/-- PAIR_LOW_HALF_READ: a read by any function, of 1, 2, 4 or 8 bytes (R17, R18). -/
def execPairLowHalfRead (_fn : Nat) (read : ReadAt) (s : State) : Host.Outcome State Fault Refusal :=
  .next (if !s.pwr.auxGood then s
    else
      let r := readAccess s read.offset read.width
      reply r.1 (.value r.2 read.width))

end Sys2Proof.Machine
end

