-- ==== Sys2Proof/Machine/Wire.lean ====
section
/-! DEFINITION. The bytes of what the module writes and sends: records in host memory, tile descriptors and message headers (R9, R85,
R239, R295, R304 to R307, R310). -/

namespace Sys2Proof.Machine

/-- A byte string with some of its bytes replaced from an offset on. -/
def overlay (bs : List Byte) (off : Nat) (x : List Byte) : List Byte := bs.take off ++ x ++ bs.drop (off + x.length)

/-- n zero bytes. -/
def zeros (n : Nat) : List Byte := List.replicate n 0

/-- A record followed by the CRC-32C over it. -/
def sealed (bs : List Byte) : List Byte := bs ++ leBytes 4 (crc32c bs)

/-- Up to four 8-byte items, unused items 0 (R443). -/
def itemWords (items : List Nat) : List Byte := (List.range 4).flatMap fun k => leBytes 8 (items.getD k 0)

/-- A completion record (R295). -/
def completionBytes (c : Completion) : List Byte :=
  leBytes 8 c.requestId ++ [byteOf c.status, byteOf c.original, byteOf (c.fn * 16 + b2n c.phase), byteOf (c.queue % 64)]
    ++ leBytes 2 c.sqHead ++ leBytes 2 c.slot ++ leBytes 8 c.detail0 ++ leBytes 8 c.detail1

/-- An event record (R304). -/
def eventBytes (e : EventRec) : List Byte :=
  sealed (leBytes 8 e.seq ++ leBytes 2 e.code ++ [byteOf e.block, byteOf e.inst] ++ leBytes 4 e.tick ++ leBytes 8 e.step
    ++ itemWords e.items ++ zeros 4)

/-- A hand record; the HAND_SEQ of a withdrawn hand stands at 0x18 (R305). -/
def handBytes (h : HandRec) : List Byte :=
  let items := match h.withdrawn with
    | some w => [w]
    | none => h.items
  sealed (leBytes 8 h.seq ++ leBytes 4 h.page ++ [byteOf (h.bit % 32), byteOf (b2n h.withdrawn.isSome)] ++ zeros 2
    ++ leBytes 8 h.step ++ itemWords items ++ leBytes 4 h.tick)

/-- A set of bits as a number. -/
def maskOf (bits : List Nat) : Nat := (bits.map fun n => 2 ^ n).sum

/-- Where the card shows a queue (R306). -/
def cardQueueAt (fn q : Nat) : Nat := if fn = 0 then 0x900 + 4 * q else 0x100 + 4 * (64 * (fn - 1) + q)

/-- The report card (R306). -/
def cardBytes (c : Card) : List Byte :=
  let head := leBytes 8 c.seq ++ leBytes 4 c.tick ++ [byteOf c.state, byteOf c.pair, byteOf c.classNumber, 0]
    ++ leBytes 8 c.openStep ++ leBytes 8 c.closedStep ++ leBytes 2 c.layoutEpoch ++ leBytes 2 c.job ++ leBytes 2 c.junction
    ++ leBytes 2 c.power ++ leBytes 8 c.eventSeq ++ leBytes 8 c.handSeq ++ leBytes 4 c.handsPending ++ leBytes 4 c.linksUp
    ++ leBytes 8 c.channelsUp ++ leBytes 32 (maskOf c.coresAbsent)
    ++ ((List.range 8).map fun d => byteOf (c.substitutes.getD d 0)) ++ leBytes 8 c.backlog
  let body := c.queues.foldl (fun bs q => overlay bs (cardQueueAt q.1 q.2.1) (leBytes 2 q.2.2.1 ++ leBytes 2 q.2.2.2))
    (head ++ zeros (0xFF4 - head.length))
  sealed (body ++ leBytes 8 c.seq)

/-- The resume area: AREA_CRC covers all 32 KiB with itself taken as zero (R310). -/
def resumeBytes (r : Resume) : List Byte :=
  let head := leBytes 8 r.seq ++ [byteOf r.cause] ++ zeros 7 ++ leBytes 8 r.dropped ++ zeros 40
  let area := r.entries.foldl (fun bs e =>
    overlay bs e.1 (leBytes 8 e.2.1 ++ leBytes 8 e.2.2.1 ++ leBytes 2 e.2.2.2.1 ++ leBytes 2 e.2.2.2.2.1 ++ [byteOf e.2.2.2.2.2]))
    (head ++ zeros (32768 - 64))
  overlay area 0x3C (leBytes 4 (crc32c area))

/-- A transcript item: its header, whose ITEM_CRC runs on over the payload, and the payload (R307). -/
def transcriptBytes (t : TranscriptItem) : List Byte :=
  let head := leBytes 8 t.seq ++ [byteOf t.kind, 0] ++ leBytes 2 t.tensor ++ leBytes 2 t.tableEpoch ++ leBytes 2 t.layoutEpoch
    ++ leBytes 8 t.record ++ leBytes 3 t.stamp ++ [0] ++ leBytes 4 t.payload.length ++ zeros 28
  head ++ leBytes 4 (crc32c (head ++ t.payload)) ++ t.payload

/-- Address and bytes of a write to host memory. -/
def hostBytes : HostWrite → Nat × List Byte
  | .completion a c => (a, completionBytes c)
  | .event a e => (a, eventBytes e)
  | .hand a h => (a, handBytes h)
  | .card a c => (a, cardBytes c)
  | .resume a r => (a, resumeBytes r)
  | .transcript a t => (a, transcriptBytes t)
  | .data a bs => (a, bs)

/-- The tile descriptor (R85); bytes 0x14 to 0x17 are 0 without a first invalid product. -/
def tileDescBytes (t : Tile) : List Byte :=
  let mode := match t.mode with
    | .fast => 0
    | .strict => 1
    | .legacy => 2
  let first := match t.first with
    | none => zeros 4
    | some f => [byteOf (f.row % 128), byteOf (f.col % 128)] ++ leBytes 2 (b2n f.side * 2 ^ 15 + f.group % 2 ^ 15)
  leBytes 4 t.commandTag ++ leBytes 2 t.tileRow ++ leBytes 2 t.tileCol
    ++ [byteOf (mode * 16 + b2n t.channelScaled * 8 + b2n t.sidePass * 4 + b2n t.first.isSome * 2 + t.accumulator % 2),
      byteOf t.shift, byteOf (t.replay % 4), byteOf t.outFormat]
    ++ leBytes 2 (satN 16 t.counts.invalid) ++ leBytes 2 (satN 16 t.counts.overflow) ++ leBytes 2 (satN 16 t.counts.saturation)
    ++ leBytes 2 (satN 16 t.counts.underflow) ++ first ++ leBytes 4 (satN 32 t.cycles) ++ leBytes 2 t.tensorId ++ zeros 2

/-- The 64-byte header of a message with a payload (R239). -/
def headerBytes (h : MsgHdr) (payload : List Byte) : List Byte :=
  sealed (leBytes 2 h.job ++ leBytes 2 h.layoutEpoch ++ leBytes 2 h.tableEpoch
    ++ [byteOf h.kind, byteOf (b2n h.last * 128 + b2n h.multicast * 64 + b2n h.direction * 32)]
    ++ leBytes 8 h.step ++ leBytes 8 h.sequence ++ [byteOf (h.srcClass % 64), byteOf (h.srcChannel % 16), byteOf (h.owner % 64),
      byteOf h.dstPoint] ++ leBytes 2 h.ringId ++ leBytes 2 h.tensorId ++ leBytes 8 h.offset ++ leBytes 4 payload.length
    ++ leBytes 4 (if payload.isEmpty then 0 else crc32c payload) ++ [byteOf (h.srcPosition % 64)] ++ zeros 11)

end Sys2Proof.Machine
end

