-- ==== Sys2Proof/Machine/Dispatch.lean ====
section
/-! DEFINITION. One arm per command. -/

namespace Sys2Proof.Machine

open Sys2Proof

def exec (i : Instr) (s : State) : Host.Outcome State Fault Refusal :=
  match i with
  -- commands of submission slots (R298, R412, R345)
  | .nop c => Sys2Proof.Machine.execNop c s
  | .queueCreate c => Sys2Proof.Machine.execQueueCreate c s
  | .queueDelete c => Sys2Proof.Machine.execQueueDelete c s
  | .hostRingsSet c => Sys2Proof.Machine.execHostRingsSet c s
  | .functionMap c => Sys2Proof.Machine.execFunctionMap c s
  | .biasSet c => Sys2Proof.Machine.execBiasSet c s
  | .classForm c joining => Sys2Proof.Machine.execClassForm c joining s
  | .twinDetach c => Sys2Proof.Machine.execTwinDetach c s
  | .twinAttach c => Sys2Proof.Machine.execTwinAttach c s
  | .jobStart c => Sys2Proof.Machine.execJobStart c s
  | .jobEnd c => Sys2Proof.Machine.execJobEnd c s
  | .gradebookSet c => Sys2Proof.Machine.execGradebookSet c s
  | .recessEnter c => Sys2Proof.Machine.execRecessEnter c s
  | .secAttest c => Sys2Proof.Machine.execSecAttest c s
  | .secIdentityRead c => Sys2Proof.Machine.execSecIdentityRead c s
  | .secFirmwareStage c image => Sys2Proof.Machine.execSecFirmwareStage c image s
  | .secRollbackCommit c => Sys2Proof.Machine.execSecRollbackCommit c s
  | .secDebugChallenge c => Sys2Proof.Machine.execSecDebugChallenge c s
  | .secDebugUnlock c token => Sys2Proof.Machine.execSecDebugUnlock c token s
  | .secDebugLock c => Sys2Proof.Machine.execSecDebugLock c s
  | .programRun c image decl => Sys2Proof.Machine.execProgramRun c image decl s
  | .dmaCopy c data => Sys2Proof.Machine.execDmaCopy c data s
  | .objectPlace c data => Sys2Proof.Machine.execObjectPlace c data s
  | .objectFree c => Sys2Proof.Machine.execObjectFree c s
  | .tableDefine c => Sys2Proof.Machine.execTableDefine c s
  | .tableSwitch c => Sys2Proof.Machine.execTableSwitch c s
  | .tableStage c data => Sys2Proof.Machine.execTableStage c data s
  | .tableRoll c data => Sys2Proof.Machine.execTableRoll c data s
  | .embLookup c => Sys2Proof.Machine.execEmbLookup c s
  | .embBackward c => Sys2Proof.Machine.execEmbBackward c s
  | .shardDefine c => Sys2Proof.Machine.execShardDefine c s
  | .optimSet c => Sys2Proof.Machine.execOptimSet c s
  | .scaleReset c => Sys2Proof.Machine.execScaleReset c s
  | .outlierSet c data => Sys2Proof.Machine.execOutlierSet c data s
  | .attRun c data => Sys2Proof.Machine.execAttRun c data s
  | .attDecode c => Sys2Proof.Machine.execAttDecode c s
  | .kvPoolDefine c => Sys2Proof.Machine.execKvPoolDefine c s
  | .kvSeqOpen c data => Sys2Proof.Machine.execKvSeqOpen c data s
  | .kvShare c data => Sys2Proof.Machine.execKvShare c data s
  | .kvRelease c data => Sys2Proof.Machine.execKvRelease c data s
  | .colRingDefine c => Sys2Proof.Machine.execColRingDefine c s
  | .colRun c data => Sys2Proof.Machine.execColRun c data s
  | .reshard c plan => Sys2Proof.Machine.execReshard c plan s
  | .gradebookLift c => Sys2Proof.Machine.execGradebookLift c s
  | .gradebookCompare c data => Sys2Proof.Machine.execGradebookCompare c data s
  -- host interface
  | .doorbell fn queue value => Sys2Proof.Machine.execDoorbell fn queue value s
  | .slotRead fn queue bytes => Sys2Proof.Machine.execSlotRead fn queue bytes s
  | .slotReRead fn queue bytes => Sys2Proof.Machine.execSlotReRead fn queue bytes s
  | .completionPost fn queue => Sys2Proof.Machine.execCompletionPost fn queue s
  | .classCommandRelay h c => Sys2Proof.Machine.execClassCommandRelay h c s
  | .memberAnswer h tag status detail0 detail1 => Sys2Proof.Machine.execMemberAnswer h tag status detail0 detail1 s
  | .adminQueueEnable fn value => Sys2Proof.Machine.execAdminQueueEnable fn value s
  | .adminQueueDisable fn value => Sys2Proof.Machine.execAdminQueueDisable fn value s
  | .resumeGo fn => Sys2Proof.Machine.execResumeGo fn s
  | .eventHeadWrite fn value => Sys2Proof.Machine.execEventHeadWrite fn value s
  | .handHeadWrite fn value => Sys2Proof.Machine.execHandHeadWrite fn value s
  | .transcriptHeadWrite fn value => Sys2Proof.Machine.execTranscriptHeadWrite fn value s
  | .twinRepairAnswer fn value => Sys2Proof.Machine.execTwinRepairAnswer fn value s
  | .prescaleAnswer fn value => Sys2Proof.Machine.execPrescaleAnswer fn value s
  | .outlierAnswer fn value => Sys2Proof.Machine.execOutlierAnswer fn value s
  | .silentLayerAnswer fn value => Sys2Proof.Machine.execSilentLayerAnswer fn value s
  | .tableSwitchAnswer fn value => Sys2Proof.Machine.execTableSwitchAnswer fn value s
  | .memRetrainAnswer fn unit value => Sys2Proof.Machine.execMemRetrainAnswer fn unit value s
  | .linkRetrainAnswer fn link value => Sys2Proof.Machine.execLinkRetrainAnswer fn link value s
  | .substitutionAnswer fn value => Sys2Proof.Machine.execSubstitutionAnswer fn value s
  | .hangEscalationAnswer fn value => Sys2Proof.Machine.execHangEscalationAnswer fn value s
  | .staggeringAnswer fn value => Sys2Proof.Machine.execStaggeringAnswer fn value s
  | .thermalStepAnswer fn value => Sys2Proof.Machine.execThermalStepAnswer fn value s
  | .deviceRecoveryRequest fn => Sys2Proof.Machine.execDeviceRecoveryRequest fn s
  | .functionResetRequest fn offset => Sys2Proof.Machine.execFunctionResetRequest fn offset s
  | .memRetrainRequest fn unit => Sys2Proof.Machine.execMemRetrainRequest fn unit s
  | .linkRetrainRequest fn link => Sys2Proof.Machine.execLinkRetrainRequest fn link s
  | .registerWrite fn offset width value => Sys2Proof.Machine.execRegisterWrite fn offset width value s
  | .pairLowHalfRead fn read => Sys2Proof.Machine.execPairLowHalfRead fn read s
  | .i3cRegisterRead address offset => Sys2Proof.Machine.execI3cRegisterRead address offset s
  | .i3cRegisterWrite address offset value => Sys2Proof.Machine.execI3cRegisterWrite address offset value s
  | .smbusReadPart => Sys2Proof.Machine.execSmbusReadPart s
  | .smbusReadSerial => Sys2Proof.Machine.execSmbusReadSerial s
  | .smbusReadJunction => Sys2Proof.Machine.execSmbusReadJunction s
  | .smbusReadPower => Sys2Proof.Machine.execSmbusReadPower s
  | .smbusReadState => Sys2Proof.Machine.execSmbusReadState s
  | .smbusReadTstStat => Sys2Proof.Machine.execSmbusReadTstStat s
  | .cxlMemRead addr read => Sys2Proof.Machine.execCxlMemRead addr read s
  | .cxlMemWrite addr data => Sys2Proof.Machine.execCxlMemWrite addr data s
  | .cxlSnoop addr => Sys2Proof.Machine.execCxlSnoop addr s
  | .hostLinkTrained rate width => Sys2Proof.Machine.execHostLinkTrained rate width s
  | .hostLinkLoss => Sys2Proof.Machine.execHostLinkLoss s
  | .selfReset => Sys2Proof.Machine.execSelfReset s
  | .hostLinkReattach => Sys2Proof.Machine.execHostLinkReattach s
  | .flrComputeFunction fn => Sys2Proof.Machine.execFlrComputeFunction fn s
  | .flrPf0 => Sys2Proof.Machine.execFlrPf0 s
  -- pins and supplies
  | .perstAsserted => Sys2Proof.Machine.execPerstAsserted s
  | .perstDeasserted report => Sys2Proof.Machine.execPerstDeasserted report s
  | .pwrbrkAsserted => Sys2Proof.Machine.execPwrbrkAsserted s
  | .pwrbrkReleased => Sys2Proof.Machine.execPwrbrkReleased s
  | .auxPowerGood => Sys2Proof.Machine.execAuxPowerGood s
  | .mainPgAsserted report => Sys2Proof.Machine.execMainPgAsserted report s
  | .mainPgLost => Sys2Proof.Machine.execMainPgLost s
  | .ioRailFault die => Sys2Proof.Machine.execIoRailFault die s
  | .ioRailRestore die restored => Sys2Proof.Machine.execIoRailRestore die restored s
  -- peer links
  | .peerLinkTrainingDone link aligned => Sys2Proof.Machine.execPeerLinkTrainingDone link aligned s
  | .identityExchange link farClass farLink farPart farFormed => Sys2Proof.Machine.execIdentityExchange link farClass farLink farPart farFormed s
  | .linkBlockLockLoss link => Sys2Proof.Machine.execLinkBlockLockLoss link s
  | .linkReplayRate link frames => Sys2Proof.Machine.execLinkReplayRate link frames s
  | .linkRetrainDone link ok => Sys2Proof.Machine.execLinkRetrainDone link ok s
  -- messages
  | .reductionPartial h elems => Sys2Proof.Machine.execReductionPartial h elems s
  | .gatherChunk h bytes => Sys2Proof.Machine.execGatherChunk h bytes s
  | .allToAllBlock h bytes => Sys2Proof.Machine.execAllToAllBlock h bytes s
  | .lookUpBatch h keys => Sys2Proof.Machine.execLookUpBatch h keys s
  | .lookUpReply h entries => Sys2Proof.Machine.execLookUpReply h entries s
  | .gradientRows h rows => Sys2Proof.Machine.execGradientRows h rows s
  | .reducedGradientTile h line depth elems => Sys2Proof.Machine.execReducedGradientTile h line depth elems s
  | .updateSecondWrite addr => Sys2Proof.Machine.execUpdateSecondWrite addr s
  | .parcel h pid items => Sys2Proof.Machine.execParcel h pid items s
  | .ringOpen h f => Sys2Proof.Machine.execRingOpen h f s
  | .permuteMove h addr bytes => Sys2Proof.Machine.execPermuteMove h addr bytes s
  | .lookUpMark h => Sys2Proof.Machine.execLookUpMark h s
  | .stepCloseContribution h p => Sys2Proof.Machine.execStepCloseContribution h p s
  | .acknowledgement h stream dst upTo => Sys2Proof.Machine.execAcknowledgement h stream dst upTo s
  | .reject h stream dst sequence held => Sys2Proof.Machine.execReject h stream dst sequence held s
  | .abortNotice h cls addr => Sys2Proof.Machine.execAbortNotice h cls addr s
  | .removalNotice h lost step => Sys2Proof.Machine.execRemovalNotice h lost step s
  | .reAdmissionNotice h target step => Sys2Proof.Machine.execReAdmissionNotice h target step s
  | .reservedMessage h => Sys2Proof.Machine.execReservedMessage h s
  | .twinHeartbeat h => Sys2Proof.Machine.execTwinHeartbeat h s
  | .heartbeatSend => Sys2Proof.Machine.execHeartbeatSend s
  | .twinLossTimeout => Sys2Proof.Machine.execTwinLossTimeout s
  | .recoveryNotice h state channelLost => Sys2Proof.Machine.execRecoveryNotice h state channelLost s
  | .digest h step ds => Sys2Proof.Machine.execDigest h step ds s
  | .granuleHashes h segment step hashes => Sys2Proof.Machine.execGranuleHashes h segment step hashes s
  | .repairStepProposal h addr u isAnswer act => Sys2Proof.Machine.execRepairStepProposal h addr u isAnswer act s
  | .repairCopy h item ok offered => Sys2Proof.Machine.execRepairCopy h item ok offered s
  | .twinServeRequest h addr bytes step byUpdate => Sys2Proof.Machine.execTwinServeRequest h addr bytes step byUpdate s
  | .enrolmentStart => Sys2Proof.Machine.execEnrolmentStart s
  | .jobState h j => Sys2Proof.Machine.execJobState h j s
  | .enrolmentSegment h base length content => Sys2Proof.Machine.execEnrolmentSegment h base length content s
  | .enrolmentCutOver => Sys2Proof.Machine.execEnrolmentCutOver s
  | .recessNotice h => Sys2Proof.Machine.execRecessNotice h s
  | .wakeNotice h => Sys2Proof.Machine.execWakeNotice h s
  | .retryTimeout stream dst => Sys2Proof.Machine.execRetryTimeout stream dst s
  -- cores
  | .matrixPass core p => Sys2Proof.Machine.execMatrixPass core p s
  | .tileCopy core => Sys2Proof.Machine.execTileCopy core s
  | .vectorOperation core v => Sys2Proof.Machine.execVectorOperation core v s
  | .specialFunction core f src dstBuffer dstRow mode rounding => Sys2Proof.Machine.execSpecialFunction core f src dstBuffer dstRow mode rounding s
  | .trayRelease core => Sys2Proof.Machine.execTrayRelease core s
  | .streamIn core t => Sys2Proof.Machine.execStreamIn core t s
  | .gather core t => Sys2Proof.Machine.execGather core t s
  | .offload core t => Sys2Proof.Machine.execOffload core t s
  | .fetch core t => Sys2Proof.Machine.execFetch core t s
  | .send core dst ordinal srcOffset bytes buffer dstOffset => Sys2Proof.Machine.execSend core dst ordinal srcOffset bytes buffer dstOffset s
  | .transferComplete core ident => Sys2Proof.Machine.execTransferComplete core ident s
  | .boundary core position restoreAddr => Sys2Proof.Machine.execBoundary core position restoreAddr s
  | .coreFault physical => Sys2Proof.Machine.execCoreFault physical s
  | .substituteSeat logical => Sys2Proof.Machine.execSubstituteSeat logical s
  | .coreSubstituted logical => Sys2Proof.Machine.execCoreSubstituted logical s
  | .hallPassGrant die => Sys2Proof.Machine.execHallPassGrant die s
  | .hallPassRelease physical => Sys2Proof.Machine.execHallPassRelease physical s
  | .domainClockStop domain => Sys2Proof.Machine.execDomainClockStop domain s
  -- timers and engines
  | .powerReading watts => Sys2Proof.Machine.execPowerReading watts s
  | .thermalReading temps => Sys2Proof.Machine.execThermalReading temps s
  | .reportCard => Sys2Proof.Machine.execReportCard s
  | .autoRecess => Sys2Proof.Machine.execAutoRecess s
  | .wake => Sys2Proof.Machine.execWake s
  | .hallMonitorCheck => Sys2Proof.Machine.execHallMonitorCheck s
  | .functionReset fn cause => Sys2Proof.Machine.execFunctionReset fn cause s
  | .deviceRecovery cause report => Sys2Proof.Machine.execDeviceRecovery cause report s
  | .recoveryReturn => Sys2Proof.Machine.execRecoveryReturn s
  | .crcRetryExhausted channel addr => Sys2Proof.Machine.execCrcRetryExhausted channel addr s
  | .channelRetrainDone channel rate => Sys2Proof.Machine.execChannelRetrainDone channel rate s
  | .patrolScrub addr read => Sys2Proof.Machine.execPatrolScrub addr read s
  | .stepClose => Sys2Proof.Machine.execStepClose s
  | .stepCloseExchangeDone step => Sys2Proof.Machine.execStepCloseExchangeDone step s
  | .gradebookExchangeDone step => Sys2Proof.Machine.execGradebookExchangeDone step s
  | .outlierSelection tensor step => Sys2Proof.Machine.execOutlierSelection tensor step s
  | .stampRenewal unit count => Sys2Proof.Machine.execStampRenewal unit count s
  | .reshardDrain => Sys2Proof.Machine.execReshardDrain s
  | .reshardPermute => Sys2Proof.Machine.execReshardPermute s
  | .reshardDone => Sys2Proof.Machine.execReshardDone s
  | .transcriptSweep budget => Sys2Proof.Machine.execTranscriptSweep budget s
  | .auxPowerLost => Sys2Proof.Machine.execAuxPowerLost s
  | .assertionNotTaken pin => Sys2Proof.Machine.execAssertionNotTaken pin s
  | .servedCopy h item ownResult => Sys2Proof.Machine.execServedCopy h item ownResult s
  | .routedItem h item tag => Sys2Proof.Machine.execRoutedItem h item tag s
  | .enrolmentAgree h => Sys2Proof.Machine.execEnrolmentAgree h s
  | .i3cDynamicAddress address => Sys2Proof.Machine.execI3cDynamicAddress address s

end Sys2Proof.Machine
end

