-- ==== Sys2Proof/Safety.lean ====
section
/-! DEFINITION. What a safe run of the block is, and the words in which the statements speak of one command. -/

namespace Sys2Proof.Machine

/-- The invariant of every step: device memory is in its canonical form (DESIGN CHOICE, log 3). -/
def Inv (s : State) : Prop := Memory.wf s.mem = true

/-- exec answers a next state of which Q holds. -/
def Leads (i : Instr) (s : State) (Q : State → Prop) : Prop := ∃ t, exec i s = .next t ∧ Q t

/-- Registers alike but for those of a list of BAR0 offsets. -/
def SameRegs (s t : State) (except : List Nat) : Prop := ∀ k, k ∉ except → mget t.regs k = mget s.regs k

/-- Registers that the end of a command of a function may change: BLK_PROGRESS and the completion count of its CMD page, and
HIF_IDS, which counts duplicates (R313, R324, R328). -/
def endRegs (fn : Nat) : List Nat :=
  [pageOf .cmd fn + 0x28, pageOf .cmd fn + 0x108, pageOf .cmd fn + 0x10C, pageOf .hif 0 + 0x134]

/-- A command has ended: it runs no more, and where its queue's history holds its identifier, it holds it with this status and
these details (R294, R295). -/
def Ended (t : State) (c : HostCmd) (status d0 d1 : Nat) : Prop :=
  c ∉ t.hif.running ∧ ∀ q ∈ t.hif.queues, q.fn = c.fn → q.queue = c.queue →
    ∀ e ∈ q.history, e.ident = c.slot.requestId → e.done = some (status, d0, d1)

/-- From s to t nothing changes but what the end of a command changes: queues with their histories, the lists of running and
held commands, a start of the admin queue that waited, completion records written behind what was written to host memory before,
and the registers of endRegs. -/
def OnlyEnds (s t : State) (fn : Nat) : Prop :=
  SameRegs s t (endRegs fn) ∧ t = { s with hif := t.hif, regs := t.regs, hostOut := t.hostOut } ∧
    t.hif = { s.hif with queues := t.hif.queues, running := t.hif.running, duplicates := t.hif.duplicates,
                         adminPending := t.hif.adminPending } ∧
    ∃ ws, t.hostOut = s.hostOut ++ ws ∧ ∀ w ∈ ws, ∃ addr x, w = HostWrite.completion addr x

/-- exec runs a command to its end with a status and details; besides, the state is e. -/
def EndsIn (i : Instr) (s : State) (c : HostCmd) (status d0 d1 : Nat) (e : State) : Prop :=
  Leads i s fun t => Ended t c status d0 d1 ∧ OnlyEnds e t c.fn

/-- A message that its receive point takes (R193): intact, to a receive point of R240, for a module that answers and is not in recess,
of the job and layout epoch that run or of a kind that needs no job, and next in its stream. -/
def Accepted (s : State) (h : MsgHdr) : Prop :=
  h.crcOk = true ∧ h.dstPoint ≤ 0x1C ∧ deaf s = false ∧ s.pwr.recess = false ∧ (s.job.running = false → jobFree h.kind = true) ∧
    (s.job.running = true → h.job = s.job.number ∧ h.layoutEpoch = s.job.layoutEpoch) ∧
    h.sequence = markOf s (streamOf h) + 1

/-- The state in which an accepted message has its effect: its number is the mark of its stream, the clock of its slice
runs, the slice has made progress, and the sectors it reads have met what its operand says (R125). -/
def noted (s : State) (h : MsgHdr) : State :=
  meet (progress (setMark (startDomain s (domCol (pointSlice s.part h))) (streamOf h) h.sequence) .col (pointSlice s.part h) 1) h.met

/-- exec takes a message: it answers the acknowledgement of the message sent from a state e that Q describes. -/
def Takes (i : Instr) (s : State) (h : MsgHdr) (Q : State → Prop) : Prop :=
  Leads i s fun t => ∃ e, t = ackAt e h h.sequence ∧ Q e

/-- From s to t the module has sent messages, each of which P describes: issued, or held back where the retry store of their slice
has no room (R242). -/
def SendsOf (s t : State) (P : Msg → Prop) : Prop :=
  ∃ out held : List Msg, t.col.outbox = s.col.outbox ++ out ∧ t.col.unsent = s.col.unsent ++ held ∧ ∀ m ∈ out ++ held, P m

/-- From s to t the module has sent messages of a kind, with these receivers and contents in order. -/
def SendsEach (s t : State) (kind : Nat) (xs : List (Nat × Body)) : Prop :=
  ∃ out held : List Msg, t.col.outbox = s.col.outbox ++ out ∧ t.col.unsent = s.col.unsent ++ held ∧
    ((out ++ held).map fun m => (m.dst, m.body)) = xs ∧ ∀ m ∈ out ++ held, m.hdr.kind = kind

/-- From s to t the module has sent messages of a kind with these receivers and contents, in any order: the slices of a collective
keep their own order (R245). -/
def SendsAll (s t : State) (kind : Nat) (xs : List (Nat × Body)) : Prop :=
  ∃ out held : List Msg, t.col.outbox = s.col.outbox ++ out ∧ t.col.unsent = s.col.unsent ++ held ∧
    List.Perm ((out ++ held).map fun m => (m.dst, m.body)) xs ∧ ∀ m ∈ out ++ held, m.hdr.kind = kind

/-- From s to t the module has sent one message of a kind and content to each of a list of modules. -/
def Sends (s t : State) (dsts : List Nat) (kind : Nat) (b : Body) : Prop := SendsEach s t kind (dsts.map fun d => (d, b))

/-- Device memory that nothing holds up: no channel retrains or is out of service, and no sector is uncorrectable (R126, R129). -/
def Quiet (s : State) : Prop := s.gddr.retraining = [] ∧ s.gddr.badSectors = [] ∧ deadChannels s = []

/-- What follows the return or the loss of a memory channel: a recovery that waited for it drains on, and otherwise what the channel
held goes on, and an entry into recess that waited for it ends (R127, R345, R362). -/
def Resumes (u t : State) : Prop :=
  (u.rel.recovery = 2 → t = drainRecovery u) ∧
    (u.rel.recovery ≠ 2 → ∀ w, w = runHeld (kickUpdates u) → (w.pwr.sleeping = true → t = sleep w) ∧ (w.pwr.sleeping = false → t = w))

/-- The other members of the class. -/
def otherMembers (s : State) : List Nat := (members s).filter (· != s.twin.number)

/-- A class command that may run on a module alone: no other member, and not relayed already. -/
def Alone (s : State) (op : Nat) (c : HostCmd) : Prop :=
  ready s op c = true ∧ otherMembers s = [] ∧ ∀ r ∈ s.col.relays, r.cmd ≠ c

/-- The class commands whose operands stand in their slot: the command, its opcode, and what a member installs (R299). -/
def slotClassCommands (c : HostCmd) : List (Instr × Nat × Install) :=
  [(.jobStart c, 0x001B, installJobStart), (.jobEnd c, 0x001C, installJobEnd), (.tableDefine c, 0x0110, installTableDefine),
   (.tableSwitch c, 0x0111, installTableSwitch), (.optimSet c, 0x0119, installOptimSet), (.scaleReset c, 0x011A, installScaleReset),
   (.colRingDefine c, 0x0130, installRing), (.gradebookLift c, 0x0138, installGradebookLift)]

/-- A class command ready to be accepted: the command, its opcode, what a member installs, and what its operand brought. JOB_END
waits for the job's commands (R298). -/
def ClassReady (s : State) (i : Instr) (c : HostCmd) (inst : Install) (data : List Byte) : Prop :=
  (∀ r ∈ s.col.relays, r.cmd ≠ c) ∧
    ((∃ op, (i, op, inst) ∈ slotClassCommands c ∧ ready s op c = true ∧ data = [] ∧ (op = 0x001C → jobBusy s c = false)) ∨
      (∃ raw n, i = .outlierSet c raw ∧ inst = installOutlierSet ∧ ready s 0x011B c = true ∧ n = 4 * bitsOf c.slot.param0 16 16 ∧
        operandOut s c n = false ∧ operandFault s c n = none ∧ data = operandBytes s c raw n) ∨
      (∃ raw n, i = .reshard c raw ∧ inst = installReshard ∧ ready s 0x0132 c = true ∧ n = planBytes (operandBytes s c raw 64) ∧
        operandOut s c n = false ∧ operandFault s c n = none ∧ data = operandBytes s c raw n))

end Sys2Proof.Machine
end

