-- ==== Sys2Proof/Certificates/Slice0/Obligations.lean ====
section
/-! DEFINITION. The statements for the provers, one Obligations.<Name> each, listed in OBLIGATIONS.json. The words of the
statements are defined in Sys2Proof/Safety.lean; each of the first three says that a command COMPLETES, with hypotheses on the state
and the operands alone:
  Leads i s Q              exec i s = .next t for a t of which Q holds;
  EndsIn i s c st d0 d1 e  exec i s = .next t, where the host command c has ended with status st (0 is DONE) and details d0 and d1,
                           and t is e but for what the end of a command changes (OnlyEnds);
  Takes i s h Q            exec i s = .next t, where the message with header h was taken and t is the acknowledged e of which Q holds.
Each docstring ends with the commands whose own effect its statement gives so ("Completes"). -/

open Sys2Proof Sys2Proof.Machine

/-! ### The machine -/

/-- The front command runs on the state with the rest of the queue, and nothing else does (log 10). -/
def Obligations.StepRunsTheFrontCommand : Prop :=
  ∀ (c : Instr) (rest : List Instr) (s : State), step { s with pending := c :: rest } = exec c { s with pending := rest }

/-- With no command waiting, a step is one tick of the always-on clock, which runs while auxiliary power is good (R336, R349);
that a step with an empty queue is a tick is the model's choice (log 10). -/
def Obligations.EmptyQueueStepIsOneTick : Prop :=
  ∀ s : State, s.pending = [] →
    (s.pwr.auxGood = false → step s = .next s) ∧
    (s.pwr.auxGood = true → ∃ t, step s = .next t ∧ t.tick = s.tick + 1 ∧
      t = { s with tick := t.tick, regs := t.regs } ∧
      SameRegs s t ((List.range 8).map fun d => pageOf .pwr (1 + d) + 0x108))

/-- After reset the module is UNFORMED (R39), holds no queue and no ring, no supply is good, and the registers read the reset
values of their tables. -/
def Obligations.ResetLeavesTheTablesResetValues : Prop :=
  State.reset.pending = [] ∧ State.reset.twin.pair = .unformed ∧ State.reset.hif.queues = [] ∧ State.reset.hif.rings = none ∧
    State.reset.pwr.auxGood = false ∧ State.reset.pwr.mainPg = false ∧
    ∀ r ∈ ([(.hif, 0x104, 0x08), (.mem, 0x11C, 0x18), (.emb, 0x104, 0x1), (.col, 0x104, 0xC8), (.rel, 0x100, 0x1901),
            (.rel, 0x10C, 0x0A0A0A), (.mgt, 0x200, 0x400000), (.mgt, 0x204, 0x01000023), (.mgt, 0x214, 0x4090),
            (.pwr, 0x108, 0x5DC), (.tst, 0x104, 0x5), (.hif, 0x100, 0), (.hif, 0x118, 0), (.hif, 0x11C, 0), (.hif, 0x128, 0),
            (.rel, 0x108, 0), (.dev, 0x01C, 0), (.dev, 0x010, 0)] : List (Blk × Nat × Nat)),
      regValue State.reset r.1 0 r.2.1 = r.2.2

/-- The invariant of every step holds after reset. -/
def Obligations.ResetMemoryIsCanonical : Prop := Inv State.reset

/-- Every step, whatever command it runs and from whatever state, keeps device memory in its canonical form: addresses rise
strictly and no listed byte is the byte that an unlisted address reads (log 3). -/
def Obligations.EveryStepKeepsMemoryCanonical : Prop := ∀ s t : State, Inv s → step s = .next t → Inv t

/-- Every command, of each of the 185 constructors and with any operands, answers a next state from every state: no command of
this hardware stops the model. Every step answers a next state; it takes the front command from the queue and no other, and never
changes the part. -/
def Obligations.EveryStepTakesTheFrontCommandOnly : Prop :=
  (∀ (i : Instr) (s : State), ∃ t, exec i s = .next t ∧ t.pending = s.pending ∧ t.part = s.part) ∧
  ∀ s : State, ∃ t, step s = .next t ∧ t.pending = s.pending.tail ∧ t.part = s.part

/-- Device memory reads back what was written, every other byte reads as before, and no register, queue, job or link
changes. -/
def Obligations.DeviceWriteReadsBack : Prop :=
  ∀ (s : State) (a : Nat) (bs : List Byte), Inv s →
    Inv (devWrite s a bs) ∧
    (∀ x, readByte (devWrite s a bs).mem x = if a ≤ x ∧ x < a + bs.length then bs.getD (x - a) 0 else readByte s.mem x) ∧
    devWrite s a bs = { s with mem := (devWrite s a bs).mem,
                               twin := { s.twin with dirty := (devWrite s a bs).twin.dirty,
                                                     partials := (devWrite s a bs).twin.partials,
                                                     forward := (devWrite s a bs).twin.forward },
                               gddr := { s.gddr with badSectors := (devWrite s a bs).gddr.badSectors,
                                                     unserved := (devWrite s a bs).gddr.unserved,
                                                     marks := (devWrite s a bs).gddr.marks } }

/-! ### Host interface -/

/-- NOP runs to DONE; with room in its ring and no duplicate of it held, exactly one completion record is written, at the ring's
tail, with the PHASE of the pass (R295).
Completes: nop. -/
def Obligations.NopPostsOneCompletionRecord : Prop :=
  ∀ (c : HostCmd) (s : State), ready s 0x0001 c = true →
    EndsIn (.nop c) s c 0 0 0 s ∧
    ∀ q, queueOf s c.fn c.queue = some q → s.hif.detached = false → q.held = [] → cqUnread q < 2 ^ q.log2 - 1 →
      duplicatesOf s c = [] → s.hif.adminPending = false →
      Leads (.nop c) s fun t =>
        t.hostOut = s.hostOut ++ [.completion (c.cqBase + 32 * q.cqTail)
          ⟨c.fn, c.queue, c.slot.requestId, 0, 0, q.phase, q.head, c.index, 0, 0⟩] ∧
        ∃ q', queueOf t c.fn c.queue = some q' ∧ q'.cqTail = (q.cqTail + 1) % 2 ^ q.log2 ∧
          q'.phase = (if q'.cqTail = 0 then !q.phase else q.phase)

/-- Records that are held are written in order, as many as the ring has room for; the others stay held (R295).
Ring heads: a write of HIF_EVENT_HEAD or HIF_HAND_HEAD by PF0 frees the records before it, a write of HIF_TRANSCRIPT_HEAD
sets the pair (R304, R305, R307).
Completes: completionPost, eventHeadWrite, handHeadWrite, transcriptHeadWrite. -/
def Obligations.RingHeadsAndHeldRecordsDrain : Prop :=
  (∀ (fn queue : Nat) (s : State) (q : Queue), queueOf s fn queue = some q → s.hif.detached = false → q.cqHead < 2 ^ q.log2 →
    Leads (.completionPost fn queue) s fun t =>
      ∃ q' ws, queueOf t fn queue = some q' ∧ t.hostOut = s.hostOut ++ ws ∧
        q'.held = q.held.drop (2 ^ q.log2 - 1 - cqUnread q) ∧
        ws.length = min q.held.length (2 ^ q.log2 - 1 - cqUnread q) ∧
        (∀ (i : Nat) (w : HostWrite) (c : Completion), ws[i]? = some w → q.held[i]? = some c →
          ∃ a p, w = HostWrite.completion a { c with phase := p, sqHead := q.head }) ∧
        SameRegs s t (endRegs fn) ∧ t = { s with hif := t.hif, regs := t.regs, hostOut := t.hostOut } ∧
        t.hif = { s.hif with queues := t.hif.queues }) ∧
  (∀ (v : W32) (w : W64) (s : State), s.pwr.auxGood = true →
    (s.hif.lostNow = 0 → Leads (.eventHeadWrite 0 v) s fun t => kept t .hif 0 0x118 = v.toNat ∧
      t = { s with regs := t.regs, hif := { s.hif with eventUnread := s.hif.eventUnread.filter fun q => seqGe q v.toNat } } ∧
      SameRegs s t [pageOf .hif 0 + 0x118]) ∧
    (∀ r, s.hif.lostNow ≠ 0 → s.hif.rings = some r → s.hif.detached = false →
      (s.hif.eventUnread.filter fun q => seqGe q v.toNat).length < 2 ^ r.eventLog2 →
      Leads (.eventHeadWrite 0 v) s fun t => t.hif.lostNow = 0 ∧ ∃ e, t.hostOut = s.hostOut ++
        [.event (r.eventBase + 64 * s.hif.eventPos) e] ∧ e.code = 0x0002 ∧ e.items = [s.hif.lostNow]) ∧
    (s.hif.handsHeld = [] → Leads (.handHeadWrite 0 v) s fun t => kept t .hif 0 0x11C = v.toNat ∧
      t = { s with regs := t.regs, hif := { s.hif with handUnread := s.hif.handUnread.filter fun q => seqGe q v.toNat } } ∧
      SameRegs s t [pageOf .hif 0 + 0x11C]) ∧
    (∀ r x l, s.hif.handsHeld = x :: l → s.hif.rings = some r → s.hif.detached = false →
      (s.hif.handUnread.filter fun q => seqGe q v.toNat).length < 2 ^ r.handLog2 →
      Leads (.handHeadWrite 0 v) s fun t => ∃ ws, t.hostOut = s.hostOut ++ .hand (r.handBase + 64 * s.hif.handPos) x :: ws) ∧
    Leads (.transcriptHeadWrite 0 w) s fun t => pair64 t .hif 0 0x120 = w.toNat ∧ t = { s with regs := t.regs } ∧
      SameRegs s t [pageOf .hif 0 + 0x120, pageOf .hif 0 + 0x124])

/-- A doorbell within the ring moves SQ_TAIL and CQ_HEAD, lets a stopped queue read again and wakes a module in recess; a
doorbell beyond the ring, or of a queue that does not exist, is discarded and sets BLK_ERR.ACCESS of the HIF page (R293).
Completes: doorbell. -/
def Obligations.DoorbellMovesTheQueueOrIsDiscarded : Prop :=
  ∀ (fn queue : Nat) (v : W64) (s : State),
    (∀ q, queueOf s fn queue = some q → bitsOf v.toNat 0 16 < 2 ^ q.log2 → bitsOf v.toNat 16 16 < 2 ^ q.log2 →
      Leads (.doorbell fn queue v) s fun t =>
        (∃ q', queueOf t fn queue = some q' ∧ q'.tail = bitsOf v.toNat 0 16 ∧ q'.cqHead = bitsOf v.toNat 16 16 ∧
          q'.stopped = false ∧ q'.again = (q.again || q.stopped) ∧ q'.head = q.head ∧ q'.expected = q.expected ∧
          q'.history = q.history ∧ q'.highest = q.highest) ∧
        (s.pwr.recess = true → t.pwr.recessing = true) ∧ SameRegs s t (endRegs fn) ∧
        t = { s with hif := t.hif, regs := t.regs, hostOut := t.hostOut, pwr := t.pwr }) ∧
    ((∀ q, queueOf s fn queue = some q → 2 ^ q.log2 ≤ bitsOf v.toNat 0 16 ∨ 2 ^ q.log2 ≤ bitsOf v.toNat 16 16) →
      Leads (.doorbell fn queue v) s fun t => t = stick s .hif 0 0 ∧ bitOf (kept t .hif 0 0x1C) 0 = true)

/-- A valid slot whose identifier lies above the highest accepted is consumed and its command runs, at the first read and at a
re-read; the head and the expected SEQUENCE advance (R292, R293, R294).
An invalid slot is read again sixteen times; then the queue stops with STALE_SLOT, and after the next doorbell a slot whose
SEQUENCE is right completes with SLOT_INVALID without running (R293).
Completes: slotRead, slotReRead. -/
def Obligations.SlotsStartCommandsOrStopTheQueue : Prop :=
  (∀ (fn queue : Nat) (bs : List Byte) (s : State) (q : Queue), queueOf s fn queue = some q →
    mayConsume s q (slotOf bs).opcode = true → slotValid q bs = true → q.highest < (slotOf bs).requestId →
    headerFault s (cmdOf q bs) = none →
    ∀ i, (i = .slotRead fn queue bs ∧ q.reReads = 0) ∨ (i = .slotReRead fn queue bs ∧ q.reReads ≠ 0) →
      Leads i s fun t =>
        t.hif.running = s.hif.running ++ [cmdOf q bs] ∧
        queueOf t fn queue = some { q with head := (q.head + 1) % 2 ^ q.log2, expected := (q.expected + 1) % 65536, reReads := 0,
                                           again := false, highest := (slotOf bs).requestId,
                                           history := histAdd q.history (slotOf bs).requestId } ∧
        t = { s with hif := { s.hif with queues := t.hif.queues, running := t.hif.running } }) ∧
  (∀ (fn queue : Nat) (bs : List Byte) (s : State) (q : Queue), queueOf s fn queue = some q →
    mayConsume s q (slotOf bs).opcode = true → slotValid q bs = false →
    (q.reReads = 0 → exec (.slotRead fn queue bs) s = .next (setQueue s { q with reReads := 16 })) ∧
    (1 < q.reReads → exec (.slotReRead fn queue bs) s = .next (setQueue s { q with reReads := q.reReads - 1 })) ∧
    (q.reReads = 1 → (q.again = false ∨ (slotOf bs).sequence ≠ q.expected) →
      Leads (.slotReRead fn queue bs) s fun t =>
        t = post (bump (setQueue s { q with stopped := true, again := false, reReads := 0 }) .hif 0 0x130 0 16 1)
          .cmd fn 0x0001 [queue, q.head] ∧ t.hif.running = s.hif.running ∧
        queueOf t fn queue = some { q with stopped := true, again := false, reReads := 0 }) ∧
    (q.reReads = 1 → q.again = true → (slotOf bs).sequence = q.expected →
      Leads (.slotReRead fn queue bs) s fun t => t.hif.running = s.hif.running ∧
        (∃ q', queueOf t fn queue = some q' ∧ q'.head = (q.head + 1) % 2 ^ q.log2 ∧ q'.history = q.history ∧ q'.highest = q.highest) ∧
        (s.hif.detached = false → cqUnread q < 2 ^ q.log2 - 1 → ∃ a p, t.hostOut = s.hostOut ++
          [.completion a ⟨q.fn, q.queue, (slotOf bs).requestId, 0x10, 0x10, p, (q.head + 1) % 2 ^ q.log2, q.head, 0, 0⟩])))

/-- An identifier that was accepted before does not run again: a completed one is answered DONE_DUPLICATE, one that still runs
is held, one that a reset aborted runs as new, and any other is ID_STALE (R294).
Completes: slotRead. -/
def Obligations.NoIdentifierRunsTwice : Prop :=
  ∀ (fn queue : Nat) (bs : List Byte) (s : State) (q : Queue), queueOf s fn queue = some q →
    mayConsume s q (slotOf bs).opcode = true → slotValid q bs = true → q.reReads = 0 → (slotOf bs).requestId ≤ q.highest →
    Leads (.slotRead fn queue bs) s fun t =>
      match q.history.find? (·.ident = (slotOf bs).requestId) with
      | some ⟨_, none⟩ => t.hif.running = s.hif.running ∧ t.hif.duplicates = s.hif.duplicates ++ [cmdOf q bs]
      | some ⟨_, some (st, d0, d1)⟩ =>
        if st = 0x30 then headerFault s (cmdOf q bs) = none → t.hif.running = s.hif.running ++ [cmdOf q bs]
        else t.hif.running = s.hif.running ∧ t.hif.duplicates = s.hif.duplicates ∧
          (s.hif.detached = false → cqUnread q < 2 ^ q.log2 - 1 → ∃ a p, t.hostOut = s.hostOut ++
            [.completion a ⟨q.fn, q.queue, (slotOf bs).requestId, 1, st, p, (q.head + 1) % 2 ^ q.log2, q.head, d0, d1⟩])
      | none => t.hif.running = s.hif.running ∧ t.hif.duplicates = s.hif.duplicates ∧
          (s.hif.detached = false → cqUnread q < 2 ^ q.log2 - 1 → ∃ a p, t.hostOut = s.hostOut ++
            [.completion a ⟨q.fn, q.queue, (slotOf bs).requestId, 0x13, 0x13, p, (q.head + 1) % 2 ^ q.log2, q.head, q.highest, 0⟩])

/-- A command that starts with an opcode that its function may not use completes with OPCODE_UNKNOWN, a reserved NUMERIC_MODE or
ROUNDING or a direction without STRICT with OPERAND_RANGE, and an INLINE_BYTES above 192 with OPERAND_RANGE (R57, R291, R297,
R298); it changes nothing. -/
def Obligations.BadHeadersAreRefusedAtTheStart : Prop :=
  ∀ (s : State) (c : HostCmd), c ∉ s.hif.running →
    (opcodeAllowed c.slot.opcode c.fn = false →
      Ended (startCmd s c) c 0x11 c.slot.opcode 0 ∧ OnlyEnds s (startCmd s c) c.fn) ∧
    (opcodeAllowed c.slot.opcode c.fn = true → s.boot.failed = false →
      (bitsOf c.slot.ctl 0 2 = 3 ∨ 3 < bitsOf c.slot.ctl 2 3 ∨ (bitsOf c.slot.ctl 2 3 ≠ 0 ∧ bitsOf c.slot.ctl 0 2 ≠ 1) →
        Ended (startCmd s c) c 0x12 4 0 ∧ OnlyEnds s (startCmd s c) c.fn) ∧
      (bitsOf c.slot.ctl 0 2 < 3 → bitsOf c.slot.ctl 2 3 ≤ 3 → (bitsOf c.slot.ctl 2 3 = 0 ∨ bitsOf c.slot.ctl 0 2 = 1) →
        (192 < c.slot.inlineBytes → Ended (startCmd s c) c 0x12 5 0 ∧ OnlyEnds s (startCmd s c) c.fn) ∧
        (c.slot.inlineBytes ≤ 192 → startCmd s c = { s with hif := { s.hif with running := s.hif.running ++ [c] } })))

/-- QUEUE_CREATE adds a queue that expects SEQUENCE 0 at slot 0, with PHASE 1 and an empty history; QUEUE_DELETE takes a queue
away once no other command of it is under way (R290, R292, R295, R298).
HOST_RINGS_SET takes new rings at once and starts them empty; the head registers name the first records that the new rings
will carry (R303). After an FLR of PF0 a resume area with cause 4 follows (R311).
Completes: queueCreate, queueDelete, hostRingsSet. -/
def Obligations.QueuesAndRingsAreSet : Prop :=
  (∀ (c : HostCmd) (s : State) (fn qn k : Nat),
    fn = bitsOf c.slot.param0 0 8 → qn = bitsOf c.slot.param0 8 6 → k = bitsOf c.slot.param0 16 5 →
    (ready s 0x0010 c = true → c.slot.operand % 4096 = 0 → c.slot.param1 % 4096 = 0 → fn ≤ 8 → 4 ≤ k → k ≤ 16 →
      (fn = 0 → 1 ≤ qn ∧ qn ≤ 3) → queueOf s fn qn = none → (fn ≠ 0 → hasDie s fn = true) →
      EndsIn (.queueCreate c) s c 0 0 0 { s with hif := { s.hif with queues := s.hif.queues ++
        [{ fn := fn, queue := qn, log2 := k, sqBase := c.slot.operand, cqBase := c.slot.param1, head := 0, tail := 0,
           expected := 0, cqHead := 0, cqTail := 0, phase := true, highest := 0, history := [], reReads := 0,
           stopped := false, again := false, held := [] }] } }) ∧
    (ready s 0x0011 c = true → ¬(fn = 0 ∧ qn = 0) → (queueOf s fn qn).isSome = true →
      ((s.hif.running ++ s.hif.duplicates).all fun d => d = c || !(d.fn = fn && d.queue = qn)) = true →
      Leads (.queueDelete c) s fun t => Ended t c 0 0 0 ∧ queueOf t fn qn = none ∧ OnlyEnds s t c.fn ∧
        ∀ f q, ¬(f = fn ∧ q = qn) → ¬(f = c.fn ∧ q = c.queue) → (f, q) ≠ (0, 0) → queueOf t f q = queueOf s f q)) ∧
  (∀ (c : HostCmd) (s : State) (r : Rings), ready s 0x0012 c = true → ringsFault (inlineOf c.slot 64) = none →
    r = ringsOf (inlineOf c.slot 64) →
    (s.hif.pf0Resume = false → ∃ e, EndsIn (.hostRingsSet c) s c 0 0 0 e ∧ e.hif.rings = some r ∧ e.hif.trOffset = 0 ∧
      pair64 e .hif 0 0x120 = 0 ∧
      (s.hif.eventsHeld = [] → kept e .hif 0 0x118 = s.hif.eventSeq % 2 ^ 32) ∧
      (∀ x l, s.hif.eventsHeld = x :: l → kept e .hif 0 0x118 = x.seq % 2 ^ 32) ∧
      (s.hif.handsHeld = [] → kept e .hif 0 0x11C = s.hif.handSeq % 2 ^ 32) ∧
      (∀ x l, s.hif.handsHeld = x :: l → kept e .hif 0 0x11C = x.seq % 2 ^ 32) ∧
      (s.hif.eventsHeld = [] → s.hif.handsHeld = [] → s.hif.lostNow = 0 →
        e = { s with regs := e.regs, hif := { s.hif with rings := some r, eventUnread := [], eventPos := 0, handUnread := [],
                                                          handPos := 0, trOffset := 0 } })) ∧
    (s.hif.pf0Resume = true → s.hif.detached = false →
      Leads (.hostRingsSet c) s fun t => c ∉ t.hif.running ∧ t.hif.rings = some r ∧ t.hif.pf0Resume = false ∧
        ∃ x, HostWrite.resume r.resume x ∈ t.hostOut ∧ x.cause = 4))

/-- FUNCTION_MAP gives every enabled die its function, and BIAS_SET gives the pages of its range the bias that PARAM1 names and
leaves every other page as it is, once no write accepted for the range is open (R285, R288); only bit 0 of PARAM1 is read (log
27).
What PF0's commands refuse with OPERAND_RANGE, changing nothing: a QUEUE_CREATE or QUEUE_DELETE that names PF0 queue 0, a
QUEUE_CREATE for a queue that exists, a QUEUE_DELETE for one that does not (R290), a FUNCTION_MAP that names no compute function
for an enabled die or changes a die of a function with queues (R285), a BIAS_SET of no whole pages (R288).
Completes: functionMap, biasSet. -/
def Obligations.FunctionsAndRefusalsOfTheHostCommands : Prop :=
  (∀ (c : HostCmd) (s : State),
    (ready s 0x0013 c = true →
      (∀ d < Config.computeDies s.part, 1 ≤ bitsOf c.slot.param0 (8 * d) 8 ∧ bitsOf c.slot.param0 (8 * d) 8 ≤ 8) →
      (∀ q ∈ s.hif.queues, ∀ d < Config.computeDies s.part, bitsOf c.slot.param0 (8 * d) 8 ≠ s.hif.dies.getD d 0 →
        q.fn ≠ bitsOf c.slot.param0 (8 * d) 8 ∧ q.fn ≠ s.hif.dies.getD d 0) →
      ∃ dies, EndsIn (.functionMap c) s c 0 0 0 { s with hif := { s.hif with dies := dies } } ∧
        ∀ d < 8, dies.getD d 0 = if d < Config.computeDies s.part then bitsOf c.slot.param0 (8 * d) 8 else s.hif.dies.getD d 0) ∧
    (ready s 0x0014 c = true → c.slot.operand % 65536 = 0 → devRange s c.slot.operand c.slot.param0 = true →
      c.slot.param0 ≠ 0 → c.slot.param0 % 65536 = 0 →
      (bitOf c.slot.param1 0 = true → writesOpen s c.slot.operand c.slot.param0 = false) →
      ∃ pages, EndsIn (.biasSet c) s c 0 0 0 { s with hif := { s.hif with sharedPages := pages } } ∧
        ∀ pg, pg ∈ pages ↔
          if c.slot.operand / 65536 ≤ pg ∧ pg < (c.slot.operand + c.slot.param0) / 65536 then bitOf c.slot.param1 0 = true
          else pg ∈ s.hif.sharedPages)) ∧
  (∀ (c : HostCmd) (s : State),
    (ready s 0x0010 c = true → (bitsOf c.slot.param0 0 8 = 0 ∧ bitsOf c.slot.param0 8 6 = 0) ∨
        (queueOf s (bitsOf c.slot.param0 0 8) (bitsOf c.slot.param0 8 6)).isSome = true →
      ∃ d0, EndsIn (.queueCreate c) s c 0x12 d0 0 s) ∧
    (ready s 0x0011 c = true → (bitsOf c.slot.param0 0 8 = 0 ∧ bitsOf c.slot.param0 8 6 = 0) ∨
        queueOf s (bitsOf c.slot.param0 0 8) (bitsOf c.slot.param0 8 6) = none →
      ∃ d0, EndsIn (.queueDelete c) s c 0x12 d0 0 s) ∧
    (ready s 0x0013 c = true →
      (∃ d < Config.computeDies s.part, bitsOf c.slot.param0 (8 * d) 8 = 0 ∨ 8 < bitsOf c.slot.param0 (8 * d) 8) →
      EndsIn (.functionMap c) s c 0x12 0x20 0 s) ∧
    (ready s 0x0013 c = true →
      (∀ d < Config.computeDies s.part, 1 ≤ bitsOf c.slot.param0 (8 * d) 8 ∧ bitsOf c.slot.param0 (8 * d) 8 ≤ 8) →
      (∃ d < Config.computeDies s.part, bitsOf c.slot.param0 (8 * d) 8 ≠ s.hif.dies.getD d 0 ∧
        ∃ q ∈ s.hif.queues, q.fn = bitsOf c.slot.param0 (8 * d) 8 ∨ q.fn = s.hif.dies.getD d 0) →
      EndsIn (.functionMap c) s c 0x12 (2 ^ 64 - 1) 0 s) ∧
    (ready s 0x0014 c = true → c.slot.operand % 65536 ≠ 0 ∨ devRange s c.slot.operand c.slot.param0 = false →
      EndsIn (.biasSet c) s c 0x12 0x18 0 s) ∧
    (ready s 0x0014 c = true → c.slot.operand % 65536 = 0 → devRange s c.slot.operand c.slot.param0 = true →
      c.slot.param0 = 0 ∨ c.slot.param0 % 65536 ≠ 0 → EndsIn (.biasSet c) s c 0x12 0x20 0 s))

/-- A write of PF0 that sets ENABLE from 0 to 1 starts the admin queue afresh from its registers, at once or, while an admin
command of the earlier start runs, once none does; clearing ENABLE stops consumption and keeps the commands that run
(R290).
Completes: adminQueueEnable, adminQueueDisable. -/
def Obligations.AdminQueueStartsAfreshAndStops : Prop :=
  ∀ (v : W32) (s : State), s.pwr.auxGood = true → 4 ≤ bitsOf v.toNat 1 5 → bitsOf v.toNat 1 5 ≤ 16 →
    (field s .hif 0 0x104 0 1 = 0 → adminBusy s = false →
      Leads (.adminQueueEnable 0 v) s fun t => field t .hif 0 0x104 0 1 = 1 ∧
        queueOf t 0 0 = some
          { fn := 0, queue := 0, log2 := bitsOf v.toNat 1 5, sqBase := pair64 s .hif 0 0x108, cqBase := pair64 s .hif 0 0x110,
            head := 0, tail := 0, expected := 0, cqHead := 0, cqTail := 0, phase := true, highest := 0, history := [],
            reReads := 0, stopped := false, again := false, held := [] } ∧
        t.hif.running = s.hif.running ∧ SameRegs s t [pageOf .hif 0 + 0x104]) ∧
    (field s .hif 0 0x104 0 1 = 0 → adminBusy s = true →
      Leads (.adminQueueEnable 0 v) s fun t => t.hif = { s.hif with adminPending := true } ∧ field t .hif 0 0x104 0 1 = 1) ∧
    Leads (.adminQueueDisable 0 v) s fun t => field t .hif 0 0x104 0 1 = 0 ∧ t.hif = { s.hif with adminPending := false } ∧
      SameRegs s t [pageOf .hif 0 + 0x104]

/-- A trained link is reported in HIF_LINK_STAT, and below 128 GT/s or sixteen lanes HOST_LINK_DEGRADED is posted (R283). A link
loss detaches the module; when the link is back it waits for GO, and GO writes the resume area and then the event RESUME (R309,
R310).
Completes: resumeGo, hostLinkTrained, hostLinkLoss, hostLinkReattach. -/
def Obligations.LinkLossWaitsForGo : Prop :=
  ∀ s : State,
    (s.hif.detached = false → Leads .hostLinkLoss s fun t => t.hif.detached = true ∧ t.hif.waitGo = false ∧ t.hif.cause = 1 ∧
      t.hif.running = s.hif.running ∧ t.hif.queues = s.hif.queues ∧ t.hostOut = s.hostOut ∧ kept t .hif 0 0x100 = 0 ∧
      t.mem = s.mem ∧ t.links = s.links ∧ t.twin = s.twin ∧ t.tables = s.tables) ∧
    (s.hif.detached = true → s.rel.recovery = 0 →
      Leads .hostLinkReattach s fun t => t = { s with hif := { s.hif with waitGo := true } }) ∧
    (∀ r, s.hif.waitGo = true → s.pwr.auxGood = true → s.hif.rings = some r → (eventUnread s).length < 2 ^ r.eventLog2 →
      Leads (.resumeGo 0) s fun t => t.hif.detached = false ∧ t.hif.waitGo = false ∧ ∃ x e ws,
        t.hostOut = s.hostOut ++ .resume r.resume x :: .event (r.eventBase + 64 * s.hif.eventPos) e :: ws ∧
        x.seq = s.hif.resumeSeq ∧ x.cause = s.hif.cause ∧ x.dropped = s.hif.dropped ∧ e.code = 0x0003 ∧ e.items = [s.hif.cause]) ∧
    (s.hif.waitGo = false → s.pwr.auxGood = true → Leads (.resumeGo 0) s fun t => t = s) ∧
    (∀ rate width, rate = 32 ∨ rate = 64 ∨ rate = 128 → width = 8 ∨ width = 16 →
      Leads (.hostLinkTrained rate width) s fun t =>
        ∃ u, u = startDomain (setReg s .hif 0 0x100
            (width * 2 ^ 11 + (if rate = 128 then 5 else if rate = 64 then 4 else 3) * 2 ^ 8 + 15)) domHif ∧
          t = if rate = 128 ∧ width = 16 then u else post u .hif 0 0x0004 [rate, width])

/-- The self reset and the function-level resets: a function reset ends every running command of the function with
ABORTED_BY_RESET and posts FUNCTION_RESET; an FLR of PF0 deletes PF0's queues, disables the admin queue and clears the rings
without touching a compute function (R309, R311, R358).
Completes: selfReset, flrComputeFunction, flrPf0, functionReset. -/
def Obligations.HostResetsEndCommandsOrQueues : Prop :=
  ∀ (s : State),
    (∀ fn cause, 1 ≤ fn → fn ≤ 8 → isUp s = true →
      Leads (.functionReset fn cause) s fun t => t = functionReset s fn cause ∧
        (∀ c ∈ t.hif.running, c.fn = fn → c ∈ s.hif.duplicates) ∧
        (s.cores.substituting = [] → t.mem = s.mem)) ∧
    (∀ fn, 1 ≤ fn → fn ≤ 8 → isUp s = true → Leads (.flrComputeFunction fn) s fun t => t = functionReset s fn 3) ∧
    (s.hif.detached = true → s.hif.waitGo = false → isUp s = true → Leads .selfReset s fun t => t.hif.cause = 2 ∧
      (s.cores.substituting = [] → t.mem = s.mem) ∧ (∀ c ∈ t.hif.running, 1 ≤ c.fn → c.fn ≤ 8 → c ∈ s.hif.duplicates)) ∧
    Leads .flrPf0 s fun t => (∀ q ∈ t.hif.queues, q.fn ≠ 0) ∧ (∀ q ∈ s.hif.queues, q.fn ≠ 0 → q ∈ t.hif.queues) ∧
      t.hif.rings = none ∧ t.hif.pf0Resume = true ∧ t.hif.running = s.hif.running ∧ t.cores = s.cores ∧ t.mem = s.mem ∧
      t = { s with hif := t.hif, regs := t.regs }

/-- CXL.mem: a read returns memory as it stands, a write changes its bytes and no others; an access that its channel or an earlier
one holds up waits; in the reserved region a read returns all ones, a write is discarded, and both are counted; an uncorrectable
sector reads all ones, is posted and counted; every snoop is answered RspIHitI (R126, R129, R282, R287, R289).
The management buses answer on auxiliary power: I3C reads any aligned register and writes TST_CTL and PWR_LIMIT only, every
other access is NACKed, and the SMBus blocks are the part, the serial, the junction, the power, the state and TST_STAT
(R434).
Completes: i3cRegisterRead, i3cRegisterWrite, smbusReadPart, smbusReadSerial, smbusReadJunction, smbusReadPower, smbusReadState,
smbusReadTstStat, cxlMemRead, cxlMemWrite, cxlSnoop, i3cDynamicAddress. -/
def Obligations.CxlMemoryAndManagementBusesAnswer : Prop :=
  (∀ (s : State) (a n : Nat) (met : List SectorRead) (data : List Byte),
    (s.gddr.held = [] → memWaits s a n = false → devRange s a n = true →
      (badSector s a n = none → Leads (.cxlMemRead a ⟨n, []⟩) s fun t =>
        t = { s with replies := s.replies ++ [.bytes (readBytes s.mem a n)] }) ∧
      (∀ x, badSector s a n = some x → Leads (.cxlMemRead a ⟨n, []⟩) s fun t =>
        t = bump (noteUE { s with replies := s.replies ++ [.bytes (List.replicate n 0xFF)] } x) .hif 0 0x138 16 16 1)) ∧
    (devRange s a n = false → Leads (.cxlMemRead a ⟨n, met⟩) s fun t =>
      t = { s with replies := s.replies ++ [.bytes (List.replicate n 0xFF)], regs := t.regs } ∧
      field t .hif 0 0x138 0 16 = min (field s .hif 0 0x138 0 16 + 1) 65535 ∧ SameRegs s t [pageOf .hif 0 + 0x138]) ∧
    (Inv s → s.gddr.held = [] → memWaits s a data.length = false → devRange s a data.length = true →
      badWrite s a data.length = none → Leads (.cxlMemWrite a data) s fun t =>
      (∀ x, readByte t.mem x = if a ≤ x ∧ x < a + data.length then data.getD (x - a) 0 else readByte s.mem x) ∧ Inv t ∧
      t = { devWrite s a data with tables := { s.tables with torn := t.tables.torn } }) ∧
    (∀ x, s.gddr.held = [] → memWaits s a data.length = false → devRange s a data.length = true →
      badWrite s a data.length = some x → Leads (.cxlMemWrite a data) s fun t => t = noteUE s x) ∧
    (devRange s a n = true → memWaits s a n = true → Leads (.cxlMemRead a ⟨n, met⟩) s fun t =>
      t = { s with gddr := { s.gddr with held := s.gddr.held ++ [.read a n met] } }) ∧
    (devRange s a data.length = true → memWaits s a data.length = true → Leads (.cxlMemWrite a data) s fun t =>
      t = { s with gddr := { s.gddr with held := s.gddr.held ++ [.write a data] } }) ∧
    (devRange s a data.length = false → Leads (.cxlMemWrite a data) s fun t => t = { s with regs := t.regs } ∧
      SameRegs s t [pageOf .hif 0 + 0x138]) ∧
    Leads (.cxlSnoop a) s fun t => t = { s with replies := s.replies ++ [.rspIHitI] }) ∧
  (∀ (s : State) (a off : Nat) (v : W32), s.pwr.auxGood = true →
    (a < 128 → Leads (.i3cDynamicAddress a) s fun t => t = { s with boot := { s.boot with i3cAddress := some a } }) ∧
    (a = s.boot.i3cAddress.getD 0x3A → off % 4 = 0 → Leads (.i3cRegisterRead a off) s fun t =>
      t = reply (read32 s off).1 (.value (read32 s off).2 4)) ∧
    (a = s.boot.i3cAddress.getD 0x3A → Leads (.i3cRegisterWrite a (pageOf .pwr 0 + 0x108) v) s fun t =>
      t = reply (writeFields s .pwr 0 0x108 v.toNat) .ack ∧
      (600 ≤ v.toNat % 65536 ∧ v.toNat % 65536 ≤ 1500 → kept t .pwr 0 0x108 % 65536 = v.toNat % 65536)) ∧
    (a = s.boot.i3cAddress.getD 0x3A → off ≠ pageOf .pwr 0 + 0x108 → off ≠ pageOf .tst 0 + 0x104 →
      Leads (.i3cRegisterWrite a off v) s fun t => t = { s with replies := s.replies ++ [.nack] }) ∧
    (a ≠ s.boot.i3cAddress.getD 0x3A → Leads (.i3cRegisterWrite a off v) s fun t => t = { s with replies := s.replies ++ [.nack] }) ∧
    (a ≠ s.boot.i3cAddress.getD 0x3A → Leads (.i3cRegisterRead a off) s fun t => t = { s with replies := s.replies ++ [.nack] }) ∧
    Leads .smbusReadPart s (fun t => t = reply s (.bytes (leBytes 4 (Config.partNumber s.part * 2 ^ 16 + 0x100)))) ∧
    Leads .smbusReadSerial s (fun t => t = reply s (.bytes (leBytes 8 (fuseWord s 0x21B + fuseWord s 0x21C * 2 ^ 32)))) ∧
    Leads .smbusReadJunction s (fun t => t = reply s (.bytes (leBytes 2 (field s .pwr 0 0x10C 16 16)))) ∧
    Leads .smbusReadPower s (fun t => t = reply s (.bytes (leBytes 2 (field s .pwr 0 0x100 16 16)))) ∧
    Leads .smbusReadState s (fun t => t = reply s (.bytes (leBytes 1 (cardState s)))) ∧
    Leads .smbusReadTstStat s (fun t => t = reply s (.bytes (leBytes 1 (kept s .tst 0 0x100 % 256)))))

/-- A register write of PF0 changes the RW bits to what is written and clears the W1C bits written 1; reserved bits stay as they
are, and a write with a reserved encoding is discarded whole and sets BLK_ERR.RESERVED_ENCODING (R13, R15, R16). A write that is
narrow, misaligned, from a function that may not write the page, or to nothing is discarded and sets BLK_ERR.ACCESS (R17, R284,
R316).
A 32-bit read of the low half of a pair returns it and latches the high half; the next read of the high half returns the
latched word, whatever the pair has become. An aligned 64-bit read returns both halves of one instant and touches no latch (R18);
a narrow or misaligned read returns the addressed bytes and latches nothing (R17). That each pair has a latch of its own is the
model's choice (log 81).
Completes: registerWrite, pairLowHalfRead. -/
def Obligations.RegisterAccessesFollowTheirCodes : Prop :=
  (∀ (v : W64) (s : State), s.pwr.auxGood = true →
    (∀ r ∈ ([(.rel, 0x100, 0xFF03, 0), (.rel, 0x10C, 0xFFFFFF, 0), (.col, 0x104, 0xFFFF, 0), (.emb, 0x104, 7, 0),
            (.mem, 0x11C, 0xFFFF, 0), (.mgt, 0x214, 0xFFFF, 0), (.pwr, 0x104, 0xFFFF0F1F, 0), (.pwr, 0x108, 0xFFFF, 0),
            (.tst, 0x104, 7, 0), (.mem, 0x010, 1, 0), (.rel, 0x010, 7, 0), (.dev, 0x01C, 0, 7), (.hif, 0x01C, 0, 7)] :
            List (Blk × Nat × Nat × Nat)),
      Leads (.registerWrite 0 (pageOf r.1 0 + r.2.1) 4 v) s fun t =>
        ((writable r.1 0 r.2.1 (v.toNat % 2 ^ 32)).ok = true →
          (∀ k < 32, bitOf (kept t r.1 0 r.2.1) k =
            if bitOf r.2.2.1 k then bitOf v.toNat k else bitOf (kept s r.1 0 r.2.1) k && !(bitOf r.2.2.2 k && bitOf v.toNat k)) ∧
          t = { s with regs := t.regs } ∧ SameRegs s t [pageOf r.1 0 + r.2.1]) ∧
        ((writable r.1 0 r.2.1 (v.toNat % 2 ^ 32)).ok = false → t = stick s r.1 0 2)) ∧
    (∀ fn off width b i o, locate s.part off = some (b, i, o) → (width ≠ 4 ∧ width ≠ 8) ∨ off % width ≠ 0 →
      Leads (.registerWrite fn off width v) s fun t => t = stick s b i 0) ∧
    (∀ fn off b i o, locate s.part off = some (b, i, o) → off % 4 = 0 → mayWrite s fn b i = false →
      Leads (.registerWrite fn off 4 v) s fun t => t = stick s b i 0) ∧
    (∀ fn off width, locate s.part off = none → Leads (.registerWrite fn off width v) s fun t =>
      t = bump (stick s .dev 0 0) .dev 0 0x118 0 32 1)) ∧
  (∀ (fn off width : Nat) (s : State) (b : Blk) (i o : Nat), s.pwr.auxGood = true → locate s.part off = some (b, i, o) →
    (off % 4 = 0 → isPairLow b i o = true → mget s.latch off = none →
      Leads (.pairLowHalfRead fn ⟨off, 4⟩) s fun t =>
        t = { s with replies := s.replies ++ [.value (regValue s b i o) 4],
                     latch := mput s.latch (off + 4) (BitVec.ofNat 32 (regValue s b i (o + 4))) }) ∧
    (∀ x, off % 4 = 0 → mget s.latch off = some x → Leads (.pairLowHalfRead fn ⟨off, 4⟩) s fun t =>
      t = { s with replies := s.replies ++ [.value x.toNat 4], latch := mdel s.latch off }) ∧
    (off % 8 = 0 → Leads (.pairLowHalfRead fn ⟨off, 8⟩) s fun t =>
      t = { s with replies := s.replies ++ [.value (regValue s b i o + 2 ^ 32 * regValue s b i (o + 4)) 8] }) ∧
    (¬(width = 4 ∧ off % 4 = 0) → ¬(width = 8 ∧ off % 8 = 0) → Leads (.pairLowHalfRead fn ⟨off, width⟩) s fun t =>
      t = { s with replies := s.replies ++
        [.value (((List.range width).map fun k => shadowByte s (off + k) * 2 ^ (8 * k)).sum) width] }))

/-! ### The class and its messages -/

/-- CLASS_FORM gives the module its number, the class size and the seed: PAIRED with every module a member, or DETACHED and not
a member where it joins a running class (R20, R39, R45); its twin stands at the same position of the partner group, and the one
in the even-numbered group is senior (R21). A size or number that the part does not allow, and a running job, are
refused.
Completes: classForm. -/
def Obligations.ClassFormPlacesTheModule : Prop :=
  ∀ (c : HostCmd) (joining : Bool) (s : State) (number size : Nat), ready s 0x0018 c = true →
    number = bitsOf c.slot.param0 0 6 → size = 16 * (bitsOf c.slot.param0 8 2 + 1) →
    (s.job.running = false → (s.part = .nst8016 → size = 16) → number < size →
      ∃ e, EndsIn (.classForm c joining) s c 0 0 0 e ∧ e.twin.pair = (if joining then .detached else .paired) ∧
        e.twin.number = number ∧ e.twin.size = size ∧ e.twin.seed = BitVec.ofNat 64 c.slot.param1 ∧
        (∀ m < 64, isMember e m = (decide (m < size) && !(joining && m = number))) ∧
        twinOf e = number ^^^ 4 ∧ twinOf e / 4 = number / 4 ^^^ 1 ∧ twinOf e % 4 = number % 4 ∧
        (senior e = true ↔ number < twinOf e) ∧ (senior e = true ↔ number / 4 % 2 = 0) ∧
        e = { s with twin := e.twin, col := { s.col with members := e.col.members, marks := [], nextSeq := [], idents := [], retry := [],
                                                         unsent := [], ways := [], rings := [], newRings := [] } }) ∧
    (s.job.running = false → (s.part = .nst8016 ∧ size ≠ 16) ∨ size ≤ number → EndsIn (.classForm c joining) s c 0x12 0x20 0 s) ∧
    (s.job.running = true → EndsIn (.classForm c joining) s c 0x12 (2 ^ 64 - 1) 0 s)

/-- A class command, which is JOB_START, JOB_END, TABLE_DEFINE, TABLE_SWITCH, OPTIM_SET, SCALE_RESET, COL_RING_DEFINE,
GRADEBOOK_LIFT, OUTLIER_SET or RESHARD (ClassReady), that its module installs completes with DONE where it has no other member,
and is otherwise relayed to every other member, as KIND 0x10, and waits for their answers; refused where it is alone, it completes
with the refusal and changes nothing (R298, R299).
Completes: jobStart, jobEnd, tableDefine, tableSwitch, optimSet, scaleReset, outlierSet, colRingDefine, reshard, gradebookLift. -/
def Obligations.ClassCommandsInstallAndRelay : Prop :=
  ∀ (i : Instr) (c : HostCmd) (inst : Install) (data : List Byte) (s : State), ClassReady s i c inst data →
    (∀ u, inst (classCmdOf s s.col.nextTag c data) s = .ok u →
      (otherMembers s = [] → ∃ l, EndsIn i s c 0 0 0 { u with undo := l }) ∧
      (otherMembers s ≠ [] → Leads i s fun t => t.hif = u.hif ∧ t.tables = u.tables ∧ t.scaling = u.scaling ∧ t.job = u.job ∧
        t.col.relays = u.col.relays ++ [⟨s.col.nextTag, c, otherMembers s, none⟩] ∧
        Sends u t (otherMembers s) 0x10 (.relay (classCmdOf s s.col.nextTag c data)))) ∧
    (∀ r, inst (classCmdOf s s.col.nextTag c data) s = .error r → r.1 ≠ 0 → r.1 ≠ 0x30 → otherMembers s = [] →
      EndsIn i s c r.1 r.2.1 r.2.2 s)

/-- What each class command installs on a member, and that a module which is alone runs it to DONE with that change: JOB_START the
job and its first open step, JOB_END a job's end, TABLE_DEFINE a table, TABLE_SWITCH a switch step, OPTIM_SET optimiser parameters,
SCALE_RESET a history restart, OUTLIER_SET the host's list, COL_RING_DEFINE a ring, RESHARD a pending re-shard, GRADEBOOK_LIFT a LIFT
(R107, R112, R146, R163, R177, R247, R260, R276, R298).
Completes: jobStart, jobEnd, tableDefine, tableSwitch, optimSet, scaleReset, outlierSet, colRingDefine, reshard, gradebookLift. -/
def Obligations.ClassCommandsInstallTheirChange : Prop :=
  ∀ (c : HostCmd) (k : ClassCmd) (s : State) (raw : List Byte), k.slot = c.slot →
    (bitsOf c.slot.param0 0 16 ≠ 0 → s.job.running = false → ∃ u l, installJobStart k s = .ok u ∧
      (Alone s 0x001B c → EndsIn (.jobStart c) s c 0 0 0 { u with undo := l }) ∧
      u.job = { running := true, number := bitsOf c.slot.param0 0 16, layoutEpoch := bitsOf c.slot.param0 16 16,
                openStep := c.slot.step, closedStep := s.job.closedStep, exchangesDue := [], firstStep := c.slot.step } ∧
      (bitsOf c.slot.param0 16 16 ≠ s.job.layoutEpoch → u.col.marks = [] ∧ u.col.nextSeq = []) ∧
      (bitsOf c.slot.param0 16 16 = s.job.layoutEpoch → u.col.marks = s.col.marks ∧ u.col.nextSeq = s.col.nextSeq) ∧
      u.mem = s.mem ∧ u.twin = s.twin ∧ ((∀ e ∈ s.tables.descs, e.2.switchStep ≠ c.slot.step) → u.hif = s.hif)) ∧
    (s.job.running = true → c.slot.param0 = s.job.number → ∃ u l, installJobEnd k s = .ok u ∧
      (Alone s 0x001C c → jobBusy s c = false → EndsIn (.jobEnd c) s c 0 0 0 { u with undo := l }) ∧
      u.job = { s.job with running := false } ∧ u.mem = s.mem ∧ ((∀ e ∈ s.scaling, e.2.resetAsked = false) → u.hif = s.hif)) ∧
    (∀ d, d = tableDescOf (inlineOf c.slot 128) → tableFault s (inlineOf c.slot 128) = none → tableUnpaired s d = false →
      (s.job.running = true → tableAt s d.table = none) → ∃ u l, installTableDefine k s = .ok u ∧
      (Alone s 0x0110 c → EndsIn (.tableDefine c) s c 0 0 0 { u with undo := l }) ∧ u.mem = s.mem ∧
      (s.job.running = true → u = { s with tables := { s.tables with newDescs := mput s.tables.newDescs d.table d } }) ∧
      (s.job.running = false → mget u.tables.descs d.table = some d)) ∧
    (∀ d, tableAt s (bitsOf c.slot.param0 0 12) = some d → d.replaceMode = 1 →
      bitsOf c.slot.param0 16 16 ≠ epochOfSlot d d.active → s.job.openStep + 2 ≤ c.slot.param1 → d.switchStep = noSwitch →
      ∃ u l d', installTableSwitch k s = .ok u ∧
        (Alone s 0x0111 c → EndsIn (.tableSwitch c) s c 0 0 0 { u with undo := l }) ∧
        mget u.tables.descs (bitsOf c.slot.param0 0 12) = some d' ∧
        d'.switchStep = c.slot.param1 ∧ epochOfSlot d' (1 - d.active) = bitsOf c.slot.param0 16 16 ∧ d'.active = d.active) ∧
    (paramFault s (inlineOf c.slot 64) = none → ∃ u l, installOptimSet k s = .ok u ∧
      (Alone s 0x0119 c → EndsIn (.optimSet c) s c 0 0 0 { u with undo := l }) ∧
      u = { s with tables := { s.tables with params :=
        s.tables.params ++ [((paramsOf (inlineOf c.slot 64)).tensor, paramsOf (inlineOf c.slot 64))] } }) ∧
    (∀ n, n = bitsOf c.slot.param0 0 16 → (mget s.scaling n).isSome = true → ∃ u l v, installScaleReset k s = .ok u ∧
      (Alone s 0x011A c → EndsIn (.scaleReset c) s c 0 0 0 { u with undo := l }) ∧ v = kickUpdates (withdrawHands s n) ∧
      (s.job.running = true → u = setScale v n fun x => { x with resetAsked := true }) ∧
      (s.job.running = false → u = restartHist v n s.job.openStep)) ∧
    (strictlyRising (outlierList k) = true →
      ((outlierList k).all fun j => ((outlierList k).filter fun x => x / 128 = j / 128).length ≤ perBlock s) = true →
      ∃ u l x, installOutlierSet k s = .ok u ∧
        (Alone s 0x011B c → operandOut s c (4 * bitsOf c.slot.param0 16 16) = false →
          operandFault s c (4 * bitsOf c.slot.param0 16 16) = none →
          k.data = operandBytes s c raw (4 * bitsOf c.slot.param0 16 16) →
          EndsIn (.outlierSet c raw) s c 0 0 0 { u with undo := l }) ∧
        mget u.outliers (bitsOf c.slot.param0 0 16) = some x ∧ x.host = some (outlierList k) ∧ u = { s with outliers := u.outliers }) ∧
    (c.slot.param1 ≥ s.job.openStep + 2 → s.job.running = true → s.col.reshard = none →
      bitsOf c.slot.param0 0 16 = (s.job.layoutEpoch + 1) % 65536 → leAt k.data 0x3C 4 = planCrc k.data →
      planFault s k.data (bitsOf c.slot.param0 0 16) = none → planUnpaired s k.data = false →
      ∃ u l, installReshard k s = .ok u ∧
        (∀ n, n = planBytes (operandBytes s c raw 64) → Alone s 0x0132 c → operandOut s c n = false → operandFault s c n = none →
          k.data = operandBytes s c raw n → EndsIn (.reshard c raw) s c 0 0 0 { u with undo := l }) ∧
        u = { s with col := { s.col with reshard :=
          (some ⟨bitsOf c.slot.param0 0 16, c.slot.param1, k.data, false, false, false, []⟩) } }) ∧
    (∀ x, mget s.scaling (bitsOf c.slot.param0 0 16) = some x → bitsOf c.slot.param0 16 3 ≤ 4 →
      s.job.openStep + 2 ≤ c.slot.param1 → badSector s (scaleAddr s.part (bitsOf c.slot.param0 0 16)) 32 = none →
      ∃ u l, installGradebookLift k s = .ok u ∧
        (Alone s 0x0138 c → EndsIn (.gradebookLift c) s c 0 0 0 { u with undo := l }) ∧
        mget u.scaling (bitsOf c.slot.param0 0 16) = some { x with liftDue := some (bitsOf c.slot.param0 16 3, c.slot.param1) }) ∧
    ∀ (bs : List Byte) (n : Nat) (ms : List Nat), bs = inlineOf c.slot 68 → n = leAt bs 3 1 →
      ms = ((List.range n).map fun j => leAt bs (4 + j) 1) → 1 ≤ leAt bs 0 2 → leAt bs 0 2 ≤ 1023 → leAt bs 2 1 ≤ 3 → 1 ≤ n →
      n ≤ 64 → ms.Nodup → (∀ m ∈ ms, m < s.twin.size) →
      (ringInUse s (leAt bs 0 2) = false ∨ ∃ r, mget s.col.rings (leAt bs 0 2) = some r ∧ r.broken = true) →
      ringHops s (leAt bs 2 1) ms = true → ∃ u l, installRing k s = .ok u ∧
        (Alone s 0x0130 c → EndsIn (.colRingDefine c) s c 0 0 0 { u with undo := l }) ∧
        (s.job.running = false → mget u.col.rings (leAt bs 0 2) = some ⟨ms, leAt bs 2 1, false⟩) ∧
        (s.job.running = true → mget u.col.newRings (leAt bs 0 2) = some ⟨ms, leAt bs 2 1, false⟩ ∧ u.col.rings = s.col.rings)

/-- A relayed class command is installed and answered with status 0, or refused with its refusal; a withdrawal takes the change
back. An OPTIM_SET whose record breaks no rule is one that is installed. Once the last member has answered, the accepting module
completes the command: DONE if all installed, otherwise the refusal of the lowest class number, after withdrawing the change
(R299).
Completes: classCommandRelay, memberAnswer. -/
def Obligations.RelayedClassCommandsAreAnsweredAndSettled : Prop :=
  ∀ (h : MsgHdr) (s : State), Accepted s h →
    (∀ k, k.withdraw = false → k.slot.opcode = 0x0119 → paramFault s (inlineOf k.slot 64) = none →
      Takes (.classCommandRelay h k) s h fun e => ∃ u, e = sendAnswer u k.accepter k.tag 0 0 0 ∧
        u = { noted s h with
          tables := { s.tables with params :=
            s.tables.params ++ [((paramsOf (inlineOf k.slot 64)).tensor, paramsOf (inlineOf k.slot 64))] }
          undo := s.undo ++ [undoImage (noted s h) k] }) ∧
    (∀ k inst, relayWaits s k = false → k.withdraw = false → installerOf k.slot.opcode = some inst →
      (∀ u, inst k (noted s h) = .ok u → Takes (.classCommandRelay h k) s h fun e =>
        e = sendAnswer { u with undo := u.undo ++ [undoImage (noted s h) k] } k.accepter k.tag 0 0 0) ∧
      (∀ r, inst k (noted s h) = .error r → Takes (.classCommandRelay h k) s h fun e =>
        e = sendAnswer (noted s h) k.accepter k.tag r.1 r.2.1 r.2.2)) ∧
    (∀ k, k.withdraw = true → Takes (.classCommandRelay h k) s h fun e => e = takeBack (noted s h) k) ∧
    (∀ r tag st d0 d1, s.col.relays.find? (·.tag = tag) = some r → r.waiting = [h.srcClass] →
      (st = 0 → r.refusal = none → Takes (.memberAnswer h tag st d0 d1) s h fun e => ∃ u, e = done u r.cmd ∧
        u.col.relays = s.col.relays.filter (·.tag != r.tag) ∧ u.tables = s.tables ∧ u.job = s.job ∧ u.scaling = s.scaling) ∧
      (st ≠ 0 → (∀ x, r.refusal = some x → h.srcClass < x.1) → Takes (.memberAnswer h tag st d0 d1) s h fun e =>
        ∃ u, e = finish u r.cmd st d0 d1 ∧ u.col.relays = s.col.relays.filter (·.tag != r.tag)))

/-- A message is taken only as the next of its stream, of the job and layout epoch in force, intact, at a receive point of R240 and
by a module that is up: its number becomes the mark and it is acknowledged. A repeat is acknowledged again without effect, a gap
and a message of another job or epoch are counted and change nothing else, a corrupted one is dropped, one to no receive point is
dropped and counted, and one to a module in recess wakes it (R193, R240 to R244, R347). -/
def Obligations.MessagesTakeEffectOnceAndInOrder : Prop :=
  ∀ (h : MsgHdr) (s : State) (accept : State → State),
    (Accepted s h → receive s h accept = ackAt (accept (noted s h)) h h.sequence ∧
      markOf (noted s h) (streamOf h) = h.sequence ∧
      (∀ k, k ≠ streamOf h → markOf (noted s h) k = markOf s k) ∧
      noted s h = { s with col := { s.col with marks := (noted s h).col.marks }, regs := (noted s h).regs, mem := (noted s h).mem,
                           gddr := { s.gddr with badSectors := (noted s h).gddr.badSectors }, freeCtr := (noted s h).freeCtr,
                           pwr := { s.pwr with running := (noted s h).pwr.running } } ∧
      (h.met = [] → (noted s h).mem = s.mem ∧ (noted s h).gddr = s.gddr ∧ (noted s h).freeCtr = s.freeCtr)) ∧
    (h.crcOk = false ∨ deaf s = true → receive s h accept = s) ∧
    (h.crcOk = true → deaf s = false → 0x1C < h.dstPoint → receive s h accept = bump s .col 0 0x11C 0 32 1) ∧
    (h.crcOk = true → deaf s = false → h.dstPoint ≤ 0x1C → s.pwr.recess = true →
      receive s h accept = { s with pwr := { s.pwr with recessing := true, running := (receive s h accept).pwr.running } }) ∧
    (h.crcOk = true → deaf s = false → h.dstPoint ≤ 0x1C → s.pwr.recess = false → s.job.running = true →
      (h.job ≠ s.job.number → receive s h accept = bump s .upd (countUnit s.part h.dstPoint) 0x118 16 16 1) ∧
      (h.job = s.job.number → h.layoutEpoch ≠ s.job.layoutEpoch → s.col.reshard = none → ∃ m,
        receive s h accept = { s with regs := (receive s h accept).regs, col := { s.col with outbox := s.col.outbox ++ [m] } } ∧
        m.dst = h.srcClass ∧ m.hdr.kind = 0x0E ∧ m.body = .reject (streamOf h) h.sequence) ∧
      (h.job = s.job.number → h.layoutEpoch = s.job.layoutEpoch →
        (h.sequence ≤ markOf s (streamOf h) → ∃ m,
          receive s h accept = { s with regs := (receive s h accept).regs, col := { s.col with outbox := s.col.outbox ++ [m] } } ∧
          m.dst = h.srcClass ∧ m.hdr.kind = 0x0D ∧ m.body = .ack (streamOf h) (markOf s (streamOf h))) ∧
        (markOf s (streamOf h) + 1 < h.sequence →
          receive s h accept = bump s .upd (countUnit s.part h.dstPoint) 0x114 0 16 1)))

/-- A message that is sent carries the next number of its stream; it is issued and stays in the retry store, or is held back while
that has no room. An acknowledgement takes the messages up to its number out of it, a retry timeout sends the others again in
ascending sequence, a reject takes one out and ends its command; a message of a reserved kind is dropped and counted (R239 to
R244).
Completes: acknowledgement, reject, reservedMessage, retryTimeout. -/
def Obligations.SentMessagesStayUntilAcknowledged : Prop :=
  ∀ (s : State),
    (∀ dst kind channel point step body i t, i = channelSlice s channel → t = send s dst kind channel point step body →
      ∃ m, m.dst = dst ∧ m.body = body ∧ m.hdr.kind = kind ∧
        m.hdr.step = step ∧ m.hdr.srcClass = s.twin.number ∧ m.hdr.layoutEpoch = s.job.layoutEpoch ∧
        m.hdr.sequence = ((s.col.nextSeq.find? (·.1 = streamOf m.hdr)).map (·.2)).getD 1 ∧
        (t.col.nextSeq.find? (·.1 = streamOf m.hdr)).map (·.2) = some (m.hdr.sequence + 1) ∧
        t = { s with col := t.col, regs := t.regs } ∧
        (retryFull s i = false → (∀ x ∈ s.col.unsent, channelSlice s x.hdr.srcChannel ≠ i) →
          t.col.outbox = s.col.outbox ++ [m] ∧ t.col.retry = s.col.retry ++ [m] ∧ t.col.unsent = s.col.unsent) ∧
        (retryFull s i = true ∨ (∃ x ∈ s.col.unsent, channelSlice s x.hdr.srcChannel = i) →
          t.col.outbox = s.col.outbox ∧ t.col.retry = s.col.retry ∧ t.col.unsent = s.col.unsent ++ [m])) ∧
    (∀ h stream dst upTo, h.crcOk = true → deaf s = false → Leads (.acknowledgement h stream dst upTo) s fun t =>
      ∃ e, t = settleAll (issueUnsent e) ∧
        e.col.retry = (s.col.retry.filter fun m => !(streamOf m.hdr = stream && m.dst = dst && m.hdr.sequence ≤ upTo)) ∧
        e = { s with regs := e.regs, col := { s.col with retry := e.col.retry } }) ∧
    (∀ stream dst, Leads (.retryTimeout stream dst) s fun t => ∃ l, t.col.outbox = s.col.outbox ++ l ∧
      (l.map fun m => (m.dst, m.hdr, m.body)).Perm
        ((s.col.retry.filter fun m => streamOf m.hdr = stream && m.dst = dst).map fun m => (m.dst, m.hdr, m.body)) ∧
      l.Pairwise (fun a b => a.hdr.sequence ≤ b.hdr.sequence) ∧
      t = { s with regs := t.regs, col := { s.col with outbox := t.col.outbox, ways := t.col.ways } }) ∧
    (∀ h stream dst sequence held m, h.crcOk = true → deaf s = false →
      s.col.retry.find? (fun x => streamOf x.hdr = stream && x.dst = dst && x.hdr.sequence = sequence) = some m →
      Leads (.reject h stream dst sequence held) s fun t => ∃ e, t = settleAll (failOwner (issueUnsent e) m held) ∧
        m ∉ e.col.retry ∧ e = { s with col := { s.col with retry := e.col.retry } }) ∧
    (∀ h, h.crcOk = true → deaf s = false → Leads (.reservedMessage h) s fun t => t = { s with regs := t.regs } ∧
      kept t .col 0 0x11C = min (kept s .col 0 0x11C + 1) (2 ^ 32 - 1) ∧ SameRegs s t [pageOf .col 0 + 0x11C])

/-- A command that creates twinned state on a module whose pair is not PAIRED completes with TWIN_UNAVAILABLE: a twinned
SHARD_DEFINE, and a twinned TABLE_DEFINE whose modules name this module or its twin (log 64). TWIN_DETACH and TWIN_ATTACH are
routed to the leaving module and to the new module's twin; a detach of a module that is not PAIRED and an attach whose source is
not SOLE are answered TWIN_UNAVAILABLE; a new module that reports another part, size or seed
is refused; the leaving module is DETACHED and answers at the close of its step; the answer completes the command (R40, R44, R45,
R298).
Completes: twinDetach, twinAttach, memberAnswer, routedItem. -/
def Obligations.TwinCommandsAreRouted : Prop :=
  (∀ (c : HostCmd) (s : State), s.twin.pair ≠ .paired →
    (ready s 0x0118 c = true → shardFault s (inlineOf c.slot 64) = none → (shardDescOf (inlineOf c.slot 64)).twinned = true →
      EndsIn (.shardDefine c) s c 0x24 (twinOf s) (pairCode s.twin.pair) s) ∧
    ∀ d, d = tableDescOf (inlineOf c.slot 128) → tableFault s (inlineOf c.slot 128) = none → d.twinned = true →
      s.twin.number ∈ tableModules d ∨ twinOf s ∈ tableModules d → (s.job.running = true → tableAt s d.table = none) →
      (∀ k : ClassCmd, k.slot = c.slot → installTableDefine k s = .error (0x24, twinOf s, pairCode s.twin.pair)) ∧
      (ready s 0x0110 c = true → otherMembers s = [] → (∀ r ∈ s.col.relays, r.cmd ≠ c) →
        EndsIn (.tableDefine c) s c 0x24 (twinOf s) (pairCode s.twin.pair) s)) ∧
  (∀ (s : State) (step : Nat) (d : Nat × Nat × Nat), s.twin.detachAt = some d → d.1 ≤ step → s.twin.number < 64 → ∃ u,
    closeDetach s step = sendAnswer u d.2.1 d.2.2 0 0 0 ∧ u.twin.pair = .detached ∧ u.twin.detachAt = none ∧
    isMember u s.twin.number = false ∧ ∀ r ∈ u.col.rings, r.2.members.contains s.twin.number = true → r.2.broken = true) ∧
  ∀ (c : HostCmd) (s : State), inClass s = true → c.slot.param0 < s.twin.size → (∀ r ∈ s.tables.routed, r.cmd ≠ c) →
    (ready s 0x0019 c = true → Leads (.twinDetach c) s fun t =>
      Sends s t [c.slot.param0] 0x10 (.routed (.detach c.slot.param0) s.col.nextTag) ∧ t.hif = s.hif ∧ t.mem = s.mem ∧
      t.tables.routed = s.tables.routed ++ [⟨s.col.nextTag, c, [c.slot.param0], 0, 0, none⟩]) ∧
    (ready s 0x001A c = true → Leads (.twinAttach c) s fun t =>
      Sends s t [twinOfNumber c.slot.param0] 0x10 (.routed (.attach c.slot.param0 0 0 0 false) s.col.nextTag) ∧ t.hif = s.hif ∧
      t.mem = s.mem ∧ t.tables.routed = s.tables.routed ++ [⟨s.col.nextTag, c, [twinOfNumber c.slot.param0], 0, 0, none⟩]) ∧
    ∀ (h : MsgHdr) (tag x part size : Nat) (seed : W64), Accepted s h →
      (s.twin.pair = .paired → s.twin.detachAt = none → Takes (.routedItem h (.detach x) tag) s h fun e =>
        e = { noted s h with twin := { s.twin with detachAt := some (s.job.openStep, h.srcClass, tag) } }) ∧
      (s.twin.pair ≠ .paired → Takes (.routedItem h (.detach x) tag) s h fun e =>
        e = sendAnswer (noted s h) h.srcClass tag 0x24 (twinOf s) (pairCode s.twin.pair)) ∧
      (x = twinOf s → s.twin.pair = .sole → part = Config.partNumber s.part → size = s.twin.size → seed = s.twin.seed →
        Takes (.routedItem h (.attach x part size seed true) tag) s h fun e => e = startSource (noted s h) (some (h.srcClass, tag))) ∧
      (s.twin.pair ≠ .sole → Takes (.routedItem h (.attach x part size seed true) tag) s h fun e =>
        e = sendAnswer (noted s h) h.srcClass tag 0x24 s.twin.number (pairCode s.twin.pair)) ∧
      (x = twinOf s → s.twin.pair = .sole → part ≠ Config.partNumber s.part →
        Takes (.routedItem h (.attach x part size seed true) tag) s h fun e =>
          e = sendAnswer (noted s h) h.srcClass tag 0x12 (2 ^ 64 - 1) 0) ∧
      (∀ r st d0 d1, s.tables.routed.find? (·.tag = tag) = some r → s.col.relays.find? (·.tag = tag) = none → r.owed = [h.srcClass] →
        r.refusal = none → st ≠ 0 → Takes (.memberAnswer h tag st d0 d1) s h fun e => ∃ u, e = finish u r.cmd st d0 d1 ∧
          u.tables.routed = s.tables.routed.filter (·.tag != r.tag) ∧ u.mem = (noted s h).mem) ∧
      (∀ r d0 d1, s.tables.routed.find? (·.tag = tag) = some r → s.col.relays.find? (·.tag = tag) = none → r.owed = [h.srcClass] →
        r.refusal = none → Takes (.memberAnswer h tag 0 d0 d1) s h fun e => ∃ u lo hi, e = finish u r.cmd 0 lo hi ∧
          u.tables.routed = s.tables.routed.filter (·.tag != r.tag) ∧ u.mem = (noted s h).mem)

/-- A twin that is not heard, or that gives its notice, is lost: a PAIRED module enters SOLE and posts TWIN_LOST with the cause;
a removal notice takes the module it names out of the class, a re-admission brings it back; recess and wake notices are noted,
and heartbeats are sent and taken (R41, R42, R254, R256, R347).
A module that loses a member clears its bit, breaks the rings that contain it, drops the messages addressed to it but the
notice that names it, and of a member that detached those of steps it still took part in, and posts MEMBER_REMOVED; here with no command that waits on the
member (R40, R254, R263).
Completes: abortNotice, removalNotice, reAdmissionNotice, twinHeartbeat, heartbeatSend, twinLossTimeout, recoveryNotice,
recessNotice, wakeNotice. -/
def Obligations.LossesAndRemovalsChangeMembership : Prop :=
  (∀ (s : State),
    (deaf s = false → inClass s = true → s.pwr.recess = false → s.twin.twinRecess = false → Leads .heartbeatSend s fun t =>
      Sends s t [twinOf s] 0x0C .heartbeat ∧ t = { s with col := t.col, regs := t.regs }) ∧
    (deaf s = false → s.twin.twinRecess = false → s.twin.pair = .paired → s.twin.repairs = [] → Leads .twinLossTimeout s fun t =>
      ∃ e x, e = { s with twin := { s.twin with twinRecess := false, pair := .sole, noticeSent := false, waits := e.twin.waits,
                                                held := e.twin.held } } ∧
        (∀ w ∈ e.twin.waits, w.refused = true) ∧ x = post e .rel 0 0x0102 [twinOf s, 1, s.job.openStep] ∧
        t = kickUpdates (if isMember s (twinOf s) then sendRemoval x (twinOf s) else x)) ∧
    (∀ h st lostChannel, h.crcOk = true → s.rel.recovery ≠ 0 → lostChannel = false →
      Leads (.recoveryNotice h st lostChannel) s fun t => t = { s with twin := { s.twin with notedRecovery := some st } }) ∧
    ∀ h : MsgHdr, Accepted s h →
      (∀ st lostChannel, s.rel.recovery = 0 → Takes (.recoveryNotice h st lostChannel) s h fun e => e = declareLost (noted s h) 2) ∧
      Takes (.twinHeartbeat h) s h (fun e => e = noted s h) ∧
      Takes (.recessNotice h) s h (fun e => e = { noted s h with twin := { s.twin with twinRecess := true } }) ∧
      Takes (.wakeNotice h) s h (fun e => e = { noted s h with twin := { s.twin with twinRecess := false } }) ∧
      (∀ lost step, s.rel.recovery = 0 → lost ≠ s.twin.number → lost ≠ h.srcClass → partitioned s lost h.srcClass = false →
        Takes (.removalNotice h lost step) s h fun e => e = removeMember (noteRemoval (noted s h) lost step h.srcClass) lost step) ∧
      (∀ lost step, s.rel.recovery = 0 → lost = s.twin.number → lost ≠ h.srcClass → (senior s = false ∨ h.srcClass ≠ twinOf s) →
        Takes (.removalNotice h lost step) s h fun e => e = leaveClass (noteRemoval (noted s h) lost step h.srcClass) step) ∧
      (∀ target step x, target < 64 → x = takeReadmission (noted s h) target step →
        isMember x target = true ∧ (∀ m < 64, m ≠ target → isMember x m = isMember s m) ∧
        (target = s.twin.number → x.twin.pair = .paired) ∧
        (target ≠ s.twin.number → s.job.running = false ∨ step ≤ s.job.openStep →
          Takes (.reAdmissionNotice h target step) s h fun e => e = x) ∧
        (target = s.twin.number → s.twin.pair ≠ .enrollingTarget ∨ (∃ k, s.twin.endMark = some k ∧ step ≤ k + 1) →
          Takes (.reAdmissionNotice h target step) s h fun e => e = kickUpdates x)) ∧
      (∀ cls addr j, attFor (noted s h) h = some j → Takes (.abortNotice h cls addr) s h fun e =>
        e = failAtt (noted s h) j 0x23 addr (0xFFFF + cls * 2 ^ 16))) ∧
  (∀ (s : State) (lost step : Nat), lost < 64 → isMember s lost = true → nextMember s ≠ some lost → lost ≠ twinOf s →
    s.col.jobs = [] → s.att = [] → s.decodes = [] → s.col.relays = [] → s.tables.routed = [] → s.tables.lookups = [] →
    s.tables.backwards = [] → s.tables.descs = [] → s.tables.batches = [] → s.col.reshard = none → s.col.unsent = [] →
    ∃ e, removeMember s lost step = post e .col 0 0x0108 [lost, step] ∧ isMember e lost = false ∧
      (∀ m < 64, m ≠ lost → isMember e m = isMember s m) ∧
      (∀ r ∈ e.col.rings, r.2.members.contains lost = true → r.2.broken = true) ∧
      (∀ m ∈ e.col.retry, m.dst = lost → isNotice m lost = true ∨ leftAfter s lost m.hdr.step = true) ∧
      e = { s with col := { s.col with members := e.col.members, rings := e.col.rings, newRings := e.col.newRings,
                                       retry := e.col.retry } })

/-- Digests that agree change nothing but that older snapshots are dropped; one that differs from the snapshot of its step opens a repair, and the granule hashes of
the segment are sent; the repair step is the larger of the two proposals, each the open step plus 2 (R35, R36, R37).
At the repair step a record that fails its check on this side only is replaced by the twin's copy and TWIN_REPAIRED is
posted; one that fails on both is lost and TWIN_BOTH_BAD is posted; one that fails on the other side only, or is the same, stays;
a divergent one that the other side offers is copied and TWIN_DIVERGENT is posted on the copy (R36, R38); that in hardware mode the
target of the copy posts it is the model's choice (log 87).
Completes: digest, granuleHashes, repairStepProposal, repairCopy. -/
def Obligations.DigestsOpenAndCopiesEndRepairs : Prop :=
  (∀ (h : MsgHdr) (s : State), Accepted s h → s.twin.pair = .paired → s.twin.digestsOff = false →
    (∀ step ds snap, step < s.job.openStep → mget s.twin.snapshots step = some snap →
      (∀ d ∈ ds, mget snap (d.1 / 2 ^ 20) = some d.2) → Takes (.digest h step ds) s h fun e => e = { noted s h with
        twin := { s.twin with snapshots := s.twin.snapshots.filter fun x => x.1 > step } }) ∧
    (∀ step base d own snap, step < s.job.openStep → mget s.twin.snapshots step = some snap →
      mget snap (base / 2 ^ 20) = some own → own ≠ d → repairOf s base = none →
      Takes (.digest h step [(base, d)]) s h fun e => e = openRepair { noted s h with
        twin := { s.twin with snapshots := s.twin.snapshots.filter fun x => x.1 > step } } (base / 2 ^ 20) step true) ∧
    (∀ step ds, s.job.openStep ≤ step → Takes (.digest h step ds) s h fun e =>
      e = { noted s h with twin := { s.twin with held := s.twin.held ++ [{ dst := s.twin.number, hdr := h, body := .digests step ds }] } }) ∧
    (∀ segment step hashes r, repairOf s segment = some r → r.got = none →
      Takes (.granuleHashes h segment step hashes) s h fun e => e = matchHashes (noted s h) r hashes) ∧
    (∀ addr u r, repairOf s addr = some r → Takes (.repairStepProposal h addr u false 0) s h fun e =>
      ∃ v, v = max (max r.u u) (s.job.openStep + 2) ∧
        e = sendTwin (setRepair (noted s h) { r with u := v, agreed := true, act := max r.act 0 }) (.repairStep addr v true 0)) ∧
    (∀ addr u r, repairOf s addr = some r → Takes (.repairStepProposal h addr u true 0) s h fun e =>
      e = setRepair (noted s h) { r with u := max r.u u, agreed := true, act := max r.act 0 })) ∧
  (∀ (h : MsgHdr) (s : State) (x : StoredItem) (ok offered : Bool) (r : Repair) (it : TwinItem), Accepted s h →
    repairFor s x.addr = some r → findItem (noted s h) x.addr = some it →
    Takes (.repairCopy h x ok offered) s h fun e =>
      ∃ n r1, n = noted s h ∧ r1 = { r with waiting := r.waiting.filter (· != x.addr) } ∧
        (itemOk n it = false → ok = true →
          e = kickUpdates (endRepair (bump (post (putItem n x) .rel 0 0x0103 [x.addr, r.u]) .rel 0 0x108 0 16 1) r1)) ∧
        (itemOk n it = false → ok = false → e = kickUpdates (endRepair (post (loseItem n it) .rel 0 0x0104 [x.addr, r.u]) r1)) ∧
        (itemOk n it = true → ok = false ∨ itemBytes n it = x.bytes → e = kickUpdates (endRepair n r1)) ∧
        (itemOk n it = true → ok = true → itemBytes n it ≠ x.bytes → offered = true → r.act = 0 → e = kickUpdates (endRepair
          (bump (post (putItem n x) .rel 0 0x0105 [x.addr, (bitDiff (itemBytes n it) x.bytes).1, (bitDiff (itemBytes n it) x.bytes).2, r.u])
            .rel 0 0x108 16 16 1) r1)))

/-- A twin asked for an item finishes the update that is open on it, then serves its copy while the item carries no update of the step
asked for, or its own result of the same update, and refuses with an empty copy where it cannot; a copy that comes is written and
the read that waited goes on (R130, R191).
Completes: twinServeRequest, servedCopy. -/
def Obligations.TwinsServeItems : Prop :=
  ∀ (h : MsgHdr) (s : State), Accepted s h →
    (∀ addr bytes step byUpdate it n, n = finishOpen (noted s h) (openAddr (noted s h) addr) → s.twin.pair = .paired →
      findItem n addr = some it → itemTorn n addr = false → itemOk n it = true →
      ((∀ st, itemStep n it = some st → st < step) → Takes (.twinServeRequest h addr bytes step byUpdate) s h fun e =>
        e = sendTwin n (.servedCopy (storedOf n it) false)) ∧
      (itemStep n it = some step → byUpdate = true → Takes (.twinServeRequest h addr bytes step byUpdate) s h fun e =>
        e = sendTwin n (.servedCopy (storedOf n it) true))) ∧
    (∀ addr bytes step byUpdate, s.twin.pair ≠ .paired → Takes (.twinServeRequest h addr bytes step byUpdate) s h fun e =>
      e = sendTwin (finishOpen (noted s h) (openAddr (noted s h) addr)) (.servedCopy ⟨addr, [], 0, 0⟩ false)) ∧
    (∀ item w, s.twin.waits.find? (·.addr = item.addr) = some w → item.bytes ≠ [] → w.torn = false → scaleAt s item.addr = none →
      item.checkAddr = 0 → Takes (.servedCopy h item false) s h fun e => ∃ u sector,
        e = kickUpdates (offerItems (post u .mem (memOf s.part sector) 0x0201 [sector])) ∧
        u.mem = writeBytes (noted s h).mem item.addr item.bytes ∧ u.twin.waits = s.twin.waits.filter (·.addr != w.addr)) ∧
    (∀ item w, s.twin.waits.find? (·.addr = item.addr) = some w → item.bytes = [] → w.torn = true →
      Takes (.servedCopy h item false) s h fun e => ∃ u, e = kickUpdates (offerItems u) ∧ u.mem = (noted s h).mem ∧
        ∀ y ∈ u.twin.waits, y.addr = w.addr → y.refused = true)

/-- An enrolment: a DETACHED module with every channel in service asks its twin and becomes the target; a SOLE twin that is asked
becomes the source, suspends digests and sends its twinned segments; the target installs the job state, writes each segment
whole and forwarded writes in their order; at cut-over the marks and the re-admission are sent and the source is PAIRED (R42, R43,
R45, R256).
Completes: enrolmentStart, jobState, enrolmentSegment, enrolmentCutOver, enrolmentAgree. -/
def Obligations.EnrolmentCopiesTheTwin : Prop :=
  ∀ (s : State),
    (s.twin.pair = .detached → deadChannels s = [] → deaf s = false → Leads .enrolmentStart s fun t =>
      t.twin.pair = .enrollingTarget ∧ Sends s t [twinOf s] 0x0C .enrolRequest ∧ t.mem = s.mem ∧ t.job = s.job) ∧
    (∀ x, s.twin.enrolment = some x → s.twin.pair = .enrollingSource → x.copied = true → x.partner < 64 → x.attach = none →
      (s.job.running = true → ∃ k, x.cutOver = some k ∧ k ≤ s.job.closedStep) → Leads .enrolmentCutOver s fun t =>
        t.twin.pair = .paired ∧ t.twin.digestsOff = false ∧ t.twin.enrolment = none ∧ isMember t x.partner = true ∧ t.mem = s.mem) ∧
    ∀ h : MsgHdr, Accepted s h →
      (s.twin.pair = .sole → h.srcClass = twinOf s → Takes (.enrolmentAgree h) s h fun e => e.twin.pair = .enrollingSource ∧
        e.twin.digestsOff = true ∧ (∃ x, e.twin.enrolment = some x ∧ x.cutOver = some (s.job.openStep + 2) ∧ x.partner = twinOf s) ∧
        e.mem = (noted s h).mem ∧ e.job = s.job) ∧
      (∀ j, h.srcClass = twinOf s → s.twin.pair = .detached ∨ s.twin.pair = .enrollingTarget → Takes (.jobState h j) s h fun e =>
        e.twin.pair = .enrollingTarget ∧ e.job.openStep = j.openStep ∧ e.job.number = j.job ∧ e.job.layoutEpoch = j.layoutEpoch ∧
        e.tables.descs = j.descs ∧ e.tables.shards = j.shards ∧ e.tables.params = j.params ∧ e.col.rings = j.rings ∧
        e.col.members = j.members ∧ e.scaling = j.scaling ∧ e.outliers = j.outliers ∧ e.mem = (noted s h).mem) ∧
      (∀ base length cells stepEnd, s.twin.pair = .enrollingTarget → s.twin.held = [] → devRange s base length = true → Inv s →
        (cells.map (·.1)).Nodup → (∀ k ∈ cells, k.1 < length) →
        Takes (.enrolmentSegment h base length ⟨cells, [], stepEnd⟩) s h fun e =>
          (∀ x, base ≤ x → x < base + length → readByte e.mem x = ((cells.find? (·.1 = x - base)).map (·.2)).getD 0) ∧
          (∀ x, x < base ∨ base + length ≤ x → readByte e.mem x = readByte (noted s h).mem x) ∧
          e = { noted s h with
            mem := e.mem
            twin := { s.twin with endMark := stepEnd.or s.twin.endMark }
            gddr := { (noted s h).gddr with badSectors := e.gddr.badSectors, unserved := e.gddr.unserved, marks := e.gddr.marks } }) ∧
      ∀ forwards stepEnd, s.twin.pair = .enrollingTarget → s.twin.held = [] →
        Takes (.enrolmentSegment h 0 0 ⟨[], forwards, stepEnd⟩) s h fun e => ∃ f, f = forwards.foldl putForward (noted s h) ∧
          e = { f with twin := { f.twin with endMark := stepEnd.or s.twin.endMark } }


/-! ### Tables, look-ups and updates -/

/-- EMB_LOOKUP refuses bad fields and bad offsets before it reads anything else; a good one writes its occurrence map, registers its
look-up, and sends one batch per owner and engine, under its step; where no member holds the rows of a key it ends with MEMBER_LOST
(R152 to R154, R158, R254).
Completes: embLookup. -/
def Obligations.LookUpsAreRouted : Prop :=
  ∀ (c : HostCmd) (s : State) (d : TableDesc) (bs : List Byte) (n b : Nat) (idx offs : List Nat), ready s 0x0114 c = true →
    (∀ k ∈ s.tables.lookups, k.cmd ≠ c) → bs = inlineOf c.slot 64 → n = leAt bs 4 4 → b = leAt bs 8 4 →
    tableAt s (leAt bs 0 2 % 4096) = some d →
    (∀ d0, lookupFault s d c bs = some d0 → EndsIn (.embLookup c) s c 0x12 d0 0 s) ∧
    (lookupFault s d c bs = none → memWaits s (leAt bs 0x18 8) (4 * (b + 1)) = false →
      badSector s (leAt bs 0x18 8) (4 * (b + 1)) = none →
      offs = ((List.range (b + 1)).map fun i => leNat (devRead s (leAt bs 0x18 8 + 4 * i) 4)) →
      (offsetsOk offs n = false → EndsIn (.embLookup c) s c 0x12 (2 ^ 64 - 1) 0 s) ∧
      (offsetsOk offs n = true → memWaits s (leAt bs 0x10 8) (8 * n) = false → switchHolds s d c.slot.step = false →
        badSector s (leAt bs 0x10 8) (8 * n) = none →
        idx = ((List.range n).map fun i => leNat (devRead s (leAt bs 0x10 8 + 8 * i) 8)) →
        ((idx.any fun i => (keyOf d i).isNone) = true → EndsIn (.embLookup c) s c 0x12 (2 ^ 64 - 1) 0 s) ∧
        ∀ (occ keys : List RowKey) (s1 : State), idx.map (keyOf d) = occ.map some →
          keys = (passesOf s (dedup [] occ)).flatten →
          tryWrite s (leAt bs 0x30 8) (occ.flatMap fun k => leBytes 4 (keys.findIdx (· = k))) = .ok s1 →
          (∀ o, lostOwner s d keys = some o → EndsIn (.embLookup c) s c 0x27 o (removalStep s o % 2 ^ 32) s1) ∧
          (lostOwner s d keys = none → Leads (.embLookup c) s fun t => t.mem = s1.mem ∧ t.hif = s.hif ∧
            (∃ lk ∈ t.tables.lookups, lk.cmd = c ∧ lk.table = d.table ∧ lk.step = c.slot.step ∧
              lk.epoch = tableEpoch s d c.slot.step ∧ lk.bags = offs ∧ lk.occurrences = occ ∧ lk.keys = keys ∧ lk.replies = [] ∧
              lk.pass = 1 ∧ lk.done = false) ∧
            SendsOf s t fun m => m.hdr.kind = 0x04 ∧ m.hdr.step = c.slot.step ∧ ∃ ks, m.body = .batch ks)))

/-- An owner holds a batch until the rows of the step before are applied, answers a retired epoch with TABLE_EPOCH_RETIRED, and
otherwise reads its keys in order and replies; a sound record is answered with its weights and VERSION and counted (R154, R155,
R158, R162).
Completes: lookUpBatch. -/
def Obligations.OwnersServeBatches : Prop :=
  ∀ (h : MsgHdr) (keys : List RowKey) (s : State), Accepted s h →
    (tableAt s h.tensorId = none → Takes (.lookUpBatch h keys) s h fun e =>
      e = replyTo (noted s h) h (keys.map fun k => ⟨k, [], 0, some (0x25, h.tensorId, h.tableEpoch)⟩)) ∧
    ∀ d, tableAt s h.tensorId = some d →
      (slotOfEpoch d h.tableEpoch = none → Takes (.lookUpBatch h keys) s h fun e =>
        e = replyTo (noted s h) h (keys.map fun k => ⟨k, [], 0, some (0x25, h.tensorId, h.tableEpoch)⟩)) ∧
      ∀ v, slotOfEpoch d h.tableEpoch = some v →
        (0 < h.step → appliedThrough s d (h.step - 1) = false → Takes (.lookUpBatch h keys) s h fun e =>
          e = { noted s h with tables := { s.tables with batches := s.tables.batches ++ [⟨h, keys⟩] } }) ∧
        (batchHeld s d h.step h.tableEpoch = false → ∀ (u : State) (es : List ReplyEntry),
          readKeys (startDomain (noted s h) (domEmb (embPage s h.dstPoint))) d v h.step keys = (u, some es) →
          es.map (·.key) = keys ∧
          Takes (.lookUpBatch h keys) s h fun e => e = replyTo (progress u .emb (embPage u h.dstPoint) 1) h es) ∧
        ∀ (w : State) (key : RowKey) (bs : List Byte) (a st : Nat), a = recordAddr d v key → bs = devRead w a d.stride →
          (∀ o ∈ w.tables.open2, o.addr ≠ a) → a ∉ w.tables.torn → (∀ x ∈ w.twin.waits, x.addr ≠ a) →
          memWaits w a d.stride = false → badSector w a d.stride = none → headOk bs = true → momentStamp bs = weightStamp d bs →
          (recordTag bs = d.tag → ∃ t, readKey w d v st key =
            .entry t ⟨key, (bs.drop (weightsAt d)).take (weightBytes d.tag d.elements), recordVersion bs, none⟩ ∧
            t = { w with regs := t.regs }) ∧
          (recordTag bs ≠ d.tag → readKey w d v st key = .entry w ⟨key, [], 0, some (0x20, recordTag bs, d.tag)⟩)

/-- A reply that fails ends its look-up with that status; otherwise its entries go to scratch, the next pass is sent once every
key of a pass is answered, and after the last pass output and bag reports are written and the command completes (R153, R154, R157).
Completes: lookUpReply. -/
def Obligations.RepliesEndLookUps : Prop :=
  ∀ (h : MsgHdr) (es : List ReplyEntry) (s : State) (d : TableDesc) (lk : Lookup), Accepted s h →
    lookupFor s h es = some lk → tableAt s h.tensorId = some d →
    (∀ f, es.findSome? (·.fail) = some f → Takes (.lookUpReply h es) s h fun e => ∃ u, e = finish (dropLookup u lk) lk.cmd f.1 f.2.1 f.2.2 ∧
      u = { noted s h with regs := u.regs }) ∧
    ∀ (n u : State) (lk1 : Lookup), es.findSome? (·.fail) = none → n = progress (noted s h) .emb (embPage s h.dstPoint) 1 →
      storeEntries n d lk (es.filter fun r => !(lk.replies.any fun x => x.key = r.key)) = .ok u →
      lk1 = { lk with replies := lk.replies ++ es.filter fun r => !(lk.replies.any fun x => x.key = r.key) } →
      (((lk.todo.headD []).any fun k => !(lk1.replies.any fun x => x.key = k)) = true → Takes (.lookUpReply h es) s h fun e =>
        e = setLookup u lk1) ∧
      (((lk.todo.headD []).all fun k => lk1.replies.any fun x => x.key = k) = true → 1 < lk.todo.length →
        Takes (.lookUpReply h es) s h fun e =>
          ∃ lk2, lk2 = { lk1 with pass := lk.pass + 1, todo := lk.todo.drop 1 } ∧
            e = sendPass (countSpill (setLookup u lk2) (lk2.todo.headD [])) d lk2) ∧
      (((lk.todo.headD []).all fun k => lk1.replies.any fun x => x.key = k) = true → lk.todo.length ≤ 1 →
        (lk1.replies.any fun r => weightsReserved d.tag d.elements r.weights) = false →
        ∀ (tiles : List (List Byte × List Exc × List (Val × Val))) (spans : List (Nat × Nat)) (u1 u2 : State),
          tiles = outputTiles u d lk1 ((poolLines d lk1 (bagSpans lk.bags)).map fun l => l.map (·.1)) → spans = bagSpans lk.bags →
          tryWrite u lk.output (tiles.flatMap (·.1)) = .ok u1 →
          tryWrite u1 lk.report ((spans.map fun sp => (bagKeys lk1 sp).map fun k =>
            ((lk1.replies.find? (·.key = k)).map (·.version)).getD 0).flatMap bagReport) = .ok u2 →
          Takes (.lookUpReply h es) s h fun e => ∃ u3, e = declareMarks (done u3 lk.cmd) ∧ u3.mem = u2.mem ∧
            u3.tables.lookupsDone = raiseCount s.tables.lookupsDone lk.table lk.step)

/-- EMB_BACKWARD reads its gradient tiles and sends the combined rows of its keys to their owners; it is refused without a
completed look-up of its table, step and scratch, and for a frozen table; the owner keeps gradient rows by requester and counts
and discards those of a retired epoch; a look-up mark is noted once (R158 to R162, R177).
Completes: embBackward, gradientRows, lookUpMark. -/
def Obligations.GradientRowsAreSentAndKept : Prop :=
  ∀ (s : State),
    (∀ (c : HostCmd) (d : TableDesc), ready s 0x0115 c = true → (∀ b ∈ s.tables.backwards, b.2.2 ≠ c) →
      tableAt s (bitsOf c.slot.param0 0 12) = some d →
      (d.optimiser = 0 → EndsIn (.embBackward c) s c 0x12 (2 ^ 64 - 1) 0 s) ∧
      (d.optimiser ≠ 0 → (paramsFor s d.tensor c.slot.step).isSome = true →
        (∀ x ∈ s.tables.lookups, ¬(x.done = true ∧ x.scratch = c.slot.param1 ∧ x.table = d.table ∧ x.step = c.slot.step)) →
        EndsIn (.embBackward c) s c 0x12 0x28 0 s) ∧
      ∀ (lk : Lookup) (base n size tag : Nat) (lines : List (List Val)), d.optimiser ≠ 0 →
        (paramsFor s d.tensor c.slot.step).isSome = true → (s.tables.lookups.find? fun x => x.done && x.scratch = c.slot.param1 &&
          x.table = d.table && x.step = c.slot.step) = some lk → base = c.slot.param2 → base % 256 = 0 → rangeBad s base 64 = false →
        memWaits s base 64 = false → pReady s d.tensor = true → badSector s base 64 = none → tag = leAt (devRead s base 64) 0 1 →
        leAt (devRead s base 64) 0x3C 4 = crc32c (devRead s base 60) →
        (tag ≠ 1 → tag ≠ 3 → EndsIn (.embBackward c) s c 0x20 tag 1 s) ∧
        (tag = 1 ∨ tag = 3 → n = (if lk.pooling = 2 then lk.occurrences.length else lk.bags.length - 1) →
          size = granules (64 + 128 * tileLineBytes (fmtOfTag tag).1) →
          rangeBad s base ((n + 127) / 128 * ((d.elements + 127) / 128) * size) = false →
          readGrads s base tag d.elements n = .ok lines → Leads (.embBackward c) s fun t =>
            t = sendBackward s d lk c (expandGrads ⟨modeOf c.slot.ctl, roundingOf c.slot.ctl, .fp32⟩ lk lines) ∧ t.mem = s.mem ∧
            SendsOf s t fun m => m.hdr.kind = 0x06 ∧ m.hdr.tensorId = d.table ∧ m.hdr.step = c.slot.step)) ∧
    ∀ h : MsgHdr, Accepted s h →
      (∀ rows d, tableAt s h.tensorId = some d → (slotOfEpoch d h.tableEpoch).isSome = true → Takes (.gradientRows h rows) s h fun e =>
        e = advanceTables (addGrads (startDomain (noted s h) (domEmb (embPage s h.dstPoint))) h rows)) ∧
      (∀ rows d, tableAt s h.tensorId = some d → slotOfEpoch d h.tableEpoch = none → Takes (.gradientRows h rows) s h fun e =>
        e = advanceTables (addGrads (bump (startDomain (noted s h) (domEmb (embPage s h.dstPoint))) .emb (embPage s h.dstPoint) 0x124 0 16
          rows.length) h [])) ∧
      (∀ rows, tableAt s h.tensorId = none → Takes (.gradientRows h rows) s h fun e => e = { noted s h with regs := e.regs }) ∧
      (marked s h.tensorId h.step h.srcClass = false → Takes (.lookUpMark h) s h fun e => e = advanceTables
        { noted s h with tables := { s.tables with marks := s.tables.marks ++ [(h.tensorId, h.step, h.srcClass)] } }) ∧
      (marked s h.tensorId h.step h.srcClass = true → Takes (.lookUpMark h) s h fun e => e = noted s h)

/-- TABLE_STAGE sends each record to every holder of its row, and TABLE_ROLL each row to its owner, and waits for their answers; a
staged record is written whole into the inactive slot with both stamps at SWITCH_STEP - 1 and its check word; a rolled row is
fixed at the open step plus 1 (R163, R166).
Completes: tableStage, tableRoll, routedItem. -/
def Obligations.TableContentsAreStagedAndRolled : Prop :=
  ∀ (s : State),
    (∀ (c : HostCmd) (data : List Byte) (t n k : Nat) (d : TableDesc), (∀ r ∈ s.tables.routed, r.cmd ≠ c) →
      t = bitsOf c.slot.param0 0 12 → n = c.slot.param1 → 0 < n → n ≤ 65536 → tableAt s t = some d → operandOut s c (n * k) = false →
      operandFault s c (n * k) = none → ∀ (es : List (List Byte)), es = entriesOf (operandBytes s c data (n * k)) k n →
      (∀ items : List (Nat × RoutedItem), ready s 0x0112 c = true → k = 8 + recordLength d → d.replaceMode = 1 → d.switchStep ≠ noSwitch →
        (∀ e ∈ es, (keyOf d (leAt e 0 8)).isSome = true) →
        items = (es.flatMap fun e => match keyOf d (leAt e 0 8) with
          | none => []
          | some key => (rowHolders s d (ownerOf d key.shard)).map fun m => (m, RoutedItem.stage t (leAt e 0 8) (e.drop 8) false)) ++
          (if bitOf c.slot.param0 31 then (allHolders s d).map fun m => (m, RoutedItem.stage t 0 [] true) else []) →
        (items = [] → ∃ e, EndsIn (.tableStage c data) s c 0 0 0 e) ∧
        (items ≠ [] → Leads (.tableStage c data) s fun u => u.mem = s.mem ∧ u.hif = s.hif ∧
          u.tables.routed = s.tables.routed ++ [⟨s.col.nextTag, c, items.map (·.1), 0, 0, none⟩] ∧
          SendsEach s u 0x10 (items.map fun i => (i.1, .routed i.2 s.col.nextTag)))) ∧
      (∀ items : List (Nat × RoutedItem), ready s 0x0113 c = true → k = 16 + weightBytes d.tag d.elements → d.replaceMode = 2 →
        (∀ e ∈ es, (keyOf d (leAt e 0 8)).isSome = true ∧ leAt e 10 1 ≤ 1) →
        items = (es.filterMap fun e => (keyOf d (leAt e 0 8)).bind fun key => (rowHolders s d (ownerOf d key.shard)).head?.map fun m =>
          (m, RoutedItem.roll t (leAt e 0 8) (leAt e 8 2) (leAt e 10 1 = 1) (e.drop 16) none)) →
        (items = [] → ∃ e, EndsIn (.tableRoll c data) s c 0 0 0 e) ∧
        (items ≠ [] → Leads (.tableRoll c data) s fun u => u.mem = s.mem ∧ u.hif = s.hif ∧
          u.tables.routed = s.tables.routed ++ [⟨s.col.nextTag, c, items.map (·.1), 0, 0, none⟩] ∧
          SendsEach s u 0x10 (items.map fun i => (i.1, .routed i.2 s.col.nextTag)))) ∧
      (ready s 0x0112 c = true → k = 8 + recordLength d → d.replaceMode ≠ 1 ∨ d.switchStep = noSwitch →
        EndsIn (.tableStage c data) s c 0x12 (2 ^ 64 - 1) 0 s) ∧
      (ready s 0x0113 c = true → k = 16 + weightBytes d.tag d.elements → d.replaceMode ≠ 2 →
        EndsIn (.tableRoll c data) s c 0x12 (2 ^ 64 - 1) 0 s)) ∧
    ∀ (h : MsgHdr) (t index tag : Nat) (d : TableDesc) (key : RowKey), Accepted s h → tableAt s t = some d →
      keyOf d index = some key →
      (∀ record rec', Quiet (noted s h) → d.replaceMode = 1 → d.switchStep ≠ noSwitch →
        rec' = stampRecord d (padTo (recordLength d) (record.take (recordLength d))) ((d.switchStep - 1) % 2 ^ 24) →
        Takes (.routedItem h (.stage t index record false) tag) s h fun e => ∃ u, e = sendAnswer u h.srcClass tag 0 0 0 ∧
          u.mem = writeBytes (writeBytes (noted s h).mem (recordAddr d (1 - d.active) key) (padTo d.stride (rec'.take (recordLength d))))
            (checkAddr d (1 - d.active) key) (leBytes 4 (crc32c (rec'.take (recordLength d))))) ∧
      (∀ version zero w r, d.replaceMode = 2 → rollFault (noted s h) d d.active key zero = none → r = (s.job.openStep + 1) % 2 ^ 64 →
        Takes (.routedItem h (.roll t index version zero w none) tag) s h fun e =>
        ∃ u, e = sendAnswer (runRolls u d) h.srcClass tag 0 r r ∧ u.tables.rolls = s.tables.rolls ++ [⟨t, key, version, zero, w, r⟩])

/-- An update writes the head and state first and leaves the weights, tail and check word to its second write; a non-finite result
writes neither and is counted; the second write of a record puts weights and check word in memory once its channels take it; a
renewal pass takes the records of its unit in ascending address, stamps and decays one in the same two halves, and stays before one
that waits (R172, R183, R188, R189).
Completes: updateSecondWrite, stampRenewal. -/
def Obligations.UpdatesTakeTwoWrites : Prop :=
  ∀ (s : State),
    (∀ (d : TableDesc) (pr : PendRow) (p : Params) (bs : List Byte) (t : State) (unit : Nat), t = updateRecord s d pr p bs →
      unit = memOf s.part (recordAddr d pr.slot pr.key) →
      (t.mem = s.mem ∧ t.tables.open2 = s.tables.open2 ∧ t = { s with regs := t.regs, tables := { s.tables with stats := t.tables.stats } } ∧
        SameRegs s t [pageOf .upd unit + 0x120, pageOf .mgt 0 + 0x224] ∧
        field t .upd unit 0x120 16 16 = min (field s .upd unit 0x120 16 16 + 1) 65535) ∨
      (∃ state o, t.mem = writeBytes s.mem (recordAddr d pr.slot pr.key) (recordHead (pr.step % 2 ^ 24) (recordVersion bs) (recordTag bs) ++ state) ∧
        t.tables.open2 = s.tables.open2 ++ [o] ∧ o.addr = recordAddr d pr.slot pr.key ∧
        o.weightsAt = recordAddr d pr.slot pr.key + weightsAt d ∧ o.checkAddr = checkAddr d pr.slot pr.key)) ∧
    (∀ (d : ShardDesc) (i : Nat) (pt : PendTile) (p : Params) (t : State), t = updateTile s d i pt p →
      (t.mem = s.mem ∧ t.tables.open2 = s.tables.open2) ∨
      (∃ bytes o, t.mem = writeBytes s.mem (d.stateBase + i * d.stateStride) bytes ∧ t.tables.open2 = s.tables.open2 ++ [o] ∧
        o.addr = d.weightBase + i * d.weightStride ∧ o.isTile = true)) ∧
    (∀ addr o, s.tables.open2.find? (·.addr = addr) = some o →
      (Quiet s → Leads (.updateSecondWrite addr) s fun t =>
        t.mem = (if o.checkBytes = [] then writeBytes s.mem o.weightsAt o.weights
                 else writeBytes (writeBytes s.mem o.weightsAt o.weights) o.checkAddr o.checkBytes) ∧
        t.tables = { s.tables with open2 := s.tables.open2.filter (· != o) } ∧ t.hif = s.hif ∧
        (s.twin.pair ≠ .enrollingSource → t.col = s.col)) ∧
      (writeHeld s o = true → Leads (.updateSecondWrite addr) s (· = s))) ∧
    (∀ addr, (∀ o ∈ s.tables.open2, o.addr ≠ addr) → Leads (.updateSecondWrite addr) s (· = s)) ∧
    (∀ unit count, (∀ r ∈ s.tables.renewal, r.1 ≠ unit) → Leads (.stampRenewal unit count) s (· = s)) ∧
    (∀ unit step pos left, s.tables.renewal.find? (fun r => r.1 = unit) = some (unit, step, pos) →
      left = (unitRecords s unit).filter (fun r => pos ≤ r.1) →
      (left = [] → ∀ count, Leads (.stampRenewal unit count) s fun t =>
        t = { s with tables := { s.tables with renewal := s.tables.renewal.filter fun r => r.1 != unit } }) ∧
      ∀ a d v key rest, left = (a, d, v, key) :: rest → copyless s d.twinned step = false →
        (∀ u bs x, readyRecord s d v key step true = .ok u bs → x = renewRecord u d v key bs step →
          Leads (.stampRenewal unit 1) s fun t =>
            t = { x with tables := { x.tables with renewal := match rest with
              | [] => x.tables.renewal.filter fun r => r.1 != unit
              | r :: _ => x.tables.renewal.map fun y => if y.1 = unit then (unit, step, r.1) else y } } ∧
            (renewable d bs step = false → x = u) ∧
            (renewable d bs step = true → ∃ state o new, new = renewedBytes u d bs step ∧ x.mem = writeBytes u.mem (recordAddr d v key)
                (recordHead (step % 2 ^ 24) (recordVersion new) (recordTag new) ++ state) ∧
              x.tables.open2 = u.tables.open2 ++ [o] ∧ o.addr = recordAddr d v key ∧ o.renewal = true)) ∧
        (∀ u count, readyRecord s d v key step true = .wait u → Leads (.stampRenewal unit (count + 1)) s fun t =>
          t = { u with tables := { u.tables with
            renewal := u.tables.renewal.map fun y => if y.1 = unit then (unit, step, a) else y } }))

/-- A reduced gradient tile of no local tile or of a frozen shard only counts; one whose step waits for its pre-scale, a hand or a
channel list is kept; one that the tile already carries is counted and discarded; otherwise it rewrites the tile (R106, R113, R171,
R175, R255).
Completes: reducedGradientTile. -/
def Obligations.ReducedTilesAreAppliedOnce : Prop :=
  ∀ (h : MsgHdr) (line depth : Nat) (elems : List Nat) (s n : State), Accepted s h → n = noted s h →
    (mget s.tables.shards h.tensorId = none → Takes (.reducedGradientTile h line depth elems) s h fun e => e = countTile n h.step) ∧
    ∀ d, mget s.tables.shards h.tensorId = some d →
      (findTile n d line depth = none → Takes (.reducedGradientTile h line depth elems) s h fun e => e = countTile n h.step) ∧
      ∀ (i wa unit : Nat) (u : State) (pt : PendTile), findTile n d line depth = some i → wa = d.weightBase + i * d.weightStride →
        unit = memOf s.part wa → (∀ o ∈ s.tables.open2, o.addr ≠ wa) → u = startDomain n (domUpd unit) →
        pt = { hdr := h, line := line, depth := depth, elems := elems } →
        (d.optimiser = 0 ∨ copyless u d.twinned h.step = true → Takes (.reducedGradientTile h line depth elems) s h fun e =>
          e = countTile u h.step) ∧
        (d.optimiser ≠ 0 → copyless u d.twinned h.step = false →
          (wa ∈ s.tables.torn → Takes (.reducedGradientTile h line depth elems) s h fun e =>
            e = countTile (bump u .upd unit 0x120 0 16 1) h.step) ∧
          (wa ∉ s.tables.torn → tileHeld u pt = true → Takes (.reducedGradientTile h line depth elems) s h fun e =>
            e = { u with tables := { u.tables with pendTiles := u.tables.pendTiles ++ [{ pt with unit := unit }] } }) ∧
          (wa ∉ s.tables.torn → tileHeld u pt = false → s.twin.repairs = [] → s.twin.waits = [] → Quiet u →
            ¬(d.twinned = true ∧ s.twin.pair = .enrollingTarget) → pairTorn u d i = false →
            (leAt (devRead u wa 64) 0xC 3 = h.step % 2 ^ 24 → Takes (.reducedGradientTile h line depth elems) s h fun e =>
              e = countTile (bump u .col (unit / 4) 0x120 0 32 1) h.step) ∧
            (leAt (devRead u wa 64) 0xC 3 ≠ h.step % 2 ^ 24 → ∀ p, paramsFor s d.tensor h.step = some p →
              Takes (.reducedGradientTile h line depth elems) s h fun e => e = countTile (updateTile u d i pt p) h.step)))

/-- SHARD_DEFINE brings a shard descriptor into force and tracks its tensor, or names the field that breaks its rules; at a
selection step the chosen outlier list comes into force with the next step, or a hand is raised; no block chooses more than
PER_BLOCK channels (R105, R113, R114, R174).
A written answer applies to the oldest hand of its page: a pre-scale answer sets p, an outlier answer the pending list, a
silent-layer answer the LIFT that the module will report, a table-switch answer switches or abandons; without a hand, or with a
reserved action or a value out of range, it is discarded and BLK_ERR.ANSWER is set; a function that may not write the page sets
BLK_ERR.ACCESS (R106, R114, R117, R165, R275, R316, R326).
Completes: shardDefine, prescaleAnswer, outlierAnswer, silentLayerAnswer, tableSwitchAnswer, outlierSelection. -/
def Obligations.ShardsListsAndAnswersAreTaken : Prop :=
  (∀ (s : State),
    (∀ c, ready s 0x0118 c = true →
      (∀ off, shardFault s (inlineOf c.slot 64) = some off → EndsIn (.shardDefine c) s c 0x12 (0x100 + off) 0 s) ∧
      (shardFault s (inlineOf c.slot 64) = none → ((shardDescOf (inlineOf c.slot 64)).twinned = true → s.twin.pair = .paired) →
        ∃ e, EndsIn (.shardDefine c) s c 0 0 0 e ∧
        mget e.tables.shards (shardDescOf (inlineOf c.slot 64)).tensor = some (shardDescOf (inlineOf c.slot 64)) ∧
        (mget e.scaling (shardDescOf (inlineOf c.slot 64)).tensor).isSome = true ∧
        (∀ t, t ≠ (shardDescOf (inlineOf c.slot 64)).tensor → mget e.tables.shards t = mget s.tables.shards t ∧ mget e.scaling t = mget s.scaling t) ∧
        e.mem = s.mem)) ∧
    (∀ o m b, (chooseBlock s o m b).length ≤ perBlock s ∧ ∀ k ∈ chooseBlock s o m b, k / 128 = b) ∧
    ∀ tensor step (o : Outliers) (l : List Nat), o = (mget s.outliers tensor).getD noOutliers → l = chooseOutliers s o (channelMaxima o step) →
      (isSelection s step = false ∨ s.job.openStep ≠ step ∨ mget s.tables.shards tensor = none ∨ maximaIn s step = false →
        Leads (.outlierSelection tensor step) s (· = s)) ∧
      ((mget s.tables.shards tensor).isSome = true → isSelection s step = true → s.job.openStep = step → o.proposedStep ≤ step →
        s.col.reshard = none → maximaIn s step = true →
        (field s .mgt 0 0x010 1 1 = 0 ∨ l = o.current → Leads (.outlierSelection tensor step) s fun t => ∃ x, mget t.outliers tensor = some x ∧
          x.next = some (l, step + 1) ∧ x.current = o.current ∧ x.hand = false ∧ t.hif.hands = s.hif.hands ∧
          (l = o.current → t.hif = s.hif)) ∧
        (field s .mgt 0 0x010 1 1 = 1 → l ≠ o.current → Leads (.outlierSelection tensor step) s fun t => ∃ x, mget t.outliers tensor = some x ∧
          x.next = o.next ∧ x.hand = true ∧ x.proposed = l ∧ t.hif.hands = s.hif.hands ++ [⟨s.hif.handSeq, pageOf .mgt 0, 1, [tensor]⟩]))) ∧
  (∀ (s : State) (fn : Nat) (v : W32) (action value : Nat), action = bitsOf v.toNat 8 2 → value = bitsOf v.toNat 0 8 →
    (∀ i, i = .prescaleAnswer fn v ∨ i = .outlierAnswer fn v ∨ i = .silentLayerAnswer fn v →
      (s.pwr.auxGood = true → mayWrite s fn .mgt 0 = false → Leads i s (· = stick s .mgt 0 0)) ∧
      (s.pwr.auxGood = true → mayWrite s fn .mgt 0 = true → oldest s (pageOf .mgt 0) = none → Leads i s (· = stick s .mgt 0 1)) ∧
      (s.pwr.auxGood = true → mayWrite s fn .mgt 0 = true → action = 3 → Leads i s (· = stick s .mgt 0 1)) ∧
      ∀ h tensor, s.pwr.auxGood = true → mayWrite s fn .mgt 0 = true → oldest s (pageOf .mgt 0) = some h → tensor = h.items.getD 0 0 →
        action < 3 →
        (∀ r p, h.bit = 0 → mget s.scaling tensor = some r → (-64 : Int) ≤ signedOf 8 value → signedOf 8 value ≤ 96 →
          p = (if action = 0 then signedOf 64 (h.items.getD 2 0) else if action = 1 then signedOf 8 value else r.p) →
          Leads i s (· = kickUpdates (setScale (putP (lower s h) tensor r p) tensor fun x => { x with waitP := false }))) ∧
        (h.bit = 0 → signedOf 8 value < -64 ∨ 96 < signedOf 8 value → Leads i s (· = stick s .mgt 0 1)) ∧
        (∀ o l, h.bit = 1 → o = (mget s.outliers tensor).getD noOutliers → action ≠ 1 → l = (if action = 0 then o.proposed else o.current) →
          Leads i s (· = kickUpdates (takeList (lower s h) tensor (o.proposedStep - 1) l))) ∧
        (∀ o l, h.bit = 1 → o = (mget s.outliers tensor).getD noOutliers → action = 1 → o.host = some l →
          Leads i s (· = kickUpdates (takeList (lower s h) tensor (o.proposedStep - 1) l))) ∧
        (∀ r l, 2 ≤ h.bit → value ≤ maxLift s → mget s.scaling tensor = some r →
          l = (if action = 0 then h.items.getD 3 0 else if action = 1 then value else r.lift) →
          Leads i s (· = setScale (lower s h) tensor fun x => { x with answer := some l })) ∧
        (2 ≤ h.bit → maxLift s < value → Leads i s (· = stick s .mgt 0 1))) ∧
    (s.pwr.auxGood = true → mayWrite s fn .emb 0 = true → ∀ h table, oldest s (pageOf .emb 0) = some h → table = h.items.getD 0 0 →
      (v.toNat % 4 = 0 → Leads (.tableSwitchAnswer fn v) s fun t => ∃ u, t = serveBatches u ∧
        u = { lower s h with tables := { s.tables with frozenSwitch := s.tables.frozenSwitch.filter (· != table) } }) ∧
      (v.toNat % 4 = 1 → ∀ d, tableAt s table = some d → Leads (.tableSwitchAnswer fn v) s fun t => ∃ u, t = serveBatches u ∧
        mget u.tables.descs table = some { d with switchStep := noSwitch } ∧ mget u.tables.staged table = none ∧ u.mem = s.mem) ∧
      (2 ≤ v.toNat % 4 → Leads (.tableSwitchAnswer fn v) s (· = stick s .emb 0 1))))

/-! ### Memory channels, links, power, reset -/

/-- A transfer that fails its retries holds the traffic of its channel, and raises a hand in host-assisted mode; a channel whose
attempt succeeds returns at no more than its device's rate, and one whose waiting transfer succeeds under answer 0x1 returns as it
was; after three failed attempts a channel goes out of service, and a PAIRED module or the target of an enrolment is DETACHED;
BLK_RESET retrains all four channels; patrol scrub counts, latches and posts what it cannot read (R126 to R129, R323, R393, R394).
Completes: memRetrainAnswer, memRetrainRequest, crcRetryExhausted, channelRetrainDone, patrolScrub. -/
def Obligations.MemoryChannelsRetrain : Prop :=
  ∀ (s : State),
    (∀ ch addr, isUp s = true → channelRate s ch ≠ 0 → (ch ∉ s.gddr.retraining ∨ ch ∈ s.gddr.retrying) →
      Leads (.crcRetryExhausted ch addr) s fun t =>
        ch ∈ t.gddr.retraining ∧ ch ∉ t.gddr.retrying ∧ (ch, addr) ∈ t.gddr.waiting ∧
        t = { s with gddr := t.gddr, regs := t.regs, hif := t.hif, hostOut := t.hostOut } ∧
        t.gddr = { s.gddr with retraining := t.gddr.retraining, attempts := t.gddr.attempts, retrying := t.gddr.retrying,
                               waiting := t.gddr.waiting } ∧
        (memAssisted s (ch / 4) = true → t.hif.hands = s.hif.hands ++ [⟨s.hif.handSeq, pageOf .mem (ch / 4), 0, [ch]⟩]) ∧
        (memAssisted s (ch / 4) = false → t.hif = s.hif)) ∧
    (∀ ch rate, isUp s = true ∨ s.rel.recovery = 2 → ch ∈ s.gddr.retraining → channelHand s ch = none → rateStep rate = rate →
      (ch ∉ s.gddr.retrying →
        (rate ≠ 0 → Leads (.channelRetrainDone ch rate) s fun t => ∃ u, Resumes u t ∧ ch ∉ u.gddr.retraining ∧
          mget u.gddr.rates ch = some (if deviceRate s (ch / 4) = 0 then rate else min rate (deviceRate s (ch / 4))) ∧
          (∀ w ∈ u.gddr.waiting, w.1 ≠ ch) ∧ u.mem = s.mem ∧ u.rel = s.rel) ∧
        (rate = 0 → 2 ≤ (mget s.gddr.attempts ch).getD 0 → Leads (.channelRetrainDone ch rate) s fun t => ∃ u,
          Resumes (kickUpdates (loseTwinned (post u .mem (ch / 4) 0x0908 [ch]))) t ∧ u = { s with gddr := u.gddr } ∧
          ch ∉ u.gddr.retraining ∧ mget u.gddr.rates ch = some 0 ∧ ∀ w ∈ u.gddr.waiting, w.1 ≠ ch) ∧
        (rate = 0 → (mget s.gddr.attempts ch).getD 0 < 2 → Leads (.channelRetrainDone ch rate) s fun t =>
          mget t.gddr.attempts ch = some ((mget s.gddr.attempts ch).getD 0 + 1) ∧
          t = { s with gddr := { s.gddr with attempts := t.gddr.attempts } })) ∧
      (ch ∈ s.gddr.retrying →
        (rate ≠ 0 → Leads (.channelRetrainDone ch rate) s fun t => ∃ u,
          Resumes (post u .mem (ch / 4) 0x0202 [ch, channelRate s ch]) t ∧ u = { s with gddr := u.gddr } ∧
          ch ∉ u.gddr.retraining ∧ ch ∉ u.gddr.retrying ∧ u.gddr.rates = s.gddr.rates ∧ ∀ w ∈ u.gddr.waiting, w.1 ≠ ch) ∧
        (rate = 0 → Leads (.channelRetrainDone ch rate) s (· = s)))) ∧
    (∀ ch rate, ch ∉ s.gddr.retraining → Leads (.channelRetrainDone ch rate) s (· = s)) ∧
    ((s.twin.pair = .paired → (loseTwinned s).twin.pair = .detached ∧ (loseTwinned s).twin.noticeSent = true) ∧
      (s.twin.pair = .enrollingTarget → loseTwinned s = { s with twin := { s.twin with pair := .detached, enrolment := none } }) ∧
      (s.twin.pair = .sole → loseTwinned s = s)) ∧
    (∀ (read : SectorRead) scrub a s1, scrub = Instr.patrolScrub read.addr ⟨read.wrong, read.misplaced, read.retries⟩ →
      a = sectorOf read.addr → isUp s = true → s.pwr.recess = false → s.gddr.selfRefresh = false →
      a < Config.reservedBase s.part + 2 ^ 32 → field s .mem (memOf s.part a) 0x11C 0 16 ≠ 0 → memWaits s a 64 = false →
      s1 = bump s .mem (memOf s.part a) 0x118 0 16 (min read.retries 3) →
      (writeQueued s a = true → Leads scrub s (· = s)) ∧
      (writeQueued s a = false →
        (badSector (meetSector s read) a 64 = none → Leads scrub s (· = meetSector s read)) ∧
        ((badSector (meetSector s read) a 64).isSome = true → Leads scrub s (· = scrubBad (meetSector s read) a)) ∧
        (decodeSector read = some .clean → badSector s a 64 = none → Leads scrub s (· = s1)) ∧
        (decodeSector read = some .corrected → badSector s a 64 = none → Leads scrub s
          (· = bump s1 .mem (memOf s.part a) 0x104 0 32 1)) ∧
        (decodeSector read = some .uncorrectable ∨ (decodeSector read = some .clean ∧ (badSector s a 64).isSome = true) →
          paired s = false → Leads scrub s fun t =>
            t = { noteUE s1 a with gddr := { s.gddr with badSectors := insertNat s.gddr.badSectors a } }))) ∧
    (∀ addr read, field s .mem (memOf s.part (sectorOf addr)) 0x11C 0 16 = 0 → Leads (.patrolScrub addr read) s (· = s)) ∧
    ∀ unit (v : W32), s.pwr.auxGood = true → unit < Config.memDevices s.part →
      (isUp s = true → Leads (.memRetrainRequest 0 unit) s fun t => t = { s with
          regs := t.regs, gddr := { s.gddr with retraining := t.gddr.retraining, attempts := t.gddr.attempts } } ∧
          SameRegs s t [pageOf .mem unit + 0x14] ∧ (∀ k < 4, 4 * unit + k ∈ t.gddr.retraining) ∧
          (∀ c, c / 4 ≠ unit → (c ∈ t.gddr.retraining ↔ c ∈ s.gddr.retraining))) ∧
      (∀ h, oldest s (pageOf .mem unit) = some h → v = 0 → Leads (.memRetrainAnswer 0 unit v) s (· = lower s h)) ∧
      (∀ h, oldest s (pageOf .mem unit) = some h → v = 1 → Leads (.memRetrainAnswer 0 unit v) s fun t =>
        t = { lower s h with gddr := { s.gddr with retrying := insertNat s.gddr.retrying (h.items.headD 0) } }) ∧
      (oldest s (pageOf .mem unit) = none ∨ 1 < v.toNat → Leads (.memRetrainAnswer 0 unit v) s (· = stick s .mem unit 1)) ∧
      (∀ fn, fn ≠ 0 → Leads (.memRetrainAnswer fn unit v) s (· = stick s .mem unit 0) ∧
        Leads (.memRetrainRequest fn unit) s (· = stick s .mem unit 0))

/-- A link that trains waits for its identity exchange and is held in detention after three failures; the exchange admits the far
end its role requires, with the event of the retrain that it ends, or holds the link with LINK_MISWIRED, and the spare stands in for
a link in detention; loss of lock, a replay rate above 1,000, and BLK_RESET retrain it; a failed third attempt posts its failure.
Where the links have changed, the streams of the retry stores move (R25 to R27, R245, R391, R396 to R399).
Completes: linkRetrainAnswer, linkRetrainRequest, peerLinkTrainingDone, identityExchange, linkBlockLockLoss, linkReplayRate,
linkRetrainDone. -/
def Obligations.PeerLinksTrainAndRetrain : Prop :=
  ∀ (s : State) (n : Nat) (l : Link), l = linkOf s n → linkLives s n = true →
    (l.state = .training →
      Leads (.peerLinkTrainingDone n true) s (· = setLink s n { l with aligned := true, fails := 0 }) ∧
      (l.fails < 2 → Leads (.peerLinkTrainingDone n false) s (· = setLink s n { l with aligned := false, fails := l.fails + 1 })) ∧
      (2 ≤ l.fails → Leads (.peerLinkTrainingDone n false) s
        (· = moveStreams (setLink s n { l with aligned := false, fails := 0, state := .detention })))) ∧
    (inClass s = true → (l.state = .training ∧ l.aligned = true) ∨ l.state = .inService → ∀ cls far part,
      (linkRole n ≠ .spare → rightFar s n cls far = true → part = Config.partNumber s.part → Leads (.identityExchange n cls far part true) s
        fun t => ∃ u w, t = moveStreams u ∧
          w = setLink s n { l with state := .inService, farClass := cls, farLink := far, fails := 0, retest := false } ∧
          (l.retest = false → u = w) ∧ (l.retest = true → u = post (bump w .lnk n 0x104 0 16 1) .lnk n 0x0906 [])) ∧
      (∀ cause, (cause = 1 ∧ linkRole n ≠ .spare ∧ rightFar s n cls far = false) ∨ (cause = 1 ∧ linkRole n = .spare ∧ standInFor s cls far = none) ∨
          (cause = 2 ∧ linkRole n ≠ .spare ∧ rightFar s n cls far = true ∧ part ≠ Config.partNumber s.part) →
        Leads (.identityExchange n cls far part true) s fun t => ∃ u, t = moveStreams (post u .lnk n 0x0100 [n, cls, far, cause]) ∧
          (linkOf u n).state = .detention ∧ u = { s with links := u.links, regs := u.regs }) ∧
      (∀ m, linkRole n = .spare → standInFor s cls far = some m → part = Config.partNumber s.part →
        Leads (.identityExchange n cls far part true) s fun t => ∃ u, t = moveStreams (post u .lnk n 0x0101 [m]) ∧
          (linkOf u n).state = .inService ∧ (linkOf u n).standIn = m)) ∧
    (∀ cls far part, Leads (.identityExchange n cls far part false) s (· = s)) ∧
    (l.state = .inService →
      Leads (.linkBlockLockLoss n) s (fun t => (linkOf t n).state = .retraining ∧ (linkOf t n).cause = 1 ∧ (linkOf t n).retest = true ∧
        (field s .lnk n 0x010 0 1 = 0 → ∃ u, t = moveStreams u ∧ u = { s with links := u.links, regs := u.regs } ∧
          SameRegs s u [pageOf .lnk n + 0x14]) ∧
        (field s .lnk n 0x010 0 1 = 1 → t.hif.hands = s.hif.hands ++ [⟨s.hif.handSeq, pageOf .lnk n, 0, [n, 1, 1]⟩])) ∧
      (∀ frames, frames ≤ 1000 → Leads (.linkReplayRate n frames) s (· = bump s .lnk n 0x108 0 32 frames)) ∧
      (∀ frames, 1000 < frames → Leads (.linkReplayRate n frames) s fun t => (linkOf t n).state = .retraining ∧ (linkOf t n).cause = 2)) ∧
    (l.state = .retraining → linkHand s n = none →
      Leads (.linkRetrainDone n true) s (· = setLink s n { l with state := .training, aligned := true, fails := 0 }) ∧
      (2 ≤ l.fails → Leads (.linkRetrainDone n false) s fun t => ∃ u, t = moveStreams (post u .lnk n 0x0907 []) ∧
        (linkOf u n).state = .detention ∧ u = { s with links := u.links, regs := u.regs }) ∧
      (l.fails < 2 → Leads (.linkRetrainDone n false) s fun t => linkOf t n = { l with fails := l.fails + 1 })) ∧
    (s.pwr.auxGood = true →
      (l.state ≠ .retraining → l.state ≠ .down → Leads (.linkRetrainRequest 0 n) s fun t => (linkOf t n).state = .retraining ∧
        (linkOf t n).cause = 3 ∧ (linkOf t n).retest = true) ∧
      (l.state = .retraining → Leads (.linkRetrainRequest 0 n) s (· = setReg s .lnk n 0x014 1)) ∧
      ∀ (v : W32),
        (∀ h, oldest s (pageOf .lnk n) = some h → v = 0 → Leads (.linkRetrainAnswer 0 n v) s (· = lower s h)) ∧
        (∀ h, oldest s (pageOf .lnk n) = some h → v = 1 → Leads (.linkRetrainAnswer 0 n v) s fun t => ∃ u, t = moveStreams u ∧
          (linkOf u n).state = .detention ∧ u = { lower s h with links := u.links }) ∧
        (oldest s (pageOf .lnk n) = none ∨ 1 < v.toNat → Leads (.linkRetrainAnswer 0 n v) s (· = stick s .lnk n 1)))

/-- The answers of the REL page: a twin-repair hand copies one way, the other, or keeps both; a substitution hand seats its
substitute or leaves the number absent; an escalation hand starts recovery, resets its function, or has the page ignored. The
hall monitor fires for a unit that stood still for its deadline and resets its function. BLK_RESET of a page resets its function,
and that of DEV the device (R38, R323, R354 to R360, R375, R376).
Completes: twinRepairAnswer, substitutionAnswer, hangEscalationAnswer, deviceRecoveryRequest, functionResetRequest,
hallMonitorCheck. -/
def Obligations.ReliabilityAnswersAndMonitor : Prop :=
  ∀ (s : State),
    (s.pwr.auxGood = true → ∀ (v : W32) (i : Instr), i = .twinRepairAnswer 0 v ∨ i = .substitutionAnswer 0 v ∨ i = .hangEscalationAnswer 0 v →
      (oldest s (pageOf .rel 0) = none ∨ 2 < v.toNat → Leads i s (· = stick s .rel 0 1)) ∧
      ∀ h, oldest s (pageOf .rel 0) = some h →
        (∀ r act, h.bit = 0 → s.twin.repairs.find? (fun r => r.hand = some h.seq) = some r → v.toNat < 2 → act = v.toNat + 1 →
          Leads i s fun t => ∃ r1, r1 = { r with hand := none, divergent := [], act := act } ∧ t = proposeStep (setRepair (lower s h) r1) r1) ∧
        (∀ r, h.bit = 0 → s.twin.repairs.find? (fun r => r.hand = some h.seq) = some r → v.toNat = 2 → Leads i s fun t => ∃ u,
          u = r.divergent.foldl (fun w d => post w .rel 0 0x0105 [d.1, d.2.1, d.2.2, 2 ^ 64 - 1]) (lower s h) ∧
          t = sendTwin (dropRepair u r.key) (.repairStep r.key 0 false 3)) ∧
        (∀ x, h.bit = 1 → s.cores.substituting.find? (fun e => e.1 = h.items.getD 1 0) = some x →
          (v.toNat = 0 → mget s.cores.seats (h.items.getD 2 0) = some .reserve →
            Leads i s (· = seatSubstitute (lower s h) (h.items.getD 1 0) x.2 (h.items.getD 2 0))) ∧
          (v.toNat = 0 → mget s.cores.seats (h.items.getD 2 0) ≠ some .reserve →
            (∀ p, substituteFor (lower s h) (h.items.getD 1 0) = some p →
              Leads i s (· = seatSubstitute (lower s h) (h.items.getD 1 0) x.2 p)) ∧
            (substituteFor (lower s h) (h.items.getD 1 0) = none → Leads i s (· = makeAbsent (lower s h) (h.items.getD 1 0) x.2))) ∧
          (v.toNat = 1 → Leads i s (· = makeAbsent (lower s h) (h.items.getD 1 0) x.2))) ∧
        (h.bit = 1 → v.toNat = 2 → Leads i s (· = stick s .rel 0 1)) ∧
        (2 ≤ h.bit → v.toNat = 0 → Leads i s (· = startRecovery (lower s h) 1)) ∧
        (2 ≤ h.bit → v.toNat = 1 → Leads i s (· = functionReset (lower s h) (h.items.headD 0) 5)) ∧
        (2 ≤ h.bit → v.toNat = 2 → Leads i s fun t => t = { lower s h with rel := { s.rel with hall := t.rel.hall } } ∧
          ∀ u ∈ t.rel.hall, u.key / 4096 * 4096 = h.items.getD 1 0 → u.ignored = true)) ∧
    (s.pwr.auxGood = true → Leads (.deviceRecoveryRequest 0) s (· = startRecovery s 2) ∧
      (∀ fn, fn ≠ 0 → Leads (.deviceRecoveryRequest fn) s (· = stick s .dev 0 0)) ∧
      ∀ off b i o f, locate s.part off = some (b, i, o) → absentPage s b i = false → resetTarget s b i = some f →
        Leads (.functionResetRequest 0 off) s (· = functionReset s f 2)) ∧
    (∀ off, s.pwr.auxGood = true → locate s.part off = none → Leads (.functionResetRequest 0 off) s (· = unmapped s)) ∧
    (isUp s = false → Leads .hallMonitorCheck s (· = s)) ∧
    (isUp s = true → ∀ vs, vs = hallCores s ++ hallQueues s ++ hallShared s →
      ((∀ v ∈ vs, (hallEntry s v).stalled < hallDeadline s v.kind ∨ (hallEntry s v).ignored = true) → Leads .hallMonitorCheck s fun t =>
        t = { s with rel := { s.rel with hall := vs.map (hallEntry s) } }) ∧
      (∀ v fn stalled, vs = [v] → hallDeadline s v.kind ≤ (hallEntry s v).stalled → (hallEntry s v).ignored = false → v.kind ≠ 2 → fn = v.fn →
        fn ≠ 0 → escalationHand s fn = none → resetRecent s fn = false → stalled = (hallEntry s v).stalled → Leads .hallMonitorCheck s fun t =>
          ∃ u, t = functionReset (post u .rel 0 0x0800 [v.key / 4096 * 4096, v.kind, stalled * 25000]) fn 1 ∧ u.hif = s.hif ∧ u.cores = s.cores ∧
            u.rel = { s.rel with hall := [{ hallEntry s v with stalled := 0 }] }) ∧
      (∀ v stalled, vs = [v] → hallDeadline s v.kind ≤ (hallEntry s v).stalled → (hallEntry s v).ignored = false → v.kind = 2 →
        (escalationHand s 0xF).isSome = true → stalled = (hallEntry s v).stalled → Leads .hallMonitorCheck s fun t =>
          ∃ u, t = post u .rel 0 0x0800 [v.key / 4096 * 4096, 2, stalled * 25000] ∧ u.hif = s.hif ∧ u.cores = s.cores))

/-- Device recovery starts in a module that is up: host detached, updates drained, and, once no accepted update waits for a channel, core
SRAM lost and GDDR7 in self-refresh before step 4; it runs on to its return once PERST# and the rail let it, stops where no management
image boots, and enters the failed state where no core image does; the return ends it, opens the wait for GO and posts its event;
PERST# and an I/O rail fault hold it (R309, R362 to R365, R409, R430, R436). What the drain waits for is the model's choice (log 103).
Completes: perstAsserted, perstDeasserted, ioRailFault, ioRailRestore, deviceRecovery, recoveryReturn. -/
def Obligations.RecoveryRunsItsSteps : Prop :=
  ∀ (s : State),
    (∀ cause r, isUp s = true → r = startRecovery s cause → r.rel.recoveryCause = cause ∧ r.rel.recoveryStart = s.tick ∧
      r.hif.detached = true ∧ r.cores.seats = s.cores.seats ∧ r.boot.granted = s.boot.granted / 4 * 4 ∧
      (∃ u v, r = drainRecovery u ∧ v = drainUpdates u ∧ u.rel.recovery = 2 ∧ u.rel.railDie = s.rel.railDie ∧
        (drainWaits v = true → r = v) ∧
        (drainWaits v = false → r.rel.recovery = (if s.rel.railDie.isSome then 3 else 4) ∧ r.cores.sram = [] ∧ r.pwr.passes = [] ∧
          r.gddr.selfRefresh = true ∧ r.mem = v.mem)) ∧
      (s.hif.running = [] → s.col.relays = [] → s.decodes = [] → s.tables.backwards = [] → s.tables.open2 = [] → s.tables.pendRows = [] →
        s.tables.pendTiles = [] → r.mem = s.mem)) ∧
    (∀ cause, isUp s = false → startRecovery s cause = s) ∧
    (∀ cause report r, isUp s = true → r = startRecovery s cause →
      (r.rel.recovery ≠ 4 ∨ s.pwr.perst = true ∨ s.rel.railDie.isSome = true → Leads (.deviceRecovery cause report) s (· = r)) ∧
      (r.rel.recovery = 4 → s.pwr.perst = false → s.rel.railDie = none → ∀ u b, bootManagement r = (u, b) →
        (b = false → Leads (.deviceRecovery cause report) s (· = stopBoot u)) ∧
        (∀ w, b = true → bootKind u 2 = (w, false) → Leads (.deviceRecovery cause report) s fun t =>
          t = { w with boot := { w.boot with failed := true }, rel := { w.rel with recovery := 7 } }) ∧
        (∀ w, b = true → bootKind u 2 = (w, true) → Leads (.deviceRecovery cause report) s fun t =>
          t.rel.recovery = 7 ∧ t.gddr.selfRefresh = false ∧ t.gddr.retraining = [] ∧ t.mem = w.mem ∧ t.twin = w.twin ∧ t.tables = w.tables))) ∧
    (s.rel.recovery ≠ 7 ∨ s.pwr.perst = true ∨ s.pwr.tripped = true → Leads .recoveryReturn s (· = s)) ∧
    (s.rel.recovery = 7 → s.pwr.perst = false → s.pwr.tripped = false → Leads .recoveryReturn s fun t => ∃ a k,
      a = { s with regs := a.regs, rel := { s.rel with recovery := 0 }, pwr := { s.pwr with recess := false, recessing := false,
                                                                                            noticed := false, running := a.pwr.running } } ∧
      k = kickUpdates ((s.tables.shards.map (·.2)).foldl repairShard (recoverPages (choosePair a))) ∧
      t = setHif (raiseAgain (post { k with twin := { k.twin with notedRecovery := none, notedRemoval := false } } .rel 0 0x0804
        [s.tick - s.rel.recoveryStart])) fun h => { h with waitGo := field s .hif 0 0x100 0 1 = 1 }) ∧
    (inClass s = true → s.twin.notedRemoval = true → choosePair s = leaveClass s s.job.openStep) ∧
    (inClass s = true → s.twin.notedRemoval = false →
      (s.twin.startPair = .paired → s.twin.notedRecovery = some .paired → senior s = true → isMember s (twinOf s) = true →
        choosePair s = sendRemoval { s with twin := { s.twin with pair := .sole } } (twinOf s)) ∧
      (s.twin.startPair = .paired → s.twin.notedRecovery = some .paired → senior s = true → isMember s (twinOf s) = false →
        (choosePair s).twin.pair = .sole) ∧
      (s.twin.startPair = .paired → s.twin.notedRecovery = some .paired → senior s = false → (choosePair s).twin.pair = .detached) ∧
      (s.twin.startPair = .sole → (choosePair s).twin.pair = .sole) ∧
      (s.twin.startPair ≠ .sole → s.twin.startPair ≠ .paired ∨ s.twin.notedRecovery ≠ some .paired → (choosePair s).twin.pair = .detached)) ∧
    (s.pwr.auxGood = true → s.rel.recovery = 0 → Leads .perstAsserted s (· = startRecovery { s with pwr := { s.pwr with perst := true } } 3)) ∧
    (s.pwr.auxGood = true → s.rel.recovery ≠ 0 → s.rel.recovery < 4 → Leads .perstAsserted s (· = { s with pwr := { s.pwr with perst := true } })) ∧
    (s.pwr.auxGood = true → 4 ≤ s.rel.recovery → Leads .perstAsserted s fun t => t.pwr.perst = true ∧ t.rel = { s.rel with recovery := 4 } ∧
      t.cores.sram = [] ∧ t.mem = s.mem) ∧
    (s.pwr.auxGood = false → Leads .perstAsserted s (· = s)) ∧
    (∀ report, (s.rel.recovery = 4 → Leads (.perstDeasserted report) s (· = runRecovery { s with pwr := { s.pwr with perst := false } } report)) ∧
      (s.rel.recovery ≠ 4 → Leads (.perstDeasserted report) s (· = continueBoot { s with pwr := { s.pwr with perst := false } } report)) ∧
      (s.rel.recovery ≠ 4 → bootStep s ≠ 2 → Leads (.perstDeasserted report) s (· = { s with pwr := { s.pwr with perst := false } }))) ∧
    (∀ die x, die < Config.ioDies s.part → s.pwr.mainPg = true → x = { loseDie s die with rel := { s.rel with railDie := some die } } →
      (isUp s = true → Leads (.ioRailFault die) s fun t => t = startRecovery x 4 ∧ (t.rel.recovery = 2 ∨ t.rel.recovery = 3) ∧
        t.rel.railDie = some die ∧ t.rel.recoveryCause = 4) ∧
      (isUp s = false → s.rel.recovery ≠ 0 → s.rel.recovery < 4 → Leads (.ioRailFault die) s (· = x)) ∧
      (isUp s = false → 4 ≤ s.rel.recovery → Leads (.ioRailFault die) s (· = { x with rel := { x.rel with recovery := 3 } }))) ∧
    (∀ die, s.rel.railDie = some die → Leads (.ioRailRestore die true) s (fun t =>
        t = { s with rel := { s.rel with railDie := none, recovery := if s.rel.recovery = 3 then 4 else s.rel.recovery } }) ∧
      Leads (.ioRailRestore die false) s (fun t => t.boot.failed = true ∧ t.rel.recovery = 0 ∧ t.rel.railDie = none ∧
        (die = 0 → t.boot.stopped = true) ∧ t.mem = s.mem))

/-- Readings above the limit double the pass interval up to 16, or raise a hand; a hundred readings below 90 % halve it; the thermal
step is taken at 105 °C, the trip at 120 °C, and ten readings below 100 °C return the step; the brake holds from its assertion to
its release; hall passes go to the first request of a die once its interval has passed (R338 to R343, R351, R436, R438).
Completes: staggeringAnswer, thermalStepAnswer, pwrbrkAsserted, pwrbrkReleased, hallPassGrant, hallPassRelease, domainClockStop,
powerReading, thermalReading, assertionNotTaken. -/
def Obligations.PowerInputsAndPasses : Prop :=
  ∀ (s : State),
    (∀ watts limit, isUp s = true → limit = field s .pwr 0 0x108 0 16 →
      (limit < watts → field s .pwr 0 0x010 0 1 = 0 → Leads (.powerReading watts) s fun t => ∃ u,
        t = post u .pwr 0 0x0707 [watts, min (2 * s.pwr.widened) 16] ∧ u = { s with regs := u.regs, pwr := { s.pwr with
          widened := min (2 * s.pwr.widened) 16, below := 0 } }) ∧
      (limit < watts → field s .pwr 0 0x010 0 1 = 1 → s.pwr.widened < min (2 * s.pwr.widened) 16 → passesHeld s = false →
        Leads (.powerReading watts) s fun t => t.hif.hands = s.hif.hands ++
          [⟨s.hif.handSeq, pageOf .pwr 0, 0, [watts, s.pwr.widened, min (2 * s.pwr.widened) 16]⟩] ∧ t.pwr = { s.pwr with below := 0 }) ∧
      (watts ≤ limit → 10 * watts < 9 * limit → s.pwr.below < 99 → Leads (.powerReading watts) s fun t =>
        t = { s with regs := t.regs, pwr := { s.pwr with below := s.pwr.below + 1 } }) ∧
      (watts ≤ limit → 10 * watts < 9 * limit → 99 ≤ s.pwr.below → Leads (.powerReading watts) s fun t =>
        t = { s with regs := t.regs, pwr := { s.pwr with widened := max 1 (s.pwr.widened / 2), below := 0 } }) ∧
      (watts ≤ limit → 9 * limit ≤ 10 * watts → Leads (.powerReading watts) s fun t =>
        t = { s with regs := t.regs, pwr := { s.pwr with below := 0 } })) ∧
    (∀ temps k v, hottest s temps = some (k, v) → s.pwr.mainPg = true → s.pwr.tripped = false →
      (1920 ≤ v → Leads (.thermalReading temps) s fun t => t.pwr.tripped = true ∧ t.pwr.passes = [] ∧ t.gddr.selfRefresh = true ∧ t.mem = s.mem) ∧
      (1680 ≤ v → v < 1920 → s.pwr.thermalStep = false → Leads (.thermalReading temps) s fun t => ∃ u, t = post u .pwr 0 0x0704 [] ∧
        u = { s with regs := u.regs, pwr := { s.pwr with thermalStep := true, cool := 0, coolHand := 0 } }) ∧
      (v < 1600 → s.pwr.thermalStep = true → (∀ h ∈ handsOn s (pageOf .pwr 0), h.bit ≠ 1) →
        (s.pwr.cool + 1 < 10 → field s .pwr 0 0x010 1 1 = 0 ∨ s.pwr.coolHand = 0 → Leads (.thermalReading temps) s fun t =>
          t = { s with regs := t.regs, pwr := { s.pwr with cool := s.pwr.cool + 1 } }) ∧
        (10 ≤ s.pwr.cool + 1 → field s .pwr 0 0x010 1 1 = 0 → Leads (.thermalReading temps) s fun t => ∃ u, t = post u .pwr 0 0x0705 [] ∧
          u = { s with regs := u.regs, pwr := { s.pwr with thermalStep := false, cool := 0, coolHand := 0 } }) ∧
        (10 ≤ s.pwr.cool + 1 → field s .pwr 0 0x010 1 1 = 1 → s.pwr.coolHand = 0 → Leads (.thermalReading temps) s fun t =>
          t.hif.hands = s.hif.hands ++ [⟨s.hif.handSeq, pageOf .pwr 0, 1, [unsignedOf 64 v, 700]⟩] ∧
          t.pwr = { s.pwr with cool := s.pwr.cool + 1 })) ∧
      (1600 ≤ v → v < 1680 → Leads (.thermalReading temps) s fun t => t = { s with regs := t.regs, pwr := { s.pwr with cool := 0 } })) ∧
    (s.pwr.auxGood = true → ∀ (x : W32) (i : Instr), i = .staggeringAnswer 0 x ∨ i = .thermalStepAnswer 0 x →
      (oldest s (pageOf .pwr 0) = none ∨ bitsOf x.toNat 8 2 = 3 → Leads i s (· = stick s .pwr 0 1)) ∧
      ∀ h, oldest s (pageOf .pwr 0) = some h →
        (h.bit = 0 → bitsOf x.toNat 8 2 = 0 → Leads i s (· = setWidened (lower s h) (h.items.getD 2 1))) ∧
        (h.bit = 0 → bitsOf x.toNat 8 2 = 1 → 1 ≤ bitsOf x.toNat 0 8 → bitsOf x.toNat 0 8 ≤ 16 →
          Leads i s (· = setWidened (lower s h) (bitsOf x.toNat 0 8))) ∧
        (h.bit = 0 → bitsOf x.toNat 8 2 = 1 → bitsOf x.toNat 0 8 = 0 ∨ 16 < bitsOf x.toNat 0 8 → Leads i s (· = stick s .pwr 0 1)) ∧
        (h.bit = 0 → bitsOf x.toNat 8 2 = 2 → Leads i s (· = lower s h)) ∧
        (h.bit ≠ 0 → bitsOf x.toNat 8 2 = 0 → Leads i s fun t =>
          t = { lower s h with pwr := { s.pwr with thermalStep := false, cool := 0, coolHand := 0 } }) ∧
        (h.bit ≠ 0 → bitsOf x.toNat 8 2 = 1 → Leads i s (· = stick s .pwr 0 1)) ∧
        (h.bit ≠ 0 → bitsOf x.toNat 8 2 = 2 → Leads i s fun t => t = { lower s h with pwr := { s.pwr with coolHand := 1000 } })) ∧
    (s.pwr.auxGood = true → s.pwr.tripped = false → s.pwr.braked = false → Leads .pwrbrkAsserted s fun t => ∃ u, t = post u .pwr 0 0x0702 [] ∧
      u = { s with regs := u.regs, pwr := { s.pwr with pwrbrk := true, releasing := false, braked := true } }) ∧
    (s.pwr.auxGood = false → Leads .pwrbrkAsserted s (· = s)) ∧
    (s.pwr.tripped = false → s.pwr.braked = true → Leads .pwrbrkReleased s fun t => ∃ u, t = post u .pwr 0 0x0703 [] ∧
      u = { s with pwr := { s.pwr with pwrbrk := false, releasing := false, braked := false } }) ∧
    (∀ pin, s.pwr.auxGood = true → pin ≤ 1 → Leads (.assertionNotTaken pin) s fun t => ∃ u, u = bump s .pwr 0 0x118 16 16 1 ∧
      t = { u with pwr := { s.pwr with releasing := s.pwr.releasing || (pin = 1 && s.pwr.pwrbrk) } }) ∧
    (∀ die p, (s.pwr.requests.find? fun q => q.2 / 34 = die).map (·.2) = some p → isUp s = true →
      (passesHeld s = false → (s.pwr.recess = true → s.pwr.recessing = true) → grantDue s die = true → Leads (.hallPassGrant die) s fun t =>
        p ∈ t.pwr.passes ∧ (∀ q, q ∈ t.pwr.requests ↔ q ∈ s.pwr.requests ∧ q.2 ≠ p) ∧ p ∈ t.pwr.running ∧
        mget t.pwr.lastGrant die = some s.tick ∧ t = { s with regs := t.regs, pwr := t.pwr }) ∧
      (passesHeld s = true ∨ grantDue s die = false → Leads (.hallPassGrant die) s (· = s))) ∧
    (∀ die, (∀ q ∈ s.pwr.requests, q.2 / 34 ≠ die) → Leads (.hallPassGrant die) s (· = s)) ∧
    (∀ p, p ∈ s.pwr.passes → coreIdle (coreAt s p) = true → Leads (.hallPassRelease p) s fun t => p ∉ t.pwr.passes ∧ p ∉ t.pwr.running ∧
      t = { s with pwr := { s.pwr with passes := t.pwr.passes, running := t.pwr.running } }) ∧
    (∀ d, (272 ≤ d → keepsClock s d = false → Leads (.domainClockStop d) s fun t => d ∉ t.pwr.running ∧
        t = { s with pwr := { s.pwr with running := t.pwr.running } }) ∧
      (d < 272 ∨ keepsClock s d = true → Leads (.domainClockStop d) s (· = s)))

/-- RECESS_ENTER is refused with a job, an enrolment or a hand, and otherwise gives its notice and then sleeps with its event, once
memory retraining has finished; automatic recess does the same; a doorbell that has arrived meanwhile starts the wake; WAKE returns the
clocks, links and memory; the report card goes to host memory with the rings set; the transcript emits nothing while detached (R306,
R307, R344 to R347, R350).
Completes: recessEnter, reportCard, autoRecess, wake, transcriptSweep. -/
def Obligations.RecessCardAndTranscript : Prop :=
  ∀ (s : State),
    (∀ c, ready s 0x001E c = true →
      (s.pwr.recessing = false → s.job.running = true ∨ enrolling s = true ∨ s.hif.hands ≠ [] →
        EndsIn (.recessEnter c) s c 0x12 (2 ^ 64 - 1) 0 s) ∧
      (s.pwr.recessing = true ∨ (s.job.running = false ∧ enrolling s = false ∧ s.hif.hands = []) → s.hif.running = [c] →
        s.hif.duplicates = [] → bitOf c.slot.param0 0 = true ∨ backlog s = 0 →
        (isMember s (twinOf s) = true → s.pwr.noticed = false → Leads (.recessEnter c) s fun t => Sends s t [twinOf s] 0x0C .recessNotice ∧
          t.pwr.recessing = true ∧ t.pwr.noticed = true ∧ t.pwr.recess = s.pwr.recess ∧ t.hif = s.hif) ∧
        (isMember s (twinOf s) = false ∨ s.pwr.noticed = true → noticeOpen s = false → Leads (.recessEnter c) s fun t => ∃ u,
          t = sleep (post u .pwr 0 0x0700 [0]) ∧ Ended u c 0 0 0 ∧ OnlyEnds { s with pwr := { s.pwr with recessing := true } } u c.fn))) ∧
    (s.gddr.retraining ≠ [] → sleep s = { s with pwr := { s.pwr with sleeping := true } }) ∧
    (s.gddr.retraining = [] → (sleep s).gddr = { s.gddr with selfRefresh := true } ∧ (sleep s).mem = s.mem ∧
      (∀ e ∈ (sleep s).links, e.2.state ≠ .inService) ∧
      (doorbellOpen s = false → (sleep s).pwr = { s.pwr with recess := true, recessing := false, sleeping := false, passes := [],
                                                             requests := [], running := [] }) ∧
      (doorbellOpen s = true → (sleep s).pwr.recess = true ∧ (sleep s).pwr.recessing = true ∧ (sleep s).pwr.passes = [])) ∧
    (isUp s = true → s.pwr.recess = false → s.pwr.sleeping = false → field s .pwr 0 0x104 16 16 ≠ 0 →
      (s.job.running = false → enrolling s = false → s.hif.hands = [] → hostBusy s = false → backlog s = 0 →
        (isMember s (twinOf s) = false ∨ s.pwr.noticed = true → noticeOpen s = false →
          Leads .autoRecess s fun t => t = sleep (post { s with pwr := { s.pwr with recessing := true } } .pwr 0 0x0700 [1])) ∧
        (isMember s (twinOf s) = true → s.pwr.noticed = false → Leads .autoRecess s fun t => Sends s t [twinOf s] 0x0C .recessNotice ∧
          t.pwr.recessing = true ∧ t.pwr.noticed = true ∧ t.hif = s.hif)) ∧
      (s.job.running = true ∨ enrolling s = true ∨ s.hif.hands ≠ [] ∨ hostBusy s = true → s.pwr.noticed = false →
        Leads .autoRecess s (· = { s with pwr := { s.pwr with recessing := false, noticed := false } }))) ∧
    (field s .pwr 0 0x104 16 16 = 0 → Leads .autoRecess s (· = s)) ∧
    (s.pwr.recess = true → s.pwr.tripped = false → Leads .wake s fun t => ∃ u, t = post u .pwr 0 0x0701 [] ∧ u.pwr.recess = false ∧
      u.pwr.noticed = false ∧ u.gddr = { s.gddr with selfRefresh := false } ∧ (∀ e ∈ u.links, e.2.state ≠ .lowPower) ∧ u.mem = s.mem ∧
      (∀ d ∈ domHif :: (ioNetDomains s ++ memDomains s ++ mgtDomains), d ∈ u.pwr.running) ∧
      (s.pwr.noticed = true → Sends s u [twinOf s] 0x0C .wakeNotice)) ∧
    (s.pwr.recess = false → Leads .wake s (· = s)) ∧
    (∀ r, s.hif.rings = some r → s.hif.detached = false → isUp s = true → Leads .reportCard s fun t =>
      t = { s with hostOut := s.hostOut ++ [.card r.card (cardOf s)], hif := { s.hif with cardSeq := s.hif.cardSeq + 1 } }) ∧
    (s.hif.rings = none ∨ s.hif.detached = true → Leads .reportCard s (· = s)) ∧
    (∀ budget, s.hif.rings = none ∨ s.hif.detached = true ∨ s.pwr.recess = true → Leads (.transcriptSweep budget) s (· = s)) ∧
    (∀ budget r, isUp s = true → s.boot.failed = false → s.pwr.recess = false → s.hif.detached = false → s.hif.rings = some r → s.hif.sweep = none →
      markedItems s = [] → s.gddr.descMarks = [] →
      fits s r ⟨if r.rateCap = 0 then none else some (min budget (r.rateCap * 1000000)), 0, budget ≥ r.rateCap * 1000000⟩ 72 = true →
      Leads (.transcriptSweep budget) s fun t => ∃ it, t.hostOut = s.hostOut ++ [.transcript (r.trBase + s.hif.trOffset) it] ∧ it.kind = 6 ∧
        it.payload = leBytes 8 s.job.openStep ∧ it.seq = s.hif.itemSeq ∧ t.mem = s.mem)

/-- Auxiliary power reads the fuses and waits for MAIN_PG; MAIN_PG runs power-on, which ends with step 9 in TST_STAT and the memory
zero-filled, or stops where no management image boots; a loss of MAIN_PG leaves the fuses, the boot store, the tick and the soft
repairs, and a loss of auxiliary power only the first two (R380, R382, R383, R395, R409, R428, R429).
Completes: auxPowerGood, mainPgAsserted, mainPgLost, auxPowerLost. -/
def Obligations.SuppliesAndPowerOn : Prop :=
  ∀ (s : State),
    (s.pwr.auxGood = false → fusesOk s = true → Leads .auxPowerGood s fun t => t.pwr.auxGood = true ∧ bootStep t = 2 ∧ t.boot = s.boot ∧
      t = { s with regs := t.regs, pwr := { s.pwr with auxGood := true } }) ∧
    (s.pwr.auxGood = false → fusesOk s = false → Leads .auxPowerGood s fun t => t.pwr.auxGood = true ∧ t.boot.stopped = true) ∧
    (s.pwr.auxGood = true → Leads .auxPowerGood s (· = s)) ∧
    (∀ report, s.pwr.auxGood = true → s.pwr.mainPg = false →
      (bootStep s ≠ 2 ∨ s.pwr.perst = true ∨ s.boot.stopped = true ∨ s.pwr.tripped = true → Leads (.mainPgAsserted report) s fun t =>
        t = { s with pwr := { s.pwr with mainPg := true } }) ∧
      (bootStep s = 2 → s.pwr.perst = false → s.boot.stopped = false → s.pwr.tripped = false → ∀ u b,
        bootManagement { s with pwr := { s.pwr with mainPg := true, braked := s.pwr.pwrbrk } } = (u, b) →
        (b = false → Leads (.mainPgAsserted report) s (· = stopBoot u)) ∧
        (b = true → ∀ w ok, brokenUnits report = [] → bootKind (buildChart (selfTest u report) report) 2 = (w, ok) →
          (Leads (.mainPgAsserted report) s fun t => bootStep t = 9 ∧ t.boot.failed = (!ok || w.boot.failed) ∧ (ok = true → t.mem = []) ∧
            (ok = true → t.links.map (·.1) = List.range (Config.peerLinks s.part)) ∧ t.pwr.mainPg = true)) ∧
        (b = true → brokenUnits report ≠ [] → Leads (.mainPgAsserted report) s fun t => bootStep t = 9 ∧ t.boot.failed = true))) ∧
    (s.pwr.mainPg = true → Leads .mainPgLost s fun t => t.pwr.mainPg = false ∧ t.pwr.auxGood = true ∧ t.mem = [] ∧ t.tick = s.tick ∧
      t.hif = Hif.reset ∧ t.twin = Twin.reset ∧ t.tables = Tables.reset ∧ t.boot.fuses = s.boot.fuses ∧ t.boot.mgmtA = s.boot.mgmtA ∧
      t.boot.mgmtB = s.boot.mgmtB ∧ t.boot.coreA = s.boot.coreA ∧ t.boot.coreB = s.boot.coreB ∧ t.boot.softRepairs = s.boot.softRepairs ∧
      t.pwr.perst = s.pwr.perst ∧ t.pwr.pwrbrk = s.pwr.pwrbrk) ∧
    (s.pwr.mainPg = false → Leads .mainPgLost s (· = s)) ∧
    (s.pwr.auxGood = true → Leads .auxPowerLost s fun t => t.pwr.auxGood = false ∧ t.tick = 0 ∧ t.regs = [] ∧ t.mem = [] ∧ t.boot.fuses = s.boot.fuses ∧
      t.boot.mgmtA = s.boot.mgmtA ∧ t.boot.coreB = s.boot.coreB ∧ t.boot.softRepairs = [] ∧ t.pending = s.pending) ∧
    (s.pwr.auxGood = false → Leads .auxPowerLost s (· = s))

/-- An attestation is signed and written while the identity key stands, and refused otherwise; a valid image is staged in the slot
that is not current; the rollback minimum rises only to a version that every image reaches; a challenge is used once; an unlock
grants what its token asks and a refused token counts and posts; a lock ends the debug permissions (R405, R408, R412 to R422).
Completes: secAttest, secIdentityRead, secFirmwareStage, secRollbackCommit, secDebugChallenge, secDebugUnlock, secDebugLock. -/
def Obligations.SecurityCommandsComplete : Prop :=
  ∀ (c : HostCmd) (s : State),
    (ready s 0x0040 c = true →
      (s.boot.cacheFull = false → EndsIn (.secAttest c) s c 0x12 (2 ^ 64 - 1) 0 s) ∧
      (s.boot.cacheFull = true → s.hif.detached = false → EndsIn (.secAttest c) s c 0 0 0 { s with
        boot := { s.boot with reports := s.boot.reports + 1 }
        hostOut := s.hostOut ++ [.data c.slot.operand (reportBody s (inlineOf c.slot 32) ++
          exactly 384 (Config.rsaSign (reportBody s (inlineOf c.slot 32))))] })) ∧
    (ready s 0x0041 c = true → s.hif.detached = false → EndsIn (.secIdentityRead c) s c 0 s.boot.certificate.length 0
      { s with hostOut := s.hostOut ++ [.data c.slot.operand s.boot.certificate] }) ∧
    (∀ image im, ready s 0x0042 c = true → im = exactly c.slot.param0 image →
      (c.slot.param0 < 1024 ∨ 2 ^ 23 < c.slot.param0 → EndsIn (.secFirmwareStage c image) s c 0x12 0x20 0
        (bump s .sec 0 0x10C 0 16 1)) ∧
      (1024 ≤ c.slot.param0 → c.slot.param0 ≤ 2 ^ 23 → s.hif.detached = false → imageFault s [1, 2] im = none → ∃ e, EndsIn (.secFirmwareStage c image) s c 0 0 0 e ∧
        e = { s with boot := e.boot } ∧ slotImage e (leAt im 4 1) (currentSlot e (leAt im 4 1)) = im ∧
        currentSlot e (leAt im 4 1) = !currentSlot s (leAt im 4 1) ∧
        slotImage e (leAt im 4 1) (currentSlot s (leAt im 4 1)) = slotImage s (leAt im 4 1) (currentSlot s (leAt im 4 1))) ∧
      (∀ f, 1024 ≤ c.slot.param0 → c.slot.param0 ≤ 2 ^ 23 → s.hif.detached = false → imageFault s [1, 2] im = some f → EndsIn (.secFirmwareStage c image) s c 0x12
        (0x100 + f.2) 0 (post (bump s .sec 0 0x10C 0 16 1) .sec 0 0x0A02 [0x0042, f.1]))) ∧
    (ready s 0x0043 c = true → ∀ v, v = c.slot.param0 →
      (v < minVersion s ∨ 64 < v ∨ s.boot.mgmtRunning < v ∨ s.boot.coreRunning < v → EndsIn (.secRollbackCommit c) s c 0x12 0x20 0 s) ∧
      (minVersion s ≤ v → v ≤ 64 → v ≤ s.boot.mgmtRunning → v ≤ s.boot.coreRunning → v ≤ imageVersion (slotImage s 1 (currentSlot s 1)) →
        v ≤ imageVersion (slotImage s 2 (currentSlot s 2)) → ∃ e u, EndsIn (.secRollbackCommit c) s c 0 0 0 e ∧ e = post u .sec 0 0x0A06 [] ∧
          u = { s with regs := u.regs, boot := { s.boot with fuses := u.boot.fuses } } ∧ rollback u = 2 ^ v - 1)) ∧
    (ready s 0x0044 c = true → s.hif.detached = false → ∃ e n, n = exactly 32 (Config.freeNonce s.freeCtr) ∧ EndsIn (.secDebugChallenge c) s c 0 0 0 e ∧
      e = { s with freeCtr := s.freeCtr + 1, boot := { s.boot with challenge := some n },
                   hostOut := s.hostOut ++ [.data c.slot.operand (n ++ identityHash s)] }) ∧
    (∀ token t perms s1, ready s 0x0045 c = true → s.hif.detached = false → t = exactly 1024 token → perms = leAt t 4 4 →
      s1 = { s with boot := { s.boot with challenge := none } } →
      (∀ f, tokenFault s t = some f → EndsIn (.secDebugUnlock c token) s c 0x12 (0x100 + f.2) 0
        (post (bump s1 .sec 0 0x10C 16 16 1) .sec 0 0x0A02 [0x0045, f.1])) ∧
      (tokenFault s t = none → bitOf perms 2 = false → EndsIn (.secDebugUnlock c token) s c 0 0 0
        (post { s1 with boot := { s1.boot with granted := s.boot.granted ||| perms } } .sec 0 0x0A03 [perms])) ∧
      (tokenFault s t = none → bitOf perms 2 = true → s.job.running = true ∨ s.twin.pair = .paired →
        EndsIn (.secDebugUnlock c token) s c 0x12 (2 ^ 64 - 1) 0 (bump s1 .sec 0 0x10C 16 16 1)) ∧
      (tokenFault s t = none → bitOf perms 2 = true → s.job.running = false → s.twin.pair = .unformed ∨ s.twin.pair = .detached →
        Leads (.secDebugUnlock c token) s fun v => ∃ u e, v = clearSecrets u ∧ Ended u c 0 0 0 ∧ OnlyEnds e u c.fn ∧
          e = post { s1 with boot := { s1.boot with granted := s.boot.granted ||| perms } } .sec 0 0x0A03 [perms])) ∧
    (ready s 0x0046 c = true → EndsIn (.secDebugLock c) s c 0 0 0
      (post { s with boot := { s.boot with granted := s.boot.granted / 4 * 4 } } .sec 0 0x0A04 []))

/-! ### Programs on cores -/

/-- A matrix pass closes its tile in the accumulator whose turn it is, with its descriptor; the older closed tile is copied into a
tray of four entries, and a release frees the head and notes its summary; a pass outside its ranges ends the program with
OPERAND_RANGE, and one with both accumulators closed counts its stall. An operation of a core without a hall pass asks for it
(R71 to R75, R79, R80, R84 to R87, R270, R339).
Completes: matrixPass, tileCopy, trayRelease. -/
def Obligations.MatrixPassesFillTheTray : Prop :=
  ∀ (core p : Nat) (s : State) (k : Core), physOf s core = some p → k = coreAt s p →
    (s.pwr.passes.contains p = false → ∀ (mp : MatPass) (v : VecOp) (f : SpecialFn) (src : VecSrc) (tr : Transfer) (a b n m o x : Nat)
        (md : NumMode) (rd : Rounding) (i : Instr), i ∈ [.matrixPass core mp, .tileCopy core, .trayRelease core, .vectorOperation core v,
          .specialFunction core f src a b md rd, .streamIn core tr, .gather core tr, .offload core tr, .fetch core tr,
          .send core n m o a b x, .boundary core a b] →
      Leads i s fun t => t = { s with pwr := { s.pwr with requests := t.pwr.requests } } ∧
        t.pwr.requests = if (s.pwr.requests.any fun q => q.2 = p) = true then s.pwr.requests else insertRequest s.tick p s.pwr.requests) ∧
    (s.pwr.passes.contains p = true →
      (∀ (m : MatPass) (pp : PassIn) (z : State) (fa fb : Fmt) (aa ab : Arr) (rate : Nat) (grouped : Bool) (cells : List (List ElemAcc))
          (tag sh replays : Nat), pp = passIn s p m → z = meetWords s core (passRanges pp) m.words →
        tagOf? m.a.tag = some (fa, aa) → tagOf? m.b.tag = some (fb, ab) → passOk pp = true → pairRate fa fb = some (rate, grouped) →
        (∀ r ∈ passRanges pp, readWaits k r.1 r.2 = false ∧ sramBad z core r.1 r.2 = none) → passReserved z core pp fa fb = false →
        (k.lastB = true → k.accA = none) → (k.lastB = false → k.accB = none) →
        tag = (k.command.map (·.slot.requestId)).getD 0 % 2 ^ 32 →
        (cells, sh, replays) = fillTile pp grouped (passInputs z core pp fa aa fb ab) →
        Leads (.matrixPass core m) s fun t => ∃ tile : Tile,
          t = { z with regs := t.regs, freeCtr := t.freeCtr, cores := { z.cores with cores := t.cores.cores } } ∧
          (∀ q, q ≠ p → coreAt t q = coreAt s q) ∧
          coreAt t p = { k with accA := if k.lastB then some tile else k.accA, accB := if k.lastB then k.accB else some tile,
                                lastB := !k.lastB, meWait := false } ∧
          tile.elems = (cells.map fun r => r.map (·.code)) ∧ tile.shift = sh ∧ tile.replay = replays ∧
          tile.commandTag = tag ∧ tile.tileRow = m.tileRow % 65536 ∧ tile.tileCol = m.tileCol % 65536 ∧
          tile.tensorId = m.tensorId % 65536 ∧ tile.mode = m.mode ∧ tile.accumulator = (if k.lastB then 0 else 1) ∧
          tile.counts = countsOf (cells.flatMap fun r => r.map (·.exc)) ∧ tile.first = tileFirst pp tag core cells ∧
          (replays = 0 → tile.cycles = satN 32 (fillCycles rate m.k m.mode + 2 * pp.outliers.length))) ∧
      (∀ m : MatPass, passOk (passIn s p m) = false →
        (∀ c, k.command = some c → EndsIn (.matrixPass core m) s c 0x12 (2 ^ 64 - 1) 0 (endProgram s c)) ∧
        (k.command = none → Leads (.matrixPass core m) s (· = s))) ∧
      (∀ (m : MatPass) (pp : PassIn), pp = passIn s p m → passOk pp = true →
        ((∃ r ∈ passRanges pp, readWaits k r.1 r.2 = true) → Leads (.matrixPass core m) s fun t =>
          t = { s with regs := t.regs, freeCtr := s.freeCtr + 1, cores := { s.cores with cores := t.cores.cores } } ∧
          coreAt t p = { k with meWait := true } ∧
          kept t .coreP p 0x120 = satN 32 (kept s .coreP p 0x120 + Config.freeNat s.freeCtr)) ∧
        ((∀ r ∈ passRanges pp, readWaits k r.1 r.2 = false) →
          (k.accA.isSome = true → k.accB.isSome = true → Leads (.matrixPass core m) s fun t =>
            t = { s with regs := t.regs, freeCtr := s.freeCtr + 1, cores := { s.cores with cores := t.cores.cores } } ∧
            coreAt t p = { k with meWait := true } ∧
            kept t .coreP p 0x110 = satN 32 (kept s .coreP p 0x110 + Config.freeNat s.freeCtr)) ∧
          ((k.lastB = true ∧ k.accA.isSome = true ∧ k.accB = none) ∨ (k.lastB = false ∧ k.accB.isSome = true ∧ k.accA = none) →
            Leads (.matrixPass core m) s fun t => t = { s with cores := { s.cores with cores := t.cores.cores } } ∧
              coreAt t p = { k with meWait := true } ∧ ∀ q, q ≠ p → coreAt t q = coreAt s q))) ∧
      (4 ≤ k.tray.length → Leads (.tileCopy core) s (· = s)) ∧
      (k.tray.length < 4 → k.accA = none → k.accB = none → Leads (.tileCopy core) s (· = s)) ∧
      (∀ tile, k.tray.length < 4 → k.accA = some tile → k.lastB = true ∨ k.accB = none → Leads (.tileCopy core) s fun t =>
        t = { s with regs := t.regs, cores := { s.cores with cores := t.cores.cores } } ∧ (∀ q, q ≠ p → coreAt t q = coreAt s q) ∧
        coreAt t p = { k with tray := k.tray ++ [tile], accA := none }) ∧
      (∀ tile, k.tray.length < 4 → k.accB = some tile → k.accA = none ∨ k.lastB = false → Leads (.tileCopy core) s fun t =>
        t = { s with regs := t.regs, cores := { s.cores with cores := t.cores.cores } } ∧ (∀ q, q ≠ p → coreAt t q = coreAt s q) ∧
        coreAt t p = { k with tray := k.tray ++ [tile], accB := none }) ∧
      (k.tray = [] → Leads (.trayRelease core) s (· = s)) ∧
      ∀ tile rest, k.tray = tile :: rest → Leads (.trayRelease core) s fun t =>
        t = { s with regs := t.regs, cores := { s.cores with cores := t.cores.cores } } ∧ (∀ q, q ≠ p → coreAt t q = coreAt s q) ∧
        coreAt t p = { k with
          tray := rest
          uncommitted := if tile.tensorId < s.grade.count then mput k.uncommitted tile.tensorId
              (((mget k.uncommitted tile.tensorId).getD GradeRec.zero).merge
                { GradeRec.zero with counts := tile.counts, first := tile.first, replayFirst := b2n (tile.replay = 1)
                                     replaySecond := b2n (tile.replay = 2) }) else k.uncommitted })

/-- A vector operation that its checks pass writes one row of lanes: a comparison its mask register, a result a buffer row in the
lane format, or SRAM through the store-path converter; it drains the tray head where it releases it. With an empty tray it waits,
and outside its units and formats it ends the program with OPERAND_RANGE. A special function writes 128 results into a buffer row
(R64, R67, R86 to R95, R98, R105, R109).
Completes: vectorOperation, specialFunction. -/
def Obligations.VectorResultsAreWritten : Prop :=
  ∀ (core p : Nat) (s : State) (k : Core), physOf s core = some p → k = coreAt s p → s.pwr.passes.contains p = true →
    (∀ (v : VecOp) (reads : List (Nat × Nat)) (z : State) (tray : Bool) (sigma sh : Nat) (ctl : Ctl) (ls : List LaneOut) (bs : List Byte),
      vecOk k v = true → reads = (v.args.flatMap fun o => srcRanges v.lane o.src) → z = meetWords s core reads v.words →
      tray = (v.args.any fun o => isTray o.src) → (tray = true → k.tray ≠ []) → gWaits s v = false →
      (∀ r ∈ reads, readWaits k r.1 r.2 = false ∧ sramBad z core r.1 r.2 = none) →
      (∀ r ∈ dstRanges v.lane v.dst, writeWaits k r.1 r.2 = false) →
      (∀ o ∈ v.args, srcReserved z core v.lane o.src = false) → scalesRead z (scalesOf v) (coreStep s p) = .ok bs →
      sigma = (if tray then (k.tray.head?.map (·.shift)).getD 0 else 0) → sh = (if foldsShift v.dst then 0 else sigma) →
      ctl = ⟨v.mode, v.rounding, v.lane⟩ → ls = vecLanes z core k v sh →
      Leads (.vectorOperation core v) s fun t =>
        t = { z with
          regs := t.regs
          scaling := t.scaling
          cores := { z.cores with cores := t.cores.cores, sram := t.cores.sram, badWords := t.cores.badWords } } ∧
        (∀ q, q ≠ p → coreAt t q = coreAt s q) ∧ (coreAt t p).vecWait = none ∧
        (coreAt t p).tray.length = k.tray.length - (if v.release && tray then 1 else 0) ∧
        ((∀ off tag so h, v.dst ≠ .sram off tag .g so h) → t.scaling = s.scaling) ∧
        (isCompare v.fn = true → ∀ m, fnMask v.fn = some m → t.cores.sram = z.cores.sram ∧ (coreAt t p).buffers = k.buffers ∧
          mget (coreAt t p).masks m = some ((List.range (lanesOf v.lane)).map fun l =>
            (laneCmp ctl v.fn ((v.args.map fun o => modified o (srcLanes z core k ctl sh o.src)).map fun col =>
              (col.getD l (.fin false 0 0, .none)).1)).1)) ∧
        (isCompare v.fn = false → (coreAt t p).masks = k.masks) ∧
        (isCompare v.fn = false → ∀ b row, v.dst = .buffer b row → t.cores.sram = z.cores.sram ∧
          (coreAt t p).buffers = writeBytes k.buffers (b * 65536 + row * rowBytes v.lane)
            (packElems v.lane (ls.map fun o => (bufferLane v sh o).1))) ∧
        (isCompare v.fn = false → ∀ off tag kind so src f a st conv, v.dst = .sram off tag kind so src → tagOf? tag = some (f, a) →
          st = (if a = .plain ∧ keepsBits v f = true then ⟨ls.map (·.code), [], ls.map fun _ => .none, ls.map (·.val)⟩
            else storeRow ctl f a ((if foldsShift v.dst then (sigma : Int) else 0) + handOver z v src)
              (if a = .channel then (ls.map (·.val)).zipIdx.map fun q => columnMax k v sh q.2 q.1 else []) (ls.map (·.val))) →
          conv = (if v.fn = .pass then (st.elems.zip st.excs).map (clampShift sh f) else st.elems.zip st.excs) →
          (coreAt t p).buffers = k.buffers ∧
          t.cores.sram = (sramWrite (sramWrite z core off (packElems f (conv.map (·.1)))) core so st.scales).cores.sram)) ∧
    (∀ v : VecOp, vecOk k v = true → (v.args.any fun o => isTray o.src) = true → k.tray = [] → Leads (.vectorOperation core v) s fun t =>
      t = { s with regs := t.regs, freeCtr := s.freeCtr + 1, cores := { s.cores with cores := t.cores.cores } } ∧
      (∀ q, q ≠ p → coreAt t q = coreAt s q) ∧ ∃ b, coreAt t p = { k with vecWait := some (b, true) }) ∧
    (∀ v : VecOp, vecOk k v = false → ∀ c, k.command = some c →
      EndsIn (.vectorOperation core v) s c 0x12 (2 ^ 64 - 1) 0 (endProgram s c)) ∧
    ∀ (f : SpecialFn) (src : VecSrc) (b row sigma : Nat) (mode : NumMode) (rounding : Rounding), srcOk k .fp32 src = true → b < 4 →
      row < 128 → (rounding = .rne ∨ mode = .strict) → (mode = .legacy → ∀ off tag so, src = .sram off tag so → legacyTag tag = true) →
      (isTray src = true → k.tray ≠ []) →
      (∀ r ∈ srcRanges .fp32 src, readWaits k r.1 r.2 = false ∧ sramBad s core r.1 r.2 = none) →
      srcReserved s core .fp32 src = false → sigma = (if isTray src then (k.tray.head?.map (·.shift)).getD 0 else 0) →
      Leads (.specialFunction core f src b row mode rounding) s fun t =>
        t = { s with regs := t.regs, cores := { s.cores with cores := t.cores.cores } } ∧ (∀ q, q ≠ p → coreAt t q = coreAt s q) ∧
        (coreAt t p).buffers = writeBytes k.buffers (b * 65536 + row * 512) (packElems .fp32
          ((srcLanes s core k ⟨mode, rounding, .fp32⟩ sigma src).map fun x => (opSpecial mode rounding f x.1).1)) ∧
        (coreAt t p).masks = k.masks ∧ (coreAt t p).tray.length = k.tray.length ∧ (coreAt t p).vecWait = none

/-- A transfer within its places is issued in program order and completes as the oldest of its core: a load fills SRAM, an
offload writes the bytes out, sealed where they are a tile, and a tile whose check fails ends the program. SEND copies once for
each ordinal and logs what arrives; a boundary takes a resume point, clears the log and commits contributions (R119, R121,
R136, R137, R252, R367, R368).
Completes: streamIn, gather, offload, fetch, send, transferComplete, boundary. -/
def Obligations.TransfersMoveSramContents : Prop :=
  ∀ (core p : Nat) (s : State) (k : Core), physOf s core = some p → k = coreAt s p →
    (s.pwr.passes.contains p = true → ∀ (i : Instr) (kind : Nat) (tr x : Transfer),
      (i, kind, x) ∈ [(Instr.streamIn core tr, 0, tr), (.gather core tr, 1, { tr with inHost := true }), (.offload core tr, 2, tr),
        (.fetch core tr, 3, tr)] →
      (transferOk s x = true → Leads i s fun t => t = { s with cores := { s.cores with cores := t.cores.cores } } ∧
        (∀ q, q ≠ p → coreAt t q = coreAt s q) ∧ coreAt t p = { k with transfers := k.transfers ++ [⟨kind, x⟩] }) ∧
      (transferOk s x = false → ∀ c, k.command = some c → EndsIn i s c 0x12 (2 ^ 64 - 1) 0 (endProgram s c))) ∧
    (∀ (kind : Nat) (tr : Transfer) (rest : List OpenTransfer) (bs : List Byte) (z : State), k.transfers = ⟨kind, tr⟩ :: rest →
      (∀ ident, ident ≠ tr.ident → Leads (.transferComplete core ident) s (· = s)) ∧
      (tr.inHost = true → kind ≠ 1 → s.hif.detached = true → Leads (.transferComplete core tr.ident) s (· = s)) ∧
      ((tr.inHost = true → kind = 1 ∨ s.hif.detached = false) →
        (kind ≠ 2 → (tr.inHost = true → z = s ∧ bs = padTo tr.bytes (tr.data.take tr.bytes)) →
          (tr.inHost = false → tornIn s tr.addr tr.bytes = none ∧ z = meet s (metIn tr.met tr.addr tr.bytes) ∧
            readItem z tr.addr tr.bytes (coreStep z p) tr.twinned false false = .ok bs) →
          (tr.isTile = false ∨ tileCheck z tr bs = .ok → Leads (.transferComplete core tr.ident) s fun t =>
            t = { z with
              regs := t.regs
              cores := { z.cores with cores := t.cores.cores, sram := t.cores.sram, badWords := t.cores.badWords } } ∧
            t.cores.sram = writeBytes s.cores.sram (sramAt core tr.sramOffset) bs ∧
            (∀ q, q ≠ p → coreAt t q = coreAt s q) ∧ coreAt t p = { k with transfers := rest }) ∧
          ∀ c, tr.isTile = true → k.command = some c →
            (tileCheck z tr bs = .corrupt → tr.inHost = true →
              EndsIn (.transferComplete core tr.ident) s c 0x23 tr.addr (ueDetail s) (endProgram s c)) ∧
            (∀ f, tileCheck z tr bs = .badField f →
              EndsIn (.transferComplete core tr.ident) s c 0x12 (0x1000 + f) tr.addr (endProgram z c)) ∧
            (tileCheck z tr bs = .epoch →
              EndsIn (.transferComplete core tr.ident) s c 0x21 (leAt bs 6 2) tr.layoutEpoch (endProgram z c))) ∧
        (kind ≠ 2 → tr.inHost = false → ∀ a c, tornIn s tr.addr tr.bytes = some a → k.command = some c →
          EndsIn (.transferComplete core tr.ident) s c 0x23 a (ueDetail s) (endProgram s c)) ∧
        (kind = 2 → z = meetWords s core [(tr.sramOffset, tr.bytes)] tr.words → sramBad z core tr.sramOffset tr.bytes = none →
          bs = (if tr.isTile then sealTile z tr (coreStep s p) (sramRead z core tr.sramOffset tr.bytes)
            else sramRead z core tr.sramOffset tr.bytes) →
          (tr.inHost = true → Leads (.transferComplete core tr.ident) s fun t =>
            t = { z with regs := t.regs, hostOut := s.hostOut ++ [.data tr.addr bs], cores := { z.cores with cores := t.cores.cores } } ∧
            coreAt t p = { k with transfers := rest }) ∧
          (tr.inHost = false → memWaits s tr.addr tr.bytes = false → badWrite s tr.addr tr.bytes = none →
            Leads (.transferComplete core tr.ident) s fun t => t.mem = writeBytes s.mem tr.addr bs ∧ coreAt t p = { k with transfers := rest } ∧
              t.hif = s.hif ∧ t.cores.sram = s.cores.sram)) ∧
        (kind = 2 → ∀ off c, z = meetWords s core [(tr.sramOffset, tr.bytes)] tr.words → sramBad z core tr.sramOffset tr.bytes = some off →
          k.command = some c →
          EndsIn (.transferComplete core tr.ident) s c 0x23 off (core + s.twin.number * 2 ^ 16) (endProgram z c)))) ∧
    (s.pwr.passes.contains p = true → ∀ (dst q ordinal so bytes buffer dso : Nat), physOf s dst = some q → buffer < 64 →
      so + bytes ≤ sramBytes → dso + bytes ≤ sramBytes → dst < Config.logicalCores s.part →
      (ordinal ≤ lastSend (coreAt s q) core → Leads (.send core dst ordinal so bytes buffer dso) s (· = progress s .coreP q 1)) ∧
      (lastSend (coreAt s q) core < ordinal → readWaits k so bytes = false → writeWaits (coreAt s q) dso bytes = false →
        sramBad s core so bytes = none → Leads (.send core dst ordinal so bytes buffer dso) s fun t =>
          t = { s with
            regs := t.regs
            cores := { s.cores with cores := t.cores.cores, sram := t.cores.sram, badWords := t.cores.badWords } } ∧
          t.cores.sram = writeBytes s.cores.sram (sramAt dst dso) (sramRead s core so bytes) ∧
          (∀ x, x ≠ q → coreAt t x = coreAt s x) ∧ lastSend (coreAt t q) core = ordinal ∧
          (coreAt t q).receiveLog = (coreAt s q).receiveLog ++ [(core, ordinal, sramRead s core so bytes)])) ∧
    (s.pwr.passes.contains p = true → ∀ position restore : Nat, Leads (.boundary core position restore) s fun t =>
      t = { s with grade := { s.grade with recs := t.grade.recs }, cores := { s.cores with cores := t.cores.cores } } ∧
      t.grade.recs = k.uncommitted.foldl (fun m e => putGrade m (gradeKey core e.1) e.2) s.grade.recs ∧
      (∀ q, q ≠ p → coreAt t q = coreAt s q) ∧
      coreAt t p = { k with uncommitted := [], resumePoint := some (position, restore), receiveLog := [] })

/-- A core fault puts its core into detention and opens the substitution of its number, with a hand where the host assists and a
substitute stands in reserve; the lowest substitute of its die is seated with the resume point, the receive log and the program
of the failed core; with none left the number is absent and its program ends with CORE_ABSENT; a substitute past the point of
failure is counted (R366 to R371).
Completes: coreFault, substituteSeat, coreSubstituted. -/
def Obligations.FailedCoresAreSubstituted : Prop :=
  ∀ (s : State) (p n : Nat) (k : Core), k = coreAt s p →
    (mget s.cores.seats p = none ∨ mget s.cores.seats p = some .detention ∨ mget s.cores.seats p = some .outOfService →
      Leads (.coreFault p) s (· = s)) ∧
    (∀ seat, mget s.cores.seats p = some seat → seat = .seated n ∨ seat = .reserve → Leads (.coreFault p) s fun t =>
      t = { s with regs := t.regs, hif := t.hif, hostOut := t.hostOut, cores := t.cores,
                   pwr := { s.pwr with passes := t.pwr.passes, requests := t.pwr.requests, running := t.pwr.running } } ∧
      mget t.cores.seats p = some .detention ∧ (∀ q, q ≠ p → mget t.cores.seats q = mget s.cores.seats q ∧ coreAt t q = coreAt s q) ∧
      coreAt t p = { k with uncommitted := [], accA := none, accB := none, tray := [] } ∧ t.cores.sram = s.cores.sram ∧
      p ∉ t.pwr.passes ∧ (∀ q ∈ t.pwr.requests, q.2 ≠ p) ∧ p ∉ t.pwr.running ∧
      (seat = .reserve → t.cores.substituting = s.cores.substituting ∧ t.hif.hands = s.hif.hands) ∧
      (seat = .seated n → t.cores.substituting = s.cores.substituting ++ [(n, p)] ∧
        (field s .rel 0 0x010 1 1 = 0 ∨ substituteFor s n = none → t.hif.hands = s.hif.hands) ∧
        ∀ q, substituteFor s n = some q → s.rel.recovery = 0 → field s .rel 0 0x010 1 1 = 1 → ∃ hnd : Hand,
          t.hif.hands = s.hif.hands ++ [hnd] ∧ hnd.page = pageOf .rel 0 ∧ hnd.bit = 1 ∧ hnd.items = [p, n, q])) ∧
    (∀ x, s.cores.substituting.find? (·.1 = n) = some (x, p) → substitutionHand s n = none →
      (∀ t', (restoreList s p).findSome? (restoreWaits s p) = some t' → substituteFor s n ≠ none →
        Leads (.substituteSeat n) s (· = t')) ∧
      (∀ q s1, substituteFor s n = some q → q ≠ p → (restoreList s p).findSome? (restoreWaits s p) = none →
        s1 = { s with cores := { s.cores with
          seats := mput s.cores.seats q (.seated n)
          cores := mput (mput s.cores.cores q { Core.reset with resumePoint := k.resumePoint, receiveLog := k.receiveLog,
                                                                sendsIn := k.sendsIn, command := k.command }) p { k with command := none }
          substituting := s.cores.substituting.filter fun e => e.1 != n
          recomputing := mput s.cores.recomputing n p } } →
        Leads (.substituteSeat n) s (· = requestPasses ((restoreList s p).foldl (restoreEntry n q) s1) [q]) ∧
        (physOf s n = none → k.command.isSome = true → (∀ r ∈ restoreList s p, r.inHost = true ∧ r.isTile = false) →
          Leads (.substituteSeat n) s fun t => physOf t n = some q ∧
            coreAt t q = { Core.reset with resumePoint := k.resumePoint, receiveLog := k.receiveLog, sendsIn := k.sendsIn,
                                           command := k.command } ∧
            t = { s1 with cores := { s1.cores with sram := t.cores.sram, badWords := t.cores.badWords }
                          pwr := { s.pwr with requests := t.pwr.requests } } ∧
            ((∃ r ∈ t.pwr.requests, r.2 = q) ∨ q ∈ t.pwr.passes) ∧
            t.cores.sram = (restoreList s p).foldl (fun m r => writeBytes m (sramAt n r.sramOffset)
              (padTo r.bytes (r.data.take r.bytes))) s.cores.sram)) ∧
      (∀ j, s.att = [j] → j.desc.coreFirst ≤ n → n < j.desc.coreFirst + j.desc.coreCount →
        endRunsOn s n = finish { s with att := [] } j.cmd 0x22 0 n) ∧
      (substituteFor s n = none → Leads (.substituteSeat n) s (· = makeAbsent s n p)) ∧
      (∀ j ∈ s.att, ¬(j.desc.coreFirst ≤ n ∧ n < j.desc.coreFirst + j.desc.coreCount)) →
      (substituteFor s n = none → (∀ c, k.command = some c → c ∈ s.hif.running → ∃ e, EndsIn (.substituteSeat n) s c 0x22 0 n e ∧
          e.cores.substituting = (s.cores.substituting.filter fun y => y.1 != n) ∧ e.mem = s.mem) ∧
        (k.command = none → Leads (.substituteSeat n) s fun t =>
          t = { s with regs := t.regs, hif := t.hif, hostOut := t.hostOut, cores := { s.cores with substituting := t.cores.substituting } } ∧
          t.cores.substituting = (s.cores.substituting.filter fun y => y.1 != n) ∧
          field t .rel 0 0x118 16 16 = satN 16 (field s .rel 0 0x118 16 16 + 1)))) ∧
    ((substitutionHand s n).isSome = true → Leads (.substituteSeat n) s (· = s)) ∧
    (∀ failed, mget s.cores.recomputing n = some failed → physOf s n = some p → Leads (.coreSubstituted n) s fun t =>
      t = { s with regs := t.regs, hif := t.hif, hostOut := t.hostOut, cores := { s.cores with recomputing := mdel s.cores.recomputing n } } ∧
      field t .rel 0 0x118 0 16 = satN 16 (field s .rel 0 0x118 0 16 + 1)) ∧
    (mget s.cores.recomputing n = none → Leads (.coreSubstituted n) s (· = s))

/-! ### Programs, copies, steps and the gradebook -/

/-- PROGRAM_RUN starts its program on every core of a contiguous range of the function's dies, sets their resume point at their
start and asks for their hall passes; once its transfers are complete it commits the cores' contributions and completes. Bad
ranges, a failed header check and an absent core refuse it; a busy core keeps it waiting (R298, R339, R367, R368, R371).
Completes: programRun. -/
def Obligations.ProgramsRunOnTheirCores : Prop :=
  ∀ (c : HostCmd) (image : List Byte) (decl : StepDecl) (s : State) (first count : Nat) (hd : List Byte), ready s 0x0100 c = true →
    first = bitsOf c.slot.param0 0 16 → count = bitsOf c.slot.param0 16 16 → hd = operandBytes s c image 64 →
    (coresOf s c ≠ [] → (∀ e ∈ coresOf s c, (coreAt s e.2).transfers = []) → EndsIn (.programRun c image decl) s c 0 0 0 (endProgram s c)) ∧
    ((∃ e ∈ coresOf s c, (coreAt s e.2).transfers ≠ []) → Leads (.programRun c image decl) s (· = s)) ∧
    (coresOf s c = [] → count = 0 ∨ Config.logicalCores s.part < first + count ∨
        (∃ n, first ≤ n ∧ n < first + count ∧ s.hif.dies.getD (n / 32) 0 ≠ c.fn) →
      EndsIn (.programRun c image decl) s c 0x12 0x20 0 s) ∧
    (coresOf s c = [] → count ≠ 0 → first + count ≤ Config.logicalCores s.part →
      (∀ n, first ≤ n → n < first + count → s.hif.dies.getD (n / 32) 0 = c.fn) →
      (bitOf c.slot.ctl 6 = true → rangeBad s c.slot.operand 64 = false ∧ memWaits s c.slot.operand 64 = false ∧
        badSector s c.slot.operand 64 = none) →
      (leAt hd 60 4 ≠ crc32c (hd.take 60) → EndsIn (.programRun c image decl) s c 0x12 0x13C 0 s) ∧
      (leAt hd 60 4 = crc32c (hd.take 60) → ∀ n, absentCore s first count = some n →
        EndsIn (.programRun c image decl) s c 0x22 0 n s) ∧
      (leAt hd 60 4 = crc32c (hd.take 60) → absentCore s first count = none →
        ((∃ p ∈ seatedCores s first count, (coreAt s p).command ≠ none) → Leads (.programRun c image decl) s (· = s)) ∧
        ((∀ p ∈ seatedCores s first count, (coreAt s p).command = none) → Leads (.programRun c image decl) s fun t => ∃ u,
          t = advanceTables (declareMarks u) ∧ decl ∈ u.tables.decls ∧
          (∀ n, first ≤ n → n < first + count → ∃ p, physOf s n = some p ∧ p ∈ seatedCores s first count) ∧
          (∀ p ∈ seatedCores s first count, (p ∈ u.pwr.passes ∨ ∃ q ∈ u.pwr.requests, q.2 = p) ∧
            coreAt u p = { coreAt s p with command := some c, sendsIn := [], receiveLog := [], resumePoint := some (0, c.slot.operand) }) ∧
          (∀ p, p ∉ seatedCores s first count → coreAt u p = coreAt s p) ∧
          u = { s with cores := { s.cores with cores := u.cores.cores }, tables := { s.tables with decls := u.tables.decls },
                       pwr := { s.pwr with requests := u.pwr.requests } }))) ∧
    (coresOf s c = [] → count ≠ 0 → first + count ≤ Config.logicalCores s.part →
      (∀ n, first ≤ n → n < first + count → s.hif.dies.getD (n / 32) 0 = c.fn) → bitOf c.slot.ctl 6 = true →
      (rangeBad s c.slot.operand 64 = true → EndsIn (.programRun c image decl) s c 0x12 0x18 0 s) ∧
      (∀ a, rangeBad s c.slot.operand 64 = false → memWaits s c.slot.operand 64 = false → badSector s c.slot.operand 64 = some a →
        EndsIn (.programRun c image decl) s c 0x23 a (ueDetail s) (noteUE s a)))

/-- DMA_COPY moves bytes between host memory, device memory and SRAM, and refuses lengths that are no multiple of 64, ranges
outside their place, and both destination bits at once; an SRAM place of an absent core ends it with CORE_ABSENT and an
uncorrectable sector with MEMORY_UNCORRECTABLE. OBJECT_PLACE keeps an entry by function and handle, moving a known object whole;
OBJECT_FREE drops it (R119, R121, R129, R132, R133, R298, R371).
Completes: dmaCopy, objectPlace, objectFree. -/
def Obligations.CopiesAndObjectsComplete : Prop :=
  (∀ (c : HostCmd) (data : List Byte) (s : State) (src dst : Place) (n core : Nat) (toSram : Bool), ready s 0x0101 c = true →
    n = c.slot.param1 → core = bitsOf c.slot.param2 16 16 → toSram = bitOf c.slot.param2 1 →
    src = (if bitOf c.slot.ctl 6 then .device c.slot.operand else .host c.slot.operand) →
    dst = (if toSram then .sram core c.slot.param0 else if bitOf c.slot.param2 0 then .device c.slot.param0 else .host c.slot.param0) →
    (placeOk s c.fn src n = false → EndsIn (.dmaCopy c data) s c 0x12 0x18 0 s) ∧
    (placeOk s c.fn src n = true → placeOk s c.fn dst n = false → (toSram = true → sramOk c.slot.param0 n = false) →
      EndsIn (.dmaCopy c data) s c 0x12 0x20 0 s) ∧
    (placeOk s c.fn src n = true → placeOk s c.fn dst n = false → toSram = true → sramOk c.slot.param0 n = true → n % 64 = 0 →
      EndsIn (.dmaCopy c data) s c 0x12 0x30 0 s) ∧
    (placeOk s c.fn src n = true → placeOk s c.fn dst n = true →
      (n % 64 ≠ 0 → EndsIn (.dmaCopy c data) s c 0x12 0x28 0 s) ∧
      (n % 64 = 0 → toSram = true → bitOf c.slot.param2 0 = true → EndsIn (.dmaCopy c data) s c 0x12 0x30 0 s) ∧
      (n % 64 = 0 → (toSram && bitOf c.slot.param2 0) = false →
        (∀ a x, src = .device a → memWaits s a n = false → badSector s a n = some x →
          ((twinItems s).find? fun it => overlaps it.addr it.len x 64) = none →
          EndsIn (.dmaCopy c data) s c 0x23 x (ueDetail s) (noteUE s x)) ∧
        ∀ bs, (∀ a, src = .host a → s.hif.detached = false ∧ bs = padTo n (data.take n)) →
          (∀ a, src = .device a → memWaits s a n = false ∧ badSector s a n = none ∧ tornIn s a n = none ∧ bs = devRead s a n) →
          (∀ a, dst = .host a → s.hif.detached = false → EndsIn (.dmaCopy c data) s c 0 0 0 (hostWrite s (.data a bs))) ∧
          (∀ a, dst = .device a → memWaits s a bs.length = false → badWrite s a bs.length = none → ∃ e,
            EndsIn (.dmaCopy c data) s c 0 0 0 e ∧ e.mem = writeBytes s.mem a bs ∧ e.hif = s.hif ∧ e.regs = s.regs) ∧
          (∀ a x, dst = .device a → memWaits s a bs.length = false → badWrite s a bs.length = some x →
            EndsIn (.dmaCopy c data) s c 0x23 x (ueDetail s) (noteUE s x)) ∧
          (∀ k off p, dst = .sram k off → physOf s k = some p → writeWaits (coreAt s p) off bs.length = false →
            EndsIn (.dmaCopy c data) s c 0 0 0 (sramWrite s k off bs)) ∧
          (∀ k off, dst = .sram k off → physOf s k = none → EndsIn (.dmaCopy c data) s c 0x22 0 k s)))) ∧
  (∀ (c : HostCmd) (data : List Byte) (s : State) (bs : List Byte) (key : Nat), ready s 0x0102 c = true → bs = inlineOf c.slot 32 →
    key = objectKey c.fn (leAt bs 0 4) →
    (∀ d0, objectFault s c.fn bs = some d0 → EndsIn (.objectPlace c data) s c 0x12 d0 0 s) ∧
    (objectFault s c.fn bs = none → mget s.gddr.objects key = none →
      ((s.gddr.objects.filter fun e => e.1 / 2 ^ 32 = c.fn).length < 2 ^ 20 → EndsIn (.objectPlace c data) s c 0 0 0
        { s with gddr := { s.gddr with objects := mput s.gddr.objects key (objectEntry bs) } }) ∧
      (2 ^ 20 ≤ (s.gddr.objects.filter fun e => e.1 / 2 ^ 32 = c.fn).length → EndsIn (.objectPlace c data) s c 0x12 (2 ^ 64 - 1) 0 s)) ∧
    (∀ old, objectFault s c.fn bs = none → mget s.gddr.objects key = some old →
      (placeOf old = placeOf bs → EndsIn (.objectPlace c data) s c 0 0 0
        { s with gddr := { s.gddr with objects := mput s.gddr.objects key (objectEntry bs) } }) ∧
      (∀ u, placeOf old ≠ placeOf bs → copyBytes s (placeOf old) (placeOf bs) (min (leAt old 0x10 8) (leAt bs 0x10 8)) data = .ok u →
        EndsIn (.objectPlace c data) s c 0 0 0 { u with gddr := { u.gddr with objects := mput u.gddr.objects key (objectEntry bs) } }) ∧
      (∀ u st d0 d1, placeOf old ≠ placeOf bs → st ≠ 0x30 →
        copyBytes s (placeOf old) (placeOf bs) (min (leAt old 0x10 8) (leAt bs 0x10 8)) data = .fail u st d0 d1 →
        EndsIn (.objectPlace c data) s c st d0 d1 u))) ∧
  ∀ (c : HostCmd) (s : State), ready s 0x0103 c = true →
    (c.slot.param0 < 2 ^ 32 → mget s.gddr.objects (objectKey c.fn c.slot.param0) ≠ none → EndsIn (.objectFree c) s c 0 0 0
      { s with gddr := { s.gddr with objects := mdel s.gddr.objects (objectKey c.fn c.slot.param0) } }) ∧
    (2 ^ 32 ≤ c.slot.param0 ∨ mget s.gddr.objects (objectKey c.fn c.slot.param0) = none → EndsIn (.objectFree c) s c 0x12 0x20 0 s)

/-- The module closes its open step once all that the step declares is applied: the next step opens, the step's records wait for
its exchanges and a gradebook setting comes into force; the parts of the exchanges go round the class once; the step-close
exchange shifts every history by the largest entry, the gradebook exchange runs the silent-layer rule, gives the exponents and
writes the bank of the step (R30, R106, R248, R253, R263, R266, R267, R272 to R275).
Completes: stepCloseContribution, stepClose, stepCloseExchangeDone, gradebookExchangeDone. -/
def Obligations.StepsCloseAndExchange : Prop :=
  ∀ (s : State),
    (mayClose s = false → Leads .stepClose s (· = s)) ∧
    (mayClose s = true → Leads .stepClose s fun t => ∃ u, t = kickUpdates (declareMarks u) ∧
      u.job = { s.job with closedStep := s.job.openStep, openStep := nextStep s.job.openStep, exchangesDue := s.job.exchangesDue ++ [s.job.openStep] } ∧
      u.grade.closings = s.grade.closings ++ [⟨s.job.openStep, s.grade.recs, s.tables.stats, s.scaling.map (fun e => (e.1, e.2.p)), s.grade.base, s.grade.count⟩] ∧
      u.grade.pending = none ∧ (u.grade.base, u.grade.count) = (s.grade.pending).getD (s.grade.base, s.grade.count) ∧
      (∀ m, partFrom s s.job.openStep 0 s.twin.number = none → nextMember s = some m → ∃ msg ∈ u.col.outbox ++ u.col.unsent, ∃ cp,
        msg.dst = m ∧ msg.hdr.kind = 0x0B ∧ msg.hdr.step = s.job.openStep ∧ msg.body = .exchange (.close s.twin.number cp) ∧
        cp.histories = s.scaling.map fun e => (e.1, e.2.own))) ∧
    (∀ (h : MsgHdr) (x : ExchangePart), Accepted s h →
      (isMember s (partOrigin x) = true → Takes (.stepCloseContribution h x) s h fun e => e = passPart (noted s h) h.step x) ∧
      (isMember s (partOrigin x) = false → Takes (.stepCloseContribution h x) s h fun e => e = bump (noted s h) .col 0 0x11C 0 32 1)) ∧
    (∀ (step : Nat) (x : ExchangePart),
      ((partFrom s step (partTag x) (partOrigin x)).isSome = true → passPart s step x = s) ∧
      (partFrom s step (partTag x) (partOrigin x) = none →
        (passPart s step x).col.parts = s.col.parts ++ [(step, x)] ∧ partFrom (passPart s step x) step (partTag x) (partOrigin x) = some x ∧
        (∀ m, nextMember s = some m → m ≠ partOrigin x → Sends s (passPart s step x) [m] 0x0B (.exchange x) ∧
          SendsOf s (passPart s step x) fun msg => msg.hdr.step = step) ∧
        (nextMember s = none ∨ nextMember s = some (partOrigin x) → Sends s (passPart s step x) [] 0x0B (.exchange x)))) ∧
    (∀ (step : Nat) (cl : Closing), s.grade.closings.find? (·.step = step) = some cl →
      (partsIn s step 0 = false ∨ (partFrom s step 1 s.twin.number).isSome = true → Leads (.stepCloseExchangeDone step) s (· = s)) ∧
      (partsIn s step 0 = true → partFrom s step 1 s.twin.number = none → (recordsRead s step).2 = true →
        Leads (.stepCloseExchangeDone step) s (· = (recordsRead s step).1)) ∧
      (∀ ps, partsIn s step 0 = true → partFrom s step 1 s.twin.number = none → (recordsRead s step).2 = false →
        (s.scaling.map (·.1)).Nodup →
        ps = (if (members s).isEmpty then (partFrom s step 0 s.twin.number).toList else partsOf s step 0) →
        Leads (.stepCloseExchangeDone step) s fun t => (∃ gp, partFrom t step 1 s.twin.number = some gp ∧ partTag gp = 1) ∧
          ∀ k r r1, mget s.scaling k = some r → badSector s (scaleAddr s.part k) 32 = none →
            r1 = (if (r.resetAsked && allPending ps (2 ^ 17 + k)) = true then { r with resetAsked := false, resetDue := some step } else r) →
            mget t.scaling k = some (if r.count ≠ 0 ∧ r.step = step then r1 else shiftHist r1 step (entryOf ps k))) ∧
      (partsIn s step 1 = false ∨ (∃ k ∈ s.job.exchangesDue, k < step) → Leads (.gradebookExchangeDone step) s (· = s)) ∧
      (partsIn s step 1 = true → (partFrom s step 1 s.twin.number).isSome = true → (∀ k ∈ s.job.exchangesDue, step ≤ k) →
        Leads (.gradebookExchangeDone step) s fun t => ∃ u w, t = kickUpdates u ∧
          w = s.scaling.foldl (fun x e => nextP (silentRule x step (combineGrade (partsOf s step 1) e.1)) e.1 step) s ∧
          u.scaling = w.scaling ∧ u.job = { s.job with exchangesDue := s.job.exchangesDue.filter (· != step) } ∧
          u.grade.closings = s.grade.closings.filter (·.step != step) ∧
          (cl.count ≠ 0 → s.hif.detached = false → pair64 u .mgt 0 0x218 % 2 ^ 32 = step % 2 ^ 32 ∧
            u.hostOut = w.hostOut ++ (List.range cl.count).map fun i =>
              .data (cl.base + step % 2 * cl.count * 256 + 256 * i) (gradeRecord w cl (combineGrade (partsOf s step 1) i))))) ∧
    (∀ step, s.grade.closings.find? (·.step = step) = none →
      Leads (.stepCloseExchangeDone step) s (· = s) ∧ Leads (.gradebookExchangeDone step) s (· = s)) ∧
    ∀ (k step : Nat) (r : ScaleRec), mget s.scaling k = some r → badSector s (scaleAddr s.part k) 32 = none →
      (field s .mgt 0 0x010 0 1 = 0 → r.resetDue = none → mget (nextP s k step).scaling k = some { r with p := computeP s r }) ∧
      (∀ g : GradeContribution, g.tensor = k → r.silentHand = false → silentStep s g = true →
        (r.silentRun + 1 < field s .mgt 0 0x214 8 8 →
          mget (silentRule s step g).scaling k = some { r with silentRun := r.silentRun + 1 }) ∧
        (field s .mgt 0 0x214 8 8 ≤ r.silentRun + 1 → field s .mgt 0 0x010 2 1 = 0 → mget (silentRule s step g).scaling k =
          some { r with silentRun := 0, lift := if r.lift < maxLift s then r.lift + 1 else r.lift }))

/-- GRADEBOOK_SET takes its area at once with no job and at the next step boundary otherwise, and refuses an unaligned base and
more than 16,384 records; GRADEBOOK_COMPARE refuses bad places, ends with CORE_ABSENT for an absent core, and otherwise writes the
result of the comparison, counts it and completes, or ends as the first bad tile says (R266, R278, R279, R371).
Completes: gradebookSet, gradebookCompare. -/
def Obligations.GradebookCommandsComplete : Prop :=
  (∀ (c : HostCmd) (s : State), ready s 0x001D c = true →
    (c.slot.operand % 4096 ≠ 0 → EndsIn (.gradebookSet c) s c 0x12 0x18 0 s) ∧
    (c.slot.operand % 4096 = 0 → 16384 < c.slot.param0 → EndsIn (.gradebookSet c) s c 0x12 0x20 0 s) ∧
    (c.slot.operand % 4096 = 0 → c.slot.param0 ≤ 16384 →
      (s.job.running = false → EndsIn (.gradebookSet c) s c 0 0 0
        { s with grade := { s.grade with base := c.slot.operand, count := c.slot.param0 } }) ∧
      (s.job.running = true → EndsIn (.gradebookSet c) s c 0 0 0
        { s with grade := { s.grade with pending := some (c.slot.operand, c.slot.param0) } }))) ∧
  ∀ (c : HostCmd) (data : List Byte) (s : State) (dev toDev : Bool) (n core ta tb : Nat), ready s 0x0139 c = true →
    dev = bitOf c.slot.ctl 6 → toDev = bitOf c.slot.param2 0 → n = bitsOf c.slot.param2 1 24 + 1 → core = bitsOf c.slot.param2 32 16 →
    ta = (if dev then leAt (devRead s c.slot.operand 1) 0 1 else leAt data 0 1) → tb = leAt (devRead s c.slot.param0 1) 0 1 →
    (dev = true → rangeBad s c.slot.operand 64 = true ∨ c.slot.operand % 256 ≠ 0 → EndsIn (.gradebookCompare c data) s c 0x12 0x18 0 s) ∧
    ((dev = true → rangeBad s c.slot.operand 64 = false ∧ c.slot.operand % 256 = 0) →
      (rangeBad s c.slot.param0 64 = true ∨ c.slot.param0 % 256 ≠ 0 → EndsIn (.gradebookCompare c data) s c 0x12 0x20 0 s) ∧
      (rangeBad s c.slot.param0 64 = false → c.slot.param0 % 256 = 0 →
        (c.slot.param1 % 64 ≠ 0 ∨ (toDev = true ∧ rangeBad s c.slot.param1 64 = true) → EndsIn (.gradebookCompare c data) s c 0x12 0x28 0 s) ∧
        (c.slot.param1 % 64 = 0 → (toDev = true → rangeBad s c.slot.param1 64 = false) →
          (Config.logicalCores s.part ≤ core ∨ s.hif.dies.getD (core / 32) 0 ≠ c.fn → EndsIn (.gradebookCompare c data) s c 0x12 0x30 0 s) ∧
          (core < Config.logicalCores s.part → s.hif.dies.getD (core / 32) 0 = c.fn →
            (physOf s core = none → EndsIn (.gradebookCompare c data) s c 0x22 0 core s) ∧
            (physOf s core ≠ none → ((dev && toDev) = false → s.hif.detached = false) →
              (toDev = true → memWaits s c.slot.param1 64 = false) →
              (ta ≠ 1 ∧ ta ≠ 3 → EndsIn (.gradebookCompare c data) s c 0x12 0x1000 c.slot.operand s) ∧
              (ta = 1 ∨ ta = 3 → tb ≠ 1 → tb ≠ 3 → EndsIn (.gradebookCompare c data) s c 0x12 0x1000 c.slot.param0 s) ∧
              (ta = 1 ∨ ta = 3 → tb = 1 ∨ tb = 3 → (dev = true → rangeBad s c.slot.operand (n * plainTile ta) = false) →
                rangeBad s c.slot.param0 (n * plainTile tb) = false →
                (∀ a, compareAll s c (if dev then none else some data) ta tb n = .bad a →
                  EndsIn (.gradebookCompare c data) s c 0x23 a (ueDetail s) (noteUE s a)) ∧
                (∀ st d0 d1, compareAll s c (if dev then none else some data) ta tb n = .fail st d0 d1 → st ≠ 0x30 →
                  EndsIn (.gradebookCompare c data) s c st d0 d1 s) ∧
                (∀ a, compareAll s c (if dev then none else some data) ta tb n = .ok a → toDev = false → ∃ e,
                  EndsIn (.gradebookCompare c data) s c 0 0 0 e ∧ e = { s with regs := e.regs, hostOut := e.hostOut } ∧
                  e.hostOut = s.hostOut ++ [.data c.slot.param1 (compareResult a)] ∧
                  field e .mgt 0 0x228 0 16 = satN 16 (field s .mgt 0 0x228 0 16 + 1) ∧
                  field e .mgt 0 0x228 16 16 = satN 16 (field s .mgt 0 0x228 16 16 + if a.differing = 0 then 0 else 1)) ∧
                (∀ a, compareAll s c (if dev then none else some data) ta tb n = .ok a → toDev = true → badWrite s c.slot.param1 64 = none →
                  ∃ e, EndsIn (.gradebookCompare c data) s c 0 0 0 e ∧ e.mem = writeBytes s.mem c.slot.param1 (compareResult a) ∧
                    e.hif = s.hif ∧ e.hostOut = s.hostOut)))))))

/-! ### Collectives, attention, keys and values -/

/-- COL_RUN refuses bad fields, a stale layout epoch, a broken ring, a second run of the same identity, reduced gradients without
a parameter record, and an absent core; a broadcast or all-gather owner writes its chunk and sends it on, alone on its ring it
completes; a message is cut in segments and taken once they are all here, waits for its command, a partial is reduced with the own
chunk and passed on or written under the destination's format, a gathered chunk is written and passed on, the blocks of an
all-to-all are written in ascending position once all are here, a hand-over lies in its slot behind its mark (R245 to R252).
Completes: colRun, reductionPartial, gatherChunk, allToAllBlock. -/
def Obligations.CollectivesMoveTheirChunks : Prop :=
  (∀ (c : HostCmd) (data : List Byte) (s : State) (bs : List Byte) (d : ColDesc) (ms : List Nat), ready s 0x0131 c = true →
    (∀ j ∈ s.col.jobs, j.cmd ≠ c) → operandOut s c 64 = false → operandFault s c 64 = none → bs = operandBytes s c data 64 →
    d = colDescOf bs → ms = ((mget s.col.rings d.ringId).map (·.members)).getD [] →
    (∀ d0, colFault s c.fn bs (mget s.col.rings d.ringId) = some d0 → EndsIn (.colRun c data) s c 0x12 d0 0 s) ∧
    (colFault s c.fn bs (mget s.col.rings d.ringId) = none →
      (d.layoutEpoch ≠ s.job.layoutEpoch → EndsIn (.colRun c data) s c 0x21 d.layoutEpoch s.job.layoutEpoch s) ∧
      (d.layoutEpoch = s.job.layoutEpoch → ∀ r, mget s.col.rings d.ringId = some r →
        (r.broken = true → ∀ m, (ms.find? fun m => !isMember s m) = some m →
          EndsIn (.colRun c data) s c 0x27 m (removalStep s m % 2 ^ 32) s) ∧
        (r.broken = false → (∃ j ∈ s.col.jobs, j.desc.operation = d.operation ∧ j.desc.ringId = d.ringId ∧ j.desc.tensor = d.tensor ∧
          j.cmd.slot.step = c.slot.step) → EndsIn (.colRun c data) s c 0x12 (2 ^ 64 - 1) 0 s) ∧
        (r.broken = false → d.toUpdate = true → paramsFor s d.tensor c.slot.step = none →
          EndsIn (.colRun c data) s c 0x12 (2 ^ 64 - 1) 0 s) ∧
        (r.broken = false → s.col.jobs = [] → (d.toUpdate = true → paramsFor s d.tensor c.slot.step ≠ none) →
          (d.sourceSram = true → physOf s d.sourceCore = none → EndsIn (.colRun c data) s c 0x22 0 d.sourceCore s) ∧
          ((d.sourceSram = true → physOf s d.sourceCore ≠ none) → d.destSram = true → physOf s d.destCore = none →
            EndsIn (.colRun c data) s c 0x22 0 d.destCore s)) ∧
        (r.broken = false → s.col.jobs = [] → s.col.early = [] → s.col.retry = [] → s.col.unsent = [] → s.tables.torn = [] →
          d.sourceSram = false → d.destSram = false → d.toUpdate = false → Quiet s →
          d.operation = 2 ∨ d.operation = 5 → ∀ p src k, ms.findIdx (· = s.twin.number) = p → (owners d ms.length).contains p = true →
          src = devRead s d.sourceBase d.chunkBytes → k = (if d.operation = 2 then ordinalOf (owners d ms.length) p else 0) →
          (ms.length = 1 → EndsIn (.colRun c data) s c 0 0 0 (devWrite s (d.destBase + k * d.chunkBytes) src)) ∧
          (1 < ms.length → Leads (.colRun c data) s fun t =>
            t.mem = writeBytes s.mem (d.destBase + k * d.chunkBytes) src ∧ t.hif = s.hif ∧
            t.col.jobs = [⟨c, d, p, ms, awaited d ms.length p, [], workingSlices s r.linkSet, []⟩] ∧
            SendsAll s t 0x02 ((cutBody (.chunk src)).map fun q => (ms.getD ((p + 1) % ms.length) 0, q.2)) ∧
            SendsOf s t fun m => m.hdr.ringId = d.ringId ∧ m.hdr.tensorId = d.tensor ∧ m.hdr.step = c.slot.step))))) ∧
  (∀ (h : MsgHdr) (elems : List Nat) (bs : List Byte) (s : State), Accepted s h →
    (h.ringId ≠ 0 → Takes (.reductionPartial h elems) s h fun e => e = takePiece (noted s h) h 1 (.partialSum elems)) ∧
    (h.ringId = 0 → h.last = true → elems = [] → Takes (.reductionPartial h elems) s h fun e =>
      e = { noted s h with col := { (noted s h).col with maxima := s.col.maxima ++ [(h.step, h.srcClass)] } }) ∧
    (∀ d, h.ringId = 0 → h.last = false ∨ elems ≠ [] → factoredTable s h.tensorId = some d →
      Takes (.reductionPartial h elems) s h fun e => e = takeColumns (noted s h) d h elems) ∧
    (h.ringId = 0 → h.last = false ∨ elems ≠ [] → factoredTable s h.tensorId = none →
      Takes (.reductionPartial h elems) s h fun e => e = { noted s h with outliers := e.outliers } ∧
        ∃ o, mget e.outliers h.tensorId = some o ∧ o.peers = ((mget (noted s h).outliers h.tensorId).getD noOutliers).peers ++
          elems.zipIdx.map fun q => (h.step, h.offset / 4 + q.2, q.1)) ∧
    Takes (.gatherChunk h bs) s h (fun e => e = takePiece (noted s h) h 2 (.chunk bs)) ∧
    Takes (.allToAllBlock h bs) s h (fun e => e = takePiece (noted s h) h 3 (.block bs))) ∧
  (∀ (s : State) (h : MsgHdr) (kind : Nat) (body : Body),
    ((∀ j ∈ s.col.jobs, j.desc.ringId = h.ringId → j.desc.tensor = h.tensorId → j.cmd.slot.step ≠ h.step) →
      takePiece s h kind body = keepEarly s h body) ∧
    ∀ j0 k, (s.col.jobs.find? fun j => j.desc.ringId = h.ringId ∧ j.desc.tensor = h.tensorId ∧ j.cmd.slot.step = h.step) = some j0 →
      k = (if kind < 3 then h.offset / spanOf j0.desc kind else h.srcPosition) →
      (colFor s h kind k = none → takePiece s h kind body = keepEarly s h body) ∧
      ∀ j j1, colFor s h kind k = some j → j1 = { j with pieces := j.pieces ++
          [⟨kind, k, if kind < 3 then h.offset % spanOf j0.desc kind else h.offset, h.last, asSent j.desc body⟩] } →
        takePiece s h kind body = takeWhole (setColJob s j1) j1 kind k) ∧
  (∀ (s : State) (j j1 : ColJob) (kind k : Nat) (ps : List Piece), ps = (j.pieces.filter fun p => p.kind = kind ∧ p.ordinal = k) →
    j1 = { ticked j kind k with pieces := j.pieces.filter fun p => ¬ (p.kind = kind ∧ p.ordinal = k) } →
    (wholeOf ps = none ∨ colWaits s j kind k = true → takeWhole s j kind k = s) ∧
    (∀ xs w, kind = 1 → wholeOf ps = some (.partialSum xs w) → colWaits s j kind k = false →
      takeWhole s j kind k = reduceStep s j1 k (some xs)) ∧
    (∀ bs, kind = 2 → wholeOf ps = some (.chunk bs) → j.desc.destSram = false → Quiet s → owners j.desc j.ring.length ≠ [] →
      (takeWhole s j kind k).mem = writeBytes s.mem (j.desc.destBase +
        (if j.desc.operation = 2 ∨ j.desc.operation = 3 then k else 0) * j.desc.chunkBytes) bs ∧
      ((owners j.desc j.ring.length).getD k 0 ≠ (j.position + 1) % j.ring.length → SendsAll s (takeWhole s j kind k) 0x02
        ((cutBody (.chunk bs)).map fun q => (memberAt j ((j.position + 1) % j.ring.length), q.2))) ∧
      ((owners j.desc j.ring.length).getD k 0 = (j.position + 1) % j.ring.length → SendsAll s (takeWhole s j kind k) 0x02 [])) ∧
    (∀ bs all, kind = 3 → wholeOf ps = some (.block bs) → all = (sortBy (·.1) (j.blocks ++ [(k, bs)])).flatMap (·.2) →
      colWaits s j kind k = false →
      (j1.expect ≠ [] → takeWhole s j kind k = setColJob s { j1 with blocks := j.blocks ++ [(k, bs)] }) ∧
      (j1.expect = [] → endBad s j.desc.destSram j.desc.destBase all.length = true → ∃ u, takeWhole s j kind k =
        failCol u { j1 with blocks := j.blocks ++ [(k, bs)] } 0x12 0x120 0) ∧
      (j1.expect = [] → endBad s j.desc.destSram j.desc.destBase all.length = false → j.desc.destSram = false → Quiet s →
        (takeWhole s j kind k).mem = writeBytes s.mem j.desc.destBase all)) ∧
    (∀ bs a after, kind = 8 → wholeOf ps = some (.chunk bs) → j.desc.destSram = false → Quiet s →
      after = ((k + 1) % j.ring.length != j.position) → a = passSlot j.desc after →
      (takeWhole s j kind k).mem = writeBytes (writeBytes s.mem a (bs.take j.desc.chunkBytes)) (a + j.desc.chunkBytes + 192)
        (markBytes ⟨j.cmd.slot.step, j.desc.ringId, j.desc.tensor, false, k, !after, false, s.job.layoutEpoch, s.job.number⟩))) ∧
  ∀ (s : State) (j : ColJob) (k : Nat) (acc : Option (List Nat)) (own : List Byte) (r : List (Nat × Exc)) (tiles : List (List Byte)),
    colRead s j.desc.sourceSram j.desc.sourceCore (j.desc.sourceBase + k * j.desc.chunkBytes) j.desc.chunkBytes = .ok own →
    r = reduceChunk (ctlOf j.cmd) j.desc.reduceOp acc (contribution (ctlOf j.cmd) own) → tiles = chunkTiles (own.length / 256) own →
    ((∃ x ∈ tiles, sourceTileOk (ctlOf j.cmd).mode x = false) →
      reduceStep s j k acc = failCol s j 0x12 0x1000 (j.desc.sourceBase + k * j.desc.chunkBytes)) ∧
    ((∀ x ∈ tiles, sourceTileOk (ctlOf j.cmd).mode x = true) →
      ((owners j.desc j.ring.length).getD k 0 ≠ j.position →
        SendsAll s (reduceStep s j k acc) 0x01 ((cutBody (.partialSum ((onWire (ctlOf j.cmd) j.desc r).map (·.1)) (j.desc.wire = 1))).map
          fun q => (memberAt j (j.position + 1), q.2)) ∧
        SendsOf s (reduceStep s j k acc) fun m => m.hdr.ringId = j.desc.ringId ∧ m.hdr.tensorId = j.desc.tensor ∧ m.hdr.step = j.cmd.slot.step) ∧
      ((owners j.desc j.ring.length).getD k 0 = j.position → j.desc.toUpdate = true → j.desc.twinCopy = false →
        SendsAll s (reduceStep s j k acc) 0x07 (tiles.zipIdx.map fun q =>
          (s.twin.number, .gradTile (leAt q.1 8 2) (leAt q.1 0xA 2) (((r.map (·.1)).drop (16384 * q.2)).take 16384)))) ∧
      (∀ base hd, (owners j.desc j.ring.length).getD k 0 = j.position → j.desc.toUpdate = false → j.desc.destSram = false →
        base = j.desc.destBase + (if j.desc.operation = 3 then k * j.desc.chunkBytes else 0) → Quiet s →
        colRead s false j.desc.destCore base 64 = .ok hd →
        (storeTagOk (ctlOf j.cmd).mode (leAt hd 0 1) = false → ∃ u, reduceStep s j k acc = failCol u j 0x12 0x1000 base ∧ u.mem = s.mem) ∧
        (storeTagOk (ctlOf j.cmd).mode (leAt hd 0 1) = true → (reduceStep s j k acc).mem = writeBytes s.mem base
          ((tiles.zipIdx.flatMap fun q => (resultTile s (ctlOf j.cmd) j.desc j.cmd.slot.step (leAt hd 0 1) q.1
            (((r.map (·.1)).drop (16384 * q.2)).take 16384)).1).take j.desc.chunkBytes))))

/-- A pending re-shard drains at its boundary once the old epoch's work is over, switches the receive points and sends its moves
with an end mark to every member, writes the moves that arrive, and puts the new layout into force once every member has
permuted; each step waits for the one before it (R260 to R262, R302).
Completes: permuteMove, reshardDrain, reshardPermute, reshardDone. -/
def Obligations.ReshardsRunTheirSteps : Prop :=
  ∀ (s : State),
    (s.col.reshard = none → Leads .reshardDrain s (· = s) ∧ Leads .reshardPermute s (· = s) ∧ Leads .reshardDone s (· = s)) ∧
    (∀ r, s.col.reshard = some r →
      (r.drained = true ∨ s.job.openStep < r.boundary ∨ inFlight s = true → Leads .reshardDrain s (· = s)) ∧
      (r.drained = false → r.boundary ≤ s.job.openStep → inFlight s = false → Leads .reshardDrain s fun t =>
        t.col.reshard = some { r with drained := true } ∧ t.mem = s.mem ∧ t.job = s.job ∧
        t = passPart { s with col := { s.col with reshard := some { r with drained := true } } } r.boundary (.drained s.twin.number r.epoch)) ∧
      (r.drained = false ∨ r.switched = true ∨ partsIn s r.boundary 2 = false → Leads .reshardPermute s (· = s)) ∧
      (r.drained = true → r.switched = false → partsIn s r.boundary 2 = true → Leads .reshardPermute s fun t =>
        t.job = { s.job with layoutEpoch := r.epoch } ∧ t.col.reshard = some { r with switched := true } ∧ t.col.marks = [] ∧
        t.col.idents = [] ∧ t.tables = s.tables ∧ t.hif = s.hif ∧ t.col.parts = s.col.parts ∧
        ∀ m ∈ members s, ∃ msg ∈ t.col.outbox ++ t.col.unsent, msg.dst = m ∧ msg.hdr.kind = 0x09 ∧ msg.hdr.last = true ∧ msg.hdr.step = r.boundary ∧
          msg.hdr.layoutEpoch = r.epoch ∧ msg.body = .move 0 []) ∧
      (r.permuteDone = false ∨ partsIn s r.boundary 3 = false → Leads .reshardDone s (· = s)) ∧
      (r.permuteDone = true → partsIn s r.boundary 3 = true → Leads .reshardDone s fun t => ∃ u, t = advanceTables u ∧
        u.col.reshard = none ∧ u.mem = s.mem ∧ u.job = s.job ∧ (∀ q ∈ u.col.parts, partTag q.2 < 2) ∧
        (((planTables r.plan).map fun bs => (tableDescOf bs).table).Nodup →
          ∀ bs ∈ planTables r.plan, mget u.tables.descs (tableDescOf bs).table = some (tableDescOf bs)))) ∧
    ∀ (h : MsgHdr) (addr : Nat) (bs : List Byte), Accepted s h → Quiet (noted s h) →
      (bs ≠ [] → devRange s addr bs.length = true → h.last = false ∨ h.ringId ≠ 0 →
        Takes (.permuteMove h addr bs) s h fun e => e = mark (devWrite (noted s h) addr bs) addr bs.length) ∧
      (bs = [] ∨ devRange s addr bs.length = false → h.last = false ∨ h.ringId ≠ 0 →
        Takes (.permuteMove h addr bs) s h fun e => e = noted s h) ∧
      (bs = [] → h.last = true → h.ringId = 0 → Takes (.permuteMove h addr bs) s h fun e =>
        e = settlePermute (setReshard (noted s h) fun r => { r with marksIn := insertNat r.marksIn h.srcClass })) ∧
      (∀ r, s.col.reshard = some r → r.switched = true → r.permuteDone = false → (∀ m ∈ unacked s, m.hdr.kind ≠ 0x09) →
        (∀ m ∈ members s, m ∈ r.marksIn) →
        settlePermute s = passPart { s with col := { s.col with reshard := some { r with permuteDone := true } } } r.boundary
          (.permuted s.twin.number r.epoch))

/-- ATT_RUN checks its descriptor, its layout epoch, its ring, its cores and its tiles, and opens its ring with every other
member; a run whose sources are all worked writes O and the row logarithms, or its gradients, and completes; ring traffic waits
for its run, is kept once, passed on, and ends a run of another layout epoch; a narrow format ends it where STRICT_FORMAT holds
(R197 to R217).
Completes: attRun, parcel, ringOpen, abortNotice. -/
def Obligations.AttentionRunsRoundItsRing : Prop :=
  (∀ (c : HostCmd) (data : List Byte) (s : State) (d : AttDesc) (ring : List Nat), ready s 0x0120 c = true → Quiet s →
    (∀ j ∈ s.att, j.cmd ≠ c) → rangeBad s c.slot.operand 128 = false → d = attDescOf (devRead s c.slot.operand 128) →
    ring = ((mget s.col.rings d.ringId).map (·.members)).getD [] →
    (∀ d0, attFault s (modeOf c.slot.ctl) (devRead s c.slot.operand 128) = some d0 → EndsIn (.attRun c data) s c 0x12 d0 0 s) ∧
    (attFault s (modeOf c.slot.ctl) (devRead s c.slot.operand 128) = none →
      (d.layoutEpoch ≠ s.job.layoutEpoch → EndsIn (.attRun c data) s c 0x21 d.layoutEpoch s.job.layoutEpoch s) ∧
      (∀ r m, d.layoutEpoch = s.job.layoutEpoch → mget s.col.rings d.ringId = some r → r.broken = true →
        (ring.find? fun m => !isMember s m) = some m → EndsIn (.attRun c data) s c 0x27 m (removalStep s m % 2 ^ 32) s) ∧
      (∀ r, d.layoutEpoch = s.job.layoutEpoch → mget s.col.rings d.ringId = some r → r.broken = false →
        (∀ n, absentCore s d.coreFirst d.coreCount = some n → EndsIn (.attRun c data) s c 0x22 0 n s) ∧
        (absentCore s d.coreFirst d.coreCount = none →
          (∀ st d0 d1, readArrays s d data = .fail st d0 d1 → st ≠ 0x30 → EndsIn (.attRun c data) s c st d0 d1 s) ∧
          (∀ a, readArrays s d data = .bad a → ∃ e, EndsIn (.attRun c data) s c 0x23 a (ueDetail s) e ∧
            SendsEach s e 0x0F ((ring.filter (· != s.twin.number)).map fun m => (m, .abort s.twin.number a))) ∧
          (readArrays s d data = .wait → Leads (.attRun c data) s (· = s)) ∧
          (∀ arrays, readArrays s d data = .ok arrays → (∃ m ∈ ring, m ≠ s.twin.number) →
            (∀ m ∈ s.col.early, (∀ f, m.body ≠ .ringOpen f) ∧ ∀ pid items, m.body ≠ .parcel pid items) →
            Leads (.attRun c data) s fun t =>
              t.att = s.att ++ [⟨c, d, ring, arrays, [(s.twin.number, ownFormats d)], false, 0, [], [], []⟩] ∧
              t = { s with att := t.att, col := t.col, regs := t.regs, pwr := { s.pwr with running := t.pwr.running } } ∧
              SendsEach s t 0x08 ((ring.filter (· != s.twin.number)).map fun m => (m, .ringOpen (ownFormats d)))))))) ∧
  (∀ (c : HostCmd) (data : List Byte) (s : State) (j : AttJob) (ctl : Ctl), ready s 0x0120 c = true → Quiet s →
    s.att.find? (·.cmd = c) = some j → j.opened = true → j.ring.length ≤ j.source → j.desc.hostBases = 0 → ctl = ctlOf c →
    absentCore s j.desc.coreFirst j.desc.coreCount = none →
    (∀ m ∈ s.col.early, (∀ f, m.body ≠ .ringOpen f) ∧ ∀ pid items, m.body ≠ .parcel pid items) →
    (j.desc.backward = false → ∃ e, EndsIn (.attRun c data) s c 0 0 0 e ∧ e.att = s.att.filter (·.cmd != c) ∧
      e.mem = writeBytes (writeBytes s.mem j.desc.oBase (outTiles (noteFinish s j) j 1 j.desc.qHeads fun h r => match rowOf j h r with
          | none => List.replicate j.desc.headDim 0
          | some st => st.o.map fun x => (vMul ctl x (opSpecial ctl.mode ctl.rounding .recip (decodeFmt .fp32 st.l)).1).1).2) j.desc.lseBase
        ((List.range j.desc.qHeads).flatMap fun h => (List.range (shardTokens j.desc)).flatMap fun r => leBytes 4 (match rowOf j h r with
          | none => 0
          | some st => (vAdd ctl st.m (opSpecial ctl.mode ctl.rounding .log2 (decodeFmt .fp32 st.l)).1).1))) ∧
    (∀ bs, j.desc.backward = true → scaleRead s j.desc.tensor c.slot.step = .ok bs → attGWaits s j = false → partialsBack s j = true →
      ∃ e q k v, EndsIn (.attRun c data) s c 0 0 0 e ∧ e.att = s.att.filter (·.cmd != c) ∧
      e.mem = writeBytes (writeBytes (writeBytes s.mem (leNat (devRead s (j.desc.gradBase + 16) 8)) q)
        (leNat (devRead s (j.desc.gradBase + 24) 8)) k) (leNat (devRead s (j.desc.gradBase + 32) 8)) v) ∧
    (∀ bs, j.desc.backward = true → scaleRead s j.desc.tensor c.slot.step = .ok bs → attGWaits s j = true ∨ partialsBack s j = false →
      Leads (.attRun c data) s (· = s))) ∧
  (∀ (s : State) (j : AttJob) (so : Nat × Bool), j.opened = true → 0 < j.source → j.source < j.ring.length →
    so = sourceAt j.ring.length j.desc.ringPosition j.source → slotWaits s j j.source = false → slotBad s j j.source = none →
    (slotMarked s j (parcelId s j so.1 so.2 false) = true → workSource s j = workItems s j so.1 so.2 (slotItems s j so.1 so.2)) ∧
    (slotMarked s j (parcelId s j so.1 so.2 false) = false → workSource s j = waitParcel s j.desc)) ∧
  (∀ (h : MsgHdr) (f : OpenFormats) (s : State), Accepted s h →
    (attOf s h f.backward = none → Takes (.ringOpen h f) s h fun e => e = keepEarly (noted s h) h (.ringOpen f)) ∧
    ∀ j j1, attOf s h f.backward = some j → j1 = { j with heard := j.heard ++ [(h.srcClass, f)] } →
      (j.opened = true → h.last = true → Takes (.ringOpen h f) s h fun e => e = noted s h) ∧
      (j.opened = true → h.last = false → Takes (.ringOpen h f) s h fun e =>
        SendsEach (noted s h) e 0x08 [(h.srcClass, .ringOpen (ownFormats j.desc))] ∧ e.att = s.att) ∧
      (j.opened = false → (∃ x ∈ j.heard, x.1 = h.srcClass) → Takes (.ringOpen h f) s h fun e => e = noted s h) ∧
      (j.opened = false → (∀ x ∈ j.heard, x.1 ≠ h.srcClass) →
        ((∃ m ∈ j.ring, ∀ x ∈ j1.heard, x.1 ≠ m) → Takes (.ringOpen h f) s h fun e => e = setAtt (noted s h) j1) ∧
        ((∀ m ∈ j.ring, ∃ x ∈ j1.heard, x.1 = m) → (∀ x, openFault j1 = some x →
            Takes (.ringOpen h f) s h fun e => e = failAtt (setAtt (noted s h) j1) j1 0x20 x.1 x.2) ∧
          (∀ off, openFault j1 = none → wideFault j1 = some off →
            Takes (.ringOpen h f) s h fun e => e = failAtt (setAtt (noted s h) j1) j1 0x12 (blockField off) 0) ∧
          (openFault j1 = none → wideFault j1 = none → Takes (.ringOpen h f) s h fun e => e = tryOpen (setAtt (noted s h) j1) j1)))) ∧
  (∀ (h : MsgHdr) (cls addr : Nat) (s : State), Accepted s h →
    (attFor s h = none → Takes (.abortNotice h cls addr) s h fun e => e = noted s h) ∧
    ∀ j, attFor s h = some j → Takes (.abortNotice h cls addr) s h fun e => e = failAtt (noted s h) j 0x23 addr (0xFFFF + cls * 2 ^ 16)) ∧
  (∀ (h : MsgHdr) (pid : ParcelId) (items : List (List Byte)) (s : State) (j : AttJob), h.crcOk = true → deaf s = false →
    s.pwr.recess = false → s.job.running = true → h.layoutEpoch ≠ s.job.layoutEpoch → attFor s h = some j →
    Leads (.parcel h pid items) s fun t => Ended t j.cmd 0x21 h.layoutEpoch j.desc.layoutEpoch ∧
      t.att = s.att.filter (·.cmd != j.cmd) ∧ t.mem = s.mem) ∧
  ∀ (h : MsgHdr) (pid : ParcelId) (items : List (List Byte)) (s : State), Accepted s h → h.layoutEpoch = s.job.layoutEpoch →
    (h.tensorId = 0xFFFF → Takes (.parcel h pid items) s h fun e => e = takePartials (noted s h) h pid items) ∧
    ((∃ j ∈ s.col.jobs, j.desc.operation = 6 ∧ j.desc.ringId = h.ringId ∧ j.desc.tensor = h.tensorId ∧ j.cmd.slot.step = h.step) →
      h.tensorId ≠ 0xFFFF → Takes (.parcel h pid items) s h fun e => e = takePiece (noted s h) h 8 (.chunk items.flatten)) ∧
    (h.tensorId ≠ 0xFFFF → (∀ j ∈ s.col.jobs, j.desc.operation = 6 → j.desc.ringId = h.ringId → j.desc.tensor = h.tensorId →
        j.cmd.slot.step ≠ h.step) →
      (attOf s h pid.backward = none →
        (pid.returning = true → Takes (.parcel h pid items) s h fun e => e = relayReturn (noted s h) h pid items) ∧
        (pid.returning = false → (∃ m ∈ s.col.early, m.body = .parcel pid items) →
          Takes (.parcel h pid items) s h fun e => e = bump (noted s h) .att 0 0x118 0 32 1) ∧
        (pid.returning = false → (∀ m ∈ s.col.early, m.body ≠ .parcel pid items) →
          Takes (.parcel h pid items) s h fun e => e = keepEarly (noted s h) h (.parcel pid items))) ∧
      ∀ j, attOf s h pid.backward = some j →
        (pid.layoutEpoch ≠ j.desc.layoutEpoch → Takes (.parcel h pid items) s h fun e =>
          e = failAtt (noted s h) j 0x21 pid.layoutEpoch j.desc.layoutEpoch) ∧
        (pid.layoutEpoch = j.desc.layoutEpoch →
          (pid.returning = true → pid.source ≠ j.desc.ringPosition → Takes (.parcel h pid items) s h fun e =>
            SendsEach (noted s h) e 0x08 [(j.ring.getD (if pid.clockwise = false then (j.desc.ringPosition + 1) % j.ring.length
              else (j.desc.ringPosition + j.ring.length - 1) % j.ring.length) 0, .parcel pid items)]) ∧
          (pid.returning = false ∨ pid.source = j.desc.ringPosition →
            (memWaits (noted s h) (parcelPlace j pid).1 (slotBytes j.desc) = true →
              Takes (.parcel h pid items) s h fun e => e = keepEarly (noted s h) h (.parcel pid items)) ∧
            (memWaits (noted s h) (parcelPlace j pid).1 (slotBytes j.desc) = false →
              (slotMarked (noted s h) j pid = true → Takes (.parcel h pid items) s h fun e =>
                e = bump (noted s h) .att (j.desc.coreFirst / 32) 0x118 0 32 1) ∧
              (∀ a, slotMarked (noted s h) j pid = false → storeParcel (noted s h) j pid items = .error a →
                Takes (.parcel h pid items) s h fun e => e = abortAtt (noted s h) j a) ∧
              (∀ u, slotMarked (noted s h) j pid = false → storeParcel (noted s h) j pid items = .ok u → (Inv (noted s h) → slotMarked u j pid = true) ∧
                Takes (.parcel h pid items) s h fun e => e = advanceAtt (j.ring.length + 2)
                  (if j.desc.backward || pid.returning || !j.opened then u else forwardParcel u j pid.source pid.clockwise items) j.cmd)))))

/-- KV_POOL_DEFINE makes a pool of free pages in ascending order; KV_SEQ_OPEN clears a sequence's lists and cubbies, and refuses one
that names pages; KV_SHARE copies a sequence into its children and adds their references, or ends with KV_POOL_EMPTY; KV_RELEASE
drops a sequence's references, and a page without reference or pin returns to its list (R219 to R228, R236).
Completes: kvPoolDefine, kvSeqOpen, kvShare, kvRelease. -/
def Obligations.PagesAndSequencesAreKept : Prop :=
  (∀ (c : HostCmd) (s : State) (bs : List Byte) (pool : Nat) (p : Pool), ready s 0x0128 c = true → bs = inlineOf c.slot 32 →
    pool = bitsOf (leAt bs 0 1) 0 4 → p = poolOf bs →
    (∀ d0, poolFault s bs = some d0 → EndsIn (.kvPoolDefine c) s c 0x12 d0 0 s) ∧
    (poolFault s bs = none → ∃ e, EndsIn (.kvPoolDefine c) s c 0 0 0 e ∧ mget e.kvp.pools pool = some p ∧ mget e.kvp.heads pool = some p.first ∧
      (∀ n, p.first ≤ n → n < p.first + p.count →
        pageEntry e n = ⟨if n + 1 < p.first + p.count then n + 1 else noPage, .free, pool, 0, 0, 0, 0⟩) ∧
      (∀ n, n < p.first ∨ p.first + p.count ≤ n → (pageEntry s n).pool ≠ pool → pageEntry e n = pageEntry s n) ∧
      (∀ k, k ≠ pool → mget e.kvp.pools k = mget s.kvp.pools k ∧ mget e.kvp.heads k = mget s.kvp.heads k) ∧
      e = { s with kvp := { s.kvp with pools := e.kvp.pools, entries := e.kvp.entries, heads := e.kvp.heads },
                   gddr := { s.gddr with badSectors := e.gddr.badSectors }, pwr := { s.pwr with running := e.pwr.running } })) ∧
  (∀ (c : HostCmd) (data : List Byte) (s : State), bitOf c.slot.ctl 6 = true → rangeBad s c.slot.operand 64 = true →
    (ready s 0x0129 c = true → EndsIn (.kvSeqOpen c data) s c 0x12 0x18 0 s) ∧ (ready s 0x012A c = true → EndsIn (.kvShare c data) s c 0x12 0x18 0 s) ∧
    (ready s 0x012B c = true → EndsIn (.kvRelease c data) s c 0x12 0x18 0 s)) ∧
  (∀ (c : HostCmd) (data : List Byte) (s : State) (q : SeqRec), Quiet s → (bitOf c.slot.ctl 6 = true → rangeBad s c.slot.operand 64 = false) →
    q = seqOf (operandBytes s c data 64) →
    (ready s 0x0129 c = true →
      (∀ d0, seqFault s q = some d0 → EndsIn (.kvSeqOpen c data) s c 0x12 d0 0 s) ∧
      (seqFault s q = none → seqNames s q = true → EndsIn (.kvSeqOpen c data) s c 0x12 (2 ^ 64 - 1) 0 s) ∧
      (seqFault s q = none → seqNames s q = false → EndsIn (.kvSeqOpen c data) s c 0 0 0 (clearSeq (startDomain s domKvp) q) ∧
        (clearSeq (startDomain s domKvp) q).kvp = s.kvp ∧ (Inv s → ∀ a, a < q.listBase ∨ q.listBase + listBytes q ≤ a →
          a < q.cubbyBase ∨ q.cubbyBase + cubbyBytes s q ≤ a →
          readByte (clearSeq (startDomain s domKvp) q).mem a = readByte s.mem a))) ∧
    (ready s 0x012B c = true →
      (q.crcOk = false → EndsIn (.kvRelease c data) s c 0x12 0x13C 0 s) ∧
      (∀ d0, releaseFault s q = some d0 → EndsIn (.kvRelease c data) s c 0x12 d0 0 s) ∧
      (releaseFault s q = none → EndsIn (.kvRelease c data) s c 0 0 0 (clearSeq (((List.range (seqLists q)).flatMap fun l =>
        if (cubbyOf s q l).isSome then listPages s q l else []).foldl dropRef s) q))) ∧
    (ready s 0x012A c = true → ∀ n addrs kids, n = bitsOf c.slot.param1 0 11 + 1 →
      (1024 < n → EndsIn (.kvShare c data) s c 0x12 0x28 0 s) ∧
      (n ≤ 1024 → rangeBad s c.slot.param0 (8 * n) = true → EndsIn (.kvShare c data) s c 0x12 0x20 0 s) ∧
      (n ≤ 1024 → rangeBad s c.slot.param0 (8 * n) = false →
        (∀ d0, seqFault s q = some d0 → EndsIn (.kvShare c data) s c 0x12 d0 0 s) ∧
        (seqFault s q = none → addrs = ((List.range n).map fun i => leNat (devRead s (c.slot.param0 + 8 * i) 8)) →
          kids = (addrs.map fun a => seqOf (devRead s a 64)) →
          ((∃ a ∈ addrs, rangeBad s a 64 = true) → EndsIn (.kvShare c data) s c 0x12 (2 ^ 64 - 1) 0 s) ∧
          (∀ d0, (∀ a ∈ addrs, rangeBad s a 64 = false) → kids.findSome? (seqFault s) = some d0 →
            EndsIn (.kvShare c data) s c 0x12 d0 0 s) ∧
          ((∀ a ∈ addrs, rangeBad s a 64 = false) → (∀ x ∈ kids, seqFault s x = none) →
            (∀ d0, kids.findSome? (childFault s q) = some d0 → EndsIn (.kvShare c data) s c 0x12 d0 0 s) ∧
            (kids.findSome? (childFault s q) = none → (∀ l < seqLists q, (cubbyOf s q l).isSome = true) → ∀ fl need,
              fl = (if bitOf c.slot.param1 31 then sharedFlushes s q else []) → need = (fl.map fun e => flushNeeds s q e.1 e.2).sum →
              (∀ short, holdPages s q.pool need = none → short = need - (poolFree s q.pool need).length →
                EndsIn (.kvShare c data) s c 0x26 q.pool short (post (bump s .kvp 0 0x120 0 32 1) .kvp 0 0x0401 [q.pool, short])) ∧
              (∀ h r, holdPages s q.pool need = some h → r = fl.foldl (fun (a : State × List Nat) e => flush a.1 (ctlOf c) q e.1 e.2 a.2) h →
                EndsIn (.kvShare c data) s c 0 0 0
                  (kids.foldl (fun t x => copySeq t q x) (shareRefs (startDomain (r.2.foldl freePage r.1) domKvp) q kids))))))))) ∧
  ∀ (s : State) (n : Nat), (pageEntry s n).state = .live →
    ((pageEntry s n).refs = 1 → pinsOf s n = 0 →
      pageEntry (dropRef s n) n = ⟨(mget s.kvp.heads (pageEntry s n).pool).getD noPage, .free, (pageEntry s n).pool, 0, 0, 0, 0⟩ ∧
      mget (dropRef s n).kvp.heads (pageEntry s n).pool = some n) ∧
    (1 < (pageEntry s n).refs ∨ 0 < pinsOf s n →
      pageEntry (dropRef s n) n = { pageEntry s n with refs := (pageEntry s n).refs - 1 } ∧ (dropRef s n).kvp.heads = s.kvp.heads)

/-- ATT_DECODE checks its block, its records and its rows, holds the pages its appends need or ends with KV_POOL_EMPTY, runs the
appends and attends; once the partials it merges are in, it writes one output line for each row it merges, unpins its pages and
completes (R231 to R236, R301).
Completes: attDecode. -/
def Obligations.DecodesAppendAndAttend : Prop :=
  (∀ (c : HostCmd) (s : State) (bs : List Byte) (d : DecDesc) (rows : List DecRow) (apps : List DecAppend) (pl : AppendPlan),
    ready s 0x0121 c = true → Quiet s → s.decodes.find? (·.cmd = c) = none → bs = devRead s c.slot.operand 128 → d = decDescOf bs →
    rows = decRows s d → apps = decAppends s d → pl = apps.foldl (planAppend s d) ⟨[], [], [], none, none⟩ →
    (rangeBad s c.slot.operand 128 = true → EndsIn (.attDecode c) s c 0x12 0x18 0 s) ∧
    (rangeBad s c.slot.operand 128 = false →
      (∀ d0, decFault s bs = some d0 → EndsIn (.attDecode c) s c 0x12 d0 0 s) ∧
      (decFault s bs = none → (∃ i < d.rows, rangeBad s (leNat (devRead s (d.rowBase + 16 * i) 8)) 64 = true) ∨
          (∃ i < d.appends, rangeBad s (leNat (devRead s (d.appendBase + 24 * i) 8)) 64 = true) →
        EndsIn (.attDecode c) s c 0x12 (2 ^ 64 - 1) 0 s) ∧
      (decFault s bs = none → (∀ i < d.rows, rangeBad s (leNat (devRead s (d.rowBase + 16 * i) 8)) 64 = false) →
        (∀ i < d.appends, rangeBad s (leNat (devRead s (d.appendBase + 24 * i) 8)) 64 = false) →
        (∀ st d0 d1, decodeFault s c d rows apps pl = some (st, d0, d1) → st ≠ 0x23 → EndsIn (.attDecode c) s c st d0 d1 s) ∧
        (∀ d0 d1, decodeFault s c d rows apps pl = some (0x23, d0, d1) → EndsIn (.attDecode c) s c 0x23 d0 (ueDetail s) (noteUE s d0)) ∧
        (∀ d0, decodeFault s c d rows apps pl = none → linesOk s d rows apps = some d0 → EndsIn (.attDecode c) s c 0x12 d0 0 s) ∧
        (decodeFault s c d rows apps pl = none → linesOk s d rows apps = none →
          (∀ pool short, holdAll s pl.need = .error (pool, short) → EndsIn (.attDecode c) s c 0x26 pool short
            (post (bump s .kvp 0 0x120 0 32 1) .kvp 0 0x0401 [pool, short])) ∧
          (∀ h r, holdAll s pl.need = .ok h → r = apps.foldl (runAppend (ctlOf c) d) h → Leads (.attDecode c) s fun t => ∃ u,
            t = attendDecode u c ∧ u = { r.1 with decodes := u.decodes, pwr := { r.1.pwr with running := u.pwr.running } } ∧
            u.decodes = r.1.decodes ++ [⟨c, true, false, [], r.2.flatMap (·.2), [], [], decodeRings rows, []⟩]))))) ∧
  (∀ (c : HostCmd) (s : State) (j : DecodeJob), ready s 0x0121 c = true → s.decodes.find? (·.cmd = c) = some j → j.own = [] →
    Leads (.attDecode c) s (· = attendDecode s c)) ∧
  ∀ (c : HostCmd) (s : State) (j : DecodeJob) (d : DecDesc) (rows : List DecRow) (mine : List (DecRow × Nat)), ready s 0x0121 c = true →
    Quiet s → s.decodes.find? (·.cmd = c) = some j → j.own ≠ [] → d = decDescOf (devRead s c.slot.operand 128) → rows = decRows s d →
    mine = (rows.zipIdx.filter fun r => j.merge.getD r.2 0 = r.1.seq.position) →
    (decodeReady s rows j = false → Leads (.attDecode c) s (· = s)) ∧
    (decodeReady s rows j = true → ∃ (e : State) (ws : List (Nat × List Byte)), EndsIn (.attDecode c) s c 0 0 0 e ∧ e.decodes = s.decodes.filter (·.cmd != c) ∧
      e.kvp.pools = s.kvp.pools ∧ e.mem = ws.foldl (fun m w => writeBytes m w.1 w.2) s.mem ∧
      ws.map (·.1) = mine.map (fun q => d.outBase + (if d.outFp32 then 4 else 2) * (seqPool s q.1.seq).headDim * q.1.line) ∧
      ∀ q ∈ mine, ∀ st, q.1.seq.byPosition = false → j.own.getD q.2 none = some st →
        (d.outBase + (if d.outFp32 then 4 else 2) * (seqPool s q.1.seq).headDim * q.1.line, (outputLine s (ctlOf c) d (seqPool s q.1.seq).headDim (some st)).2.1) ∈ ws)
end

