-- ==== Sys2Proof/Laws/Maps.lean ====
section
/-! SUPPORT. Sorted maps and device memory: reading after writing, and the canonical form (log 3). -/

namespace Sys2Proof.Machine

/-! ### mget, mput, mdel -/

theorem mget_mput {α : Type} (m : List (Nat × α)) (a b : Nat) (x : α) :
    mget (mput m a x) b = if a = b then some x else mget m b := by
  induction m with
  | nil => by_cases h : a = b <;> simp [mput, mget, h]
  | cons e t ih =>
    obtain ⟨k, v⟩ := e
    simp only [mput]
    split
    · by_cases h : a = b <;> simp [mget, h]
    · split
      · subst_vars
        by_cases h : k = b <;> simp [mget, h]
      · rename_i h1 h2
        by_cases h : k = b
        · simp [mget, h]; intro hab; omega
        · simp [mget, h, ih]

@[simp] theorem mget_mput_self {α : Type} (m : List (Nat × α)) (a : Nat) (x : α) : mget (mput m a x) a = some x := by
  simp [mget_mput]

theorem mget_mput_ne {α : Type} {m : List (Nat × α)} {a b : Nat} {x : α} (h : a ≠ b) : mget (mput m a x) b = mget m b := by
  simp [mget_mput, h]

theorem risingFrom_le {α : Type} {m : List (Nat × α)} {a b : Nat} (h : risingFrom b m = true) (hab : a ≤ b) :
    risingFrom a m = true := by
  cases m with
  | nil => rfl
  | cons e t =>
    simp only [risingFrom, Bool.and_eq_true, decide_eq_true_eq] at h ⊢
    exact ⟨by omega, h.2⟩

theorem mget_rising {α : Type} {m : List (Nat × α)} {a lo : Nat} (h : risingFrom lo m = true) (ha : a < lo) : mget m a = none := by
  induction m generalizing lo with
  | nil => rfl
  | cons e t ih =>
    simp only [risingFrom, Bool.and_eq_true, decide_eq_true_eq] at h
    have hne : e.1 ≠ a := by omega
    simp only [mget, hne, if_false]
    exact ih h.2 (by omega)

theorem rising_mput {α : Type} {m : List (Nat × α)} {a lo : Nat} {x : α} (h : risingFrom lo m = true) (ha : lo ≤ a) :
    risingFrom lo (mput m a x) = true := by
  induction m generalizing lo with
  | nil => simpa [mput, risingFrom] using ha
  | cons e t ih =>
    simp only [risingFrom, Bool.and_eq_true, decide_eq_true_eq] at h
    simp only [mput]
    split
    · simp only [risingFrom, Bool.and_eq_true, decide_eq_true_eq]
      exact ⟨ha, by omega, h.2⟩
    · split
      · subst_vars
        simpa [risingFrom, ha] using h.2
      · simp only [risingFrom, Bool.and_eq_true, decide_eq_true_eq]
        exact ⟨h.1, ih h.2 (by omega)⟩

theorem rising_mdel {α : Type} {m : List (Nat × α)} {a lo : Nat} (h : risingFrom lo m = true) : risingFrom lo (mdel m a) = true := by
  induction m generalizing lo with
  | nil => rfl
  | cons e t ih =>
    simp only [risingFrom, Bool.and_eq_true, decide_eq_true_eq] at h
    simp only [mdel]
    split
    · exact risingFrom_le h.2 (by omega)
    · simp only [risingFrom, Bool.and_eq_true, decide_eq_true_eq]
      exact ⟨h.1, ih h.2⟩

theorem mget_mdel {α : Type} {m : List (Nat × α)} {lo : Nat} (h : risingFrom lo m = true) (a b : Nat) :
    mget (mdel m a) b = if a = b then none else mget m b := by
  induction m generalizing lo with
  | nil => simp [mdel, mget]
  | cons e t ih =>
    simp only [risingFrom, Bool.and_eq_true, decide_eq_true_eq] at h
    simp only [mdel]
    split
    · rename_i he
      by_cases hab : a = b
      · simp only [hab, if_true]
        exact mget_rising h.2 (by omega)
      · have : e.1 ≠ b := by omega
        simp [mget, this, hab]
    · rename_i he
      by_cases hb : e.1 = b
      · have : ¬a = b := by omega
        simp [mget, hb, this]
      · simp [mget, hb, ih h.2]

/-! ### Device memory -/

theorem all_mput {m : List Host.Cell} {a : Nat} {b : Byte} (h : m.all (fun c => c.2 != 0) = true) (hb : b ≠ 0) :
    (mput m a b).all (fun c => c.2 != 0) = true := by
  induction m with
  | nil => simpa [mput] using hb
  | cons e t ih =>
    simp only [List.all_cons, Bool.and_eq_true] at h
    simp only [mput]
    split
    · simp only [List.all_cons, Bool.and_eq_true]
      exact ⟨by simpa using hb, h.1, h.2⟩
    · split
      · simp only [List.all_cons, Bool.and_eq_true]
        exact ⟨by simpa using hb, h.2⟩
      · simp only [List.all_cons, Bool.and_eq_true]
        exact ⟨h.1, ih h.2⟩

theorem all_mdel {m : List Host.Cell} {a : Nat} (h : m.all (fun c => c.2 != 0) = true) : (mdel m a).all (fun c => c.2 != 0) = true := by
  induction m with
  | nil => rfl
  | cons e t ih =>
    simp only [List.all_cons, Bool.and_eq_true] at h
    simp only [mdel]
    split
    · exact h.2
    · simp only [List.all_cons, Bool.and_eq_true]
      exact ⟨h.1, ih h.2⟩

theorem wf_writeByte {m : List Host.Cell} (a : Nat) (b : Byte) (h : Memory.wf m = true) : Memory.wf (writeByte m a b) = true := by
  simp only [Memory.wf, Bool.and_eq_true] at h ⊢
  unfold writeByte
  split
  · exact ⟨rising_mdel h.1, all_mdel h.2⟩
  · rename_i hb
    exact ⟨rising_mput h.1 (Nat.zero_le a), all_mput h.2 hb⟩

theorem wf_writeBytes {m : List Host.Cell} (a : Nat) (bs : List Byte) (h : Memory.wf m = true) :
    Memory.wf (writeBytes m a bs) = true := by
  induction bs generalizing m a with
  | nil => exact h
  | cons b t ih => exact ih (a + 1) (wf_writeByte a b h)

theorem rising_filter {α : Type} {m : List (Nat × α)} {p : Nat × α → Bool} {lo : Nat} (h : risingFrom lo m = true) :
    risingFrom lo (m.filter p) = true := by
  induction m generalizing lo with
  | nil => rfl
  | cons e t ih =>
    simp only [risingFrom, Bool.and_eq_true, decide_eq_true_eq] at h
    simp only [List.filter_cons]
    split
    · simp only [risingFrom, Bool.and_eq_true, decide_eq_true_eq]
      exact ⟨h.1, ih h.2⟩
    · exact risingFrom_le (ih h.2) (by omega)

theorem wf_zeroRange {m : List Host.Cell} (base n : Nat) (h : Memory.wf m = true) : Memory.wf (zeroRange m base n) = true := by
  simp only [Memory.wf, Bool.and_eq_true] at h ⊢
  refine ⟨rising_filter h.1, ?_⟩
  simp only [List.all_eq_true, zeroRange, List.mem_filter] at h ⊢
  exact fun x hx => h.2 x hx.1

theorem wf_devWrite {s : State} (a : Nat) (bs : List Byte) (h : Memory.wf s.mem = true) : Memory.wf (devWrite s a bs).mem = true :=
  wf_writeBytes a bs h

theorem wf_foldl_writeByte {m : List Host.Cell} (base : Nat) (cells : List (Nat × Byte)) (h : Memory.wf m = true) :
    Memory.wf (cells.foldl (fun m c => writeByte m (base + c.1) c.2) m) = true := by
  induction cells generalizing m with
  | nil => exact h
  | cons c t ih => exact ih (wf_writeByte _ _ h)

/-- A byte reads back as written, and every other byte reads as before. -/
theorem readByte_writeByte {m : List Host.Cell} (h : Memory.wf m = true) (a x : Nat) (b : Byte) :
    readByte (writeByte m a b) x = if a = x then b else readByte m x := by
  simp only [Memory.wf, Bool.and_eq_true] at h
  unfold writeByte readByte
  split
  · rename_i hb
    rw [mget_mdel h.1]
    split <;> simp [hb]
  · rw [mget_mput]
    split <;> rfl

end Sys2Proof.Machine
end

