-- ==== Sys2Proof/Laws/Finish.lean ====
section
/-! SUPPORT. What the end of a command does (R294, R295), and what a message that is taken does (R192, R193, R242). -/

namespace Sys2Proof.Machine

/-! ### Registers alike -/

theorem SameRegs.refl (s : State) (l : List Nat) : SameRegs s s l := fun _ _ => rfl

theorem SameRegs.trans {a b c : State} {l : List Nat} (h : SameRegs a b l) (g : SameRegs b c l) : SameRegs a c l :=
  fun k hk => (g k hk).trans (h k hk)

theorem SameRegs.of_regs {s t : State} {l : List Nat} (h : t.regs = s.regs) : SameRegs s t l := fun _ _ => by rw [h]

theorem sameRegs_setReg {s : State} {b : Blk} {i off v : Nat} {l : List Nat} (h : regKey s b i off ∈ l) :
    SameRegs s (setReg s b i off v) l := fun _ hk => mget_mput_ne fun e => hk (e ▸ h)

/-! ### What ends leave alone -/

/-- The frame of the end of a command, between the queue lists and the rest. -/
structure Ends (s t : State) (fn : Nat) : Prop where
  regs : SameRegs s t (endRegs fn)
  rest : t = { s with hif := t.hif, regs := t.regs, hostOut := t.hostOut }
  hif : t.hif = { s.hif with queues := t.hif.queues, running := t.hif.running, duplicates := t.hif.duplicates,
                             adminPending := t.hif.adminPending }
  out : ∃ ws, t.hostOut = s.hostOut ++ ws ∧ ∀ w ∈ ws, ∃ addr x, w = HostWrite.completion addr x

/-- Nothing written to host memory. -/
theorem noneWritten (s : State) : ∃ ws, s.hostOut = s.hostOut ++ ws ∧ ∀ w ∈ ws, ∃ addr x, w = HostWrite.completion addr x :=
  ⟨[], by simp, by simp⟩

theorem Ends.refl (s : State) (fn : Nat) : Ends s s fn := ⟨SameRegs.refl _ _, rfl, rfl, noneWritten s⟩

theorem Ends.trans {a b c : State} {fn : Nat} (h : Ends a b fn) (g : Ends b c fn) : Ends a c fn := by
  refine ⟨h.regs.trans g.regs, ?_, ?_, ?_⟩
  · rw [g.rest, h.rest]
  · rw [g.hif, h.hif]
  · obtain ⟨u, hu, pu⟩ := h.out
    obtain ⟨v, hv, pv⟩ := g.out
    exact ⟨u ++ v, by rw [hv, hu, List.append_assoc], fun w hw => (List.mem_append.mp hw).elim (pu w) (pv w)⟩

theorem Ends.onlyEnds {s t : State} {fn : Nat} (h : Ends s t fn) : OnlyEnds s t fn := ⟨h.regs, h.rest, h.hif, h.out⟩

theorem ends_setReg {s : State} {b : Blk} {i off v fn : Nat} (h : regKey s b i off ∈ endRegs fn) : Ends s (setReg s b i off v) fn :=
  ⟨sameRegs_setReg h, rfl, rfl, noneWritten s⟩

theorem ends_setQueue (s : State) (x : Queue) (fn : Nat) : Ends s (setQueue s x) fn := ⟨SameRegs.of_regs rfl, rfl, rfl, noneWritten s⟩

theorem ends_hostWrite (s : State) (addr : Nat) (x : Completion) (fn : Nat) : Ends s (hostWrite s (.completion addr x)) fn :=
  ⟨SameRegs.of_regs rfl, rfl, rfl, [.completion addr x], rfl, by simp⟩

theorem ends_lists (s : State) (qs : List Queue) (rs ds : List HostCmd) (p : Bool) (fn : Nat) :
    Ends s (setHif s fun h => { h with queues := qs, running := rs, duplicates := ds, adminPending := p }) fn :=
  ⟨SameRegs.of_regs rfl, rfl, rfl, noneWritten s⟩

theorem ends_countDuplicate (s : State) (fn : Nat) : Ends s (bump s .hif 0 0x134 0 16 1) fn :=
  ends_setReg (by simp [regKey, endRegs])

theorem ends_writeCompletion (s : State) (q : Queue) (base : Nat) (c : Completion) : Ends s (writeCompletion s q base c) q.fn := by
  unfold writeCompletion progress bump64 setPair64 bumpWrap
  exact ((ends_hostWrite s _ _ q.fn).trans (ends_setQueue _ _ q.fn)).trans
    ((ends_setReg (by simp [regKey, endRegs])).trans
      ((ends_setReg (by simp [regKey, endRegs])).trans (ends_setReg (by simp [regKey, endRegs]))))

theorem queueOf_fn {s : State} {fn q : Nat} {x : Queue} (h : queueOf s fn q = some x) : x.fn = fn ∧ x.queue = q := by
  have := List.find?_some h
  simpa using this

theorem ends_postCompletion (s : State) (base : Nat) (c : Completion) : Ends s (postCompletion s base c) c.fn := by
  unfold postCompletion
  split
  · exact Ends.refl _ _
  · rename_i q hq
    split
    · exact Ends.refl _ _
    · split
      · exact ends_setQueue _ _ _
      · exact (queueOf_fn hq).1 ▸ ends_writeCompletion s q base c

theorem ends_startAdmin (s : State) (fn : Nat) : Ends s (startAdmin s) fn := ⟨SameRegs.of_regs rfl, rfl, rfl, noneWritten _⟩

theorem ends_adminCheck (s : State) (fn : Nat) : Ends s (adminCheck s) fn := by
  unfold adminCheck
  split
  · exact ends_startAdmin s fn
  · exact Ends.refl _ _

theorem ends_foldl {α : Type} {fn : Nat} {f : State → α → State} (hf : ∀ t x, Ends t (f t x) fn) :
    ∀ (l : List α) (s : State), Ends s (l.foldl f s) fn
  | [], s => Ends.refl s fn
  | x :: l, s => (hf s x).trans (ends_foldl hf l (f s x))

theorem ends_foldl_mem {α : Type} {fn : Nat} {f : State → α → State} {l : List α} (hf : ∀ t, ∀ x ∈ l, Ends t (f t x) fn) (s : State) :
    Ends s (l.foldl f s) fn := by
  induction l generalizing s with
  | nil => exact Ends.refl s fn
  | cons x l ih =>
    exact (hf s x (by simp)).trans (ih (fun t y hy => hf t y (by simp [hy])) (f s x))

theorem ends_remember (s : State) (c : HostCmd) (d : Option (Nat × Nat × Nat)) (fn : Nat) : Ends s (remember s c d) fn := by
  unfold remember
  split
  · exact Ends.refl _ _
  · exact ends_setQueue _ _ _

theorem ends_recorded (s : State) (c : HostCmd) (st d0 d1 : Nat) : Ends s (recorded s c st d0 d1) c.fn :=
  Ends.trans (b := unrun s c) ⟨SameRegs.of_regs rfl, rfl, rfl, noneWritten _⟩
    (Ends.trans (b := remember (unrun s c) c (some (st, d0, d1))) (ends_remember _ c _ _)
      (ends_postCompletion _ _ (completionOf c st st d0 d1)))

theorem ends_postDuplicate (st d0 d1 : Nat) (s : State) (d : HostCmd) : Ends s (postDuplicate st d0 d1 s d) d.fn :=
  (ends_postCompletion s d.cqBase (completionOf d 1 st d0 d1)).trans (ends_countDuplicate _ _)

theorem ends_reopen (s : State) (c : HostCmd) (ds : List HostCmd) (fn : Nat) : Ends s (reopen s c ds) fn := by
  cases ds with
  | nil => exact Ends.refl _ _
  | cons d ds => exact (ends_remember s c none fn).trans ⟨SameRegs.of_regs rfl, rfl, rfl, noneWritten _⟩

theorem duplicatesOf_fn {s : State} {c d : HostCmd} (h : d ∈ duplicatesOf s c) : d.fn = c.fn := by
  have := (List.mem_filter.mp h).2
  simp at this
  exact this.1.1

/-- The end of a command changes nothing but what an end may change. -/
theorem ends_finish (s : State) (c : HostCmd) (st d0 d1 : Nat) : Ends s (finish s c st d0 d1) c.fn := by
  have h1 := ends_recorded s c st d0 d1
  have h2 : Ends s (dropDuplicates (recorded s c st d0 d1) (duplicatesOf (recorded s c st d0 d1) c)) c.fn :=
    h1.trans ⟨SameRegs.of_regs rfl, rfl, rfl, noneWritten _⟩
  unfold finish
  dsimp only
  split
  · exact h2.trans (ends_reopen _ c _ _)
  · refine (h2.trans (ends_foldl_mem (fun t d hd => ?_) _)).trans (ends_adminCheck _ _)
    exact duplicatesOf_fn hd ▸ ends_postDuplicate st d0 d1 t d

/-! ### What a command that has ended leaves in its queue's history -/

/-- What Ended says of histories. -/
def HistDone (t : State) (c : HostCmd) (st d0 d1 : Nat) : Prop :=
  ∀ q ∈ t.hif.queues, q.fn = c.fn → q.queue = c.queue → ∀ e ∈ q.history, e.ident = c.slot.requestId → e.done = some (st, d0, d1)

theorem histDone_same {s t : State} {c : HostCmd} {st d0 d1 : Nat} (h : HistDone s c st d0 d1)
    (hq : t.hif.queues = s.hif.queues) : HistDone t c st d0 d1 := by
  unfold HistDone; rw [hq]; exact h

theorem histDone_setQueue {s : State} {c : HostCmd} {st d0 d1 : Nat} {x : Queue} (h : HistDone s c st d0 d1)
    (hx : x.fn = c.fn → x.queue = c.queue → ∀ e ∈ x.history, e.ident = c.slot.requestId → e.done = some (st, d0, d1)) :
    HistDone (setQueue s x) c st d0 d1 := by
  intro q hq
  simp only [setQueue, setHif, List.mem_map] at hq
  obtain ⟨y, hy, rfl⟩ := hq
  split
  · exact hx
  · exact h y hy

theorem queueOf_mem {s : State} {fn q : Nat} {x : Queue} (h : queueOf s fn q = some x) : x ∈ s.hif.queues :=
  List.mem_of_find?_eq_some h

theorem histDone_writeCompletion {s : State} {c : HostCmd} {st d0 d1 : Nat} (q : Queue) (base : Nat) (r : Completion)
    (h : HistDone s c st d0 d1) (hq : q ∈ s.hif.queues) : HistDone (writeCompletion s q base r) c st d0 d1 :=
  histDone_same (s := setQueue (hostWrite s (.completion (base + 32 * q.cqTail) { r with phase := q.phase, sqHead := q.head }))
      { q with cqTail := (q.cqTail + 1) % 2 ^ q.log2, phase := if (q.cqTail + 1) % 2 ^ q.log2 = 0 then !q.phase else q.phase })
    (histDone_setQueue (histDone_same h rfl) (h q hq)) rfl

theorem histDone_postCompletion {s : State} {c : HostCmd} {st d0 d1 : Nat} (base : Nat) (r : Completion)
    (h : HistDone s c st d0 d1) : HistDone (postCompletion s base r) c st d0 d1 := by
  unfold postCompletion
  split
  · exact h
  · rename_i q hq
    split
    · exact h
    · split
      · exact histDone_setQueue h (h q (queueOf_mem hq))
      · exact histDone_writeCompletion q base r h (queueOf_mem hq)

theorem histDone_adminCheck {s : State} {c : HostCmd} {st d0 d1 : Nat} (h : HistDone s c st d0 d1) :
    HistDone (adminCheck s) c st d0 d1 := by
  unfold adminCheck
  split
  · intro q hq
    simp only [startAdmin, setHif, List.mem_append, List.mem_singleton] at hq
    rcases hq with hq | rfl
    · exact h q (List.mem_filter.mp hq).1
    · intro _ _ e he
      simp [freshQueue] at he
  · exact h

theorem histDone_foldl {α : Type} {c : HostCmd} {st d0 d1 : Nat} {f : State → α → State}
    (hf : ∀ t x, HistDone t c st d0 d1 → HistDone (f t x) c st d0 d1) :
    ∀ (l : List α) (s : State), HistDone s c st d0 d1 → HistDone (l.foldl f s) c st d0 d1
  | [], _, h => h
  | x :: l, s, h => histDone_foldl hf l (f s x) (hf s x h)

theorem histSet_done {hs : List HistEntry} {n : Nat} {d : Option (Nat × Nat × Nat)} {e : HistEntry}
    (he : e ∈ histSet hs n d) (hn : e.ident = n) : e.done = d := by
  simp only [histSet, List.mem_map] at he
  obtain ⟨y, _, rfl⟩ := he
  by_cases h : y.ident = n
  · simp [h]
  · simp [h] at hn

theorem histDone_remember (s : State) (c : HostCmd) (st d0 d1 : Nat) : HistDone (remember s c (some (st, d0, d1))) c st d0 d1 := by
  unfold remember
  split
  · rename_i hq
    intro q hm h1 h2
    have := List.find?_eq_none.mp hq q hm
    simp [h1, h2] at this
  · rename_i q hq
    obtain ⟨k1, k2⟩ := queueOf_fn hq
    intro y hy
    simp only [setQueue, setHif, List.mem_map] at hy
    obtain ⟨z, hz, rfl⟩ := hy
    split
    · exact fun _ _ e he hid => histSet_done he hid
    · rename_i hn
      intro h1 h2
      simp [k1, k2, h1, h2] at hn

theorem histDone_recorded (s : State) (c : HostCmd) (st d0 d1 : Nat) : HistDone (recorded s c st d0 d1) c st d0 d1 :=
  histDone_postCompletion _ _ (histDone_remember (unrun s c) c st d0 d1)

theorem histDone_postDuplicate {c : HostCmd} {st d0 d1 : Nat} (st' e0 e1 : Nat) (s : State) (d : HostCmd)
    (h : HistDone s c st d0 d1) : HistDone (postDuplicate st' e0 e1 s d) c st d0 d1 :=
  histDone_same (histDone_postCompletion d.cqBase (completionOf d 1 st' e0 e1) h) rfl

/-! ### Running commands -/

theorem running_postCompletion (s : State) (base : Nat) (c : Completion) :
    (postCompletion s base c).hif.running = s.hif.running := by
  unfold postCompletion
  split
  · rfl
  · split
    · rfl
    · split <;> rfl

theorem running_remember (s : State) (c : HostCmd) (d : Option (Nat × Nat × Nat)) :
    (remember s c d).hif.running = s.hif.running := by
  unfold remember
  split <;> rfl

theorem running_recorded (s : State) (c : HostCmd) (st d0 d1 : Nat) :
    (recorded s c st d0 d1).hif.running = s.hif.running.filter (· != c) :=
  (running_postCompletion _ _ _).trans (running_remember (unrun s c) c _)

theorem running_adminCheck (s : State) : (adminCheck s).hif.running = s.hif.running := by
  unfold adminCheck; split <;> rfl

theorem running_foldl_postDuplicate (st d0 d1 : Nat) (l : List HostCmd) (s : State) :
    (l.foldl (postDuplicate st d0 d1) s).hif.running = s.hif.running := by
  induction l generalizing s with
  | nil => rfl
  | cons d l ih => exact (ih _).trans (running_postCompletion s d.cqBase _)

/-- A command that ends with any status but ABORTED_BY_RESET has ended. -/
theorem ended_finish (s : State) (c : HostCmd) {st : Nat} (d0 d1 : Nat) (hst : st ≠ 0x30) : Ended (finish s c st d0 d1) c st d0 d1 := by
  unfold finish
  dsimp only
  rw [if_neg hst]
  refine ⟨?_, histDone_adminCheck (histDone_foldl (histDone_postDuplicate st d0 d1) _ _
    (histDone_same (histDone_recorded s c st d0 d1) rfl))⟩
  rw [running_adminCheck, running_foldl_postDuplicate]
  show c ∉ (recorded s c st d0 d1).hif.running
  rw [running_recorded]
  simp

/-- The end of a command from a state: what EndsIn asks of it. -/
theorem finish_ends (s : State) (c : HostCmd) {st : Nat} (d0 d1 : Nat) (hst : st ≠ 0x30) :
    Ended (finish s c st d0 d1) c st d0 d1 ∧ OnlyEnds s (finish s c st d0 d1) c.fn :=
  ⟨ended_finish s c d0 d1 hst, (ends_finish s c st d0 d1).onlyEnds⟩

/-- A command of a slot whose body ends it: DONE. -/
theorem endsIn_done {i : Instr} {s e : State} {c : HostCmd} (h : exec i s = .next (done e c)) : EndsIn i s c 0 0 0 e :=
  ⟨_, h, finish_ends e c 0 0 (by decide)⟩

/-- A command of a slot that ends refused. -/
theorem endsIn_finish {i : Instr} {s e : State} {c : HostCmd} {st d0 d1 : Nat} (h : exec i s = .next (finish e c st d0 d1))
    (hst : st ≠ 0x30) : EndsIn i s c st d0 d1 e := ⟨_, h, finish_ends e c d0 d1 hst⟩

/-! ### Messages -/

theorem receiveWith_accepted {s : State} {h : MsgHdr} (ha : Accepted s h) (accept again : State → State) :
    receiveWith s h accept again = ackAt (accept (noted s h)) h h.sequence := by
  obtain ⟨h1, h0, h2, h3, h4, h5, h6⟩ := ha
  unfold receiveWith noted
  have hle : ¬(h.sequence ≤ markOf s (streamOf h)) := by omega
  have hp : ¬(h.dstPoint > 0x1C) := by omega
  cases hj : s.job.running
  · simp [h1, h2, h3, h4 hj, h6, hp]
  · simp [h1, h2, h3, (h5 hj).1, (h5 hj).2, h6, hp]

theorem receive_accepted {s : State} {h : MsgHdr} (ha : Accepted s h) (accept : State → State) :
    receive s h accept = ackAt (accept (noted s h)) h h.sequence := receiveWith_accepted ha accept id

theorem takes_of_receive {i : Instr} {s : State} {h : MsgHdr} {f : State → State} {Q : State → Prop} (ha : Accepted s h)
    (hi : exec i s = .next (receive s h f)) (hq : Q (f (noted s h))) : Takes i s h Q :=
  ⟨_, hi, f (noted s h), receive_accepted ha f, hq⟩

end Sys2Proof.Machine
end

