-- ==== Sys2Proof/Laws/Kept.lean ====
section
/-! SUPPORT. Kept: what every operation of the block leaves alone, and one lemma per operation. -/

namespace Sys2Proof.Laws

open Sys2Proof Sys2Proof.Machine

/-- The queue of waiting commands and the part stay, and memory keeps its canonical form. -/
structure Kept (a b : State) : Prop where
  pending : b.pending = a.pending
  part : b.part = a.part
  mem : Memory.wf a.mem = true → Memory.wf b.mem = true

theorem kept_refl (a : State) : Kept a a := ⟨rfl, rfl, id⟩

theorem kept_same {z a b : State} (h : Kept z a) (hq : b.pending = a.pending) (hp : b.part = a.part) (hm : b.mem = a.mem) : Kept z b :=
  ⟨hq.trans h.pending, hp.trans h.part, fun w => hm ▸ h.mem w⟩

theorem kept_mk {z a : State} (tick : Nat) (freeCtr : Nat) (regs : List (Nat × W32)) (latch : List (Nat × W32)) (replies : List Reply) (hostOut : List HostWrite) (gddr : Gddr) (hif : Hif) (links : List (Nat × Link)) (twin : Twin) (col : Col) (job : Job) (tables : Tables) (scaling : List (Nat × ScaleRec)) (outliers : List (Nat × Outliers)) (grade : Gradebook) (kvp : Kvp) (att : List AttJob) (decodes : List DecodeJob) (cores : Cores) (pwr : Pwr) (rel : Rel) (boot : Boot) (undo : List UndoImage)
    (h : Kept z a) : Kept z (State.mk a.pending a.part tick freeCtr regs latch replies hostOut a.mem gddr hif links twin col job tables scaling outliers grade kvp att decodes cores pwr rel boot undo) := ⟨h.pending, h.part, h.mem⟩

theorem kept_foldl {α : Type} {z : State} {f : State → α → State} (hf : ∀ t x, Kept z t → Kept z (f t x)) :
    ∀ (l : List α) (s : State), Kept z s → Kept z (l.foldl f s)
  | [], _, h => h
  | x :: l, s, h => kept_foldl hf l (f s x) (hf s x h)

theorem kept_foldl_fst {α β : Type} {z : State} {f : State × β → α → State × β} (hf : ∀ q x, Kept z q.1 → Kept z (f q x).1) :
    ∀ (l : List α) (q : State × β), Kept z q.1 → Kept z (l.foldl f q).1
  | [], _, h => h
  | x :: l, q, h => kept_foldl_fst hf l (f q x) (hf q x h)

end Sys2Proof.Laws
end

