-- ==== Sys2Proof/Laws/State.lean ====
section
/-! SUPPORT. What each update of State leaves in each field, true by unfolding: one lemma per field and update. -/

namespace Sys2Proof.Laws

open Sys2Proof Sys2Proof.Machine

/-! ### setHif -/

@[simp] theorem setHif_pending (s : State) (f : Hif → Hif) : (setHif s f).pending = s.pending := rfl
@[simp] theorem setHif_part (s : State) (f : Hif → Hif) : (setHif s f).part = s.part := rfl
@[simp] theorem setHif_tick (s : State) (f : Hif → Hif) : (setHif s f).tick = s.tick := rfl
@[simp] theorem setHif_freeCtr (s : State) (f : Hif → Hif) : (setHif s f).freeCtr = s.freeCtr := rfl
@[simp] theorem setHif_regs (s : State) (f : Hif → Hif) : (setHif s f).regs = s.regs := rfl
@[simp] theorem setHif_latch (s : State) (f : Hif → Hif) : (setHif s f).latch = s.latch := rfl
@[simp] theorem setHif_replies (s : State) (f : Hif → Hif) : (setHif s f).replies = s.replies := rfl
@[simp] theorem setHif_hostOut (s : State) (f : Hif → Hif) : (setHif s f).hostOut = s.hostOut := rfl
@[simp] theorem setHif_mem (s : State) (f : Hif → Hif) : (setHif s f).mem = s.mem := rfl
@[simp] theorem setHif_gddr (s : State) (f : Hif → Hif) : (setHif s f).gddr = s.gddr := rfl
@[simp] theorem setHif_hif (s : State) (f : Hif → Hif) : (setHif s f).hif = f s.hif := rfl
@[simp] theorem setHif_links (s : State) (f : Hif → Hif) : (setHif s f).links = s.links := rfl
@[simp] theorem setHif_twin (s : State) (f : Hif → Hif) : (setHif s f).twin = s.twin := rfl
@[simp] theorem setHif_col (s : State) (f : Hif → Hif) : (setHif s f).col = s.col := rfl
@[simp] theorem setHif_job (s : State) (f : Hif → Hif) : (setHif s f).job = s.job := rfl
@[simp] theorem setHif_tables (s : State) (f : Hif → Hif) : (setHif s f).tables = s.tables := rfl
@[simp] theorem setHif_scaling (s : State) (f : Hif → Hif) : (setHif s f).scaling = s.scaling := rfl
@[simp] theorem setHif_outliers (s : State) (f : Hif → Hif) : (setHif s f).outliers = s.outliers := rfl
@[simp] theorem setHif_grade (s : State) (f : Hif → Hif) : (setHif s f).grade = s.grade := rfl
@[simp] theorem setHif_kvp (s : State) (f : Hif → Hif) : (setHif s f).kvp = s.kvp := rfl
@[simp] theorem setHif_att (s : State) (f : Hif → Hif) : (setHif s f).att = s.att := rfl
@[simp] theorem setHif_decodes (s : State) (f : Hif → Hif) : (setHif s f).decodes = s.decodes := rfl
@[simp] theorem setHif_cores (s : State) (f : Hif → Hif) : (setHif s f).cores = s.cores := rfl
@[simp] theorem setHif_pwr (s : State) (f : Hif → Hif) : (setHif s f).pwr = s.pwr := rfl
@[simp] theorem setHif_rel (s : State) (f : Hif → Hif) : (setHif s f).rel = s.rel := rfl
@[simp] theorem setHif_boot (s : State) (f : Hif → Hif) : (setHif s f).boot = s.boot := rfl
@[simp] theorem setHif_undo (s : State) (f : Hif → Hif) : (setHif s f).undo = s.undo := rfl

/-! ### setJob -/

@[simp] theorem setJob_pending (s : State) (f : Job → Job) : (setJob s f).pending = s.pending := rfl
@[simp] theorem setJob_part (s : State) (f : Job → Job) : (setJob s f).part = s.part := rfl
@[simp] theorem setJob_tick (s : State) (f : Job → Job) : (setJob s f).tick = s.tick := rfl
@[simp] theorem setJob_freeCtr (s : State) (f : Job → Job) : (setJob s f).freeCtr = s.freeCtr := rfl
@[simp] theorem setJob_regs (s : State) (f : Job → Job) : (setJob s f).regs = s.regs := rfl
@[simp] theorem setJob_latch (s : State) (f : Job → Job) : (setJob s f).latch = s.latch := rfl
@[simp] theorem setJob_replies (s : State) (f : Job → Job) : (setJob s f).replies = s.replies := rfl
@[simp] theorem setJob_hostOut (s : State) (f : Job → Job) : (setJob s f).hostOut = s.hostOut := rfl
@[simp] theorem setJob_mem (s : State) (f : Job → Job) : (setJob s f).mem = s.mem := rfl
@[simp] theorem setJob_gddr (s : State) (f : Job → Job) : (setJob s f).gddr = s.gddr := rfl
@[simp] theorem setJob_hif (s : State) (f : Job → Job) : (setJob s f).hif = s.hif := rfl
@[simp] theorem setJob_links (s : State) (f : Job → Job) : (setJob s f).links = s.links := rfl
@[simp] theorem setJob_twin (s : State) (f : Job → Job) : (setJob s f).twin = s.twin := rfl
@[simp] theorem setJob_col (s : State) (f : Job → Job) : (setJob s f).col = s.col := rfl
@[simp] theorem setJob_job (s : State) (f : Job → Job) : (setJob s f).job = f s.job := rfl
@[simp] theorem setJob_tables (s : State) (f : Job → Job) : (setJob s f).tables = s.tables := rfl
@[simp] theorem setJob_scaling (s : State) (f : Job → Job) : (setJob s f).scaling = s.scaling := rfl
@[simp] theorem setJob_outliers (s : State) (f : Job → Job) : (setJob s f).outliers = s.outliers := rfl
@[simp] theorem setJob_grade (s : State) (f : Job → Job) : (setJob s f).grade = s.grade := rfl
@[simp] theorem setJob_kvp (s : State) (f : Job → Job) : (setJob s f).kvp = s.kvp := rfl
@[simp] theorem setJob_att (s : State) (f : Job → Job) : (setJob s f).att = s.att := rfl
@[simp] theorem setJob_decodes (s : State) (f : Job → Job) : (setJob s f).decodes = s.decodes := rfl
@[simp] theorem setJob_cores (s : State) (f : Job → Job) : (setJob s f).cores = s.cores := rfl
@[simp] theorem setJob_pwr (s : State) (f : Job → Job) : (setJob s f).pwr = s.pwr := rfl
@[simp] theorem setJob_rel (s : State) (f : Job → Job) : (setJob s f).rel = s.rel := rfl
@[simp] theorem setJob_boot (s : State) (f : Job → Job) : (setJob s f).boot = s.boot := rfl
@[simp] theorem setJob_undo (s : State) (f : Job → Job) : (setJob s f).undo = s.undo := rfl

/-! ### setTables -/

@[simp] theorem setTables_pending (s : State) (f : Tables → Tables) : (setTables s f).pending = s.pending := rfl
@[simp] theorem setTables_part (s : State) (f : Tables → Tables) : (setTables s f).part = s.part := rfl
@[simp] theorem setTables_tick (s : State) (f : Tables → Tables) : (setTables s f).tick = s.tick := rfl
@[simp] theorem setTables_freeCtr (s : State) (f : Tables → Tables) : (setTables s f).freeCtr = s.freeCtr := rfl
@[simp] theorem setTables_regs (s : State) (f : Tables → Tables) : (setTables s f).regs = s.regs := rfl
@[simp] theorem setTables_latch (s : State) (f : Tables → Tables) : (setTables s f).latch = s.latch := rfl
@[simp] theorem setTables_replies (s : State) (f : Tables → Tables) : (setTables s f).replies = s.replies := rfl
@[simp] theorem setTables_hostOut (s : State) (f : Tables → Tables) : (setTables s f).hostOut = s.hostOut := rfl
@[simp] theorem setTables_mem (s : State) (f : Tables → Tables) : (setTables s f).mem = s.mem := rfl
@[simp] theorem setTables_gddr (s : State) (f : Tables → Tables) : (setTables s f).gddr = s.gddr := rfl
@[simp] theorem setTables_hif (s : State) (f : Tables → Tables) : (setTables s f).hif = s.hif := rfl
@[simp] theorem setTables_links (s : State) (f : Tables → Tables) : (setTables s f).links = s.links := rfl
@[simp] theorem setTables_twin (s : State) (f : Tables → Tables) : (setTables s f).twin = s.twin := rfl
@[simp] theorem setTables_col (s : State) (f : Tables → Tables) : (setTables s f).col = s.col := rfl
@[simp] theorem setTables_job (s : State) (f : Tables → Tables) : (setTables s f).job = s.job := rfl
@[simp] theorem setTables_tables (s : State) (f : Tables → Tables) : (setTables s f).tables = f s.tables := rfl
@[simp] theorem setTables_scaling (s : State) (f : Tables → Tables) : (setTables s f).scaling = s.scaling := rfl
@[simp] theorem setTables_outliers (s : State) (f : Tables → Tables) : (setTables s f).outliers = s.outliers := rfl
@[simp] theorem setTables_grade (s : State) (f : Tables → Tables) : (setTables s f).grade = s.grade := rfl
@[simp] theorem setTables_kvp (s : State) (f : Tables → Tables) : (setTables s f).kvp = s.kvp := rfl
@[simp] theorem setTables_att (s : State) (f : Tables → Tables) : (setTables s f).att = s.att := rfl
@[simp] theorem setTables_decodes (s : State) (f : Tables → Tables) : (setTables s f).decodes = s.decodes := rfl
@[simp] theorem setTables_cores (s : State) (f : Tables → Tables) : (setTables s f).cores = s.cores := rfl
@[simp] theorem setTables_pwr (s : State) (f : Tables → Tables) : (setTables s f).pwr = s.pwr := rfl
@[simp] theorem setTables_rel (s : State) (f : Tables → Tables) : (setTables s f).rel = s.rel := rfl
@[simp] theorem setTables_boot (s : State) (f : Tables → Tables) : (setTables s f).boot = s.boot := rfl
@[simp] theorem setTables_undo (s : State) (f : Tables → Tables) : (setTables s f).undo = s.undo := rfl

/-! ### setCol -/

@[simp] theorem setCol_pending (s : State) (f : Col → Col) : (setCol s f).pending = s.pending := rfl
@[simp] theorem setCol_part (s : State) (f : Col → Col) : (setCol s f).part = s.part := rfl
@[simp] theorem setCol_tick (s : State) (f : Col → Col) : (setCol s f).tick = s.tick := rfl
@[simp] theorem setCol_freeCtr (s : State) (f : Col → Col) : (setCol s f).freeCtr = s.freeCtr := rfl
@[simp] theorem setCol_regs (s : State) (f : Col → Col) : (setCol s f).regs = s.regs := rfl
@[simp] theorem setCol_latch (s : State) (f : Col → Col) : (setCol s f).latch = s.latch := rfl
@[simp] theorem setCol_replies (s : State) (f : Col → Col) : (setCol s f).replies = s.replies := rfl
@[simp] theorem setCol_hostOut (s : State) (f : Col → Col) : (setCol s f).hostOut = s.hostOut := rfl
@[simp] theorem setCol_mem (s : State) (f : Col → Col) : (setCol s f).mem = s.mem := rfl
@[simp] theorem setCol_gddr (s : State) (f : Col → Col) : (setCol s f).gddr = s.gddr := rfl
@[simp] theorem setCol_hif (s : State) (f : Col → Col) : (setCol s f).hif = s.hif := rfl
@[simp] theorem setCol_links (s : State) (f : Col → Col) : (setCol s f).links = s.links := rfl
@[simp] theorem setCol_twin (s : State) (f : Col → Col) : (setCol s f).twin = s.twin := rfl
@[simp] theorem setCol_col (s : State) (f : Col → Col) : (setCol s f).col = f s.col := rfl
@[simp] theorem setCol_job (s : State) (f : Col → Col) : (setCol s f).job = s.job := rfl
@[simp] theorem setCol_tables (s : State) (f : Col → Col) : (setCol s f).tables = s.tables := rfl
@[simp] theorem setCol_scaling (s : State) (f : Col → Col) : (setCol s f).scaling = s.scaling := rfl
@[simp] theorem setCol_outliers (s : State) (f : Col → Col) : (setCol s f).outliers = s.outliers := rfl
@[simp] theorem setCol_grade (s : State) (f : Col → Col) : (setCol s f).grade = s.grade := rfl
@[simp] theorem setCol_kvp (s : State) (f : Col → Col) : (setCol s f).kvp = s.kvp := rfl
@[simp] theorem setCol_att (s : State) (f : Col → Col) : (setCol s f).att = s.att := rfl
@[simp] theorem setCol_decodes (s : State) (f : Col → Col) : (setCol s f).decodes = s.decodes := rfl
@[simp] theorem setCol_cores (s : State) (f : Col → Col) : (setCol s f).cores = s.cores := rfl
@[simp] theorem setCol_pwr (s : State) (f : Col → Col) : (setCol s f).pwr = s.pwr := rfl
@[simp] theorem setCol_rel (s : State) (f : Col → Col) : (setCol s f).rel = s.rel := rfl
@[simp] theorem setCol_boot (s : State) (f : Col → Col) : (setCol s f).boot = s.boot := rfl
@[simp] theorem setCol_undo (s : State) (f : Col → Col) : (setCol s f).undo = s.undo := rfl

/-! ### setTwin -/

@[simp] theorem setTwin_pending (s : State) (f : Twin → Twin) : (setTwin s f).pending = s.pending := rfl
@[simp] theorem setTwin_part (s : State) (f : Twin → Twin) : (setTwin s f).part = s.part := rfl
@[simp] theorem setTwin_tick (s : State) (f : Twin → Twin) : (setTwin s f).tick = s.tick := rfl
@[simp] theorem setTwin_freeCtr (s : State) (f : Twin → Twin) : (setTwin s f).freeCtr = s.freeCtr := rfl
@[simp] theorem setTwin_regs (s : State) (f : Twin → Twin) : (setTwin s f).regs = s.regs := rfl
@[simp] theorem setTwin_latch (s : State) (f : Twin → Twin) : (setTwin s f).latch = s.latch := rfl
@[simp] theorem setTwin_replies (s : State) (f : Twin → Twin) : (setTwin s f).replies = s.replies := rfl
@[simp] theorem setTwin_hostOut (s : State) (f : Twin → Twin) : (setTwin s f).hostOut = s.hostOut := rfl
@[simp] theorem setTwin_mem (s : State) (f : Twin → Twin) : (setTwin s f).mem = s.mem := rfl
@[simp] theorem setTwin_gddr (s : State) (f : Twin → Twin) : (setTwin s f).gddr = s.gddr := rfl
@[simp] theorem setTwin_hif (s : State) (f : Twin → Twin) : (setTwin s f).hif = s.hif := rfl
@[simp] theorem setTwin_links (s : State) (f : Twin → Twin) : (setTwin s f).links = s.links := rfl
@[simp] theorem setTwin_twin (s : State) (f : Twin → Twin) : (setTwin s f).twin = f s.twin := rfl
@[simp] theorem setTwin_col (s : State) (f : Twin → Twin) : (setTwin s f).col = s.col := rfl
@[simp] theorem setTwin_job (s : State) (f : Twin → Twin) : (setTwin s f).job = s.job := rfl
@[simp] theorem setTwin_tables (s : State) (f : Twin → Twin) : (setTwin s f).tables = s.tables := rfl
@[simp] theorem setTwin_scaling (s : State) (f : Twin → Twin) : (setTwin s f).scaling = s.scaling := rfl
@[simp] theorem setTwin_outliers (s : State) (f : Twin → Twin) : (setTwin s f).outliers = s.outliers := rfl
@[simp] theorem setTwin_grade (s : State) (f : Twin → Twin) : (setTwin s f).grade = s.grade := rfl
@[simp] theorem setTwin_kvp (s : State) (f : Twin → Twin) : (setTwin s f).kvp = s.kvp := rfl
@[simp] theorem setTwin_att (s : State) (f : Twin → Twin) : (setTwin s f).att = s.att := rfl
@[simp] theorem setTwin_decodes (s : State) (f : Twin → Twin) : (setTwin s f).decodes = s.decodes := rfl
@[simp] theorem setTwin_cores (s : State) (f : Twin → Twin) : (setTwin s f).cores = s.cores := rfl
@[simp] theorem setTwin_pwr (s : State) (f : Twin → Twin) : (setTwin s f).pwr = s.pwr := rfl
@[simp] theorem setTwin_rel (s : State) (f : Twin → Twin) : (setTwin s f).rel = s.rel := rfl
@[simp] theorem setTwin_boot (s : State) (f : Twin → Twin) : (setTwin s f).boot = s.boot := rfl
@[simp] theorem setTwin_undo (s : State) (f : Twin → Twin) : (setTwin s f).undo = s.undo := rfl

/-! ### setPwr -/

@[simp] theorem setPwr_pending (s : State) (f : Pwr → Pwr) : (setPwr s f).pending = s.pending := rfl
@[simp] theorem setPwr_part (s : State) (f : Pwr → Pwr) : (setPwr s f).part = s.part := rfl
@[simp] theorem setPwr_tick (s : State) (f : Pwr → Pwr) : (setPwr s f).tick = s.tick := rfl
@[simp] theorem setPwr_freeCtr (s : State) (f : Pwr → Pwr) : (setPwr s f).freeCtr = s.freeCtr := rfl
@[simp] theorem setPwr_regs (s : State) (f : Pwr → Pwr) : (setPwr s f).regs = s.regs := rfl
@[simp] theorem setPwr_latch (s : State) (f : Pwr → Pwr) : (setPwr s f).latch = s.latch := rfl
@[simp] theorem setPwr_replies (s : State) (f : Pwr → Pwr) : (setPwr s f).replies = s.replies := rfl
@[simp] theorem setPwr_hostOut (s : State) (f : Pwr → Pwr) : (setPwr s f).hostOut = s.hostOut := rfl
@[simp] theorem setPwr_mem (s : State) (f : Pwr → Pwr) : (setPwr s f).mem = s.mem := rfl
@[simp] theorem setPwr_gddr (s : State) (f : Pwr → Pwr) : (setPwr s f).gddr = s.gddr := rfl
@[simp] theorem setPwr_hif (s : State) (f : Pwr → Pwr) : (setPwr s f).hif = s.hif := rfl
@[simp] theorem setPwr_links (s : State) (f : Pwr → Pwr) : (setPwr s f).links = s.links := rfl
@[simp] theorem setPwr_twin (s : State) (f : Pwr → Pwr) : (setPwr s f).twin = s.twin := rfl
@[simp] theorem setPwr_col (s : State) (f : Pwr → Pwr) : (setPwr s f).col = s.col := rfl
@[simp] theorem setPwr_job (s : State) (f : Pwr → Pwr) : (setPwr s f).job = s.job := rfl
@[simp] theorem setPwr_tables (s : State) (f : Pwr → Pwr) : (setPwr s f).tables = s.tables := rfl
@[simp] theorem setPwr_scaling (s : State) (f : Pwr → Pwr) : (setPwr s f).scaling = s.scaling := rfl
@[simp] theorem setPwr_outliers (s : State) (f : Pwr → Pwr) : (setPwr s f).outliers = s.outliers := rfl
@[simp] theorem setPwr_grade (s : State) (f : Pwr → Pwr) : (setPwr s f).grade = s.grade := rfl
@[simp] theorem setPwr_kvp (s : State) (f : Pwr → Pwr) : (setPwr s f).kvp = s.kvp := rfl
@[simp] theorem setPwr_att (s : State) (f : Pwr → Pwr) : (setPwr s f).att = s.att := rfl
@[simp] theorem setPwr_decodes (s : State) (f : Pwr → Pwr) : (setPwr s f).decodes = s.decodes := rfl
@[simp] theorem setPwr_cores (s : State) (f : Pwr → Pwr) : (setPwr s f).cores = s.cores := rfl
@[simp] theorem setPwr_pwr (s : State) (f : Pwr → Pwr) : (setPwr s f).pwr = f s.pwr := rfl
@[simp] theorem setPwr_rel (s : State) (f : Pwr → Pwr) : (setPwr s f).rel = s.rel := rfl
@[simp] theorem setPwr_boot (s : State) (f : Pwr → Pwr) : (setPwr s f).boot = s.boot := rfl
@[simp] theorem setPwr_undo (s : State) (f : Pwr → Pwr) : (setPwr s f).undo = s.undo := rfl

/-! ### setGddr -/

@[simp] theorem setGddr_pending (s : State) (f : Gddr → Gddr) : (setGddr s f).pending = s.pending := rfl
@[simp] theorem setGddr_part (s : State) (f : Gddr → Gddr) : (setGddr s f).part = s.part := rfl
@[simp] theorem setGddr_tick (s : State) (f : Gddr → Gddr) : (setGddr s f).tick = s.tick := rfl
@[simp] theorem setGddr_freeCtr (s : State) (f : Gddr → Gddr) : (setGddr s f).freeCtr = s.freeCtr := rfl
@[simp] theorem setGddr_regs (s : State) (f : Gddr → Gddr) : (setGddr s f).regs = s.regs := rfl
@[simp] theorem setGddr_latch (s : State) (f : Gddr → Gddr) : (setGddr s f).latch = s.latch := rfl
@[simp] theorem setGddr_replies (s : State) (f : Gddr → Gddr) : (setGddr s f).replies = s.replies := rfl
@[simp] theorem setGddr_hostOut (s : State) (f : Gddr → Gddr) : (setGddr s f).hostOut = s.hostOut := rfl
@[simp] theorem setGddr_mem (s : State) (f : Gddr → Gddr) : (setGddr s f).mem = s.mem := rfl
@[simp] theorem setGddr_gddr (s : State) (f : Gddr → Gddr) : (setGddr s f).gddr = f s.gddr := rfl
@[simp] theorem setGddr_hif (s : State) (f : Gddr → Gddr) : (setGddr s f).hif = s.hif := rfl
@[simp] theorem setGddr_links (s : State) (f : Gddr → Gddr) : (setGddr s f).links = s.links := rfl
@[simp] theorem setGddr_twin (s : State) (f : Gddr → Gddr) : (setGddr s f).twin = s.twin := rfl
@[simp] theorem setGddr_col (s : State) (f : Gddr → Gddr) : (setGddr s f).col = s.col := rfl
@[simp] theorem setGddr_job (s : State) (f : Gddr → Gddr) : (setGddr s f).job = s.job := rfl
@[simp] theorem setGddr_tables (s : State) (f : Gddr → Gddr) : (setGddr s f).tables = s.tables := rfl
@[simp] theorem setGddr_scaling (s : State) (f : Gddr → Gddr) : (setGddr s f).scaling = s.scaling := rfl
@[simp] theorem setGddr_outliers (s : State) (f : Gddr → Gddr) : (setGddr s f).outliers = s.outliers := rfl
@[simp] theorem setGddr_grade (s : State) (f : Gddr → Gddr) : (setGddr s f).grade = s.grade := rfl
@[simp] theorem setGddr_kvp (s : State) (f : Gddr → Gddr) : (setGddr s f).kvp = s.kvp := rfl
@[simp] theorem setGddr_att (s : State) (f : Gddr → Gddr) : (setGddr s f).att = s.att := rfl
@[simp] theorem setGddr_decodes (s : State) (f : Gddr → Gddr) : (setGddr s f).decodes = s.decodes := rfl
@[simp] theorem setGddr_cores (s : State) (f : Gddr → Gddr) : (setGddr s f).cores = s.cores := rfl
@[simp] theorem setGddr_pwr (s : State) (f : Gddr → Gddr) : (setGddr s f).pwr = s.pwr := rfl
@[simp] theorem setGddr_rel (s : State) (f : Gddr → Gddr) : (setGddr s f).rel = s.rel := rfl
@[simp] theorem setGddr_boot (s : State) (f : Gddr → Gddr) : (setGddr s f).boot = s.boot := rfl
@[simp] theorem setGddr_undo (s : State) (f : Gddr → Gddr) : (setGddr s f).undo = s.undo := rfl

/-! ### setBoot -/

@[simp] theorem setBoot_pending (s : State) (f : Boot → Boot) : (setBoot s f).pending = s.pending := rfl
@[simp] theorem setBoot_part (s : State) (f : Boot → Boot) : (setBoot s f).part = s.part := rfl
@[simp] theorem setBoot_tick (s : State) (f : Boot → Boot) : (setBoot s f).tick = s.tick := rfl
@[simp] theorem setBoot_freeCtr (s : State) (f : Boot → Boot) : (setBoot s f).freeCtr = s.freeCtr := rfl
@[simp] theorem setBoot_regs (s : State) (f : Boot → Boot) : (setBoot s f).regs = s.regs := rfl
@[simp] theorem setBoot_latch (s : State) (f : Boot → Boot) : (setBoot s f).latch = s.latch := rfl
@[simp] theorem setBoot_replies (s : State) (f : Boot → Boot) : (setBoot s f).replies = s.replies := rfl
@[simp] theorem setBoot_hostOut (s : State) (f : Boot → Boot) : (setBoot s f).hostOut = s.hostOut := rfl
@[simp] theorem setBoot_mem (s : State) (f : Boot → Boot) : (setBoot s f).mem = s.mem := rfl
@[simp] theorem setBoot_gddr (s : State) (f : Boot → Boot) : (setBoot s f).gddr = s.gddr := rfl
@[simp] theorem setBoot_hif (s : State) (f : Boot → Boot) : (setBoot s f).hif = s.hif := rfl
@[simp] theorem setBoot_links (s : State) (f : Boot → Boot) : (setBoot s f).links = s.links := rfl
@[simp] theorem setBoot_twin (s : State) (f : Boot → Boot) : (setBoot s f).twin = s.twin := rfl
@[simp] theorem setBoot_col (s : State) (f : Boot → Boot) : (setBoot s f).col = s.col := rfl
@[simp] theorem setBoot_job (s : State) (f : Boot → Boot) : (setBoot s f).job = s.job := rfl
@[simp] theorem setBoot_tables (s : State) (f : Boot → Boot) : (setBoot s f).tables = s.tables := rfl
@[simp] theorem setBoot_scaling (s : State) (f : Boot → Boot) : (setBoot s f).scaling = s.scaling := rfl
@[simp] theorem setBoot_outliers (s : State) (f : Boot → Boot) : (setBoot s f).outliers = s.outliers := rfl
@[simp] theorem setBoot_grade (s : State) (f : Boot → Boot) : (setBoot s f).grade = s.grade := rfl
@[simp] theorem setBoot_kvp (s : State) (f : Boot → Boot) : (setBoot s f).kvp = s.kvp := rfl
@[simp] theorem setBoot_att (s : State) (f : Boot → Boot) : (setBoot s f).att = s.att := rfl
@[simp] theorem setBoot_decodes (s : State) (f : Boot → Boot) : (setBoot s f).decodes = s.decodes := rfl
@[simp] theorem setBoot_cores (s : State) (f : Boot → Boot) : (setBoot s f).cores = s.cores := rfl
@[simp] theorem setBoot_pwr (s : State) (f : Boot → Boot) : (setBoot s f).pwr = s.pwr := rfl
@[simp] theorem setBoot_rel (s : State) (f : Boot → Boot) : (setBoot s f).rel = s.rel := rfl
@[simp] theorem setBoot_boot (s : State) (f : Boot → Boot) : (setBoot s f).boot = f s.boot := rfl
@[simp] theorem setBoot_undo (s : State) (f : Boot → Boot) : (setBoot s f).undo = s.undo := rfl

/-! ### setRel -/

@[simp] theorem setRel_pending (s : State) (f : Rel → Rel) : (setRel s f).pending = s.pending := rfl
@[simp] theorem setRel_part (s : State) (f : Rel → Rel) : (setRel s f).part = s.part := rfl
@[simp] theorem setRel_tick (s : State) (f : Rel → Rel) : (setRel s f).tick = s.tick := rfl
@[simp] theorem setRel_freeCtr (s : State) (f : Rel → Rel) : (setRel s f).freeCtr = s.freeCtr := rfl
@[simp] theorem setRel_regs (s : State) (f : Rel → Rel) : (setRel s f).regs = s.regs := rfl
@[simp] theorem setRel_latch (s : State) (f : Rel → Rel) : (setRel s f).latch = s.latch := rfl
@[simp] theorem setRel_replies (s : State) (f : Rel → Rel) : (setRel s f).replies = s.replies := rfl
@[simp] theorem setRel_hostOut (s : State) (f : Rel → Rel) : (setRel s f).hostOut = s.hostOut := rfl
@[simp] theorem setRel_mem (s : State) (f : Rel → Rel) : (setRel s f).mem = s.mem := rfl
@[simp] theorem setRel_gddr (s : State) (f : Rel → Rel) : (setRel s f).gddr = s.gddr := rfl
@[simp] theorem setRel_hif (s : State) (f : Rel → Rel) : (setRel s f).hif = s.hif := rfl
@[simp] theorem setRel_links (s : State) (f : Rel → Rel) : (setRel s f).links = s.links := rfl
@[simp] theorem setRel_twin (s : State) (f : Rel → Rel) : (setRel s f).twin = s.twin := rfl
@[simp] theorem setRel_col (s : State) (f : Rel → Rel) : (setRel s f).col = s.col := rfl
@[simp] theorem setRel_job (s : State) (f : Rel → Rel) : (setRel s f).job = s.job := rfl
@[simp] theorem setRel_tables (s : State) (f : Rel → Rel) : (setRel s f).tables = s.tables := rfl
@[simp] theorem setRel_scaling (s : State) (f : Rel → Rel) : (setRel s f).scaling = s.scaling := rfl
@[simp] theorem setRel_outliers (s : State) (f : Rel → Rel) : (setRel s f).outliers = s.outliers := rfl
@[simp] theorem setRel_grade (s : State) (f : Rel → Rel) : (setRel s f).grade = s.grade := rfl
@[simp] theorem setRel_kvp (s : State) (f : Rel → Rel) : (setRel s f).kvp = s.kvp := rfl
@[simp] theorem setRel_att (s : State) (f : Rel → Rel) : (setRel s f).att = s.att := rfl
@[simp] theorem setRel_decodes (s : State) (f : Rel → Rel) : (setRel s f).decodes = s.decodes := rfl
@[simp] theorem setRel_cores (s : State) (f : Rel → Rel) : (setRel s f).cores = s.cores := rfl
@[simp] theorem setRel_pwr (s : State) (f : Rel → Rel) : (setRel s f).pwr = s.pwr := rfl
@[simp] theorem setRel_rel (s : State) (f : Rel → Rel) : (setRel s f).rel = f s.rel := rfl
@[simp] theorem setRel_boot (s : State) (f : Rel → Rel) : (setRel s f).boot = s.boot := rfl
@[simp] theorem setRel_undo (s : State) (f : Rel → Rel) : (setRel s f).undo = s.undo := rfl

/-! ### setCores -/

@[simp] theorem setCores_pending (s : State) (f : Cores → Cores) : (setCores s f).pending = s.pending := rfl
@[simp] theorem setCores_part (s : State) (f : Cores → Cores) : (setCores s f).part = s.part := rfl
@[simp] theorem setCores_tick (s : State) (f : Cores → Cores) : (setCores s f).tick = s.tick := rfl
@[simp] theorem setCores_freeCtr (s : State) (f : Cores → Cores) : (setCores s f).freeCtr = s.freeCtr := rfl
@[simp] theorem setCores_regs (s : State) (f : Cores → Cores) : (setCores s f).regs = s.regs := rfl
@[simp] theorem setCores_latch (s : State) (f : Cores → Cores) : (setCores s f).latch = s.latch := rfl
@[simp] theorem setCores_replies (s : State) (f : Cores → Cores) : (setCores s f).replies = s.replies := rfl
@[simp] theorem setCores_hostOut (s : State) (f : Cores → Cores) : (setCores s f).hostOut = s.hostOut := rfl
@[simp] theorem setCores_mem (s : State) (f : Cores → Cores) : (setCores s f).mem = s.mem := rfl
@[simp] theorem setCores_gddr (s : State) (f : Cores → Cores) : (setCores s f).gddr = s.gddr := rfl
@[simp] theorem setCores_hif (s : State) (f : Cores → Cores) : (setCores s f).hif = s.hif := rfl
@[simp] theorem setCores_links (s : State) (f : Cores → Cores) : (setCores s f).links = s.links := rfl
@[simp] theorem setCores_twin (s : State) (f : Cores → Cores) : (setCores s f).twin = s.twin := rfl
@[simp] theorem setCores_col (s : State) (f : Cores → Cores) : (setCores s f).col = s.col := rfl
@[simp] theorem setCores_job (s : State) (f : Cores → Cores) : (setCores s f).job = s.job := rfl
@[simp] theorem setCores_tables (s : State) (f : Cores → Cores) : (setCores s f).tables = s.tables := rfl
@[simp] theorem setCores_scaling (s : State) (f : Cores → Cores) : (setCores s f).scaling = s.scaling := rfl
@[simp] theorem setCores_outliers (s : State) (f : Cores → Cores) : (setCores s f).outliers = s.outliers := rfl
@[simp] theorem setCores_grade (s : State) (f : Cores → Cores) : (setCores s f).grade = s.grade := rfl
@[simp] theorem setCores_kvp (s : State) (f : Cores → Cores) : (setCores s f).kvp = s.kvp := rfl
@[simp] theorem setCores_att (s : State) (f : Cores → Cores) : (setCores s f).att = s.att := rfl
@[simp] theorem setCores_decodes (s : State) (f : Cores → Cores) : (setCores s f).decodes = s.decodes := rfl
@[simp] theorem setCores_cores (s : State) (f : Cores → Cores) : (setCores s f).cores = f s.cores := rfl
@[simp] theorem setCores_pwr (s : State) (f : Cores → Cores) : (setCores s f).pwr = s.pwr := rfl
@[simp] theorem setCores_rel (s : State) (f : Cores → Cores) : (setCores s f).rel = s.rel := rfl
@[simp] theorem setCores_boot (s : State) (f : Cores → Cores) : (setCores s f).boot = s.boot := rfl
@[simp] theorem setCores_undo (s : State) (f : Cores → Cores) : (setCores s f).undo = s.undo := rfl

/-! ### setKvp -/

@[simp] theorem setKvp_pending (s : State) (f : Kvp → Kvp) : (setKvp s f).pending = s.pending := rfl
@[simp] theorem setKvp_part (s : State) (f : Kvp → Kvp) : (setKvp s f).part = s.part := rfl
@[simp] theorem setKvp_tick (s : State) (f : Kvp → Kvp) : (setKvp s f).tick = s.tick := rfl
@[simp] theorem setKvp_freeCtr (s : State) (f : Kvp → Kvp) : (setKvp s f).freeCtr = s.freeCtr := rfl
@[simp] theorem setKvp_regs (s : State) (f : Kvp → Kvp) : (setKvp s f).regs = s.regs := rfl
@[simp] theorem setKvp_latch (s : State) (f : Kvp → Kvp) : (setKvp s f).latch = s.latch := rfl
@[simp] theorem setKvp_replies (s : State) (f : Kvp → Kvp) : (setKvp s f).replies = s.replies := rfl
@[simp] theorem setKvp_hostOut (s : State) (f : Kvp → Kvp) : (setKvp s f).hostOut = s.hostOut := rfl
@[simp] theorem setKvp_mem (s : State) (f : Kvp → Kvp) : (setKvp s f).mem = s.mem := rfl
@[simp] theorem setKvp_gddr (s : State) (f : Kvp → Kvp) : (setKvp s f).gddr = s.gddr := rfl
@[simp] theorem setKvp_hif (s : State) (f : Kvp → Kvp) : (setKvp s f).hif = s.hif := rfl
@[simp] theorem setKvp_links (s : State) (f : Kvp → Kvp) : (setKvp s f).links = s.links := rfl
@[simp] theorem setKvp_twin (s : State) (f : Kvp → Kvp) : (setKvp s f).twin = s.twin := rfl
@[simp] theorem setKvp_col (s : State) (f : Kvp → Kvp) : (setKvp s f).col = s.col := rfl
@[simp] theorem setKvp_job (s : State) (f : Kvp → Kvp) : (setKvp s f).job = s.job := rfl
@[simp] theorem setKvp_tables (s : State) (f : Kvp → Kvp) : (setKvp s f).tables = s.tables := rfl
@[simp] theorem setKvp_scaling (s : State) (f : Kvp → Kvp) : (setKvp s f).scaling = s.scaling := rfl
@[simp] theorem setKvp_outliers (s : State) (f : Kvp → Kvp) : (setKvp s f).outliers = s.outliers := rfl
@[simp] theorem setKvp_grade (s : State) (f : Kvp → Kvp) : (setKvp s f).grade = s.grade := rfl
@[simp] theorem setKvp_kvp (s : State) (f : Kvp → Kvp) : (setKvp s f).kvp = f s.kvp := rfl
@[simp] theorem setKvp_att (s : State) (f : Kvp → Kvp) : (setKvp s f).att = s.att := rfl
@[simp] theorem setKvp_decodes (s : State) (f : Kvp → Kvp) : (setKvp s f).decodes = s.decodes := rfl
@[simp] theorem setKvp_cores (s : State) (f : Kvp → Kvp) : (setKvp s f).cores = s.cores := rfl
@[simp] theorem setKvp_pwr (s : State) (f : Kvp → Kvp) : (setKvp s f).pwr = s.pwr := rfl
@[simp] theorem setKvp_rel (s : State) (f : Kvp → Kvp) : (setKvp s f).rel = s.rel := rfl
@[simp] theorem setKvp_boot (s : State) (f : Kvp → Kvp) : (setKvp s f).boot = s.boot := rfl
@[simp] theorem setKvp_undo (s : State) (f : Kvp → Kvp) : (setKvp s f).undo = s.undo := rfl

/-! ### setLink -/

@[simp] theorem setLink_pending (s : State) (n : Nat) (l : Link) : (setLink s n l).pending = s.pending := rfl
@[simp] theorem setLink_part (s : State) (n : Nat) (l : Link) : (setLink s n l).part = s.part := rfl
@[simp] theorem setLink_tick (s : State) (n : Nat) (l : Link) : (setLink s n l).tick = s.tick := rfl
@[simp] theorem setLink_freeCtr (s : State) (n : Nat) (l : Link) : (setLink s n l).freeCtr = s.freeCtr := rfl
@[simp] theorem setLink_regs (s : State) (n : Nat) (l : Link) : (setLink s n l).regs = s.regs := rfl
@[simp] theorem setLink_latch (s : State) (n : Nat) (l : Link) : (setLink s n l).latch = s.latch := rfl
@[simp] theorem setLink_replies (s : State) (n : Nat) (l : Link) : (setLink s n l).replies = s.replies := rfl
@[simp] theorem setLink_hostOut (s : State) (n : Nat) (l : Link) : (setLink s n l).hostOut = s.hostOut := rfl
@[simp] theorem setLink_mem (s : State) (n : Nat) (l : Link) : (setLink s n l).mem = s.mem := rfl
@[simp] theorem setLink_gddr (s : State) (n : Nat) (l : Link) : (setLink s n l).gddr = s.gddr := rfl
@[simp] theorem setLink_hif (s : State) (n : Nat) (l : Link) : (setLink s n l).hif = s.hif := rfl
@[simp] theorem setLink_links (s : State) (n : Nat) (l : Link) : (setLink s n l).links = mput s.links n l := rfl
@[simp] theorem setLink_twin (s : State) (n : Nat) (l : Link) : (setLink s n l).twin = s.twin := rfl
@[simp] theorem setLink_col (s : State) (n : Nat) (l : Link) : (setLink s n l).col = s.col := rfl
@[simp] theorem setLink_job (s : State) (n : Nat) (l : Link) : (setLink s n l).job = s.job := rfl
@[simp] theorem setLink_tables (s : State) (n : Nat) (l : Link) : (setLink s n l).tables = s.tables := rfl
@[simp] theorem setLink_scaling (s : State) (n : Nat) (l : Link) : (setLink s n l).scaling = s.scaling := rfl
@[simp] theorem setLink_outliers (s : State) (n : Nat) (l : Link) : (setLink s n l).outliers = s.outliers := rfl
@[simp] theorem setLink_grade (s : State) (n : Nat) (l : Link) : (setLink s n l).grade = s.grade := rfl
@[simp] theorem setLink_kvp (s : State) (n : Nat) (l : Link) : (setLink s n l).kvp = s.kvp := rfl
@[simp] theorem setLink_att (s : State) (n : Nat) (l : Link) : (setLink s n l).att = s.att := rfl
@[simp] theorem setLink_decodes (s : State) (n : Nat) (l : Link) : (setLink s n l).decodes = s.decodes := rfl
@[simp] theorem setLink_cores (s : State) (n : Nat) (l : Link) : (setLink s n l).cores = s.cores := rfl
@[simp] theorem setLink_pwr (s : State) (n : Nat) (l : Link) : (setLink s n l).pwr = s.pwr := rfl
@[simp] theorem setLink_rel (s : State) (n : Nat) (l : Link) : (setLink s n l).rel = s.rel := rfl
@[simp] theorem setLink_boot (s : State) (n : Nat) (l : Link) : (setLink s n l).boot = s.boot := rfl
@[simp] theorem setLink_undo (s : State) (n : Nat) (l : Link) : (setLink s n l).undo = s.undo := rfl

/-! ### setAtt -/

@[simp] theorem setAtt_pending (s : State) (j : AttJob) : (setAtt s j).pending = s.pending := rfl
@[simp] theorem setAtt_part (s : State) (j : AttJob) : (setAtt s j).part = s.part := rfl
@[simp] theorem setAtt_tick (s : State) (j : AttJob) : (setAtt s j).tick = s.tick := rfl
@[simp] theorem setAtt_freeCtr (s : State) (j : AttJob) : (setAtt s j).freeCtr = s.freeCtr := rfl
@[simp] theorem setAtt_regs (s : State) (j : AttJob) : (setAtt s j).regs = s.regs := rfl
@[simp] theorem setAtt_latch (s : State) (j : AttJob) : (setAtt s j).latch = s.latch := rfl
@[simp] theorem setAtt_replies (s : State) (j : AttJob) : (setAtt s j).replies = s.replies := rfl
@[simp] theorem setAtt_hostOut (s : State) (j : AttJob) : (setAtt s j).hostOut = s.hostOut := rfl
@[simp] theorem setAtt_mem (s : State) (j : AttJob) : (setAtt s j).mem = s.mem := rfl
@[simp] theorem setAtt_gddr (s : State) (j : AttJob) : (setAtt s j).gddr = s.gddr := rfl
@[simp] theorem setAtt_hif (s : State) (j : AttJob) : (setAtt s j).hif = s.hif := rfl
@[simp] theorem setAtt_links (s : State) (j : AttJob) : (setAtt s j).links = s.links := rfl
@[simp] theorem setAtt_twin (s : State) (j : AttJob) : (setAtt s j).twin = s.twin := rfl
@[simp] theorem setAtt_col (s : State) (j : AttJob) : (setAtt s j).col = s.col := rfl
@[simp] theorem setAtt_job (s : State) (j : AttJob) : (setAtt s j).job = s.job := rfl
@[simp] theorem setAtt_tables (s : State) (j : AttJob) : (setAtt s j).tables = s.tables := rfl
@[simp] theorem setAtt_scaling (s : State) (j : AttJob) : (setAtt s j).scaling = s.scaling := rfl
@[simp] theorem setAtt_outliers (s : State) (j : AttJob) : (setAtt s j).outliers = s.outliers := rfl
@[simp] theorem setAtt_grade (s : State) (j : AttJob) : (setAtt s j).grade = s.grade := rfl
@[simp] theorem setAtt_kvp (s : State) (j : AttJob) : (setAtt s j).kvp = s.kvp := rfl
@[simp] theorem setAtt_att (s : State) (j : AttJob) : (setAtt s j).att = s.att.map fun x => if x.cmd = j.cmd then j else x := rfl
@[simp] theorem setAtt_decodes (s : State) (j : AttJob) : (setAtt s j).decodes = s.decodes := rfl
@[simp] theorem setAtt_cores (s : State) (j : AttJob) : (setAtt s j).cores = s.cores := rfl
@[simp] theorem setAtt_pwr (s : State) (j : AttJob) : (setAtt s j).pwr = s.pwr := rfl
@[simp] theorem setAtt_rel (s : State) (j : AttJob) : (setAtt s j).rel = s.rel := rfl
@[simp] theorem setAtt_boot (s : State) (j : AttJob) : (setAtt s j).boot = s.boot := rfl
@[simp] theorem setAtt_undo (s : State) (j : AttJob) : (setAtt s j).undo = s.undo := rfl

/-! ### setReg -/

@[simp] theorem setReg_pending (s : State) (b : Blk) (i off v : Nat) : (setReg s b i off v).pending = s.pending := rfl
@[simp] theorem setReg_part (s : State) (b : Blk) (i off v : Nat) : (setReg s b i off v).part = s.part := rfl
@[simp] theorem setReg_tick (s : State) (b : Blk) (i off v : Nat) : (setReg s b i off v).tick = s.tick := rfl
@[simp] theorem setReg_freeCtr (s : State) (b : Blk) (i off v : Nat) : (setReg s b i off v).freeCtr = s.freeCtr := rfl
@[simp] theorem setReg_latch (s : State) (b : Blk) (i off v : Nat) : (setReg s b i off v).latch = s.latch := rfl
@[simp] theorem setReg_replies (s : State) (b : Blk) (i off v : Nat) : (setReg s b i off v).replies = s.replies := rfl
@[simp] theorem setReg_hostOut (s : State) (b : Blk) (i off v : Nat) : (setReg s b i off v).hostOut = s.hostOut := rfl
@[simp] theorem setReg_mem (s : State) (b : Blk) (i off v : Nat) : (setReg s b i off v).mem = s.mem := rfl
@[simp] theorem setReg_gddr (s : State) (b : Blk) (i off v : Nat) : (setReg s b i off v).gddr = s.gddr := rfl
@[simp] theorem setReg_hif (s : State) (b : Blk) (i off v : Nat) : (setReg s b i off v).hif = s.hif := rfl
@[simp] theorem setReg_links (s : State) (b : Blk) (i off v : Nat) : (setReg s b i off v).links = s.links := rfl
@[simp] theorem setReg_twin (s : State) (b : Blk) (i off v : Nat) : (setReg s b i off v).twin = s.twin := rfl
@[simp] theorem setReg_col (s : State) (b : Blk) (i off v : Nat) : (setReg s b i off v).col = s.col := rfl
@[simp] theorem setReg_job (s : State) (b : Blk) (i off v : Nat) : (setReg s b i off v).job = s.job := rfl
@[simp] theorem setReg_tables (s : State) (b : Blk) (i off v : Nat) : (setReg s b i off v).tables = s.tables := rfl
@[simp] theorem setReg_scaling (s : State) (b : Blk) (i off v : Nat) : (setReg s b i off v).scaling = s.scaling := rfl
@[simp] theorem setReg_outliers (s : State) (b : Blk) (i off v : Nat) : (setReg s b i off v).outliers = s.outliers := rfl
@[simp] theorem setReg_grade (s : State) (b : Blk) (i off v : Nat) : (setReg s b i off v).grade = s.grade := rfl
@[simp] theorem setReg_kvp (s : State) (b : Blk) (i off v : Nat) : (setReg s b i off v).kvp = s.kvp := rfl
@[simp] theorem setReg_att (s : State) (b : Blk) (i off v : Nat) : (setReg s b i off v).att = s.att := rfl
@[simp] theorem setReg_decodes (s : State) (b : Blk) (i off v : Nat) : (setReg s b i off v).decodes = s.decodes := rfl
@[simp] theorem setReg_cores (s : State) (b : Blk) (i off v : Nat) : (setReg s b i off v).cores = s.cores := rfl
@[simp] theorem setReg_pwr (s : State) (b : Blk) (i off v : Nat) : (setReg s b i off v).pwr = s.pwr := rfl
@[simp] theorem setReg_rel (s : State) (b : Blk) (i off v : Nat) : (setReg s b i off v).rel = s.rel := rfl
@[simp] theorem setReg_boot (s : State) (b : Blk) (i off v : Nat) : (setReg s b i off v).boot = s.boot := rfl
@[simp] theorem setReg_undo (s : State) (b : Blk) (i off v : Nat) : (setReg s b i off v).undo = s.undo := rfl

/-! ### hostWrite -/

@[simp] theorem hostWrite_pending (s : State) (w : HostWrite) : (hostWrite s w).pending = s.pending := rfl
@[simp] theorem hostWrite_part (s : State) (w : HostWrite) : (hostWrite s w).part = s.part := rfl
@[simp] theorem hostWrite_tick (s : State) (w : HostWrite) : (hostWrite s w).tick = s.tick := rfl
@[simp] theorem hostWrite_freeCtr (s : State) (w : HostWrite) : (hostWrite s w).freeCtr = s.freeCtr := rfl
@[simp] theorem hostWrite_regs (s : State) (w : HostWrite) : (hostWrite s w).regs = s.regs := rfl
@[simp] theorem hostWrite_latch (s : State) (w : HostWrite) : (hostWrite s w).latch = s.latch := rfl
@[simp] theorem hostWrite_replies (s : State) (w : HostWrite) : (hostWrite s w).replies = s.replies := rfl
@[simp] theorem hostWrite_hostOut (s : State) (w : HostWrite) : (hostWrite s w).hostOut = s.hostOut ++ [w] := rfl
@[simp] theorem hostWrite_mem (s : State) (w : HostWrite) : (hostWrite s w).mem = s.mem := rfl
@[simp] theorem hostWrite_gddr (s : State) (w : HostWrite) : (hostWrite s w).gddr = s.gddr := rfl
@[simp] theorem hostWrite_hif (s : State) (w : HostWrite) : (hostWrite s w).hif = s.hif := rfl
@[simp] theorem hostWrite_links (s : State) (w : HostWrite) : (hostWrite s w).links = s.links := rfl
@[simp] theorem hostWrite_twin (s : State) (w : HostWrite) : (hostWrite s w).twin = s.twin := rfl
@[simp] theorem hostWrite_col (s : State) (w : HostWrite) : (hostWrite s w).col = s.col := rfl
@[simp] theorem hostWrite_job (s : State) (w : HostWrite) : (hostWrite s w).job = s.job := rfl
@[simp] theorem hostWrite_tables (s : State) (w : HostWrite) : (hostWrite s w).tables = s.tables := rfl
@[simp] theorem hostWrite_scaling (s : State) (w : HostWrite) : (hostWrite s w).scaling = s.scaling := rfl
@[simp] theorem hostWrite_outliers (s : State) (w : HostWrite) : (hostWrite s w).outliers = s.outliers := rfl
@[simp] theorem hostWrite_grade (s : State) (w : HostWrite) : (hostWrite s w).grade = s.grade := rfl
@[simp] theorem hostWrite_kvp (s : State) (w : HostWrite) : (hostWrite s w).kvp = s.kvp := rfl
@[simp] theorem hostWrite_att (s : State) (w : HostWrite) : (hostWrite s w).att = s.att := rfl
@[simp] theorem hostWrite_decodes (s : State) (w : HostWrite) : (hostWrite s w).decodes = s.decodes := rfl
@[simp] theorem hostWrite_cores (s : State) (w : HostWrite) : (hostWrite s w).cores = s.cores := rfl
@[simp] theorem hostWrite_pwr (s : State) (w : HostWrite) : (hostWrite s w).pwr = s.pwr := rfl
@[simp] theorem hostWrite_rel (s : State) (w : HostWrite) : (hostWrite s w).rel = s.rel := rfl
@[simp] theorem hostWrite_boot (s : State) (w : HostWrite) : (hostWrite s w).boot = s.boot := rfl
@[simp] theorem hostWrite_undo (s : State) (w : HostWrite) : (hostWrite s w).undo = s.undo := rfl

/-! ### reply -/

@[simp] theorem reply_pending (s : State) (r : Reply) : (reply s r).pending = s.pending := rfl
@[simp] theorem reply_part (s : State) (r : Reply) : (reply s r).part = s.part := rfl
@[simp] theorem reply_tick (s : State) (r : Reply) : (reply s r).tick = s.tick := rfl
@[simp] theorem reply_freeCtr (s : State) (r : Reply) : (reply s r).freeCtr = s.freeCtr := rfl
@[simp] theorem reply_regs (s : State) (r : Reply) : (reply s r).regs = s.regs := rfl
@[simp] theorem reply_latch (s : State) (r : Reply) : (reply s r).latch = s.latch := rfl
@[simp] theorem reply_replies (s : State) (r : Reply) : (reply s r).replies = s.replies ++ [r] := rfl
@[simp] theorem reply_hostOut (s : State) (r : Reply) : (reply s r).hostOut = s.hostOut := rfl
@[simp] theorem reply_mem (s : State) (r : Reply) : (reply s r).mem = s.mem := rfl
@[simp] theorem reply_gddr (s : State) (r : Reply) : (reply s r).gddr = s.gddr := rfl
@[simp] theorem reply_hif (s : State) (r : Reply) : (reply s r).hif = s.hif := rfl
@[simp] theorem reply_links (s : State) (r : Reply) : (reply s r).links = s.links := rfl
@[simp] theorem reply_twin (s : State) (r : Reply) : (reply s r).twin = s.twin := rfl
@[simp] theorem reply_col (s : State) (r : Reply) : (reply s r).col = s.col := rfl
@[simp] theorem reply_job (s : State) (r : Reply) : (reply s r).job = s.job := rfl
@[simp] theorem reply_tables (s : State) (r : Reply) : (reply s r).tables = s.tables := rfl
@[simp] theorem reply_scaling (s : State) (r : Reply) : (reply s r).scaling = s.scaling := rfl
@[simp] theorem reply_outliers (s : State) (r : Reply) : (reply s r).outliers = s.outliers := rfl
@[simp] theorem reply_grade (s : State) (r : Reply) : (reply s r).grade = s.grade := rfl
@[simp] theorem reply_kvp (s : State) (r : Reply) : (reply s r).kvp = s.kvp := rfl
@[simp] theorem reply_att (s : State) (r : Reply) : (reply s r).att = s.att := rfl
@[simp] theorem reply_decodes (s : State) (r : Reply) : (reply s r).decodes = s.decodes := rfl
@[simp] theorem reply_cores (s : State) (r : Reply) : (reply s r).cores = s.cores := rfl
@[simp] theorem reply_pwr (s : State) (r : Reply) : (reply s r).pwr = s.pwr := rfl
@[simp] theorem reply_rel (s : State) (r : Reply) : (reply s r).rel = s.rel := rfl
@[simp] theorem reply_boot (s : State) (r : Reply) : (reply s r).boot = s.boot := rfl
@[simp] theorem reply_undo (s : State) (r : Reply) : (reply s r).undo = s.undo := rfl

/-! ### Updates of one field, said once -/

theorem setField_only (s : State) (b : Blk) (i off lo w v : Nat) : setField s b i off lo w v = { s with regs := (setField s b i off lo w v).regs } := rfl
theorem bump_only (s : State) (b : Blk) (i off lo w n : Nat) : bump s b i off lo w n = { s with regs := (bump s b i off lo w n).regs } := rfl
theorem bumpWrap_only (s : State) (b : Blk) (i off n : Nat) : bumpWrap s b i off n = { s with regs := (bumpWrap s b i off n).regs } := rfl
theorem bump64_only (s : State) (b : Blk) (i off n : Nat) : bump64 s b i off n = { s with regs := (bump64 s b i off n).regs } := rfl
theorem progress_only (s : State) (b : Blk) (i n : Nat) : progress s b i n = { s with regs := (progress s b i n).regs } := rfl
theorem stick_only (s : State) (b : Blk) (i bit : Nat) : stick s b i bit = { s with regs := (stick s b i bit).regs } := rfl
theorem setQueue_only (s : State) (x : Queue) : setQueue s x = { s with hif := (setQueue s x).hif } := rfl
theorem lower_only (s : State) (h : Hand) : lower s h = { s with hif := (lower s h).hif } := rfl
theorem unrun_only (s : State) (c : HostCmd) : unrun s c = { s with hif := (unrun s c).hif } := rfl
theorem startDomain_only (s : State) (d : Nat) : startDomain s d = { s with pwr := (startDomain s d).pwr } := rfl
theorem mark_only (s : State) (a n : Nat) : mark s a n = { s with gddr := (mark s a n).gddr } := rfl
theorem setMark_only (s : State) (k : StreamKey) (n : Nat) : setMark s k n = { s with col := (setMark s k n).col } := rfl
theorem setColJob_only (s : State) (j : ColJob) : setColJob s j = { s with col := (setColJob s j).col } := rfl
theorem setReshard_only (s : State) (f : Reshard → Reshard) : setReshard s f = { s with col := (setReshard s f).col } := rfl
theorem setRepair_only (s : State) (r : Repair) : setRepair s r = { s with twin := (setRepair s r).twin } := rfl
theorem setLookup_only (s : State) (lk : Lookup) : setLookup s lk = { s with tables := (setLookup s lk).tables } := rfl
theorem setDecode_only (s : State) (j : DecodeJob) : setDecode s j = { s with decodes := (setDecode s j).decodes } := rfl
theorem setEntry_only (s : State) (n : Nat) (e : PageEntry) : setEntry s n e = { s with kvp := (setEntry s n e).kvp } := rfl
theorem setCore_only (s : State) (c : Nat) (k : Core) : setCore s c k = { s with cores := (setCore s c k).cores } := rfl
theorem setSeat_only (s : State) (p : Nat) (x : Seat) : setSeat s p x = { s with cores := (setSeat s p x).cores } := rfl

end Sys2Proof.Laws
end

