-- ==== Sys2Proof/Laws/Ops.lean ====
section
/-! SUPPORT. What the shared operations can do, said once for each: events, hands, discarded writes, command refusals. -/

namespace Sys2Proof.Laws

open Sys2Proof Sys2Proof.Machine

/-- From s to t only what the rings and their bookkeeping hold changes: the registers, the host interface and what was written to
host memory, of the host interface nothing but event and hand records, and no queue, command or setting. -/
structure RingsOnly (s t : State) : Prop where
  rest : t = { s with regs := t.regs, hif := t.hif, hostOut := t.hostOut }
  hif : t.hif = { s.hif with eventSeq := t.hif.eventSeq, eventsHeld := t.hif.eventsHeld, eventUnread := t.hif.eventUnread,
                             eventPos := t.hif.eventPos, lostNow := t.hif.lostNow, handSeq := t.hif.handSeq, hands := t.hif.hands,
                             handsHeld := t.hif.handsHeld, handUnread := t.hif.handUnread, handPos := t.hif.handPos }
  out : ∃ ws, t.hostOut = s.hostOut ++ ws

theorem RingsOnly.refl (s : State) : RingsOnly s s := ⟨rfl, rfl, [], (List.append_nil _).symm⟩

theorem ringsOnly_setHif {s : State} {f : Hif → Hif} (h : f s.hif = { s.hif with
    eventSeq := (f s.hif).eventSeq, eventsHeld := (f s.hif).eventsHeld, eventUnread := (f s.hif).eventUnread,
    eventPos := (f s.hif).eventPos, lostNow := (f s.hif).lostNow, handSeq := (f s.hif).handSeq, hands := (f s.hif).hands,
    handsHeld := (f s.hif).handsHeld, handUnread := (f s.hif).handUnread, handPos := (f s.hif).handPos }) :
    RingsOnly s (setHif s f) := ⟨rfl, h, [], (List.append_nil _).symm⟩

theorem ringsOnly_hostWrite (s : State) (w : HostWrite) : RingsOnly s (hostWrite s w) := ⟨rfl, rfl, [w], rfl⟩

theorem RingsOnly.trans {a b c : State} (h : RingsOnly a b) (g : RingsOnly b c) : RingsOnly a c := by
  refine ⟨by rw [g.rest, h.rest], by rw [g.hif, h.hif], ?_⟩
  obtain ⟨u, hu⟩ := h.out
  obtain ⟨v, hv⟩ := g.out
  exact ⟨u ++ v, by rw [hv, hu, List.append_assoc]⟩

theorem ringsOnly_setReg (s : State) (b : Blk) (i off v : Nat) : RingsOnly s (setReg s b i off v) := ⟨rfl, rfl, [], (List.append_nil _).symm⟩

theorem ringsOnly_loseEvent (s : State) : RingsOnly s (loseEvent s) := ⟨rfl, rfl, [], (List.append_nil _).symm⟩

theorem ringsOnly_putEvent (s : State) (e : EventRec) : RingsOnly s (putEvent s e) := by
  have held : RingsOnly s (setHif s fun h => { h with eventsHeld := h.eventsHeld ++ [e] }) := ⟨rfl, rfl, [], (List.append_nil _).symm⟩
  unfold putEvent
  split
  · split
    · exact held
    · exact ringsOnly_loseEvent s
  · split
    · split
      · exact held
      · exact ringsOnly_loseEvent s
    · split
      · exact ringsOnly_loseEvent s
      · exact ⟨rfl, rfl, _, rfl⟩

/-- An event changes nothing but the event ring, its counts and the page's event count (R304, R324). -/
theorem ringsOnly_post (s : State) (b : Blk) (i code : Nat) (items : List Nat) : RingsOnly s (post s b i code items) :=
  RingsOnly.trans (b := setHif (bumpWrap s b i 0x18 1) fun h => { h with eventSeq := h.eventSeq + 1 })
    ⟨rfl, rfl, [], (List.append_nil _).symm⟩ (ringsOnly_putEvent _ _)

theorem ringsOnly_drainHands : ∀ (n : Nat) (s : State), RingsOnly s (drainHands n s)
  | 0, s => RingsOnly.refl s
  | n + 1, s => by
    unfold drainHands
    split
    · split
      · exact RingsOnly.refl s
      · exact RingsOnly.trans (RingsOnly.trans (ringsOnly_hostWrite s _) (ringsOnly_setHif rfl)) (ringsOnly_drainHands n _)
    · exact RingsOnly.refl s

theorem ringsOnly_putHandRec (s : State) (page bit : Nat) (w : Option Nat) (items : List Nat) :
    RingsOnly s (putHandRec s page bit w items) := by
  unfold putHandRec drainAllHands
  exact RingsOnly.trans (ringsOnly_setHif rfl) (ringsOnly_drainHands _ _)

/-- A hand that is raised changes nothing but the hand ring and the list of standing hands (R305). -/
theorem ringsOnly_raise (s : State) (b : Blk) (i bit : Nat) (items : List Nat) : RingsOnly s (raise s b i bit items) :=
  RingsOnly.trans (b := setHif s fun h => { h with hands := h.hands ++ [⟨s.hif.handSeq, pageOf b i, bit, items⟩] })
    ⟨rfl, rfl, [], (List.append_nil _).symm⟩ (ringsOnly_putHandRec _ _ _ _ _)

theorem ringsOnly_lower (s : State) (h : Hand) : RingsOnly s (lower s h) := ⟨rfl, rfl, [], (List.append_nil _).symm⟩

theorem ringsOnly_withdraw (s : State) (h : Hand) : RingsOnly s (withdraw s h) :=
  RingsOnly.trans (ringsOnly_lower s h) (ringsOnly_putHandRec _ _ _ _ _)

theorem ringsOnly_bump (s : State) (b : Blk) (i off lo w n : Nat) : RingsOnly s (bump s b i off lo w n) := ringsOnly_setReg _ _ _ _ _

theorem ringsOnly_stick (s : State) (b : Blk) (i bit : Nat) : RingsOnly s (stick s b i bit) := ringsOnly_setReg _ _ _ _ _

/-- An uncorrectable read is counted, latched and posted, and changes nothing else (R129). -/
theorem ringsOnly_noteUE (s : State) (a : Nat) : RingsOnly s (noteUE s a) := by
  unfold noteUE
  dsimp only
  refine RingsOnly.trans ?_ (ringsOnly_post _ _ _ _ _)
  refine RingsOnly.trans (ringsOnly_bump s .mem (memOf s.part a) 0x108 0 32 1) ?_
  split
  · exact RingsOnly.refl _
  · exact RingsOnly.trans (ringsOnly_setReg _ _ _ _ _) (ringsOnly_setReg _ _ _ _ _)

/-- An answer takes effect on the oldest hand of its page, which is lowered, or is discarded and sets BLK_ERR.ANSWER (R326). -/
theorem answer_cases (s : State) (b : Blk) (i : Nat) (act : Hand → State → Option State) :
    answer s b i act = stick s b i 1 ∨
      ∃ h t, oldest s (pageOf b i) = some h ∧ act h (lower s h) = some t ∧ answer s b i act = t := by
  unfold answer
  split
  · exact .inl rfl
  · rename_i h hh
    split
    · exact .inl rfl
    · rename_i t ht
      exact .inr ⟨h, t, hh, ht, rfl⟩

/-- A command runs its meaning once it may, and otherwise waits unchanged (R293, R296). -/
theorem runCmd_cases (s : State) (op : Nat) (c : HostCmd) (body : State → State) :
    (ready s op c = true ∧ runCmd s op c body = .next (body s)) ∨ (ready s op c = false ∧ runCmd s op c body = .next s) := by
  unfold runCmd
  cases ready s op c <;> simp

end Sys2Proof.Laws
end

