-- ==== Sys2Proof/WellFormed.lean ====
section
/-! DEFINITION. Commands whose operands lie in the ranges the spec gives them: what a sender can send. exec is total on all
others as well. -/

namespace Sys2Proof

/-- One of the nine functions (R284). -/
def fnOk (fn : Nat) : Bool := fn ≤ 8

/-- Fields of a slot within their widths (R291). -/
def slotOk (sl : Slot) : Bool :=
  sl.opcode < 2 ^ 16 && sl.sequence < 2 ^ 16 && sl.ctl < 2 ^ 8 && sl.inlineBytes < 2 ^ 8 && sl.requestId < 2 ^ 64 && sl.step < 2 ^ 64
    && sl.operand < 2 ^ 64 && sl.param0 < 2 ^ 64 && sl.param1 < 2 ^ 64 && sl.param2 < 2 ^ 64 && sl.payload.length = 192

/-- A consumed command of a row: its place, and the opcode of the row (R298, R345, R412). -/
def cmdOk (opcode : Nat) (c : HostCmd) : Bool :=
  fnOk c.fn && c.queue < 64 && c.index < 2 ^ 16 && slotOk c.slot && c.slot.opcode = opcode

/-- Fields of a message header within their widths, its sender and its receive point (R239, R192). -/
def hdrOk (h : MsgHdr) : Bool :=
  h.kind < 2 ^ 8 && h.job < 2 ^ 16 && h.layoutEpoch < 2 ^ 16 && h.tableEpoch < 2 ^ 16 && h.step < 2 ^ 64 && h.sequence < 2 ^ 64
    && h.srcClass < 64 && h.srcChannel < 12 && h.dstPoint ≤ 0x1C

/-- A stream of an existing sender (R241). -/
def streamOk (k : StreamKey) : Bool := k.src < 64 && k.channel < 12 && k.point ≤ 0x1C

/-- A transfer with one of the 64 buffers, inside SRAM (R121, R137). -/
def transferOk (t : Transfer) : Bool := t.buffer < 64 && t.sramOffset + t.bytes ≤ 0x7800000

/-- The rates of R123: 48 Gbit/s, or less by steps of 4 down to 32. -/
def rateOk (r : Nat) : Bool := [32, 36, 40, 44, 48].contains r

/-- A sector as a read meets it: a 68-byte code word, and at most three retries (R125, R126). -/
def sectorOk (r : SectorRead) : Bool := r.addr < 2 ^ 41 && r.wrong.all (· < 68) && r.retries ≤ 3

/-- What tests find: existing cores, and rates of R123. -/
def reportOk (r : TestReport) : Bool :=
  r.lbistOnce.all (· < 272) && r.mbistFail.all (· < 272) && r.firmwareFail.all (· < 272) && r.linkFail.all (· < 24)
    && r.channelRates.all fun e => e.1 < 64 && (e.2 = 0 || rateOk e.2)

/-- Whether the operands of a command lie in their ranges. -/
def Instr.wf : Instr → Bool
  -- commands of submission slots (R298, R412, R345)
  | .nop c => cmdOk 0x0001 c
  | .queueCreate c => cmdOk 0x0010 c
  | .queueDelete c => cmdOk 0x0011 c
  | .hostRingsSet c => cmdOk 0x0012 c
  | .functionMap c => cmdOk 0x0013 c
  | .biasSet c => cmdOk 0x0014 c
  | .classForm c _ => cmdOk 0x0018 c
  | .twinDetach c => cmdOk 0x0019 c
  | .twinAttach c => cmdOk 0x001A c
  | .jobStart c => cmdOk 0x001B c
  | .jobEnd c => cmdOk 0x001C c
  | .gradebookSet c => cmdOk 0x001D c
  | .recessEnter c => cmdOk 0x001E c
  | .secAttest c => cmdOk 0x0040 c
  | .secIdentityRead c => cmdOk 0x0041 c
  | .secFirmwareStage c _ => cmdOk 0x0042 c
  | .secRollbackCommit c => cmdOk 0x0043 c
  | .secDebugChallenge c => cmdOk 0x0044 c
  | .secDebugUnlock c _ => cmdOk 0x0045 c
  | .secDebugLock c => cmdOk 0x0046 c
  | .programRun c _ _ => cmdOk 0x0100 c
  | .dmaCopy c _ => cmdOk 0x0101 c
  | .objectPlace c _ => cmdOk 0x0102 c
  | .objectFree c => cmdOk 0x0103 c
  | .tableDefine c => cmdOk 0x0110 c
  | .tableSwitch c => cmdOk 0x0111 c
  | .tableStage c _ => cmdOk 0x0112 c
  | .tableRoll c _ => cmdOk 0x0113 c
  | .embLookup c => cmdOk 0x0114 c
  | .embBackward c => cmdOk 0x0115 c
  | .shardDefine c => cmdOk 0x0118 c
  | .optimSet c => cmdOk 0x0119 c
  | .scaleReset c => cmdOk 0x011A c
  | .outlierSet c _ => cmdOk 0x011B c
  | .attRun c _ => cmdOk 0x0120 c
  | .attDecode c => cmdOk 0x0121 c
  | .kvPoolDefine c => cmdOk 0x0128 c
  | .kvSeqOpen c _ => cmdOk 0x0129 c
  | .kvShare c _ => cmdOk 0x012A c
  | .kvRelease c _ => cmdOk 0x012B c
  | .colRingDefine c => cmdOk 0x0130 c
  | .colRun c _ => cmdOk 0x0131 c
  | .reshard c _ => cmdOk 0x0132 c
  | .gradebookLift c => cmdOk 0x0138 c
  | .gradebookCompare c _ => cmdOk 0x0139 c
  -- host interface
  | .doorbell fn queue _ => fnOk fn && (queue < 64)
  | .slotRead fn queue bytes => fnOk fn && (queue < 64) && (bytes.length = 256)
  | .slotReRead fn queue bytes => fnOk fn && (queue < 64) && (bytes.length = 256)
  | .completionPost fn queue => fnOk fn && (queue < 64)
  | .classCommandRelay h _ => hdrOk h
  | .memberAnswer h tag _ _ _ => hdrOk h && (tag < 2 ^ 32)
  | .adminQueueEnable fn _ => fnOk fn
  | .adminQueueDisable fn _ => fnOk fn
  | .resumeGo fn => fnOk fn
  | .eventHeadWrite fn _ => fnOk fn
  | .handHeadWrite fn _ => fnOk fn
  | .transcriptHeadWrite fn _ => fnOk fn
  | .twinRepairAnswer fn _ => fnOk fn
  | .prescaleAnswer fn _ => fnOk fn
  | .outlierAnswer fn _ => fnOk fn
  | .silentLayerAnswer fn _ => fnOk fn
  | .tableSwitchAnswer fn _ => fnOk fn
  | .memRetrainAnswer fn unit _ => fnOk fn && (unit < 16)
  | .linkRetrainAnswer fn link _ => fnOk fn && (link < 24)
  | .substitutionAnswer fn _ => fnOk fn
  | .hangEscalationAnswer fn _ => fnOk fn
  | .staggeringAnswer fn _ => fnOk fn
  | .thermalStepAnswer fn _ => fnOk fn
  | .deviceRecoveryRequest fn => fnOk fn
  | .functionResetRequest fn offset => fnOk fn && (offset < 2 ^ 26)
  | .memRetrainRequest fn unit => fnOk fn && (unit < 16)
  | .linkRetrainRequest fn link => fnOk fn && (link < 24)
  | .registerWrite fn offset width _ => fnOk fn && (offset < 2 ^ 26) && (width ≤ 8)
  | .pairLowHalfRead fn r => fnOk fn && (r.offset < 2 ^ 26) && (r.width = 1 || r.width = 2 || r.width = 4 || r.width = 8)
  | .i3cRegisterRead address offset => (address < 128) && (offset < 2 ^ 26)
  | .i3cRegisterWrite address offset _ => (address < 128) && (offset < 2 ^ 26)
  | .smbusReadPart => true
  | .smbusReadSerial => true
  | .smbusReadJunction => true
  | .smbusReadPower => true
  | .smbusReadState => true
  | .smbusReadTstStat => true
  | .cxlMemRead addr r => (addr < 2 ^ 41) && r.met.all sectorOk
  | .cxlMemWrite addr _ => (addr < 2 ^ 41)
  | .cxlSnoop addr => (addr < 2 ^ 41)
  | .hostLinkTrained _ _ => true
  | .hostLinkLoss => true
  | .selfReset => true
  | .hostLinkReattach => true
  | .flrComputeFunction fn => fnOk fn
  | .flrPf0 => true
  -- pins and supplies
  | .perstAsserted => true
  | .perstDeasserted report => reportOk report
  | .pwrbrkAsserted => true
  | .pwrbrkReleased => true
  | .auxPowerGood => true
  | .mainPgAsserted report => reportOk report
  | .mainPgLost => true
  | .ioRailFault die => (die < 4)
  | .ioRailRestore die _ => (die < 4)
  -- peer links
  | .peerLinkTrainingDone link _ => (link < 24)
  | .identityExchange link farClass farLink _ _ => (link < 24) && (farClass < 64) && (farLink < 32)
  | .linkBlockLockLoss link => (link < 24)
  | .linkReplayRate link _ => (link < 24)
  | .linkRetrainDone link _ => (link < 24)
  -- messages
  | .reductionPartial h _ => hdrOk h
  | .gatherChunk h _ => hdrOk h
  | .allToAllBlock h _ => hdrOk h
  | .lookUpBatch h _ => hdrOk h
  | .lookUpReply h _ => hdrOk h
  | .gradientRows h _ => hdrOk h
  | .reducedGradientTile h _ _ _ => hdrOk h
  | .updateSecondWrite addr => (addr < 2 ^ 41)
  | .parcel h _ _ => hdrOk h
  | .ringOpen h _ => hdrOk h
  | .permuteMove h addr _ => hdrOk h && (addr < 2 ^ 41)
  | .lookUpMark h => hdrOk h
  | .stepCloseContribution h _ => hdrOk h
  | .acknowledgement h stream dst _ => hdrOk h && streamOk stream && (dst < 64)
  | .reject h stream dst _ _ => hdrOk h && streamOk stream && (dst < 64)
  | .abortNotice h _ addr => hdrOk h && (addr < 2 ^ 41)
  | .removalNotice h lost _ => hdrOk h && (lost < 64)
  | .reAdmissionNotice h target _ => hdrOk h && (target < 64)
  | .reservedMessage h => hdrOk h
  | .twinHeartbeat h => hdrOk h
  | .heartbeatSend => true
  | .twinLossTimeout => true
  | .recoveryNotice h _ _ => hdrOk h
  | .digest h _ _ => hdrOk h
  | .granuleHashes h segment _ _ => hdrOk h && (segment < 2 ^ 41)
  | .repairStepProposal h addr _ _ _ => hdrOk h && (addr < 2 ^ 41)
  | .repairCopy h _ _ _ => hdrOk h
  | .twinServeRequest h addr _ _ _ => hdrOk h && (addr < 2 ^ 41)
  | .enrolmentStart => true
  | .jobState h _ => hdrOk h
  | .enrolmentSegment h _ _ _ => hdrOk h
  | .enrolmentCutOver => true
  | .recessNotice h => hdrOk h
  | .wakeNotice h => hdrOk h
  | .retryTimeout stream dst => streamOk stream && (dst < 64)
  -- cores
  | .matrixPass core _ => (core < 256)
  | .tileCopy core => (core < 256)
  | .vectorOperation core _ => (core < 256)
  | .specialFunction core _ _ _ _ _ _ => (core < 256)
  | .trayRelease core => (core < 256)
  | .streamIn core t => (core < 256) && transferOk t
  | .gather core t => (core < 256) && transferOk t
  | .offload core t => (core < 256) && transferOk t
  | .fetch core t => (core < 256) && transferOk t
  | .send core dst _ _ _ _ _ => (core < 256) && (dst < 256)
  | .transferComplete core _ => (core < 256)
  | .boundary core _ _ => (core < 256)
  | .coreFault physical => (physical < 272)
  | .substituteSeat logical => (logical < 256)
  | .coreSubstituted logical => (logical < 256)
  | .hallPassGrant die => (die < 8)
  | .hallPassRelease physical => (physical < 272)
  | .domainClockStop domain => (domain < 375)
  -- timers and engines
  | .powerReading _ => true
  | .thermalReading _ => true
  | .reportCard => true
  | .autoRecess => true
  | .wake => true
  | .hallMonitorCheck => true
  | .functionReset fn cause => fnOk fn && (1 ≤ cause && cause ≤ 5)
  | .deviceRecovery cause report => (1 ≤ cause && cause ≤ 4) && reportOk report
  | .recoveryReturn => true
  | .crcRetryExhausted channel addr => (channel < 64) && (addr < 2 ^ 41)
  | .channelRetrainDone channel rate => (channel < 64) && (rate = 0 || rateOk rate)
  | .patrolScrub addr r => sectorOk ⟨addr, r.wrong, r.misplaced, r.retries⟩
  | .stepClose => true
  | .stepCloseExchangeDone _ => true
  | .gradebookExchangeDone _ => true
  | .outlierSelection _ _ => true
  | .stampRenewal unit _ => (unit < 16)
  | .reshardDrain => true
  | .reshardPermute => true
  | .reshardDone => true
  | .transcriptSweep _ => true
  | .auxPowerLost => true
  | .assertionNotTaken pin => (pin < 3)
  | .servedCopy h _ _ => hdrOk h
  | .routedItem h _ tag => hdrOk h && (tag < 2 ^ 32)
  | .enrolmentAgree h => hdrOk h
  | .i3cDynamicAddress address => (address < 128)

end Sys2Proof
end

