-- ==== Sys2Proof/Tests/Slice0.lean ====
section
/-! SUPPORT. Tests of one command each, ill-formed commands that WellFormed refuses, and for every statement with hypotheses a
theorem witness_<Name> that shows states and operands that meet them, clause by clause, at the ends of their ranges. -/

set_option Elab.async false

namespace Sys2Proof.Tests

open Sys2Proof Sys2Proof.Machine

/-! ### Small states -/

/-- The state after a command. -/
def run (i : Instr) (s : State) : State :=
  match exec i s with
  | .next t => t
  | _ => s

/-- Power-on has ended (R382 step 9). -/
def up : State :=
  setField (setPwr State.reset fun p => { p with auxGood := true, mainPg := true }) .tst 0 0x100 24 4 9

def slot (op : Nat) : Slot := ⟨op, 0, 0, 0, 0, 1, 0, 0, 0, 0, 0, 0, []⟩

def cmd (fn : Nat) (sl : Slot) : HostCmd := ⟨fn, 1, 0, 0x20000, sl⟩

def fresh (fn : Nat) : Queue := freshQueue fn 1 4 0x10000 0x20000

/-- A state in which a command runs, with its queue. -/
def on (s : State) (c : HostCmd) : State := setHif s fun h => { h with running := [c], queues := [fresh c.fn] }

def rings : Rings := ⟨0x1000, 6, 0x2000, 4, 0x3000, 0x4000, 0x5000, 1, 0⟩

def withRings (s : State) : State := setHif s fun h => { h with rings := some rings }

def le (n v : Nat) : List Byte := leBytes n v

/-- A slot with its SLOT_CRC (R291). -/
def slotBytes (op sequence ctl ident : Nat) : List Byte :=
  let head := le 2 op ++ le 2 sequence ++ le 1 ctl ++ le 3 0 ++ le 8 ident ++ List.replicate 44 0
  head ++ le 4 (crc32c head) ++ List.replicate 192 0

def queued (q : Queue) : State := setHif up fun h => { h with queues := [q] }

/-! ### WellFormed refuses ill-formed commands -/

theorem wellFormed_accepts : (Instr.nop (cmd 1 { slot 0x0001 with payload := List.replicate 192 0 })).wf = true := by decide +kernel

theorem wellFormed_refuses_function : (Instr.resumeGo 9).wf = false := by decide

theorem wellFormed_refuses_slotField :
    (Instr.nop (cmd 1 { slot 0x0001 with ctl := 256, payload := List.replicate 192 0 })).wf = false := by decide +kernel

theorem wellFormed_refuses_payload : (Instr.nop (cmd 1 { slot 0x0001 with payload := [0] })).wf = false := by decide +kernel

theorem wellFormed_refuses_opcode :
    (Instr.nop (cmd 1 { slot 0x0002 with payload := List.replicate 192 0 })).wf = false := by decide +kernel

theorem wellFormed_refuses_queue : (Instr.doorbell 1 64 0).wf = false ∧ (Instr.completionPost 1 64).wf = false := by decide

theorem wellFormed_refuses_slotLength : (Instr.slotRead 1 0 [0]).wf = false ∧ (Instr.slotReRead 1 0 []).wf = false := by decide

theorem wellFormed_refuses_header : (Instr.recessNotice { kind := 256 }).wf = false ∧ (Instr.lookUpMark { srcClass := 64 }).wf = false ∧
    (Instr.lookUpMark { srcChannel := 12 }).wf = false ∧ (Instr.lookUpMark { dstPoint := 0x1D }).wf = false := by decide

theorem wellFormed_refuses_stream : (Instr.retryTimeout ⟨64, 0, 0, 0, false⟩ 0).wf = false ∧ (Instr.retryTimeout ⟨0, 12, 0, 0, false⟩ 0).wf = false ∧
    (Instr.retryTimeout ⟨0, 0, 0, 0, false⟩ 64).wf = false := by decide

theorem wellFormed_refuses_tag : (Instr.memberAnswer {} (2 ^ 32) 0 0 0).wf = false := by decide

theorem wellFormed_refuses_unit : (Instr.memRetrainRequest 0 16).wf = false ∧ (Instr.linkRetrainRequest 0 24).wf = false ∧
    (Instr.ioRailFault 4).wf = false ∧ (Instr.hallPassGrant 8).wf = false ∧ (Instr.coreFault 272).wf = false ∧
    (Instr.trayRelease 256).wf = false ∧ (Instr.domainClockStop 375).wf = false ∧ (Instr.assertionNotTaken 3).wf = false := by decide

theorem wellFormed_refuses_offset : (Instr.pairLowHalfRead 0 ⟨2 ^ 26, 4⟩).wf = false ∧ (Instr.pairLowHalfRead 0 ⟨0, 3⟩).wf = false ∧ (Instr.registerWrite 0 0 9 0).wf = false := by decide

theorem wellFormed_refuses_address : (Instr.cxlSnoop (2 ^ 41)).wf = false ∧ (Instr.i3cDynamicAddress 128).wf = false ∧
    (Instr.updateSecondWrite (2 ^ 41)).wf = false := by decide

theorem wellFormed_refuses_transfer :
    (Instr.fetch 0 ⟨0, 64, 0, 0, 0, false, false, false, 0, [], [], []⟩).wf = false ∧
    (Instr.fetch 0 ⟨0, 0, 0x7800000, 0, 1, false, false, false, 0, [], [], []⟩).wf = false := by decide

theorem wellFormed_refuses_cause : (Instr.functionReset 1 0).wf = false ∧ (Instr.functionReset 1 6).wf = false := by decide

theorem wellFormed_refuses_rate : (Instr.channelRetrainDone 0 33).wf = false ∧ (Instr.channelRetrainDone 64 48).wf = false := by decide

theorem wellFormed_refuses_exchange : (Instr.identityExchange 24 0 0 0 true).wf = false ∧ (Instr.identityExchange 0 64 0 0 true).wf = false ∧
    (Instr.identityExchange 0 0 32 0 true).wf = false := by decide

theorem wellFormed_refuses_sector : (Instr.patrolScrub 0 ⟨[68], false, 0⟩).wf = false ∧ (Instr.patrolScrub 0 ⟨[], false, 4⟩).wf = false ∧
    (Instr.cxlMemRead 0 ⟨64, [⟨2 ^ 41, [], false, 0⟩]⟩).wf = false := by decide

/-! ### Witnesses: the machine and the host interface -/

theorem witness_EmptyQueueStepIsOneTick : State.reset.pending = [] ∧ State.reset.pwr.auxGood = false ∧ up.pending = [] ∧
    up.pwr.auxGood = true := by decide +kernel

theorem witness_EveryStepKeepsMemoryCanonical : Machine.Inv up ∧ ∃ t, step up = .next t := ⟨by unfold Machine.Inv; decide +kernel, _, rfl⟩

theorem witness_DeviceWriteReadsBack : Machine.Inv up := by unfold Machine.Inv; decide +kernel

def nopCmd : HostCmd := cmd 1 (slot 0x0001)

/-- One record below a full ring. -/
def nopState : State := setHif (on up nopCmd) fun h => { h with queues := [{ fresh 1 with cqTail := 14 }] }

theorem witness_NopPostsOneCompletionRecord : ready nopState 0x0001 nopCmd = true ∧ nopState.hif.detached = false ∧
    (queueOf nopState 1 1).any (fun q => q.held.isEmpty && cqUnread q = 2 ^ q.log2 - 2) = true ∧ duplicatesOf nopState nopCmd = [] ∧
    nopState.hif.adminPending = false := by decide +kernel

theorem test_nopCompletes : (run (.nop nopCmd) nopState).hostOut =
    [.completion (0x20000 + 32 * 14) ⟨1, 1, 1, 0, 0, true, 0, 0, 0, 0⟩] := by decide +kernel

def heldRecord : Completion := ⟨1, 1, 7, 0, 0, true, 0, 0, 0, 0⟩

def heldState : State := queued { fresh 1 with cqHead := 15, cqTail := 0, held := [heldRecord] }

def someEvent : EventRec := ⟨0, 0x0100, 1, 0, 0, 0, []⟩

/-- A ring with one record less than its slots, of which none is read. -/
def eventsAlmostFull : State := setHif (withRings up) fun h => { h with lostNow := 1, eventUnread := List.range 63 }

def handRec : HandRec := ⟨15, pageOf .pwr 0, 0, none, 0, [], 0⟩

def handsAlmostFull : State := setHif (withRings up) fun h => { h with handsHeld := [handRec], handUnread := List.range 15 }

theorem witness_RingHeadsAndHeldRecordsDrain :
    (queueOf heldState 1 1).any (fun q => q.cqHead < 2 ^ q.log2 && q.held.length = 1) = true ∧ heldState.hif.detached = false ∧
    up.pwr.auxGood = true ∧ up.hif.lostNow = 0 ∧ up.hif.handsHeld = [] ∧
    eventsAlmostFull.pwr.auxGood = true ∧ eventsAlmostFull.hif.lostNow ≠ 0 ∧ eventsAlmostFull.hif.rings = some rings ∧
    eventsAlmostFull.hif.detached = false ∧
    (eventsAlmostFull.hif.eventUnread.filter fun q => seqGe q (0 : W32).toNat).length + 1 = 2 ^ rings.eventLog2 ∧
    handsAlmostFull.pwr.auxGood = true ∧ handsAlmostFull.hif.handsHeld = handRec :: [] ∧ handsAlmostFull.hif.rings = some rings ∧
    handsAlmostFull.hif.detached = false ∧
    (handsAlmostFull.hif.handUnread.filter fun q => seqGe q (0 : W32).toNat).length + 1 = 2 ^ rings.handLog2 := by decide +kernel

theorem witness_DoorbellMovesTheQueueOrIsDiscarded :
    (queueOf (queued (fresh 1)) 1 1).any (fun q => bitsOf (0xF000F : W64).toNat 0 16 + 1 = 2 ^ q.log2 &&
      bitsOf (0xF000F : W64).toNat 16 16 + 1 = 2 ^ q.log2) = true ∧
    (queueOf (queued (fresh 1)) 1 1).any (fun q => 2 ^ q.log2 = bitsOf (0x10 : W64).toNat 0 16) = true ∧
    (queueOf (queued (fresh 1)) 1 1).any (fun q => 2 ^ q.log2 = bitsOf (0x100000 : W64).toNat 16 16) = true ∧
    queueOf up 1 1 = none := by decide +kernel

def waiting (q : Queue) : Queue := { q with tail := 1 }

/-- A NOP with identifier 1 and SEQUENCE 0. -/
def nopSlot : List Byte := slotBytes 0x0001 0 0 1

theorem slot_nop : slotValid (fresh 1) nopSlot = true := by decide +kernel

theorem slot_stale : slotValid (fresh 1) (slotBytes 0x0001 1 0 1) = false := by decide +kernel

theorem slot_broken : slotValid (fresh 1) (List.replicate 256 0) = false ∧ (slotOf (List.replicate 256 0)).sequence = (fresh 1).expected := by
  decide +kernel

theorem witness_SlotsStartCommandsOrStopTheQueue : (queueOf (queued (waiting (fresh 1))) 1 1).any (fun q =>
      mayConsume (queued (waiting (fresh 1))) q (slotOf nopSlot).opcode && decide (q.highest < (slotOf nopSlot).requestId) &&
      (headerFault (queued (waiting (fresh 1))) (cmdOf q nopSlot)).isNone && q.reReads = 0) = true ∧
    ∀ n ∈ [1, 2, 16], ∀ again ∈ [false, true],
      (queueOf (queued { waiting (fresh 1) with reReads := n, again := again }) 1 1).any (fun q =>
        mayConsume (queued { waiting (fresh 1) with reReads := n, again := again }) q (slotOf nopSlot).opcode && q.reReads = n &&
        q.again = again) = true := by decide +kernel

/-- Histories that hold identifier 1: running, completed, aborted, and not at all. -/
def histories : List (List HistEntry) := [[⟨1, none⟩], [⟨1, some (0, 5, 6)⟩], [⟨1, some (0x30, 0, 0)⟩], [⟨2, none⟩]]

theorem witness_NoIdentifierRunsTwice : ∀ hs ∈ histories,
    (queueOf (queued { waiting (fresh 1) with highest := 1, history := hs }) 1 1).any (fun q =>
      mayConsume (queued { waiting (fresh 1) with highest := 1, history := hs }) q (slotOf nopSlot).opcode && q.reReads = 0 &&
      decide ((slotOf nopSlot).requestId ≤ q.highest) && cqUnread q < 2 ^ q.log2 - 1 &&
      (headerFault (queued { waiting (fresh 1) with highest := 1, history := hs }) (cmdOf q nopSlot)).isNone) = true ∧
    (queued { waiting (fresh 1) with highest := 1, history := hs }).hif.detached = false := by decide +kernel

def ctlCmd (ctl inline : Nat) : HostCmd := cmd 1 { slot 0x0001 with ctl := ctl, inlineBytes := inline }

theorem witness_BadHeadersAreRefusedAtTheStart : up.boot.failed = false ∧ opcodeAllowed 0x0010 1 = false ∧ opcodeAllowed 0x0100 0 = false ∧
    opcodeAllowed 0xFFFF 0 = false ∧ opcodeAllowed 0x0001 8 = true ∧
    (∀ c ∈ [ctlCmd 3 0, ctlCmd (4 * 4) 0, ctlCmd 4 0, ctlCmd (4 + 2) 0, ctlCmd 1 193, ctlCmd (1 + 4 * 3) 192], c ∉ up.hif.running) ∧
    bitsOf 3 0 2 = 3 ∧ bitsOf 16 2 3 = 4 ∧ (bitsOf 4 2 3 ≠ 0 ∧ bitsOf 4 0 2 ≠ 1) ∧ (bitsOf 6 2 3 ≠ 0 ∧ bitsOf 6 0 2 = 2) ∧
    (bitsOf 13 0 2 < 3 ∧ bitsOf 13 2 3 = 3 ∧ bitsOf 13 0 2 = 1) := by decide +kernel

def createCmd : HostCmd := cmd 0 { slot 0x0010 with operand := 4096, param0 := 1 + 2 ^ 8 * 63 + 2 ^ 16 * 4, param1 := 8192 }
def createLast : HostCmd := cmd 0 { slot 0x0010 with param0 := 0 + 2 ^ 8 * 3 + 2 ^ 16 * 16 }
def deleteCmd : HostCmd := cmd 0 { slot 0x0011 with param0 := 1 + 2 ^ 8 }
def deleteState : State := setHif (on up deleteCmd) fun h => { h with queues := h.queues ++ [fresh 1] }

/-- The block of HOST_RINGS_SET for rings. -/
def ringsBlock : List Byte := le 8 0x1000 ++ le 8 6 ++ le 8 0x2000 ++ le 8 4 ++ le 8 0x3000 ++ le 8 0x4000 ++ le 8 0x5000 ++ le 4 1 ++ le 4 0

def ringsCmd : HostCmd := cmd 0 { slot 0x0012 with inlineBytes := 64, payload := ringsBlock }
def ringsState (held : List EventRec) (hands : List HandRec) (resume : Bool) : State :=
  setHif (on up ringsCmd) fun h => { h with eventsHeld := held, handsHeld := hands, pf0Resume := resume }

theorem witness_QueuesAndRingsAreSet : ready (on up createCmd) 0x0010 createCmd = true ∧ bitsOf createCmd.slot.param0 0 8 = 1 ∧
    bitsOf createCmd.slot.param0 8 6 = 63 ∧ bitsOf createCmd.slot.param0 16 5 = 4 ∧ createCmd.slot.operand % 4096 = 0 ∧
    createCmd.slot.param1 % 4096 = 0 ∧ queueOf (on up createCmd) 1 63 = none ∧ hasDie (on up createCmd) 1 = true ∧
    ready (on up createLast) 0x0010 createLast = true ∧ bitsOf createLast.slot.param0 0 8 = 0 ∧ bitsOf createLast.slot.param0 8 6 = 3 ∧
    bitsOf createLast.slot.param0 16 5 = 16 ∧ queueOf (on up createLast) 0 3 = none ∧
    ready deleteState 0x0011 deleteCmd = true ∧ bitsOf deleteCmd.slot.param0 0 8 = 1 ∧ bitsOf deleteCmd.slot.param0 8 6 = 1 ∧
    (queueOf deleteState 1 1).isSome = true ∧
    ((deleteState.hif.running ++ deleteState.hif.duplicates).all fun d => d = deleteCmd || !(d.fn = 1 && d.queue = 1)) = true ∧
    ringsFault (inlineOf ringsCmd.slot 64) = none ∧ ringsOf (inlineOf ringsCmd.slot 64) = rings ∧
    (∀ ev ∈ [[], [someEvent]], ∀ hd ∈ [[], [handRec]], ∀ b ∈ [false, true], ready (ringsState ev hd b) 0x0012 ringsCmd = true ∧
      (ringsState ev hd b).hif.pf0Resume = b ∧ (ringsState ev hd b).hif.detached = false ∧ (ringsState ev hd b).hif.lostNow = 0 ∧
      (ringsState ev hd b).hif.eventsHeld = ev ∧ (ringsState ev hd b).hif.handsHeld = hd) := by decide +kernel

def mapCmd (v : Nat) : HostCmd := cmd 0 { slot 0x0013 with param0 := v }

/-- Every die to function 1, or die 7 to function 9 or to none. -/
def allToOne : Nat := 0x0101010101010101
def biasCmd (a n b : Nat) : HostCmd := cmd 0 { slot 0x0014 with operand := a, param0 := n, param1 := b }
def biasTop : Nat := Config.reservedBase .nst8064

theorem witness_FunctionsAndRefusalsOfTheHostCommands :
    (ready (on up (mapCmd 0x0807060504030201)) 0x0013 (mapCmd 0x0807060504030201) = true ∧
      ∀ d < 8, bitsOf 0x0807060504030201 (8 * d) 8 = (on up (mapCmd 0x0807060504030201)).hif.dies.getD d 0) ∧
    (ready (on up (mapCmd allToOne)) 0x0013 (mapCmd allToOne) = true ∧ (∀ d < 8, bitsOf allToOne (8 * d) 8 = 1) ∧
      ∀ q ∈ (on up (mapCmd allToOne)).hif.queues, q.fn = 0) ∧
    (∀ v ∈ [0, 0x0907060504030201], ready (on up (mapCmd v)) 0x0013 (mapCmd v) = true) ∧ bitsOf 0x0907060504030201 (8 * 7) 8 = 9 ∧
    (let s := setHif (on up (mapCmd allToOne)) fun h => { h with queues := h.queues ++ [fresh 8] }
     ready s 0x0013 (mapCmd allToOne) = true ∧ bitsOf allToOne (8 * 7) 8 ≠ s.hif.dies.getD 7 0 ∧ s.hif.dies.getD 7 0 = 8) ∧
    (∀ b ∈ [0, 1], ready (on up (biasCmd (biasTop - 65536) 65536 b)) 0x0014 (biasCmd (biasTop - 65536) 65536 b) = true ∧
      biasTop % 65536 = 0 ∧ devRange up (biasTop - 65536) 65536 = true ∧
      writesOpen (on up (biasCmd (biasTop - 65536) 65536 b)) (biasTop - 65536) 65536 = false) ∧
    devRange up biasTop 65536 = false ∧ ready (on up (biasCmd biasTop 65536 1)) 0x0014 (biasCmd biasTop 65536 1) = true ∧
    (∀ n ∈ [0, 1], ready (on up (biasCmd 0 n 1)) 0x0014 (biasCmd 0 n 1) = true ∧ devRange up 0 n = true) ∧
    (∀ op ∈ [0x0010, 0x0011], ready (on up (cmd 0 (slot op))) op (cmd 0 (slot op)) = true ∧ queueOf (on up (cmd 0 (slot op))) 0 0 = none) ∧
    (queueOf deleteState 1 1).isSome = true := by decide +kernel

theorem witness_AdminQueueStartsAfreshAndStops : up.pwr.auxGood = true ∧ bitsOf (0x09 : W32).toNat 1 5 = 4 ∧
    bitsOf (0x21 : W32).toNat 1 5 = 16 ∧ field up .hif 0 0x104 0 1 = 0 ∧ adminBusy up = false ∧
    (let s := setHif up fun h => { h with running := [⟨0, 0, 0, 0, slot 0x0001⟩] }
     adminBusy s = true ∧ field s .hif 0 0x104 0 1 = 0 ∧ s.pwr.auxGood = true) := by decide +kernel

def detachedState : State := setHif (withRings up) fun h => { h with detached := true }

def goState : State := setHif detachedState fun h => { h with waitGo := true, eventUnread := List.range 63 }

theorem witness_LinkLossWaitsForGo : up.hif.detached = false ∧ detachedState.hif.detached = true ∧ detachedState.rel.recovery = 0 ∧
    goState.hif.waitGo = true ∧ goState.pwr.auxGood = true ∧ goState.hif.rings = some rings ∧
    (eventUnread goState).length + 1 = 2 ^ rings.eventLog2 ∧ up.hif.waitGo = false ∧ up.pwr.auxGood = true := by decide +kernel

theorem witness_HostResetsEndCommandsOrQueues : isUp up = true ∧ isUp detachedState = true ∧ detachedState.hif.detached = true ∧
    detachedState.hif.waitGo = false := by decide +kernel

/-- A state with one uncorrectable sector. -/
def badState (a : Nat) : State := setGddr up fun g => { g with badSectors := [a] }

/-- A state whose memory channels retrain. -/
def retrainingAll : State := setGddr up fun g => { g with retraining := List.range 64 }

theorem witness_CxlMemoryAndManagementBusesAnswer : up.gddr.held = [] ∧ memWaits up (biasTop - 64) 64 = false ∧
    memWaits retrainingAll (biasTop - 64) 64 = true ∧ devRange retrainingAll (biasTop - 64) 64 = true ∧ (badState 64).gddr.held = [] ∧
    memWaits (badState 64) 64 64 = false ∧ devRange up (biasTop - 64) 64 = true ∧ badSector up (biasTop - 64) 64 = none ∧
    devRange up (biasTop - 63) 64 = false ∧ badSector (badState 64) 64 64 = some 64 ∧ Memory.wf up.mem = true ∧ badWrite up 0 64 = none ∧
    devRange up 0 64 = true ∧ badWrite (badState 64) 64 1 = some 64 ∧ devRange (badState 64) 64 1 = true ∧
    up.pwr.auxGood = true ∧ up.boot.i3cAddress.getD 0x3A = 0x3A ∧ (0 : Nat) % 4 = 0 ∧
    (600 ≤ (600 : W32).toNat % 65536 ∧ (1500 : W32).toNat % 65536 ≤ 1500) ∧
    (0 ≠ pageOf .pwr 0 + 0x108 ∧ 0 ≠ pageOf .tst 0 + 0x104) := by decide +kernel

theorem witness_RegisterAccessesFollowTheirCodes : up.pwr.auxGood = true ∧ (writable .pwr 0 0x108 600).ok = true ∧
    (writable .pwr 0 0x108 1500).ok = true ∧ (writable .pwr 0 0x108 599).ok = false ∧ (writable .pwr 0 0x108 1501).ok = false ∧
    locate up.part (pageOf .hif 0 + 2) = some (.hif, 0, 2) ∧ locate up.part (pageOf .hif 0) = some (.hif, 0, 0) ∧
    mayWrite up 1 .hif 0 = false ∧ locate up.part 0x1000 = none ∧ locate up.part (pageOf .hif 0 + 0x108) = some (.hif, 0, 0x108) ∧
    isPairLow .hif 0 0x108 = true ∧ mget up.latch (pageOf .hif 0 + 0x108) = none ∧ (pageOf .hif 0 + 0x108) % 8 = 0 ∧
    mget ({ up with latch := [(pageOf .hif 0 + 0x10C, 5)] } : State).latch (pageOf .hif 0 + 0x10C) = some 5 := by decide +kernel

theorem test_pairLatch :
    (let s := setPair64 up .hif 0 0x120 0xFFFFFFFF
     let t := setPair64 (run (.pairLowHalfRead 0 ⟨0x10120, 4⟩) s) .hif 0 0x120 0x100000000
     (run (.pairLowHalfRead 0 ⟨0x10124, 4⟩) t).replies) = [.value 0xFFFFFFFF 4, .value 0 4] := by decide +kernel

/-! ### Witnesses: the class and its messages -/

/-- What Accepted asks, as a test. -/
def fits (s : State) (h : MsgHdr) : Bool :=
  h.crcOk && h.dstPoint ≤ 0x1C && !deaf s && !s.pwr.recess && (s.job.running || jobFree h.kind)
    && (!s.job.running || (h.job = s.job.number && h.layoutEpoch = s.job.layoutEpoch)) && h.sequence = markOf s (streamOf h) + 1

theorem accepted_of_fits {s : State} {h : MsgHdr} (e : fits s h = true) : Accepted s h := by
  simp only [fits, Bool.and_eq_true, Bool.or_eq_true, Bool.not_eq_true', decide_eq_true_eq] at e
  obtain ⟨⟨⟨⟨⟨⟨a, p⟩, b⟩, c⟩, d⟩, f⟩, g⟩ := e
  refine ⟨a, p, b, c, fun r => d.resolve_left (by simp [r]), fun r => ?_, g⟩
  rcases f with f | f
  · rw [r] at f; cases f
  · exact f

/-- Module 0 of a class of 16, in a pair state. -/
def cls (p : PairState) : State :=
  setCol (setTwin up fun t => { t with pair := p, size := 16 }) fun c => { c with members := 0xFFFF }

def isOpen (s : State) : State :=
  setJob s fun _ => { running := true, number := 1, layoutEpoch := 3, openStep := 5, closedStep := 4, exchangesDue := [], firstStep := 5 }

/-- A PAIRED module of a class with a job. -/
def job : State := isOpen (cls .paired)

def hdr (kind src : Nat) : MsgHdr := { kind := kind, job := 1, layoutEpoch := 3, step := 5, sequence := 1, srcClass := src }

def formCmd (number code : Nat) : HostCmd := cmd 0 { slot 0x0018 with param0 := number + 2 ^ 8 * code, param1 := 9 }

theorem witness_ClassFormPlacesTheModule : (∀ n ∈ [0, 15], ready (on up (formCmd n 0)) 0x0018 (formCmd n 0) = true ∧
      bitsOf (formCmd n 0).slot.param0 0 6 = n ∧ 16 * (bitsOf (formCmd n 0).slot.param0 8 2 + 1) = 16) ∧
    (ready (on up (formCmd 63 3)) 0x0018 (formCmd 63 3) = true ∧ bitsOf (formCmd 63 3).slot.param0 0 6 = 63 ∧
      16 * (bitsOf (formCmd 63 3).slot.param0 8 2 + 1) = 64) ∧
    up.job.running = false ∧ up.part = .nst8064 ∧ ready (on up (formCmd 16 0)) 0x0018 (formCmd 16 0) = true ∧
    ready (on job (formCmd 0 0)) 0x0018 (formCmd 0 0) = true ∧ job.job.running = true ∧
    (let s : State := { up with part := .nst8016 }
     ready (on s (formCmd 0 1)) 0x0018 (formCmd 0 1) = true) := by decide +kernel

def startJobCmd (n epoch : Nat) : HostCmd := cmd 0 { slot 0x001B with param0 := n + 2 ^ 16 * epoch, step := 5 }

theorem witness_ClassCommandsInstallAndRelay :
    ClassReady (on up (startJobCmd 1 0)) (.jobStart (startJobCmd 1 0)) (startJobCmd 1 0) installJobStart [] ∧
    otherMembers (on up (startJobCmd 1 0)) = [] ∧
    ClassReady (on (cls .paired) (startJobCmd 1 0)) (.jobStart (startJobCmd 1 0)) (startJobCmd 1 0) installJobStart [] ∧
    (otherMembers (on (cls .paired) (startJobCmd 1 0))).length = 15 ∧
    (∃ u, installJobStart (classCmdOf (on (cls .paired) (startJobCmd 1 0)) 0 (startJobCmd 1 0) []) (on (cls .paired) (startJobCmd 1 0)) = .ok u) ∧
    ClassReady (on up (startJobCmd 0 0)) (.jobStart (startJobCmd 0 0)) (startJobCmd 0 0) installJobStart [] ∧
    installJobStart (classCmdOf (on up (startJobCmd 0 0)) 0 (startJobCmd 0 0) []) (on up (startJobCmd 0 0)) = .error (0x12, 0x20, 0) := by
  have h : ∀ s c, (∀ r ∈ s.col.relays, r.cmd ≠ c) → ready s 0x001B c = true → ClassReady s (.jobStart c) c installJobStart [] :=
    fun s c a b => ⟨a, .inl ⟨0x001B, by simp [slotClassCommands], b, rfl, fun e => absurd e (by decide)⟩⟩
  exact ⟨h _ _ (by decide +kernel) (by decide +kernel), by decide +kernel, h _ _ (by decide +kernel) (by decide +kernel), by decide +kernel,
    ⟨_, rfl⟩, h _ _ (by decide +kernel) (by decide +kernel), by decide +kernel⟩

def outlierCmd : HostCmd := cmd 1 { slot 0x011B with param0 := 7 + 2 ^ 16 * 2, operand := 0x1000 }

/-- A plan with no part, and its CRC. -/
def planBlock : List Byte := List.replicate 60 0 ++ le 4 (planCrc (List.replicate 64 0))

def planCmd : HostCmd := cmd 1 { slot 0x0132 with param0 := 4, param1 := 7 }

theorem witness_ClassCommandsInstallAndRelay_operands :
    ClassReady (on job outlierCmd) (.outlierSet outlierCmd (le 4 0 ++ le 4 128)) outlierCmd installOutlierSet (le 4 0 ++ le 4 128) ∧
    ClassReady (on job planCmd) (.reshard planCmd planBlock) planCmd installReshard planBlock ∧
    (∃ u, installReshard (classCmdOf (on job planCmd) 0 planCmd planBlock) (on job planCmd) = .ok u) := by
  refine ⟨⟨by decide +kernel, .inr (.inl ⟨le 4 0 ++ le 4 128, 8, rfl, rfl, by decide +kernel, by decide +kernel, by decide +kernel,
    by decide +kernel, by decide +kernel⟩)⟩, ⟨by decide +kernel, .inr (.inr ⟨planBlock, 64, rfl, rfl, by decide +kernel, by decide +kernel,
    by decide +kernel, by decide +kernel, by decide +kernel⟩)⟩, ?_⟩
  have e : planFault (on job planCmd) planBlock 4 = none := by decide +kernel
  have f : leAt planBlock 0x3C 4 = planCrc planBlock := by decide +kernel
  refine ⟨setCol (on job planCmd) fun x => { x with reshard := some ⟨4, 7, planBlock, false, false, false, []⟩ }, ?_⟩
  decide +kernel

def order (sl : Slot) (data : List Byte) : ClassCmd := ⟨0, 0, 1, sl, data, false⟩

/-- A table of one shard of four rows of four FP32 elements, without an optimiser. -/
def tableBase : TableDesc where
  table := 7
  tag := 1
  twinned := false
  hashMap := false
  beside := false
  momentFp32 := true
  optimiser := 0
  elements := 4
  stride := 0
  shards := 1
  replaceMode := 1
  active := 0
  layoutEpoch := 3
  tensor := 9
  rows := 4
  seed := 0
  mask := 1
  shardBytes := 2 ^ 20
  slot0 := 2 ^ 20
  slot1 := 2 ^ 21
  check0 := 3 * 2 ^ 20
  check1 := 4 * 2 ^ 20
  aux := 0
  epoch0 := 5
  epoch1 := 0
  switchStep := noSwitch

def table : TableDesc := { tableBase with stride := up64 (recordLength tableBase) }

def withTable (s : State) (d : TableDesc) : State := setTables s fun t => { t with descs := [(d.table, d)] }

def block (op : Nat) (bs : List Byte) : Slot := { slot op with inlineBytes := bs.length, payload := bs }

def tableSlot (d : TableDesc) : Slot := block 0x0110 (tableDescBytes d)

theorem tableBlock : tableDescOf (inlineOf (tableSlot table) 128) = table := by decide +kernel

theorem tableSound (s : State) (h : s = cls .paired ∨ s = job) : tableFault s (inlineOf (tableSlot table) 128) = none ∧
    tableUnpaired s table = false ∧ tableAt s 7 = none := by
  rcases h with rfl | rfl <;> decide +kernel

def paramHead : List Byte := le 2 9 ++ le 1 0 ++ le 1 0 ++ le 4 0x3F800000 ++ le 4 0x3F000000 ++ le 4 0x3F000000 ++ le 4 0x3F000000 ++ le 4 0 ++
  le 4 0x3F800000 ++ le 4 0 ++ le 8 1 ++ le 8 7 ++ List.replicate 12 0

def paramBlock : List Byte := paramHead ++ le 4 (crc32c paramHead)

def record : ScaleRec := ⟨0, 0, 0, 0, List.replicate 16 (-128), -128, 0, false, [], none, false, false, none, none⟩

def withScale (s : State) (t : Nat) (r : ScaleRec) : State := { s with scaling := [(t, r)] }

/-- A module that is its class's only member, with a job. -/
def aloneJob : State := setCol job fun c => { c with members := 1 }

/-- What Alone asks, as a test. -/
def lone (s : State) (op : Nat) (c : HostCmd) : Bool := ready s op c && otherMembers s == [] && s.col.relays.all fun r => r.cmd != c

theorem alone_of_lone {s : State} {op : Nat} {c : HostCmd} (e : lone s op c = true) : Alone s op c := by
  simp only [lone, Bool.and_eq_true, List.all_eq_true, bne_iff_ne, beq_iff_eq] at e
  exact ⟨e.1.1, e.1.2, e.2⟩

def loneOn (s : State) (op : Nat) (c : HostCmd) : Bool := lone (on s c) op c

/-- Ring 1, or ring 1023, of one module. -/
def ringBlock (n : Nat) : List Byte := le 2 n ++ le 1 0 ++ le 1 1 ++ le 64 0

/-- A SOLE module that is its class's only member. -/
def alone : State := setCol (cls .sole) fun c => { c with members := 1 }

def endCmd (n : Nat) : HostCmd := cmd 0 { slot 0x001C with param0 := n }
def switchCmd : HostCmd := cmd 1 { slot 0x0111 with param0 := 7 + 2 ^ 16 * 6, param1 := 7 }
def resetCmd : HostCmd := cmd 1 { slot 0x011A with param0 := 9 }
def liftCmd : HostCmd := cmd 1 { slot 0x0138 with param0 := 9 + 2 ^ 16 * 4, param1 := 7 }
def ringCmd (n : Nat) : HostCmd := cmd 1 (block 0x0130 (ringBlock n))

theorem witness_ClassCommandsInstallTheirChange :
    (bitsOf (startJobCmd 1 0).slot.param0 0 16 ≠ 0 ∧ up.job.running = false ∧ bitsOf (startJobCmd 1 0).slot.param0 16 16 = up.job.layoutEpoch ∧
      bitsOf (startJobCmd 65535 1).slot.param0 0 16 ≠ 0 ∧ bitsOf (startJobCmd 1 1).slot.param0 16 16 ≠ up.job.layoutEpoch) ∧
    (job.job.running = true ∧ (endCmd 1).slot.param0 = job.job.number) ∧
    (job.job.running = true ∧ tableAt job (tableDescOf (inlineOf (tableSlot table) 128)).table = none) ∧
    ((tableAt (withTable job table) 7).any (fun d => d.replaceMode = 1 && epochOfSlot d d.active = 5 && d.switchStep = noSwitch) = true ∧
      bitsOf switchCmd.slot.param0 16 16 = 6 ∧ bitsOf switchCmd.slot.param0 0 12 = 7 ∧ job.job.openStep + 2 ≤ switchCmd.slot.param1) ∧
    paramFault job (inlineOf (block 0x0119 paramBlock) 64) = none ∧
    (∀ s ∈ [withScale job 9 record, withScale (cls .paired) 9 record], (mget s.scaling (bitsOf resetCmd.slot.param0 0 16)).isSome = true) ∧
    (strictlyRising (outlierList (order outlierCmd.slot (le 4 0 ++ le 4 127))) = true ∧
      ((outlierList (order outlierCmd.slot (le 4 0 ++ le 4 127))).all fun j =>
        ((outlierList (order outlierCmd.slot (le 4 0 ++ le 4 127))).filter fun x => x / 128 = j / 128).length ≤ perBlock job) = true) ∧
    (planCmd.slot.param1 = job.job.openStep + 2 ∧ job.col.reshard = none ∧
      bitsOf planCmd.slot.param0 0 16 = (job.job.layoutEpoch + 1) % 65536 ∧ leAt planBlock 0x3C 4 = planCrc planBlock ∧
      planFault job planBlock (bitsOf planCmd.slot.param0 0 16) = none ∧ planUnpaired job planBlock = false ∧
      loneOn aloneJob 0x0132 planCmd = true ∧ planBytes (operandBytes (on aloneJob planCmd) planCmd planBlock 64) = 64 ∧
      operandOut (on aloneJob planCmd) planCmd 64 = false ∧ operandFault (on aloneJob planCmd) planCmd 64 = none ∧
      operandBytes (on aloneJob planCmd) planCmd planBlock 64 = planBlock) ∧
    (mget (withScale job 9 record).scaling (bitsOf liftCmd.slot.param0 0 16) = some record ∧ bitsOf liftCmd.slot.param0 16 3 = 4 ∧
      job.job.openStep + 2 ≤ liftCmd.slot.param1 ∧ badSector (withScale job 9 record) (scaleAddr job.part 9) 32 = none) ∧
    (∀ n ∈ [1, 1023], leAt (inlineOf (block 0x0130 (ringBlock n)) 68) 0 2 = n ∧ leAt (inlineOf (block 0x0130 (ringBlock n)) 68) 2 1 ≤ 3 ∧
      leAt (inlineOf (block 0x0130 (ringBlock n)) 68) 3 1 = 1 ∧ leAt (inlineOf (block 0x0130 (ringBlock n)) 68) 4 1 = 0 ∧
      ringInUse (cls .paired) n = false ∧ ringHops (cls .paired) 0 [0] = true ∧ 0 < (cls .paired).twin.size ∧
      (cls .paired).job.running = false ∧ job.job.running = true ∧ ringInUse job n = false ∧ ringHops job 0 [0] = true) := by decide +kernel

/-- A module with a broken ring 1. -/
def brokenRing : State := setCol job fun c => { c with rings := [(1, ⟨[0], 0, true⟩)] }

theorem witness_ClassCommandsInstallTheirChange_alone :
    loneOn alone 0x001B (startJobCmd 1 0) = true ∧ loneOn aloneJob 0x001C (endCmd 1) = true ∧
    jobBusy (on aloneJob (endCmd 1)) (endCmd 1) = false ∧ loneOn aloneJob 0x0110 (cmd 1 (tableSlot table)) = true ∧
    loneOn alone 0x0110 (cmd 1 (tableSlot table)) = true ∧ loneOn aloneJob 0x0111 switchCmd = true ∧
    loneOn aloneJob 0x0119 (cmd 1 (block 0x0119 paramBlock)) = true ∧ (∀ s ∈ [alone, aloneJob], loneOn s 0x011A resetCmd = true) ∧
    loneOn aloneJob 0x0138 liftCmd = true ∧ (∀ s ∈ [alone, aloneJob], loneOn s 0x0130 (ringCmd 1) = true) ∧
    loneOn aloneJob 0x011B outlierCmd = true ∧ operandOut (on aloneJob outlierCmd) outlierCmd 8 = false ∧
    operandFault (on aloneJob outlierCmd) outlierCmd 8 = none ∧
    operandBytes (on aloneJob outlierCmd) outlierCmd (le 4 0 ++ le 4 127) 8 = le 4 0 ++ le 4 127 ∧
    (mget brokenRing.col.rings 1).any (·.broken) = true ∧ ringHops brokenRing 0 [0] = true := by
  decide +kernel

/-- A relay that waits for the answer of one member. -/
def relayState (refusal : Option (Nat × Nat × Nat × Nat)) : State :=
  setCol job fun c => { c with relays := [⟨3, startJobCmd 1 0, [4], refusal⟩] }

theorem witness_RelayedClassCommandsAreAnsweredAndSettled : fits job (hdr 0x10 4) = true ∧
    (let k := order (block 0x0119 paramBlock) []
     k.withdraw = false ∧ k.slot.opcode = 0x0119 ∧ paramFault job (inlineOf k.slot 64) = none) ∧
    relayWaits job (order (slot 0x001C) []) = false ∧ (order (slot 0x001C) []).withdraw = false ∧
    (installerOf 0x001C).isSome = true ∧
    (∀ r ∈ [none, some (5, 0x12, 0x20, 0)], fits (relayState r) (hdr 0x10 4) = true ∧
      (relayState r).col.relays.find? (·.tag = 3) = some ⟨3, startJobCmd 1 0, [4], r⟩) := by decide +kernel

theorem witness_MessagesTakeEffectOnceAndInOrder : fits job (hdr 4 4) = true ∧ { hdr 4 4 with crcOk := false }.crcOk = false ∧
    0x1C < { hdr 4 4 with dstPoint := 0x1D }.dstPoint ∧ (hdr 4 4).dstPoint ≤ 0x1C ∧ (hdr 4 4).met = [] ∧
    (let s := setPwr job fun p => { p with recess := true }
     deaf s = false ∧ s.pwr.recess = true) ∧
    deaf job = false ∧ job.pwr.recess = false ∧ job.job.running = true ∧ { hdr 4 4 with job := 2 }.job ≠ job.job.number ∧
    { hdr 4 4 with layoutEpoch := 4 }.layoutEpoch ≠ job.job.layoutEpoch ∧ job.col.reshard = none ∧
    { hdr 4 4 with sequence := 0 }.sequence ≤ markOf job (streamOf (hdr 4 4)) ∧
    { hdr 4 4 with sequence := 2 }.sequence = markOf job (streamOf (hdr 4 4)) + 2 := by decide +kernel

def sentMsg : Msg := { dst := 4, hdr := hdr 4 0, body := .heartbeat }

theorem witness_SentMessagesStayUntilAcknowledged : (hdr 0x0D 4).crcOk = true ∧ deaf job = false ∧
    retryFull job (channelSlice job 0) = false ∧ job.col.unsent = [] ∧
    (setCol job fun c => { c with unsent := [sentMsg] }).col.unsent.any (fun x => channelSlice job x.hdr.srcChannel = channelSlice job 0) = true ∧
    (setCol job fun c => { c with retry := [sentMsg] }).col.retry.find?
      (fun x => streamOf x.hdr = streamOf (hdr 4 0) && x.dst = 4 && x.hdr.sequence = 1) = some sentMsg ∧
    deaf (setCol job fun c => { c with retry := [sentMsg] }) = false := by decide +kernel

def shardDesc : ShardDesc := ⟨9, 1, true, true, 0, 3, 1, 2 ^ 20, 0, 65792, 0⟩
def shardSlot (d : ShardDesc) : Slot := block 0x0118 (shardDescBytes d)
def shardCmd (d : ShardDesc) : HostCmd := cmd 1 (shardSlot d)
def twinnedCmd : HostCmd := cmd 1 (tableSlot { table with twinned := true })
def routedCmd (op : Nat) : HostCmd := cmd 0 { slot op with param0 := 15 }
def routedState (p : PairState) : State :=
  setTables (cls p) fun t => { t with routed := [⟨3, routedCmd 0x0019, [1], 0, 0, none⟩] }
def free10 (src : Nat) : MsgHdr := { kind := 0x10, sequence := 1, srcClass := src }

theorem witness_TwinCommandsAreRouted :
    (alone.twin.pair ≠ .paired ∧ ready (on alone (shardCmd shardDesc)) 0x0118 (shardCmd shardDesc) = true ∧
      shardFault alone (inlineOf (shardSlot shardDesc) 64) = none ∧ (shardDescOf (inlineOf (shardSlot shardDesc) 64)).twinned = true) ∧
    (tableFault alone (inlineOf twinnedCmd.slot 128) = none ∧ (tableDescOf (inlineOf twinnedCmd.slot 128)).twinned = true ∧
      alone.twin.number ∈ tableModules (tableDescOf (inlineOf twinnedCmd.slot 128)) ∧ alone.job.running = false ∧
      ready (on alone twinnedCmd) 0x0110 twinnedCmd = true ∧ otherMembers (on alone twinnedCmd) = [] ∧
      (∀ r ∈ (on alone twinnedCmd).col.relays, r.cmd ≠ twinnedCmd)) ∧
    (let s := setTwin job fun t => { t with detachAt := some (5, 9, 3) }
     s.twin.detachAt = some (5, 9, 3) ∧ s.twin.number < 64 ∧ isMember s 9 = true) ∧ 0x8016 ≠ Config.partNumber (cls .sole).part ∧
    (∀ op ∈ [0x0019, 0x001A], inClass (on (cls .paired) (routedCmd op)) = true ∧ (routedCmd op).slot.param0 < (cls .paired).twin.size ∧
      (∀ r ∈ (on (cls .paired) (routedCmd op)).tables.routed, r.cmd ≠ routedCmd op) ∧
      ready (on (cls .paired) (routedCmd op)) op (routedCmd op) = true) ∧
    (fits (cls .paired) (free10 1) = true ∧ (cls .paired).twin.detachAt = none ∧ (cls .paired).twin.pair = .paired) ∧
    (fits (cls .sole) (free10 1) = true ∧ (cls .sole).twin.pair = .sole ∧ twinOf (cls .sole) = 4 ∧
      Config.partNumber (cls .sole).part = 0x8064 ∧ (cls .sole).twin.size = 16 ∧ (cls .sole).twin.seed = 0) ∧
    (fits (routedState .paired) (free10 1) = true ∧
      (routedState .paired).tables.routed.find? (·.tag = 3) = some ⟨3, routedCmd 0x0019, [1], 0, 0, none⟩ ∧
      (routedState .paired).col.relays.find? (·.tag = 3) = none) := by decide +kernel

def attDesc0 : AttDesc := attDescOf (List.replicate 128 0)
def attJob0 (c : HostCmd) : AttJob := ⟨c, attDesc0, [0], [], [], false, 0, [], [], []⟩
def attCmd0 : HostCmd := cmd 1 { slot 0x0120 with step := 5 }
def inRecovery : State := setRel job fun r => { r with recovery := 4 }
def ring1 : Ring := ⟨[0, 9], 0, false⟩

theorem witness_LossesAndRemovalsChangeMembership : (deaf job = false ∧ inClass job = true ∧ job.pwr.recess = false) ∧
    (job.twin.twinRecess = false ∧ job.twin.pair = .paired ∧ job.twin.repairs = []) ∧
    ((hdr 0x0C 4).crcOk = true ∧ inRecovery.rel.recovery ≠ 0) ∧
    (∀ k ∈ [0x0C, 0x0F], ∀ c ∈ [1, 4], fits job (hdr k c) = true) ∧ job.rel.recovery = 0 ∧
    (2 ≠ job.twin.number ∧ 2 ≠ (hdr 0x0F 4).srcClass ∧ partitioned job 2 4 = false) ∧
    (job.twin.number = 0 ∧ 0 ≠ (hdr 0x0F 1).srcClass ∧ (hdr 0x0F 1).srcClass ≠ twinOf job) ∧
    (let s := setTwin job fun t => { t with number := 4 }
     senior s = false ∧ fits s (hdr 0x0F 0) = true) ∧
    ((63 : Nat) < 64 ∧ 5 ≤ job.job.openStep ∧ fits (cls .paired) { kind := 0x0F, sequence := 1, srcClass := 4 } = true ∧
      (cls .paired).job.running = false) ∧
    attFor { job with att := [attJob0 attCmd0] } (hdr 0x0F 4) = some (attJob0 attCmd0) ∧ fits { job with att := [attJob0 attCmd0] } (hdr 0x0F 4) = true ∧
    (let s := setCol job fun c => { c with rings := [(1, ring1)] }
     isMember s 9 = true ∧ nextMember s ≠ some 9 ∧ 9 ≠ twinOf s ∧ s.col.jobs = [] ∧ s.att = [] ∧ s.decodes = [] ∧ s.col.relays = [] ∧
       s.tables.routed = [] ∧ s.tables.lookups = [] ∧ s.tables.backwards = [] ∧ s.tables.descs = [] ∧ s.tables.batches = [] ∧
       s.col.reshard = none ∧ s.col.unsent = []) ∧
    (isOpen (cls .detached)).twin.pair ≠ .enrollingTarget ∧ (isOpen (cls .detached)).twin.number = 0 ∧
    fits (isOpen (cls .detached)) (hdr 0x0F 4) = true ∧
    (let s := setTwin (isOpen (cls .enrollingTarget)) fun t => { t with endMark := some 6 }
     s.twin.endMark = some 6 ∧ fits s (hdr 0x0F 4) = true) := by decide +kernel

def repair0 : Repair := { newRepair 0 4 true [] with closed := true, waiting := [scaleAddr .nst8064 9], offered := [scaleAddr .nst8064 9] }
def withRepairs (s : State) (rs : List Repair) : State := setTwin s fun t => { t with repairs := rs }

/-- A module with a snapshot of step 4. -/
def snapState : State := setTwin job fun t => { t with snapshots := [(4, [(0, 11), (1, 12)])] }

/-- A module with a repair at its step of the scaling record of tensor 9, sound or not. -/
def copyState (bad : Bool) : State :=
  setGddr (withRepairs (withScale job 9 record) [repair0]) fun g =>
    { g with badSectors := if bad then [sectorOf (scaleAddr .nst8064 9)] else [] }

theorem witness_DigestsOpenAndCopiesEndRepairs :
    (fits snapState (hdr 0x0C 4) = true ∧ snapState.twin.pair = .paired ∧ snapState.twin.digestsOff = false ∧ 4 < snapState.job.openStep ∧
      (mget snapState.twin.snapshots 4).any (fun x => mget x 0 = some 11 && mget x (2 ^ 20 / 2 ^ 20) = some 12) = true ∧
      (mget snapState.twin.snapshots 4).any (fun x => ([(2 ^ 20, 12)] : List (Nat × Nat)).all fun d => mget x (d.1 / 2 ^ 20) = some d.2) = true ∧
      repairOf snapState 0 = none ∧ snapState.job.openStep ≤ 5) ∧
    (fits (withRepairs job [newRepair 0 4 true []]) (hdr 0x0C 4) = true ∧
      (repairOf (withRepairs job [newRepair 0 4 true []]) 0).any (fun r => r.got.isNone) = true) ∧
    (∀ b ∈ [false, true], fits (copyState b) (hdr 0x0C 4) = true ∧
      repairFor (copyState b) (scaleAddr .nst8064 9) = some repair0 ∧ repair0.act = 0 ∧
      (findItem (noted (copyState b) (hdr 0x0C 4)) (scaleAddr .nst8064 9)).any (fun it =>
        itemOk (noted (copyState b) (hdr 0x0C 4)) it = !b && itemBytes (noted (copyState b) (hdr 0x0C 4)) it != []) = true) := by
  decide +kernel

def waitState (torn : Bool) : State := setTwin job fun t => { t with waits := [⟨64, 64, false, torn, false⟩] }

theorem witness_TwinsServeItems :
    (fits (withScale job 9 record) (hdr 0x0C 4) = true ∧ (withScale job 9 record).twin.pair = .paired ∧
      finishOpen (noted (withScale job 9 record) (hdr 0x0C 4)) (openAddr (noted (withScale job 9 record) (hdr 0x0C 4)) (scaleAddr .nst8064 9)) =
        noted (withScale job 9 record) (hdr 0x0C 4) ∧ itemTorn (noted (withScale job 9 record) (hdr 0x0C 4)) (scaleAddr .nst8064 9) = false ∧
      (findItem (noted (withScale job 9 record) (hdr 0x0C 4)) (scaleAddr .nst8064 9)).any (fun it =>
        itemOk (noted (withScale job 9 record) (hdr 0x0C 4)) it && (itemStep (noted (withScale job 9 record) (hdr 0x0C 4)) it).isNone) = true) ∧
    (fits (isOpen (cls .sole)) (hdr 0x0C 4) = true ∧ (isOpen (cls .sole)).twin.pair ≠ .paired) ∧
    (∀ b ∈ [false, true], fits (waitState b) (hdr 0x0C 4) = true ∧
      (waitState b).twin.waits.find? (·.addr = 64) = some ⟨64, 64, false, b, false⟩ ∧ scaleAt (waitState b) 64 = none) := by decide +kernel

def sourceState : State := setTwin (setJob (isOpen (cls .enrollingSource)) fun j => { j with openStep := 8, closedStep := 7 }) fun t =>
  { t with enrolment := some ⟨63, 0, true, some 7, none⟩, digestsOff := true }

theorem witness_EnrolmentCopiesTheTwin : ((cls .detached).twin.pair = .detached ∧ deadChannels (cls .detached) = [] ∧ deaf (cls .detached) = false) ∧
    (sourceState.twin.enrolment = some ⟨63, 0, true, some 7, none⟩ ∧ sourceState.twin.pair = .enrollingSource ∧ (sourceState.twin.enrolment.any fun x => x.attach.isNone) = true ∧ sourceState.job.running = true ∧
      7 ≤ sourceState.job.closedStep) ∧
    (fits (isOpen (cls .sole)) (hdr 0x0C 4) = true ∧ (isOpen (cls .sole)).twin.pair = .sole ∧ (hdr 0x0C 4).srcClass = twinOf (isOpen (cls .sole))) ∧
    (cls .enrollingTarget).twin.held = [] ∧
    (∀ p ∈ [PairState.detached, .enrollingTarget], fits (cls p) { kind := 0x0C, sequence := 1, srcClass := 4 } = true ∧ (cls p).twin.pair = p ∧
      twinOf (cls p) = 4) ∧
    (devRange (cls .enrollingTarget) (biasTop - 2 ^ 20) (2 ^ 20) = true ∧ Memory.wf (cls .enrollingTarget).mem = true ∧
      (([(0, 1), (2 ^ 20 - 1, 2)] : List (Nat × Byte)).map (·.1)).Nodup ∧ ∀ k ∈ ([(0, 1), (2 ^ 20 - 1, 2)] : List (Nat × Byte)), k.1 < 2 ^ 20) := by
  decide +kernel

/-! ### Witnesses: tables, look-ups and updates -/

def withMem (s : State) (a : Nat) (bs : List Byte) : State := devWrite s a bs

def lookBlock (len : Nat) : List Byte := le 2 7 ++ le 2 0 ++ le 4 2 ++ le 4 1 ++ le 4 0 ++ le 8 0x10000 ++ le 8 0x10100 ++ le 8 0x20000 ++
  le 8 0x30000 ++ le 8 0x40000 ++ le 8 len

def lookCmd (len : Nat) : HostCmd := cmd 1 { block 0x0114 (lookBlock len) with step := 5 }

/-- A look-up of two occurrences, with its indices and its last offset. -/
def lookState (len i j last : Nat) : State :=
  on (withMem (withMem (withTable job table) 0x10000 (le 8 i ++ le 8 j)) 0x10100 (le 4 0 ++ le 4 last)) (lookCmd len)

/-- What every look-up clause asks. -/
def lookReady (s : State) (len : Nat) : Bool :=
  ready s 0x0114 (lookCmd len) && s.tables.lookups.all (·.cmd != lookCmd len) && tableAt s 7 = some table
    && (lookupFault s table (lookCmd len) (inlineOf (lookCmd len).slot 64)).isNone && !switchHolds s table 5
    && !memWaits s 0x10000 16 && !memWaits s 0x10100 8 && (badSector s 0x10000 16).isNone && (badSector s 0x10100 8).isNone

theorem witness_LookUpsAreRouted :
    (lookReady (lookState 72 1 2 1) 72 = true ∧ offsetsOk [0, 1] 2 = false ∧
      leNat (devRead (lookState 72 1 2 1) (0x10100 + 4) 4) = 1) ∧
    (let s := lookState 71 1 2 2
     ready s 0x0114 (lookCmd 71) = true ∧ (∀ k ∈ s.tables.lookups, k.cmd ≠ lookCmd 71) ∧ tableAt s 7 = some table ∧
       lookupFault s table (lookCmd 71) (inlineOf (lookCmd 71).slot 64) = some (blockField 0x38) ∧ 71 + 1 = 2 * (4 + entryBytes table)) ∧
    offsetsOk [0, 2] 2 = true ∧
    (lookReady (lookState 72 1 4 2) 72 = true ∧ (keyOf table 4).isNone = true ∧ leNat (devRead (lookState 72 1 4 2) (0x10000 + 8) 8) = 4) ∧
    (lookReady (lookState 72 3 3 2) 72 = true ∧ keyOf table 3 = some ⟨0, 3⟩ ∧
      (passesOf (lookState 72 3 3 2) (dedup [] [⟨0, 3⟩, ⟨0, 3⟩])).flatten = [⟨0, 3⟩] ∧
      (tryWrite (lookState 72 3 3 2) 0x40000 (le 4 0 ++ le 4 0)).toBool = true ∧ lostOwner (lookState 72 3 3 2) table [⟨0, 3⟩] = none) ∧
    (let s := setCol (lookState 72 3 3 2) fun c => { c with members := 0xFFFE }
     lookReady s 72 = true ∧ lostOwner s table [⟨0, 3⟩] = some 0) := by decide +kernel

def tableHdr (kind epoch step : Nat) : MsgHdr := { hdr kind 4 with tensorId := 7, tableEpoch := epoch, step := step }

/-- A sound record of the table, with a tag. -/
def recordOf (tag : Nat) : List Byte := recordHead 4 9 tag ++ List.replicate 16 1 ++ le 3 4 ++ [0]

def recordState (tag : Nat) : State := withMem (withTable job table) (recordAddr table 0 ⟨0, 3⟩) (recordOf tag)

def learned : TableDesc :=
  { table with optimiser := 1, stride := up64 (recordLength { table with optimiser := 1 }) }

/-- The rows of step 4 are applied to table 7, or not. -/
def learnedState (done : Nat) : State :=
  setTables (withTable job learned) fun t => { t with applied := [(7, done)] }

/-- A twinned table whose record of row 3 is sound. -/
def twinTable : TableDesc := { table with twinned := true }

def twinRecords : State := withMem (withMem (withTable job twinTable) (recordAddr table 0 ⟨0, 3⟩) (recordOf 1)) (checkAddr table 0 ⟨0, 3⟩)
  (le 4 (crc32c (recordOf 1)))

def served : State := finishOpen (noted twinRecords (hdr 0x0C 4)) (openAddr (noted twinRecords (hdr 0x0C 4)) (recordAddr table 0 ⟨0, 3⟩))

theorem witness_TwinsServeItems_update : fits twinRecords (hdr 0x0C 4) = true ∧ twinRecords.twin.pair = .paired ∧
    itemTorn served (recordAddr table 0 ⟨0, 3⟩) = false ∧
    (findItem served (recordAddr table 0 ⟨0, 3⟩)).any (fun it => itemOk served it && itemStep served it = some 4) = true := by decide +kernel

theorem witness_OwnersServeBatches : (fits job (tableHdr 4 5 5) = true ∧ tableAt job 7 = none) ∧
    (fits (withTable job table) (tableHdr 4 6 5) = true ∧ tableAt (withTable job table) 7 = some table ∧ slotOfEpoch table 6 = none) ∧
    (fits (learnedState 3) (tableHdr 4 5 5) = true ∧ tableAt (learnedState 3) 7 = some learned ∧ slotOfEpoch learned 5 = some 0 ∧
      appliedThrough (learnedState 3) learned 4 = false) ∧
    (fits (learnedState 4) (tableHdr 4 5 5) = true ∧ batchHeld (learnedState 4) learned 5 5 = false) ∧
    (fits (recordState 1) (tableHdr 4 5 5) = true ∧ batchHeld (recordState 1) table 5 5 = false ∧
      (readKeys (startDomain (noted (recordState 1) (tableHdr 4 5 5)) (domEmb (embPage (recordState 1) 0))) table 0 5 [⟨0, 3⟩]).2.isSome = true) ∧
    (∀ tag ∈ [1, 3], let w := recordState tag
      let a := recordAddr table 0 ⟨0, 3⟩
      let bs := devRead w a table.stride
      w.tables.open2 = [] ∧ w.tables.torn = [] ∧ w.twin.waits = [] ∧ memWaits w a table.stride = false ∧ badSector w a table.stride = none ∧
        headOk bs = true ∧ momentStamp bs = weightStamp table bs ∧ recordTag bs = tag) ∧ table.tag = 1 := by decide +kernel

def lookupOf (todo : List (List RowKey)) : Lookup where
  cmd := lookCmd 72
  table := 7
  step := 5
  epoch := 5
  pooling := 0
  outFormat := 0
  mode := .fast
  rounding := .rne
  bags := [0, 2]
  occurrences := [⟨0, 3⟩, ⟨0, 2⟩]
  keys := [⟨0, 3⟩, ⟨0, 2⟩]
  replies := []
  output := 0x20000
  report := 0x30000
  scratch := 0x40000
  pass := 1
  todo := todo
  done := false

def replyEntry (slot : Nat) (f : Option (Nat × Nat × Nat)) : ReplyEntry := ⟨⟨0, slot⟩, List.replicate 16 0, 9, f⟩

def replyState (todo : List (List RowKey)) : State := setTables (withTable job table) fun t => { t with lookups := [lookupOf todo] }

def replyHdr : MsgHdr := tableHdr 5 5 5

theorem witness_RepliesEndLookUps :
    (fits (replyState [[⟨0, 3⟩, ⟨0, 2⟩]]) replyHdr = true ∧ tableAt (replyState [[⟨0, 3⟩, ⟨0, 2⟩]]) 7 = some table ∧
      (lookupFor (replyState [[⟨0, 3⟩, ⟨0, 2⟩]]) replyHdr [replyEntry 3 (some (0x23, 64, 0))]) = some (lookupOf [[⟨0, 3⟩, ⟨0, 2⟩]]) ∧
      [replyEntry 3 (some (0x23, 64, 0))].findSome? (·.fail) = some (0x23, 64, 0)) ∧
    (lookupFor (replyState [[⟨0, 3⟩, ⟨0, 2⟩]]) replyHdr [replyEntry 3 none] = some (lookupOf [[⟨0, 3⟩, ⟨0, 2⟩]]) ∧
      [replyEntry 3 none].findSome? (·.fail) = none ∧
      (storeEntries (progress (noted (replyState [[⟨0, 3⟩, ⟨0, 2⟩]]) replyHdr) .emb 0 1) table (lookupOf [[⟨0, 3⟩, ⟨0, 2⟩]])
        [replyEntry 3 none]).toBool = true ∧
      (([⟨0, 3⟩, ⟨0, 2⟩] : List RowKey).any fun k => !([replyEntry 3 none].any fun x => x.key = k)) = true) ∧
    (lookupFor (replyState [[⟨0, 3⟩], [⟨0, 2⟩]]) replyHdr [replyEntry 3 none] = some (lookupOf [[⟨0, 3⟩], [⟨0, 2⟩]]) ∧
      (([⟨0, 3⟩] : List RowKey).all fun k => [replyEntry 3 none].any fun x => x.key = k) = true ∧ 1 < (lookupOf [[⟨0, 3⟩], [⟨0, 2⟩]]).todo.length) := by
  decide +kernel

/-- The look-up of row 3 that is left, with row 2 answered. -/
def lastLookup : Lookup := { lookupOf [[⟨0, 3⟩]] with replies := [replyEntry 2 none] }

def lastState : State := setTables (withTable job table) fun t => { t with lookups := [lastLookup] }

def answered : Lookup := { lastLookup with replies := [replyEntry 2 none, replyEntry 3 none] }

theorem witness_RepliesEndLookUps_last : ∃ u u1 u2 : State, fits lastState replyHdr = true ∧
    lookupFor lastState replyHdr [replyEntry 3 none] = some lastLookup ∧
    (([⟨0, 3⟩] : List RowKey).all fun k => answered.replies.any fun x => x.key = k) = true ∧
    (answered.replies.any fun r => weightsReserved table.tag table.elements r.weights) = false ∧
    storeEntries (progress (noted lastState replyHdr) .emb (embPage lastState 0) 1) table lastLookup [replyEntry 3 none] = .ok u ∧
    tryWrite u 0x20000 ((outputTiles u table answered
      ((poolLines table answered (bagSpans [0, 2])).map fun l => l.map (·.1))).flatMap (·.1)) = .ok u1 ∧
    tryWrite u1 0x30000 (bagReport [9, 9]) = .ok u2 := by
  refine ⟨_, _, _, by decide +kernel, by decide +kernel, by decide +kernel, by decide +kernel, rfl, rfl, rfl⟩

def backCmd : HostCmd := cmd 1 { slot 0x0115 with param0 := 7, param1 := 0x40000, param2 := 0x50000, step := 5 }

def params : Params := ⟨9, .fast, 0x3F800000, 0, 0, 0x3F000000, 0, 0x3F800000, 1, 5⟩

/-- The header of a gradient tile with a tag. -/
def gradHead (tag : Nat) : List Byte := withCrc (le 1 tag ++ List.replicate 63 0)

def backState (d : TableDesc) (lks : List Lookup) (tag : Nat) : State :=
  on (withMem (setTables (withTable job d) fun t => { t with params := [(9, params)], lookups := lks }) 0x50000 (gradHead tag)) backCmd

def doneLookup : Lookup := { lookupOf [] with bags := [0], occurrences := [], keys := [], done := true }

theorem witness_GradientRowsAreSentAndKept :
    (ready (backState table [] 1) 0x0115 backCmd = true ∧ tableAt (backState table [] 1) 7 = some table ∧ table.optimiser = 0) ∧
    (ready (backState learned [] 1) 0x0115 backCmd = true ∧ tableAt (backState learned [] 1) 7 = some learned ∧ learned.optimiser ≠ 0 ∧
      (paramsFor (backState learned [] 1) 9 5).isSome = true ∧ (backState learned [] 1).tables.lookups = []) ∧
    (∀ tag ∈ [1, 2, 3], ready (backState learned [doneLookup] tag) 0x0115 backCmd = true ∧ (backState learned [] tag).tables.backwards = [] ∧
      ((backState learned [doneLookup] tag).tables.lookups.find? fun x => x.done && x.scratch = 0x40000 && x.table = 7 && x.step = 5) =
        some doneLookup ∧ rangeBad (backState learned [doneLookup] tag) 0x50000 64 = false ∧ memWaits (backState learned [doneLookup] tag) 0x50000 64 = false ∧
      pReady (backState learned [doneLookup] tag) 9 = true ∧ badSector (backState learned [doneLookup] tag) 0x50000 64 = none ∧
      leAt (devRead (backState learned [doneLookup] tag) 0x50000 64) 0 1 = tag ∧
      leAt (devRead (backState learned [doneLookup] tag) 0x50000 64) 0x3C 4 = crc32c (devRead (backState learned [doneLookup] tag) 0x50000 60)) ∧
    (∀ tag ∈ [1, 3], (match readGrads (backState learned [doneLookup] tag) 0x50000 tag 4 0 with
      | .ok _ => true
      | _ => false) = true) ∧
    (fits (withTable job table) (tableHdr 6 5 5) = true ∧ (slotOfEpoch table 5).isSome = true ∧ slotOfEpoch table 6 = none ∧
      fits (withTable job table) (tableHdr 6 6 5) = true ∧ fits job (tableHdr 6 5 5) = true ∧ tableAt job 7 = none) ∧
    (fits job (tableHdr 0x0A 5 5) = true ∧ marked job 7 5 4 = false ∧
      (let s := setTables job fun t => { t with marks := [(7, 5, 4)] }
       fits s (tableHdr 0x0A 5 5) = true ∧ marked s 7 5 4 = true)) := by decide +kernel

/-- What Quiet asks, as a test. -/
def quiet (s : State) : Bool := s.gddr.retraining == [] && s.gddr.badSectors == [] && deadChannels s == []

theorem quiet_of_test {s : State} (e : quiet s = true) : Quiet s := by
  simp only [quiet, Bool.and_eq_true, beq_iff_eq] at e
  exact ⟨e.1.1, e.1.2, e.2⟩

def staging : TableDesc := { table with switchStep := 7, epoch1 := 6 }
def rolling : TableDesc := { table with replaceMode := 2, slot1 := 0, check1 := 0 }
def stageCmd : HostCmd := cmd 1 { slot 0x0112 with param0 := 7 + 2 ^ 31, param1 := 1 }
def rollCmd : HostCmd := cmd 1 { slot 0x0113 with param0 := 7, param1 := 1 }
def stageData : List Byte := le 8 3 ++ recordOf 1
def rollData : List Byte := le 8 3 ++ le 2 9 ++ le 6 0 ++ List.replicate 16 1
def noHolder (s : State) : State := setCol s fun c => { c with members := 0xFFFE }

theorem witness_TableContentsAreStagedAndRolled :
    (∀ s ∈ [on (withTable job staging) stageCmd, noHolder (on (withTable job staging) stageCmd)], ready s 0x0112 stageCmd = true ∧
      s.tables.routed = [] ∧ tableAt s 7 = some staging ∧ operandOut s stageCmd (8 + recordLength staging) = false ∧
      operandFault s stageCmd (8 + recordLength staging) = none) ∧
    bitsOf stageCmd.slot.param0 0 12 = 7 ∧ staging.replaceMode = 1 ∧ staging.switchStep ≠ noSwitch ∧
    (∀ e ∈ entriesOf (operandBytes (on (withTable job staging) stageCmd) stageCmd stageData (8 + recordLength staging)) (8 + recordLength staging) 1,
      (keyOf staging (leAt e 0 8)).isSome = true ∧ leAt e 0 8 = 3) ∧
    (∀ s ∈ [on (withTable job rolling) rollCmd, noHolder (on (withTable job rolling) rollCmd)], ready s 0x0113 rollCmd = true ∧
      s.tables.routed = [] ∧ tableAt s 7 = some rolling ∧ operandOut s rollCmd (16 + weightBytes 1 4) = false ∧
      operandFault s rollCmd (16 + weightBytes 1 4) = none) ∧
    (∀ e ∈ entriesOf (operandBytes (on (withTable job rolling) rollCmd) rollCmd rollData (16 + weightBytes 1 4)) (16 + weightBytes 1 4) 1,
      (keyOf rolling (leAt e 0 8)).isSome = true ∧ leAt e 10 1 = 0) ∧
    rowHolders (withTable job staging) staging 0 = [0] ∧ rowHolders (noHolder (withTable job staging)) staging 0 = [] ∧
    (ready (on (withTable job table) stageCmd) 0x0112 stageCmd = true ∧ table.switchStep = noSwitch ∧
      ready (on (withTable job table) rollCmd) 0x0113 rollCmd = true ∧ table.replaceMode ≠ 2) ∧
    (fits (withTable job staging) (hdr 0x10 4) = true ∧ keyOf staging 3 = some ⟨0, 3⟩) ∧
    quiet (noted (withTable job staging) (hdr 0x10 4)) = true ∧
    (fits (withTable job rolling) (hdr 0x10 4) = true ∧ keyOf rolling 0 = some ⟨0, 0⟩ ∧
      rollFault (noted (withTable job rolling) (hdr 0x10 4)) rolling rolling.active ⟨0, 0⟩ false = none) := by decide +kernel

def open2 : Open2 := ⟨2 ^ 20, 0, false, 2 ^ 20 + 8, [1, 2], 3 * 2 ^ 20, [3, 4, 5, 6], false⟩

def openState : State := setTables job fun t => { t with open2 := [open2] }

/-- A renewal pass of a step at the unit of table 7, its channels in service or retraining. -/
def renewState (step : Nat) (away : Bool) : State :=
  setGddr (setTables (withMem (withTable job learned) (2 ^ 20) (recordHead 0 9 1)) fun t =>
    { t with renewal := [(memOf .nst8064 (2 ^ 20), step, 0)] }) fun g =>
    { g with retraining := if away then List.range 64 else [] }

theorem witness_UpdatesTakeTwoWrites :
    openState.tables.open2.find? (·.addr = 2 ^ 20) = some open2 ∧ quiet openState = true ∧
    writeHeld (setGddr openState fun g => { g with retraining := List.range 64 }) open2 = true ∧ job.tables.open2 = [] ∧
    job.tables.renewal = [] ∧
    (let s := setTables job fun t => { t with renewal := [(3, 5, 0)] }
     s.tables.renewal.find? (fun r => r.1 = 3) = some (3, 5, 0) ∧ unitRecords s 3 = []) ∧
    (∀ step ∈ [5, 2 ^ 22 + 5], (renewState step false).tables.renewal.find? (fun r => r.1 = memOf .nst8064 (2 ^ 20)) =
        some (memOf .nst8064 (2 ^ 20), step, 0) ∧
      (unitRecords (renewState step false) (memOf .nst8064 (2 ^ 20))).head? = some (2 ^ 20, learned, 0, ⟨0, 0⟩) ∧
      copyless (renewState step false) learned.twinned step = false ∧
      (match readyRecord (renewState step false) learned 0 ⟨0, 0⟩ step true with
        | .ok _ bs => renewable learned bs step = (step != 5)
        | _ => false) = true ∧
      (match readyRecord (renewState step true) learned 0 ⟨0, 0⟩ step true with
        | .wait _ => true
        | _ => false) = true) := by decide +kernel

/-- A dense shard of one tile, at line 1 and depth 2, without an optimiser or with one. -/
def denseShard (opt : Nat) : ShardDesc := ⟨9, 1, false, true, opt, 3, 1, 2 ^ 20, 2 ^ 21, 65792, 65792⟩

def shardState (opt stamp : Nat) : State :=
  withMem (withMem (setTables job fun t => { t with shards := [(9, denseShard opt)], params := [(9, params)] }) (2 ^ 20)
    (le 8 1 ++ le 2 1 ++ le 2 2 ++ le 3 stamp)) (2 ^ 21) (le 12 0 ++ le 3 stamp)

def tileHdr : MsgHdr := { hdr 7 4 with tensorId := 9 }

/-- The state in which an update of that tile begins. -/
def begun (s : State) : State := startDomain (noted s tileHdr) (domUpd (memOf s.part (2 ^ 20)))

def pend : PendTile := { hdr := tileHdr, line := 1, depth := 2, elems := [] }

/-- A DETACHED module with a twinned shard. -/
def copylessState : State := setTwin (setTables (shardState 1 4) fun t => { t with shards := [(9, { denseShard 1 with twinned := true })] })
  fun t => { t with pair := .detached }

theorem witness_ReducedTilesAreAppliedOnce : (fits job tileHdr = true ∧ mget job.tables.shards 9 = none) ∧
    (∀ opt ∈ [0, 1], ∀ stamp ∈ [4, 5], let s := shardState opt stamp
      fits s tileHdr = true ∧ mget s.tables.shards 9 = some (denseShard opt) ∧ findTile (noted s tileHdr) (denseShard opt) 1 3 = none ∧
      findTile (noted s tileHdr) (denseShard opt) 1 2 = some 0 ∧ s.tables.open2 = [] ∧ copyless (begun s) false tileHdr.step = false ∧
      s.tables.torn = [] ∧ tileHeld (begun s) pend = false ∧ s.twin.repairs = [] ∧ s.twin.waits = [] ∧ quiet (begun s) = true ∧
      s.twin.pair = .paired ∧ pairTorn (begun s) (denseShard opt) 0 = false ∧ leAt (devRead (begun s) (2 ^ 20) 64) 0xC 3 = stamp ∧
      (paramsFor s 9 tileHdr.step).isSome = true) ∧
    (fits copylessState tileHdr = true ∧ copyless (begun copylessState) true tileHdr.step = true ∧
      (mget copylessState.tables.shards 9).isSome = true) ∧
    (let s := setTables (shardState 1 4) fun t => { t with torn := [2 ^ 20] }
     fits s tileHdr = true ∧ 2 ^ 20 ∈ s.tables.torn) ∧
    (let s := setJob (shardState 1 4) fun j => { j with exchangesDue := [4] }
     fits s tileHdr = true ∧ tileHeld (begun s) pend = true ∧ s.tables.torn = []) := by decide +kernel

def defineCmd (d : ShardDesc) : HostCmd := shardCmd d
def selectState (assisted : Nat) (current : List Nat) : State :=
  setField (setTables { setCol (setJob job (fun j => { j with openStep := 256 })) (fun c => { c with maxima := (List.range 16).map fun m => (256, m) })
    with outliers := [(9, { noOutliers with current := current })] }
    fun t => { t with shards := [(9, denseShard 0)] }) .mgt 0 0x010 1 1 assisted

def mgtHandState (bit : Nat) (items : List Nat) : State :=
  setHif (withScale job 9 record) fun h => { h with hands := [⟨0, pageOf .mgt 0, bit, items⟩] }

def switchHandState : State :=
  setHif (withTable job staging) fun h => { h with hands := [⟨0, pageOf .emb 0, 0, [7]⟩] }

theorem witness_ShardsListsAndAnswersAreTaken :
    (ready (on job (defineCmd { denseShard 0 with tiles := 0 })) 0x0118 (defineCmd { denseShard 0 with tiles := 0 }) = true ∧
      (shardFault (on job (defineCmd { denseShard 0 with tiles := 0 })) (inlineOf (defineCmd { denseShard 0 with tiles := 0 }).slot 64)) = some 8) ∧
    (ready (on job (defineCmd (denseShard 1))) 0x0118 (defineCmd (denseShard 1)) = true ∧
      shardFault (on job (defineCmd (denseShard 1))) (inlineOf (defineCmd (denseShard 1)).slot 64) = none) ∧
    (isSelection job 5 = false ∧ mget job.tables.shards 9 = none ∧ maximaIn job 5 = false) ∧
    (∀ assisted ∈ [0, 1], ∀ current ∈ [[], [5]], (mget (selectState assisted current).tables.shards 9).isSome = true ∧
      isSelection (selectState assisted current) 256 = true ∧ (selectState assisted current).job.openStep = 256 ∧
      noOutliers.proposedStep ≤ 256 ∧ maximaIn (selectState assisted current) 256 = true ∧ (selectState assisted current).col.reshard = none ∧
      field (selectState assisted current) .mgt 0 0x010 1 1 = assisted ∧
      chooseOutliers (selectState assisted current) { noOutliers with current := current } (channelMaxima { noOutliers with current := current } 256) = []) ∧
    (up.pwr.auxGood = true ∧ mayWrite up 1 .mgt 0 = false ∧ mayWrite up 0 .mgt 0 = true ∧ oldest up (pageOf .mgt 0) = none ∧
      bitsOf (0x300 : W32).toNat 8 2 = 3) ∧
    (∀ bit ∈ [0, 1, 2], ∀ action ∈ [0, 1, 2], (mgtHandState bit [9, 0, 0, 1]).pwr.auxGood = true ∧
      (oldest (mgtHandState bit [9, 0, 0, 1]) (pageOf .mgt 0)).any (fun h => h.bit = bit && h.items.getD 0 0 = 9) = true ∧
      mget (mgtHandState bit [9, 0, 0, 1]).scaling 9 = some record ∧ bitsOf (BitVec.ofNat 32 (action * 256) : W32).toNat 8 2 = action) ∧
    (signedOf 8 (bitsOf (0x1C0 : W32).toNat 0 8) = -64 ∧ signedOf 8 (bitsOf (0x160 : W32).toNat 0 8) = 96 ∧
      signedOf 8 (bitsOf (0x1BF : W32).toNat 0 8) = -65 ∧ signedOf 8 (bitsOf (0x161 : W32).toNat 0 8) = 97) ∧
    (maxLift job = bitsOf (0x104 : W32).toNat 0 8 ∧ maxLift job < bitsOf (0x105 : W32).toNat 0 8) ∧
    (switchHandState.pwr.auxGood = true ∧ mayWrite switchHandState 0 .emb 0 = true ∧
      (oldest switchHandState (pageOf .emb 0)).any (fun h => h.items.getD 0 0 = 7) = true ∧ tableAt switchHandState 7 = some staging ∧
      (0 : W32).toNat % 4 = 0 ∧ (1 : W32).toNat % 4 = 1 ∧ (2 : W32).toNat % 4 = 2) := by decide +kernel

/-! ### Witnesses: memory, links, reliability, recovery -/

def withGddr (s : State) (rates retraining attempts : List (Nat × Nat)) : State :=
  setGddr s fun g => { g with rates := rates, retraining := retraining.map (·.1), attempts := attempts }

def memState (ch assisted : Nat) : State := setField (withGddr up [(ch, 48)] [] []) .mem (ch / 4) 0x010 0 1 assisted

def holding (n : Nat) : State := withGddr up [(0, 48), (1, 32)] [(0, 0)] [(0, n)]

def handAt (s : State) (page bit : Nat) (items : List Nat) : State := setHif s fun h => { h with hands := [⟨7, page, bit, items⟩] }

/-- A read of the sector at 64 in which n bytes are wrong. -/
def sectorRead (n : Nat) : SectorRead := ⟨127, List.range n, false, 0⟩

theorem witness_MemoryChannelsRetrain :
    (∀ ch ∈ [0, 63], ∀ a ∈ [0, 1], isUp (memState ch a) = true ∧ channelRate (memState ch a) ch ≠ 0 ∧ ch ∉ (memState ch a).gddr.retraining ∧
      memAssisted (memState ch a) (ch / 4) = (a = 1)) ∧
    (∀ n ∈ [0, 1, 2], isUp (holding n) = true ∧ 0 ∈ (holding n).gddr.retraining ∧ channelHand (holding n) 0 = none ∧
      (mget (holding n).gddr.attempts 0).getD 0 = n) ∧
    deviceRate (holding 0) 0 = 32 ∧ deviceRate (withGddr up [] [(0, 0)] []) 0 = 0 ∧
    0 ∉ up.gddr.retraining ∧ (cls .paired).twin.pair = .paired ∧ (cls .sole).twin.pair = .sole ∧
    (∀ addr ∈ [0, Config.reservedBase up.part + 2 ^ 32 - 1], isUp up = true ∧ up.pwr.recess = false ∧ up.gddr.selfRefresh = false ∧
      addr < Config.reservedBase up.part + 2 ^ 32 ∧ field up .mem (memOf up.part addr) 0x11C 0 16 ≠ 0 ∧ memWaits up (sectorOf addr) 64 = false ∧
      paired up = false ∧ badSector up (sectorOf addr) 64 = none) ∧
    (∀ rate ∈ [0, 32, 48], rateStep rate = rate) ∧ (cls .enrollingTarget).twin.pair = .enrollingTarget ∧
    (let s := setGddr (holding 0) fun g => { g with retrying := [0] }
     isUp s = true ∧ 0 ∈ s.gddr.retraining ∧ 0 ∈ s.gddr.retrying ∧ channelHand s 0 = none) ∧
    (∀ q ∈ [(sectorRead 0, some EccRead.clean), (sectorRead 1, some .corrected), (sectorRead 2, some .uncorrectable)],
      decodeSector q.1 = q.2 ∧ writeQueued up 64 = false) ∧
    badSector (meetSector up (sectorRead 0)) 64 64 = none ∧ (badSector (meetSector up (sectorRead 2)) 64 64).isSome = true ∧
    writeQueued openState (sectorOf (2 ^ 20 + 8)) = true ∧
    (badSector (setGddr up fun g => { g with badSectors := [64] }) (sectorOf 127) 64).isSome = true ∧
    field (setField up .mem 0 0x11C 0 16 0) .mem (memOf up.part 0) 0x11C 0 16 = 0 ∧
    (∀ unit ∈ [0, 15], up.pwr.auxGood = true ∧ unit < Config.memDevices up.part ∧ oldest up (pageOf .mem unit) = none ∧
      (oldest (handAt up (pageOf .mem unit) 0 [4 * unit]) (pageOf .mem unit)).isSome = true) := by decide +kernel

/-- One link of module 0 of a class of 16. -/
def linkState (n : Nat) (l : Link) : State := { cls .paired with links := [(n, l)] }

def ready1 : Link := { Link.reset with state := .training, aligned := true }
def serving : Link := { Link.reset with state := .inService, aligned := true, farLink := 2, farClass := 1 }

/-- PL0 in detention, and PL11 ready for its exchange. -/
def spareState : State := { cls .paired with links := [(0, { Link.reset with state := .detention }), (11, ready1)] }

theorem witness_PeerLinksTrainAndRetrain :
    (∀ f ∈ [0, 1, 2], (linkOf (linkState 0 { ready1 with fails := f }) 0).state = .training ∧
      linkLives (linkState 0 { ready1 with fails := f }) 0 = true ∧ (linkOf (linkState 0 { ready1 with fails := f }) 0).fails = f) ∧
    linkLives (linkState 23 serving) 23 = true ∧
    (∀ l ∈ [ready1, serving, { ready1 with retest := true }], inClass (linkState 0 l) = true ∧
      ((linkOf (linkState 0 l) 0).state = .training ∧ (linkOf (linkState 0 l) 0).aligned = true ∨ (linkOf (linkState 0 l) 0).state = .inService) ∧
      linkRole 0 ≠ .spare ∧ rightFar (linkState 0 l) 0 1 2 = true ∧ Config.partNumber (linkState 0 l).part = 0x8064) ∧
    rightFar (linkState 0 ready1) 0 1 3 = false ∧
    (linkLives spareState 11 = true ∧ inClass spareState = true ∧ (linkOf spareState 11).aligned = true ∧ linkRole 11 = .spare ∧
      standInFor spareState 1 2 = some 0 ∧ standInFor spareState 1 3 = none) ∧
    (linkOf (linkState 0 serving) 0).state = .inService ∧ field (linkState 0 serving) .lnk 0 0x010 0 1 = 0 ∧
    (let s := setField (linkState 0 serving) .lnk 0 0x010 0 1 1
     linkLives s 0 = true ∧ (linkOf s 0).state = .inService ∧ field s .lnk 0 0x010 0 1 = 1) ∧
    (∀ f ∈ [0, 1, 2], ∀ r ∈ [false, true], ∀ far ∈ [2, 0x1F],
      let l : Link := { serving with state := .retraining, fails := f, retest := r, farLink := far }
      linkLives (linkState 0 l) 0 = true ∧ (linkOf (linkState 0 l) 0).state = .retraining ∧ linkHand (linkState 0 l) 0 = none) ∧
    (cls .paired).pwr.auxGood = true ∧ (linkOf spareState 0).state = .detention ∧
    (∀ n ∈ [0, 23], (oldest (handAt (linkState n { serving with state := .retraining }) (pageOf .lnk n) 0 [n, 1, 1]) (pageOf .lnk n)).isSome = true ∧
      oldest (linkState n { serving with state := .retraining }) (pageOf .lnk n) = none) := by decide +kernel

def someRepair : Repair := ⟨3, 4, true, [], some [], 7, true, 0, false, [0x300000], [], [], [(0x300000, 5, 2)], some 7⟩

def relState (bit : Nat) (items : List Nat) : State :=
  setTwin (setCores (handAt job (pageOf .rel 0) bit items) fun c => { c with substituting := [(4, 9)], seats := [(32, .reserve)] })
    fun t => { t with repairs := [someRepair] }

/-- A queue with one command that runs and has stood still for n milliseconds. -/
def hungState (n : Nat) (ignored : Bool) : State :=
  setRel (on up nopCmd) fun r => { r with hall := [{ hallEntry (on up nopCmd) ((hallQueues (on up nopCmd)).headD ⟨0, 0, 0, [], false⟩) with
    stalled := n, ignored := ignored }] }

/-- An update unit that has stood still for a second, with the escalation hand of the shared units raised. -/
def sharedHung : State :=
  setRel (handAt openState (pageOf .rel 0) 2 [0xF, 0, 0]) fun r =>
    { r with hall := (hallShared (handAt openState (pageOf .rel 0) 2 [0xF, 0, 0])).map fun v => ⟨v.key, v.progress, 1000, false⟩ }

theorem witness_ReliabilityAnswersAndMonitor :
    up.pwr.auxGood = true ∧ oldest up (pageOf .rel 0) = none ∧ 2 < (3 : W32).toNat ∧
    ((oldest (relState 0 [3]) (pageOf .rel 0)).any (fun h => h.bit = 0 && h.seq = 7) = true ∧
      (relState 0 [3]).twin.repairs.find? (fun r => r.hand = some 7) = some someRepair) ∧
    ((oldest (relState 1 [9, 4, 32]) (pageOf .rel 0)).any (fun h => h.bit = 1 && h.items.getD 1 0 = 4 && h.items.getD 2 0 = 32) = true ∧
      (relState 1 [9, 4, 32]).cores.substituting.find? (fun e => e.1 = 4) = some (4, 9) ∧ mget (relState 1 [9, 4, 32]).cores.seats 32 = some .reserve) ∧
    (∀ fn ∈ [1, 8, 15], (oldest (relState 2 [fn, pageOf .cmd 1, 0]) (pageOf .rel 0)).any (fun h => h.bit = 2 && h.items.headD 0 = fn) = true) ∧
    (∀ q ∈ [(Blk.cmd, 1), (.coreL, 0), (.coreL, 255), (.vec, 255), (.coreP, 271), (.att, 7)],
      locate up.part (pageOf q.1 q.2 + 0x14) = some (q.1, q.2, 0x14) ∧ (resetTarget up q.1 q.2).isSome = true) ∧
    (∀ spare ∈ [[], [(33, Seat.reserve)]], let s := setCores (relState 1 [9, 4, 32]) fun c => { c with seats := spare }
      (oldest s (pageOf .rel 0)).isSome = true ∧ mget s.cores.seats 32 ≠ some .reserve ∧
        (substituteFor s 4).isSome = (spare != []) ∧ s.cores.substituting.find? (fun e => e.1 = 4) = some (4, 9)) ∧
    absentPage up .cmd 1 = false ∧ absentPage up .att 7 = false ∧
    locate up.part (2 ^ 26 - 4) = none ∧ isUp State.reset = false ∧
    (hallCores up ++ hallQueues up ++ hallShared up).length = 0 ∧ isUp up = true ∧
    (∀ n ∈ [99, 100, 998], let s := hungState n false
      isUp s = true ∧ (hallCores s ++ hallQueues s ++ hallShared s).length = 1 ∧
        (hallCores s ++ hallQueues s ++ hallShared s).all (fun v => (hallEntry s v).stalled = n + 1 && v.kind = 1 && v.fn = 1 &&
          (hallEntry s v).ignored = false && hallDeadline s v.kind = 1000) = true ∧
        escalationHand s 1 = none ∧ resetRecent s 1 = false) ∧
    (let s := hungState 999 false
     (hallCores s ++ hallQueues s ++ hallShared s).all (fun v => hallDeadline s v.kind ≤ (hallEntry s v).stalled) = true) ∧
    (let s := hungState 999 true
     (hallCores s ++ hallQueues s ++ hallShared s).all (fun v => (hallEntry s v).ignored) = true) ∧
    (isUp sharedHung = true ∧ (hallCores sharedHung ++ hallQueues sharedHung ++ hallShared sharedHung).length = 1 ∧
      (hallShared sharedHung).all (fun v => hallDeadline sharedHung v.kind ≤ (hallEntry sharedHung v).stalled && !(hallEntry sharedHung v).ignored &&
        v.kind = 2) = true ∧ (escalationHand sharedHung 0xF).isSome = true) := by decide +kernel

def returning (pair start : PairState) (noted : Option PairState) (number : Nat) (members : W64) : State :=
  setRel (setCol (setTwin up fun t => { t with pair := pair, size := 16, number := number, startPair := start, notedRecovery := noted })
    fun c => { c with members := members }) fun r => { r with recovery := 7 }

/-- An image of a kind with a body, for checks that its digests and signature decide. -/
def imageOf (kind : Nat) (body : List Byte) : List Byte :=
  le 4 0x4E534649 ++ le 1 kind ++ le 1 0xFF ++ le 2 1 ++ le 4 3 ++ le 4 body.length ++ List.replicate 1008 0 ++ body

def recovering (n : Nat) : State := setRel up fun r => { r with recovery := n }

theorem witness_RecoveryRunsItsSteps : isUp up = true ∧ up.tables.open2 = [] ∧ isUp State.reset = false ∧ (startRecovery up 1).rel.recovery = 4 ∧
    isUp ({ up with pwr := { up.pwr with perst := true } } : State) = true ∧ (recovering 7).pwr.tripped = false ∧ isUp (recovering 3) = false ∧
    up.hif.running = [] ∧ up.col.relays = [] ∧ up.decodes = [] ∧ up.tables.backwards = [] ∧ up.tables.pendRows = [] ∧ up.tables.pendTiles = [] ∧
    (let s := setTwin (returning .paired .paired none 0 0xFFFF) fun t => { t with notedRemoval := true }
     inClass s = true ∧ s.twin.notedRemoval = true) ∧
    ({ up with pwr := { up.pwr with perst := true } } : State).pwr.perst = true ∧
    up.pwr.perst = false ∧ up.rel.railDie = none ∧
    imageFault up [1] (slotImage up 1 false) ≠ none ∧ imageFault up [1] (slotImage up 1 true) ≠ none ∧
    (recovering 7).rel.recovery = 7 ∧ (recovering 7).pwr.perst = false ∧ (recovering 4).rel.recovery ≠ 7 ∧
    (let s := returning .paired .paired (some .paired) 0 0xFFFF
     inClass s = true ∧ s.twin.notedRemoval = false ∧ senior s = true ∧ isMember s (twinOf s) = true) ∧
    (let s := returning .paired .paired (some .paired) 0 0xFFEF
     inClass s = true ∧ senior s = true ∧ isMember s (twinOf s) = false) ∧
    (let s := returning .paired .paired (some .paired) 4 0xFFFF
     inClass s = true ∧ senior s = false) ∧
    (let s := returning .sole .sole none 0 0xFFFF
     inClass s = true ∧ s.twin.startPair = .sole) ∧
    (let s := returning .paired .paired none 0 0xFFFF
     inClass s = true ∧ s.twin.startPair = .paired ∧ s.twin.notedRecovery = none) ∧
    up.pwr.auxGood = true ∧ up.rel.recovery = 0 ∧ (recovering 3).rel.recovery ≠ 0 ∧ State.reset.pwr.auxGood = false ∧
    bootStep up ≠ 2 ∧ 3 < Config.ioDies up.part ∧ up.pwr.mainPg = true ∧
    (∀ die ∈ [0, 3], (setRel up fun r => { r with recovery := 3, railDie := some die }).rel.railDie = some die) := by decide +kernel

/-- A management image that passes its checks boots. -/
theorem boots_of_valid (s : State) (hi : imageFault s [1] s.boot.mgmtA.image = none) (hc : s.boot.mgmtCurrent = false) :
    (bootManagement s).2 = true := by
  have e : currentSlot (setField s .sec 0 0x100 2 1 0) 1 = false := by simp [currentSlot, setField, setReg, hc]
  have g : imageFault (setField s .sec 0 0x100 2 1 0) [1] (slotImage (setField s .sec 0 0x100 2 1 0) 1 false) = none := hi
  have h : (bootKind (setField s .sec 0 0x100 2 1 0) 1).2 = true := by simp only [bootKind, e, g]
  simp only [bootManagement, h, if_true]

/-- Whether an image is valid rests on SHA-256 and on the verification of signatures, constants without a body (log 8): the clauses
about a module that boots are met where they agree. -/
theorem witness_images (hash : ∀ bs, Config.sha256 bs = List.replicate 32 0) (verify : ∀ a b c, Config.rsaVerify a b c = true) :
    imageFault up [1] (imageOf 1 []) = none ∧ imageFault up [2] (imageOf 2 []) = none := by
  unfold imageFault
  simp only [hash, verify]
  decide +kernel

/-! ### Witnesses: power, supplies, security -/

/-- PWR_LIMIT.WATTS as it resets. -/
def wattLimit : Nat := field up .pwr 0 0x108 0 16

def powerState (assisted thermal widened below : Nat) : State :=
  setPwr (setField (setField up .pwr 0 0x010 0 1 assisted) .pwr 0 0x010 1 1 thermal) fun p => { p with widened := widened, below := below }

def coolState (cool : Nat) : State := setPwr up fun p => { p with thermalStep := true, cool := cool }

def requestState (die tick : Nat) (last : List (Nat × Nat)) : State :=
  setPwr { up with tick := tick } fun p => { p with requests := [(4, 34 * die)], lastGrant := last }

theorem witness_PowerInputsAndPasses : isUp up = true ∧ wattLimit = 1500 ∧
    (∀ a ∈ [0, 1], ∀ w ∈ [1, 8, 16], field (powerState a 0 w 0) .pwr 0 0x010 0 1 = a ∧ field (powerState a 0 w 0) .pwr 0 0x108 0 16 = 1500 ∧
      isUp (powerState a 0 w 0) = true ∧ passesHeld (powerState a 0 w 0) = false) ∧
    (1 < min (2 * 1) 16 ∧ 8 < min (2 * 8) 16) ∧
    (∀ b ∈ [0, 98, 99], (powerState 0 0 2 b).pwr.below = b ∧ isUp (powerState 0 0 2 b) = true) ∧
    (1349 ≤ 1500 ∧ 10 * 1349 < 9 * 1500 ∧ 9 * 1500 ≤ 10 * 1350) ∧
    (∀ v ∈ [(1920 : Int), 1919, 1680, 1679, 1600, 1599], hottest up [v] = some (0, v) ∧ up.pwr.mainPg = true ∧ up.pwr.tripped = false ∧
      up.pwr.thermalStep = false) ∧
    (∀ c ∈ [8, 9], hottest (coolState c) [1599] = some (0, 1599) ∧ (coolState c).pwr.thermalStep = true ∧
      field (coolState c) .pwr 0 0x010 1 1 = 0 ∧ (∀ h ∈ handsOn (coolState c) (pageOf .pwr 0), h.bit ≠ 1) ∧ (coolState c).pwr.coolHand = 0 ∧
      (coolState c).pwr.cool = c) ∧
    (oldest up (pageOf .pwr 0) = none ∧ bitsOf (0x300 : W32).toNat 8 2 = 3) ∧
    (∀ b ∈ [0, 1], (oldest (handAt up (pageOf .pwr 0) b [1600, 1, 2]) (pageOf .pwr 0)).any (fun h => h.bit = b) = true ∧
      (handAt up (pageOf .pwr 0) b [1600, 1, 2]).pwr.auxGood = true) ∧
    (bitsOf (0x101 : W32).toNat 8 2 = 1 ∧ bitsOf (0x101 : W32).toNat 0 8 = 1 ∧ bitsOf (0x110 : W32).toNat 0 8 = 16 ∧
      bitsOf (0x111 : W32).toNat 0 8 = 17 ∧ bitsOf (0x100 : W32).toNat 0 8 = 0 ∧ bitsOf (0x200 : W32).toNat 8 2 = 2) ∧
    up.pwr.braked = false ∧ State.reset.pwr.auxGood = false ∧
    (let s := setPwr up fun p => { p with braked := true }
     s.pwr.tripped = false ∧ s.pwr.braked = true) ∧
    (∀ die ∈ [0, 7], ((requestState die 5 []).pwr.requests.find? (fun q => q.2 / 34 = die)).map (·.2) = some (34 * die) ∧ isUp (requestState die 5 []) = true ∧
      passesHeld (requestState die 5 []) = false ∧ (requestState die 5 []).pwr.recess = false ∧ grantDue (requestState die 5 []) die = true) ∧
    effInterval (requestState 0 5 []) = 1 ∧ grantDue (requestState 0 5 [(0, 4)]) 0 = true ∧ grantDue (requestState 0 5 [(0, 5)]) 0 = false ∧
    (let s := setPwr up fun p => { p with passes := [271] }
     271 ∈ s.pwr.passes ∧ coreIdle (coreAt s 271) = true) ∧
    (272 ≤ 272 ∧ keepsClock up 272 = false ∧ keepsClock up (domMgt 0) = true) := by decide +kernel

theorem witness_PowerInputsAndPasses_hands :
    (∀ c ∈ [8, 9], let s := setField (coolState c) .pwr 0 0x010 1 1 1
      hottest s [1599] = some (0, 1599) ∧ s.pwr.thermalStep = true ∧ s.pwr.coolHand = 0 ∧ field s .pwr 0 0x010 1 1 = 1 ∧
        (∀ h ∈ handsOn s (pageOf .pwr 0), h.bit ≠ 1) ∧ s.pwr.cool = c) ∧
    passesHeld (handAt (requestState 0 5 []) (pageOf .pwr 0) 0 []) = true := by decide +kernel

def recessCmd (keep : Nat) : HostCmd := cmd 0 { slot 0x001E with param0 := keep }

def autoState (p : PairState) (noticed : Bool) : State :=
  setField (setPwr (cls p) fun w => { w with noticed := noticed }) .pwr 0 0x104 16 16 1

def sweepState : State := withRings { isOpen up with mem := [] }

theorem witness_RecessCardAndTranscript :
    (ready (on job (recessCmd 0)) 0x001E (recessCmd 0) = true ∧ (on job (recessCmd 0)).job.running = true) ∧
    (let s := on (cls .enrollingSource) (recessCmd 0)
     ready s 0x001E (recessCmd 0) = true ∧ enrolling s = true) ∧
    (let s := on (handAt up (pageOf .pwr 0) 0 []) (recessCmd 0)
     ready s 0x001E (recessCmd 0) = true ∧ s.hif.hands ≠ []) ∧
    (∀ keep ∈ [0, 1], ∀ n ∈ [false, true], let s := on (setPwr (cls .paired) fun w => { w with noticed := n }) (recessCmd keep)
      ready s 0x001E (recessCmd keep) = true ∧ s.job.running = false ∧ enrolling s = false ∧ s.hif.hands = [] ∧ s.hif.running = [recessCmd keep] ∧
        s.hif.duplicates = [] ∧ s.gddr.retraining = [] ∧ backlog s = 0 ∧ isMember s (twinOf s) = true ∧ s.pwr.noticed = n ∧ noticeOpen s = false) ∧
    (∀ q ∈ [(PairState.unformed, false), (.paired, true)], let s := autoState q.1 q.2
      isUp s = true ∧ s.pwr.recess = false ∧ field s .pwr 0 0x104 16 16 ≠ 0 ∧ s.job.running = false ∧ enrolling s = false ∧ s.hif.hands = [] ∧
        hostBusy s = false ∧ s.gddr.retraining = [] ∧ backlog s = 0 ∧ (isMember s (twinOf s) = true ∨ s.pwr.noticed = false) ∧ noticeOpen s = false) := by decide +kernel

theorem witness_RecessCardAndTranscript_waits :
    (let s := on up (recessCmd 0)
     isMember s (twinOf s) = false ∧ ready s 0x001E (recessCmd 0) = true ∧ s.hif.running = [recessCmd 0] ∧ s.hif.duplicates = []) ∧
    (let s := on (setPwr job fun p => { p with recessing := true }) (recessCmd 1)
     s.pwr.recessing = true ∧ ready s 0x001E (recessCmd 1) = true ∧ bitOf (recessCmd 1).slot.param0 0 = true) ∧
    (retrainingAll.gddr.retraining ≠ [] ∧ doorbellOpen up = false ∧
      doorbellOpen (queued { fresh 1 with tail := 1 }) = true ∧ (queued { fresh 1 with tail := 1 }).gddr.retraining = []) ∧
    (∀ q ∈ [false, true], let s := autoState .paired q
      isUp s = true ∧ s.pwr.sleeping = false ∧ isMember s (twinOf s) = true ∧ s.pwr.noticed = q) ∧
    (let s := isOpen (autoState .paired false)
     isUp s = true ∧ s.pwr.recess = false ∧ s.pwr.sleeping = false ∧ field s .pwr 0 0x104 16 16 ≠ 0 ∧ s.job.running = true ∧ s.pwr.noticed = false) := by decide +kernel

theorem witness_RecessCardAndTranscript_awake : field up .pwr 0 0x104 16 16 = 0 ∧
    (let s := setPwr up fun w => { w with recess := true }
     s.pwr.recess = true ∧ s.pwr.tripped = false) ∧
    (withRings up).hif.rings = some rings ∧ (withRings up).hif.detached = false ∧ up.hif.rings = none ∧
    (∀ budget ∈ [72, 2 ^ 20], isUp sweepState = true ∧ sweepState.boot.failed = false ∧ sweepState.pwr.recess = false ∧
      sweepState.hif.detached = false ∧ sweepState.hif.rings = some rings ∧ sweepState.hif.sweep = none ∧ markedItems sweepState = [] ∧
      sweepState.gddr.descMarks = [] ∧
      Machine.fits sweepState rings ⟨if rings.rateCap = 0 then none else some (min budget (rings.rateCap * 1000000)), 0,
        budget ≥ rings.rateCap * 1000000⟩ 72 = true) := by decide +kernel

def auxState : State := run .auxPowerGood State.reset

def goodReport : TestReport := ⟨[], [], [], [], [], [], [], [], [], 0⟩

/-- A module whose MEMORY fuse word is not that of its part. -/
def wrongFuses : State := { State.reset with boot := { State.reset.boot with fuses := mput State.reset.boot.fuses 3 0 } }

theorem witness_SuppliesAndPowerOn : State.reset.pwr.auxGood = false ∧ fusesOk State.reset = true ∧ fusesOk wrongFuses = false ∧
    wrongFuses.pwr.auxGood = false ∧ auxState.pwr.auxGood = true ∧ auxState.pwr.mainPg = false ∧ bootStep auxState = 2 ∧
    auxState.pwr.perst = false ∧ auxState.boot.stopped = false ∧
    (setPwr auxState fun p => { p with perst := true }).pwr.perst = true ∧ (run .auxPowerGood wrongFuses).boot.stopped = true ∧
    (bootManagement { auxState with pwr := { auxState.pwr with mainPg := true, braked := auxState.pwr.pwrbrk } }).2 = false ∧
    brokenUnits goodReport = [] ∧ brokenUnits { goodReport with unitFail := [(4, 7), (0xC, 3)] } = [] ∧
    brokenUnits { goodReport with unitFail := [(6, 0)] } ≠ [] ∧
    up.pwr.mainPg = true ∧ up.pwr.auxGood = true := by decide +kernel

def sec (op p0 : Nat) : HostCmd := cmd 0 { slot op with param0 := p0, operand := 0x9000 }

def withBoot (s : State) (full : Bool) (running : Nat) (image : List Byte) : State :=
  { s with boot := { s.boot with cacheFull := full, mgmtRunning := running, coreRunning := running, mgmtA := ⟨image⟩, coreA := ⟨image⟩ } }

/-- A debug token with no signature, for the identity whose fuses read 0. -/
def token (perms : Nat) (nonce : List Byte) : List Byte := le 4 0x4E534454 ++ le 4 perms ++ List.replicate 40 0 ++ nonce ++ List.replicate 944 0

theorem witness_SecurityCommandsComplete :
    (∀ f ∈ [false, true], let s := on (withBoot up f 0 []) (sec 0x40 0)
      ready s 0x0040 (sec 0x40 0) = true ∧ s.boot.cacheFull = f ∧ s.hif.detached = false) ∧
    ready (on up (sec 0x41 0)) 0x0041 (sec 0x41 0) = true ∧
    (∀ n ∈ [1023, 1024, 2 ^ 23, 2 ^ 23 + 1], ready (on up (sec 0x42 n)) 0x0042 (sec 0x42 n) = true) ∧
    imageFault (on up (sec 0x42 1024)) [1, 2] (exactly 1024 [0]) = some (1, 0) ∧
    (∀ v ∈ [0, 3, 64], let s := on (withBoot up true v (imageOf 1 [])) (sec 0x43 v)
      ready s 0x0043 (sec 0x43 v) = true ∧ minVersion s ≤ v ∧ v ≤ 64 ∧ v ≤ s.boot.mgmtRunning ∧ v ≤ s.boot.coreRunning) ∧
    (let s := on (withBoot up true 3 (imageOf 1 [])) (sec 0x43 3)
     3 ≤ imageVersion (slotImage s 1 (currentSlot s 1)) ∧ 3 ≤ imageVersion (slotImage s 2 (currentSlot s 2))) ∧
    (let s := on (withBoot up true 3 []) (sec 0x43 4)
     ready s 0x0043 (sec 0x43 4) = true ∧ s.boot.mgmtRunning < 4) ∧
    ready (on up (sec 0x44 0)) 0x0044 (sec 0x44 0) = true ∧ (on up (sec 0x44 0)).hif.detached = false ∧
    ready (on up (sec 0x45 0)) 0x0045 (sec 0x45 0) = true ∧ tokenFault (on up (sec 0x45 0)) (exactly 1024 []) = some (10, 0) ∧
    tokenFault (on up (sec 0x45 0)) (exactly 1024 (token 7 (List.replicate 32 0))) = some (8, 0x30) ∧
    ready (on up (sec 0x46 0)) 0x0046 (sec 0x46 0) = true := by decide +kernel

/-- The clauses about a token that is taken and an image that is staged are met where the hash and the signatures agree (log 8). -/
theorem witness_tokens (hash : ∀ bs, Config.sha256 bs = List.replicate 32 0) (verify : ∀ a b c, Config.rsaVerify a b c = true) :
    (∀ perms ∈ [0, 3, 4, 7], let s : State := { up with boot := { up.boot with challenge := some (List.replicate 32 1) } }
      tokenFault s (exactly 1024 (token perms (List.replicate 32 1))) = none) ∧
    imageFault up [1, 2] (exactly 1024 (imageOf 2 [])) = none ∧ up.job.running = false ∧ up.twin.pair = .unformed ∧
    job.job.running = true := by
  unfold tokenFault imageFault
  simp only [hash, verify]
  decide +kernel

/-! ### A sound tile -/

/-- A CRC register keeps 32 bits. -/
theorem crcStep_lt {poly c : Nat} (hp : poly < 2 ^ 32) (hc : c < 2 ^ 32) : crcStep poly c < 2 ^ 32 := by
  have h : c / 2 < 2 ^ 32 := by omega
  unfold crcStep
  split
  · exact Nat.xor_lt_two_pow h hp
  · exact h

theorem foldl_lt {α : Type} {f : Nat → α → Nat} (hf : ∀ c x, c < 2 ^ 32 → f c x < 2 ^ 32) :
    ∀ (l : List α) (c : Nat), c < 2 ^ 32 → l.foldl f c < 2 ^ 32
  | [], _, h => h
  | x :: l, c, h => foldl_lt hf l (f c x) (hf c x h)

theorem crc32c_lt (bs : List Byte) : crc32c bs < 2 ^ 32 := by
  refine Nat.xor_lt_two_pow (foldl_lt (fun c b h => ?_) bs _ (by decide)) (by decide)
  exact foldl_lt (fun c _ h => crcStep_lt (by decide) h) _ _ (Nat.xor_lt_two_pow h (by have := b.isLt; omega))

theorem leNat_le : ∀ k n : Nat, n < 256 ^ k → leNat (le k n) = n
  | 0, n, h => by simp only [Nat.pow_zero] at h; simp only [le, leBytes, leNat]; omega
  | k + 1, n, h => by
    have e := leNat_le k (n / 256) (by rw [Nat.pow_succ] at h; omega)
    simp only [le] at e
    simp only [le, leBytes, leNat, e, byteOf, BitVec.toNat_ofNat]
    omega

/-- A BF16 tile of one element, with the CRCs of its body and of its header. -/
def bf16Head (x y : Nat) : List Byte :=
  le 1 3 ++ le 1 0 ++ le 1 1 ++ le 1 1 ++ le 2 0 ++ le 2 3 ++ List.replicate 12 0 ++ le 4 32768 ++ le 4 x ++ List.replicate 32 0 ++ le 4 y

def headCrc (z : List Byte) : Nat := crc32c ((bf16Head (crc32c z) 0).take 60)

theorem bf16_checks (x y : Nat) (body : List Byte) (g : crc32c (body.take 32768) = x) (h : crc32c ((bf16Head x 0).take 60) = y)
    (lx : x < 256 ^ 4) (ly : y < 256 ^ 4) (sp : Option Nat) (hs : (sp.any fun n => decide (granules (64 + 32768) > n)) = false) :
    checkTile (bf16Head x y) body sp 3 = .ok ∧ checkTile (bf16Head x y) body sp 4 = .epoch := by
  have c1 : leAt (bf16Head x y) 0x3C 4 = y := (show leAt (bf16Head x y) 0x3C 4 = leNat (le 4 y) from rfl).trans (leNat_le 4 y ly)
  have c2 : leAt (bf16Head x y) 0x18 4 = x := (show leAt (bf16Head x y) 0x18 4 = leNat (le 4 x) from rfl).trans (leNat_le 4 x lx)
  have e : leAt (bf16Head x y) 0x14 4 = 32768 ∧ leAt (bf16Head x y) 0 1 = 3 ∧ leAt (bf16Head x y) 1 1 = 0 ∧
      leAt (bf16Head x y) 2 1 = 1 ∧ leAt (bf16Head x y) 3 1 = 1 ∧ leAt (bf16Head x y) 6 2 = 3 ∧ leAt (bf16Head x y) 0xF 1 = 0 ∧
      leAt (bf16Head x y) 0x10 1 = 0 := ⟨(show leAt (bf16Head x y) 0x14 4 = leNat (le 4 32768) from rfl).trans (leNat_le 4 32768 (by decide)), rfl, rfl, rfl, rfl, rfl, rfl, rfl⟩
  have t : tagOf? 3 = some (.bf16, .plain) := by decide
  have h1 : crc32c ((bf16Head x y).take 60) = y := h
  simp only [checkTile, c1, c2, h1, e, g, t, hs, ne_eq, not_true_eq_false, if_false, if_neg Bool.false_ne_true]
  decide

theorem bf16_ok (z body : List Byte) (g : body.take 32768 = z) :
    checkTile (bf16Head (crc32c z) (headCrc z)) body none 3 = .ok ∧
    checkTile (bf16Head (crc32c z) (headCrc z)) body (some (Config.reservedBase .nst8064)) 3 = .ok ∧
    checkTile (bf16Head (crc32c z) (headCrc z)) body none 4 = .epoch :=
  have h := fun sp hs => bf16_checks (crc32c z) (headCrc z) body (by rw [g]) rfl (crc32c_lt _) (crc32c_lt _) sp hs
  ⟨(h none rfl).1, (h _ (by decide)).1, (h none rfl).2⟩


/-! ### Witnesses: cores -/

/-- The first and the last core of a module, on their physical cores, with hall passes. -/
def coreState : State :=
  setPwr (setCores job fun c => { c with seats := [(0, .seated 0), (271, .seated 255)] }) fun p => { p with passes := [0, 271] }

def withCore (k : Core) : State := setCores coreState fun c => { c with cores := [(0, k), (271, k)] }

/-- A group-scaled pass of one element, at the shortest K. -/
def pass1 : MatPass where
  tileRow := 0
  tileCol := 0
  a := ⟨0x15, 0, 64, 64, 1⟩
  b := ⟨0x14, 128, 64, 192, 1⟩
  k := 32
  rows := 1
  cols := 1
  mode := .fast
  rounding := .rne
  accIn := none
  sideBase := 0
  tensorId := 0xFFFF
  outFormat := 1

/-- A LEGACY pass of 128 by 128 elements. -/
def passFull : MatPass := { pass1 with a := ⟨3, 0, 64, 0, 0⟩, b := ⟨3, 8192, 64, 0, 0⟩, rows := 128, cols := 128, mode := .legacy }

def someTile (id : Nat) : Tile := ⟨[[0x3F800000]], 0, 7, 0, 0, .fast, false, false, 0, 0, 0, 1, ⟨0, 0, 0, 0⟩, none, 0, id⟩

/-- Cores that MatrixPassesFillTheTray speaks of: fresh, one tile closed, both closed, trays of up to four tiles. -/
def closedCores : List Core := [{ Core.reset with accA := some (someTile 1), lastB := false }, { Core.reset with accB := some (someTile 1) }]

/-- The pass at a core, with a tag pair that it takes. -/
def passReady (m : MatPass) (core p : Nat) : Bool :=
  let pp := passIn coreState p m
  passOk pp && (passRanges pp).all (fun r => !readWaits Core.reset r.1 r.2 && (sramBad coreState core r.1 r.2).isNone)
    && (tagOf? m.a.tag).any fun x => (tagOf? m.b.tag).any fun y => (pairRate x.1 y.1).isSome && !passReserved coreState core pp x.1 y.1

/-- A core with a transfer into the first element of the pass. -/
def busyCore : Core := { Core.reset with transfers := [⟨0, ⟨5, 63, 0, 0, 64, true, false, false, 3, [1], [], []⟩⟩] }

theorem witness_MatrixPassesFillTheTray :
    (∀ q ∈ [(0, 0), (255, 271)], physOf coreState q.1 = some q.2 ∧ coreState.pwr.passes.contains q.2 = true ∧
      (setPwr coreState fun p => { p with passes := [] }).pwr.passes.contains q.2 = false) ∧
    (∀ m ∈ [pass1, passFull], ∀ q ∈ [(0, 0), (255, 271)], passReady m q.1 q.2 = true) ∧
    (passRanges (passIn coreState 0 pass1)).any (fun r => readWaits busyCore r.1 r.2) = true ∧
    ({ Core.reset with accA := some (someTile 1) } : Core).lastB = true ∧
    (Core.reset.lastB = true ∧ Core.reset.accA = none) ∧
    (∀ k ∈ closedCores, coreAt (withCore k) 0 = k ∧ (k.lastB = false → k.accB = none) ∧ (k.lastB = true → k.accA = none) ∧ k.tray.length < 4) ∧
    (∀ m ∈ [{ pass1 with k := 16 }, { pass1 with rows := 129 }, { pass1 with a := ⟨0, 0, 64, 64, 1⟩ }], passOk (passIn coreState 0 m) = false) ∧
    (coreAt (withCore { Core.reset with command := some nopCmd }) 0).command = some nopCmd ∧
    (let k : Core := { Core.reset with accA := some (someTile 1), accB := some (someTile 2) }
     (coreAt (withCore k) 0).accA.isSome = true ∧ (coreAt (withCore k) 0).accB.isSome = true) ∧
    (let k : Core := { Core.reset with tray := List.replicate 4 (someTile 1) }
     4 ≤ (coreAt (withCore k) 271).tray.length) := by decide +kernel

/-- The example of R82. -/
def passR82 : State :=
  sramWrite (sramWrite (sramWrite (sramWrite coreState 0 0 (List.replicate 16 0x5C)) 0 64 [0xC5]) 0 128 (List.replicate 16 0x78)) 0 192 [0xAC]

theorem test_matrixPass : (coreAt (run (.matrixPass 0 pass1) passR82) 0).accA.map (fun t => (t.elems, t.shift, t.replay)) =
    some ([[0x73000000]], 0x20, 1) := by decide +kernel

def vecOp (f : VecFn) (args : List VecSrc) (dst : VecDst) : VecOp := ⟨f, .fp32, args.map (⟨·, false, false, 0, none⟩), dst, .fast, .rne, 9, true, []⟩

/-- Operations with each kind of source and destination. -/
def vecOps : List VecOp :=
  [vecOp .add [.buffer 0 0, .buffer 3 127] (.buffer 0 127), vecOp (.cmpLt 7) [.broadcast 0, .buffer 0 0] (.buffer 0 0),
   vecOp .pass [.tray 127] (.sram 0x1000 0x15 .wg 0x2000 none), vecOp .pass [.sram 0 3 0] (.sram 64 3 .a 0 none)]

def trayCore : Core := { Core.reset with tray := [someTile 1] }

theorem witness_VectorResultsAreWritten :
    (∀ v ∈ vecOps, vecOk trayCore v = true ∧ gWaits (withCore trayCore) v = false ∧
      (∀ o ∈ v.args, srcReserved (withCore trayCore) 255 v.lane o.src = false) ∧
      (match scalesRead (withCore trayCore) (scalesOf v) (coreStep (withCore trayCore) 271) with
        | .ok _ => true
        | _ => false) = true ∧
      (v.args.all fun o => (srcRanges v.lane o.src).all fun r => !readWaits trayCore r.1 r.2 && (sramBad (withCore trayCore) 255 r.1 r.2).isNone) = true ∧
      ((dstRanges v.lane v.dst).all fun r => !writeWaits trayCore r.1 r.2) = true) ∧
    (vecOps.any fun v => v.args.any fun o => isTray o.src) = true ∧ (vecOps.any fun v => isCompare v.fn) = true ∧
    vecOk Core.reset (vecOp .pass [.tray 0] (.buffer 0 0)) = true ∧ Core.reset.tray = [] ∧
    vecOk Core.reset { vecOp .pass [.broadcast 0] (.buffer 0 0) with rounding := .rtz } = false ∧
    (∀ src ∈ [VecSrc.buffer 3 127, .tray 127, .broadcast 0, .sram 0 3 0], srcOk trayCore .fp32 src = true ∧
      srcReserved (withCore trayCore) 0 .fp32 src = false ∧
      ((srcRanges .fp32 src).all fun r => !readWaits trayCore r.1 r.2 && (sramBad (withCore trayCore) 0 r.1 r.2).isNone) = true) ∧
    legacyTag 3 = true := by decide +kernel

def moved : Transfer := ⟨5, 63, 0x7800000 - 64, 0, 64, true, false, false, 3, [1], [], []⟩

def tileIn (data : List Byte) : Transfer := { moved with sramOffset := 0, bytes := 4288, isTile := true, data := data }

/-- The clause about a tile that passes its checks, for a tile of zeros. -/
theorem witness_TransfersMoveSramContents_tile (z : List Byte) (g : (List.replicate 32960 (0 : Byte)).take 32768 = z) :
    (let bs := bf16Head (crc32c z) (headCrc z) ++ List.replicate 32960 0
     checkTile (bs.take 64) (bs.drop 64) none 3 = .ok ∧ checkTile (bs.take 64) (bs.drop 64) none 4 = .epoch) := by
  have k : ∀ x y (l : List Byte), (bf16Head x y ++ l).take 64 = bf16Head x y := fun x y l => List.take_left' rfl
  have d : ∀ x y (l : List Byte), (bf16Head x y ++ l).drop 64 = l := fun x y l => List.drop_left' rfl
  simp only [k, d]
  exact ⟨(bf16_ok z _ g).1, (bf16_ok z _ g).2.2⟩

def movingState (kind : Nat) (tr : Transfer) : State := withCore { Core.reset with transfers := [⟨kind, tr⟩], command := some nopCmd }

theorem witness_TransfersMoveSramContents :
    (Machine.transferOk coreState moved = true ∧ Machine.transferOk coreState { moved with buffer := 64 } = false ∧
      Machine.transferOk coreState { moved with sramOffset := 0x7800000 - 63 } = false ∧
      Machine.transferOk coreState { moved with inHost := false, addr := biasTop - 64 } = true ∧
      Machine.transferOk coreState { moved with inHost := false, addr := biasTop - 63 } = false) ∧
    (∀ kind ∈ [0, 1, 3], (coreAt (movingState kind moved) 0).transfers = [⟨kind, moved⟩] ∧ (movingState kind moved).hif.detached = false) ∧
    (let tr := { moved with inHost := false }
     let s := movingState 0 tr
     tornIn s tr.addr tr.bytes = none ∧ (match readItem s tr.addr tr.bytes (coreStep s 0) tr.twinned false false with
       | .ok bs => bs = List.replicate 64 0
       | _ => false) = true) ∧
    checkTile (List.replicate 64 0) (List.replicate 4224 0) none 3 = .corrupt ∧
    checkTile (withCrc (List.replicate 64 0xFF)) (List.replicate 4224 0) none 3 = .badField 0 ∧
    (let s := setTables (movingState 0 { moved with inHost := false, addr := 64 }) fun t => { t with torn := [64] }
     tornIn s 64 64 = some 64) ∧
    (tileIn []).layoutEpoch = 3 ∧ (coreAt (movingState 0 (tileIn [])) 0).transfers = [⟨0, tileIn []⟩] ∧
    (let s := movingState 2 { moved with inHost := false, addr := 64 }
     sramBad s 0 moved.sramOffset 64 = none ∧ memWaits s 64 64 = false ∧ badWrite s 64 64 = none ∧ (coreAt s 0).command = some nopCmd) ∧
    (let s := setCores (movingState 2 moved) fun c => { c with badWords := [sramAt 0 moved.sramOffset] }
     (sramBad s 0 moved.sramOffset 64).isSome = true) ∧
    (physOf coreState 255 = some 271 ∧ 0x7800000 - 64 + 64 ≤ sramBytes ∧ 255 < Config.logicalCores coreState.part ∧
      lastSend (coreAt coreState 271) 0 < 1 ∧ readWaits Core.reset 0 64 = false ∧ writeWaits (coreAt coreState 271) 0 64 = false) := by
  decide +kernel

/-! ### Witnesses: programs, copies, steps, the gradebook -/

/-- Core 0 has failed on physical core 0, with its program; physical core 32 stands in reserve, or nothing does. -/
def failedState (reserve : Bool) (k : Core) : State :=
  setCores (on job nopCmd) fun c => { c with
    seats := [(0, .detention), (33, .outOfService)] ++ (if reserve then [(32, .reserve)] else [])
    cores := [(0, k)], substituting := [(0, 0)] }

def failedCores : List Core := [Core.reset, { Core.reset with command := some nopCmd, resumePoint := some (3, 4) }]

def decl5 : StepDecl := ⟨5, [], [], 0, []⟩

theorem witness_FailedCoresAreSubstituted :
    (mget coreState.cores.seats 1 = none ∧ (∀ p ∈ [0, 33], (mget (failedState true Core.reset).cores.seats p).isSome = true) ∧
      mget (failedState true Core.reset).cores.seats 0 = some .detention ∧ mget (failedState true Core.reset).cores.seats 33 = some .outOfService) ∧
    (mget coreState.cores.seats 271 = some (.seated 255) ∧ mget (failedState true Core.reset).cores.seats 32 = some .reserve) ∧
    (let s := setField (setCores coreState fun c => { c with seats := c.seats ++ [(270, .reserve)] }) .rel 0 0x010 1 1 1
     mget s.cores.seats 271 = some (.seated 255) ∧ substituteFor s 255 = some 270 ∧ s.rel.recovery = 0 ∧ field s .rel 0 0x010 1 1 = 1) ∧
    field coreState .rel 0 0x010 1 1 = 0 ∧ substituteFor coreState 255 = none ∧
    (∀ k ∈ failedCores, (failedState true k).cores.substituting.find? (·.1 = 0) = some (0, 0) ∧ coreAt (failedState true k) 0 = k ∧
      substitutionHand (failedState true k) 0 = none ∧ substituteFor (failedState true k) 0 = some 32 ∧ physOf (failedState true k) 0 = none ∧
      substituteFor (failedState false k) 0 = none ∧ nopCmd ∈ (failedState false k).hif.running) ∧
    (let s := setTables (setGddr (failedState true Core.reset) fun g => { g with retraining := List.range 64 }) fun t =>
       { t with decls := [{ decl5 with restoreList := [{ moved with inHost := false, addr := 0 }] }] }
     ((restoreList s 0).findSome? (restoreWaits s 0)).isSome = true ∧ substituteFor s 0 = some 32) ∧
    (∀ k ∈ failedCores, ((restoreList (failedState true k) 0).findSome? (restoreWaits (failedState true k) 0)).isNone = true) ∧
    (let s := { failedState false Core.reset with att := [{ attJob0 attCmd0 with desc := { attDesc0 with coreFirst := 0, coreCount := 1 } }] }
     s.att.all (fun j => j.desc.coreFirst = 0 && j.desc.coreCount = 1) = true ∧ s.cores.substituting.find? (·.1 = 0) = some (0, 0)) ∧
    (failedState false Core.reset).att = [] ∧
    (substitutionHand (handAt (failedState true Core.reset) (pageOf .rel 0) 1 [0, 0, 32]) 0).isSome = true ∧
    (let s := setCores coreState fun c => { c with recomputing := [(255, 270)] }
     mget s.cores.recomputing 255 = some 270 ∧ physOf s 255 = some 271 ∧ mget s.cores.recomputing 0 = none) := by decide +kernel

def programCmd (first count ctl operand : Nat) : HostCmd :=
  cmd 1 { slot 0x0100 with param0 := first + 2 ^ 16 * count, ctl := ctl, operand := operand, step := 5 }

def programHead : List Byte := List.replicate 60 0 ++ le 4 (crc32c (List.replicate 60 0))

def allSeated : State := setCores job fun c => { c with seats := (List.range 32).map fun n => (n, .seated n) }

def runningProgram (t : List OpenTransfer) : State :=
  on (setCores allSeated fun c => { c with cores := [(31, { Core.reset with command := some (programCmd 0 32 0 0), transfers := t })] })
    (programCmd 0 32 0 0)

theorem witness_ProgramsRunOnTheirCores :
    (ready (runningProgram []) 0x0100 (programCmd 0 32 0 0) = true ∧ coresOf (runningProgram []) (programCmd 0 32 0 0) = [(31, 31)] ∧
      (coreAt (runningProgram []) 31).transfers = []) ∧
    (coreAt (runningProgram [⟨0, moved⟩]) 31).transfers ≠ [] ∧
    (∀ q ∈ [(0, 0), (225, 32), (0, 33)], ready (on allSeated (programCmd q.1 q.2 0 0)) 0x0100 (programCmd q.1 q.2 0 0) = true ∧
      coresOf (on allSeated (programCmd q.1 q.2 0 0)) (programCmd q.1 q.2 0 0) = []) ∧ Config.logicalCores job.part < 225 + 32 ∧
    allSeated.hif.dies.getD (32 / 32) 0 ≠ 1 ∧
    (∀ q ∈ [(0, 32), (31, 1)], ready (on allSeated (programCmd q.1 q.2 0 0)) 0x0100 (programCmd q.1 q.2 0 0) = true ∧
      q.1 + q.2 ≤ Config.logicalCores job.part ∧ ((rangeFrom q.1 q.2).all fun n => allSeated.hif.dies.getD (n / 32) 0 = 1) = true ∧
      leAt programHead 60 4 = crc32c (programHead.take 60) ∧ absentCore allSeated q.1 q.2 = none ∧
      ((seatedCores allSeated q.1 q.2).all fun p => (coreAt allSeated p).command = none) = true) ∧
    (let c := programCmd 0 1 64 (biasTop - 64)
     ready (on allSeated c) 0x0100 c = true ∧ bitOf c.slot.ctl 6 = true ∧ rangeBad allSeated c.slot.operand 64 = false ∧
       memWaits allSeated c.slot.operand 64 = false ∧ badSector allSeated c.slot.operand 64 = none ∧
       leAt (operandBytes allSeated c [] 64) 60 4 ≠ crc32c ((operandBytes allSeated c [] 64).take 60)) ∧
    (let c := programCmd 0 1 64 (biasTop - 64)
     let s := setGddr allSeated fun g => { g with badSectors := [biasTop - 64] }
     ready (on s c) 0x0100 c = true ∧ rangeBad s c.slot.operand 64 = false ∧ memWaits s c.slot.operand 64 = false ∧
       badSector s c.slot.operand 64 = some (biasTop - 64)) ∧
    (let c := programCmd 0 1 64 (biasTop - 63)
     ready (on allSeated c) 0x0100 c = true ∧ rangeBad allSeated c.slot.operand 64 = true) ∧
    absentCore job 0 1 = some 0 ∧
    (coreAt (runningProgram []) 31).command ≠ none ∧ 31 ∈ seatedCores (runningProgram []) 0 32 ∧
    ready (on (runningProgram []) (programCmd 31 1 0 0)) 0x0100 (programCmd 31 1 0 0) = true := by decide +kernel

/-- DMA_COPY of n bytes; places by bits: 1 the source in device memory, 2 the destination there, 4 the destination in SRAM. -/
def copyCmd (places n src dst core : Nat) : HostCmd :=
  cmd 1 { slot 0x0101 with ctl := if bitOf places 0 then 64 else 0, operand := src, param0 := dst, param1 := n,
                           param2 := (places / 2) + 2 ^ 16 * core }

def objectBlock (handle size addr : Nat) : List Byte := le 4 handle ++ le 1 0 ++ le 1 10 ++ le 2 0 ++ le 8 addr ++ le 8 size ++ List.replicate 8 0

def objectCmd (bs : List Byte) : HostCmd := cmd 1 (block 0x0102 bs)

def withObjects (s : State) (os : List (Nat × List Byte)) : State := setGddr s fun g => { g with objects := os }

theorem witness_CopiesAndObjectsComplete :
    (∀ places ∈ [0, 1, 2, 3, 4, 5, 7], ∀ n ∈ [0, 64], ready (on coreState (copyCmd places n 0 64 0)) 0x0101 (copyCmd places n 0 64 0) = true) ∧
    placeOk coreState 1 (.device 0) 64 = true ∧ placeOk coreState 1 (.device (biasTop - 64)) 64 = true ∧
    placeOk coreState 1 (.device (biasTop - 64)) 65 = false ∧ placeOk coreState 1 (.host 5) 64 = true ∧
    placeOk coreState 1 (.sram 31 (0x7800000 - 64)) 64 = true ∧ placeOk coreState 1 (.sram 32 0) 64 = false ∧
    sramOk 0 64 = true ∧ sramOk (0x7800000 - 64) 128 = false ∧ 65 % 64 ≠ 0 ∧
    memWaits coreState 0 64 = false ∧ badSector coreState 0 64 = none ∧ tornIn coreState 0 64 = none ∧ badWrite coreState 0 64 = none ∧
    badSector (badState 64) 0 128 = some 64 ∧ ((twinItems (badState 64)).find? fun it => overlaps it.addr it.len 64 64) = none ∧
    badWrite (badState 64) 64 1 = some 64 ∧ physOf coreState 0 = some 0 ∧ physOf coreState 31 = none ∧
    writeWaits (coreAt coreState 0) 64 64 = false ∧
    objectFault coreState 1 (objectBlock 1 256 0) = none ∧ objectFault coreState 1 (objectBlock 0 256 0) = some 0x100 ∧
    ready (on coreState (objectCmd (objectBlock 1 256 0))) 0x0102 (objectCmd (objectBlock 1 256 0)) = true ∧
    inlineOf (objectCmd (objectBlock 1 256 0)).slot 32 = objectBlock 1 256 0 ∧
    mget coreState.gddr.objects (objectKey 1 1) = none ∧
    (∀ a ∈ [0, 256], (mget (withObjects coreState [(objectKey 1 1, objectBlock 1 256 a)]).gddr.objects (objectKey 1 1)).isSome = true) ∧
    placeOf (objectBlock 1 256 0) ≠ placeOf (objectBlock 1 256 256) ∧
    (match copyBytes coreState (placeOf (objectBlock 1 256 256)) (placeOf (objectBlock 1 256 0)) 256 [] with
     | .ok _ => true
     | _ => false) = true ∧
    (match copyBytes (badState 256) (placeOf (objectBlock 1 256 256)) (placeOf (objectBlock 1 256 0)) 256 [] with
     | .fail _ st _ _ => st != 0x30
     | _ => false) = true ∧
    (∀ h ∈ [1, 2 ^ 32 - 1, 2 ^ 32], ready (on coreState (cmd 1 { slot 0x0103 with param0 := h })) 0x0103 (cmd 1 { slot 0x0103 with param0 := h }) = true) ∧
    mget (withObjects coreState [(objectKey 1 (2 ^ 32 - 1), [])]).gddr.objects (objectKey 1 (2 ^ 32 - 1)) ≠ none := by decide +kernel

/-- A module alone in its class whose step 5 has nothing left to do, or whose step 4 waits for its exchanges. -/
def closingState : State :=
  setTables { isOpen alone with scaling := [(9, record)] } fun t => { t with decls := [decl5] }

def emptyClose : CloseContribution := ⟨[(9, -3)], [], false, false, 0, []⟩

def dueState (parts : List (Nat × ExchangePart)) (count : Nat) : State :=
  setCol (setJob { isOpen alone with scaling := [(9, record)], grade := { Gradebook.reset with count := count, closings := [⟨4, [], [], [], 0, count⟩] } }
    fun j => { j with exchangesDue := [4] }) fun c => { c with parts := parts }

theorem witness_StepsCloseAndExchange : mayClose up = false ∧ mayClose closingState = true ∧
    (mayClose (setCol closingState fun c => { c with members := 0xFFFF }) = true ∧
      nextMember (setCol closingState fun c => { c with members := 0xFFFF }) = some 1 ∧ partFrom closingState 5 0 0 = none) ∧
    (fits job (hdr 0x0B 1) = true ∧ isMember job (partOrigin (.close 1 emptyClose)) = true ∧
      isMember job (partOrigin (.close 16 emptyClose)) = false) ∧
    ((partFrom (dueState [(4, .close 0 emptyClose)] 0) 4 0 0).isSome = true ∧ partFrom job 4 0 0 = none ∧ nextMember job = some 1 ∧
      nextMember closingState = none) ∧
    (∀ n ∈ [0, 2], let s := dueState [(4, .close 0 emptyClose)] n
      (s.grade.closings.find? (·.step = 4)).isSome = true ∧ partsIn s 4 0 = true ∧ partFrom s 4 1 s.twin.number = none ∧
        (s.scaling.map (·.1)).Nodup ∧ (recordsRead s 4).2 = false ∧ badSector s (scaleAddr s.part 9) 32 = none) ∧
    (let s := setGddr (dueState [(4, .close 0 emptyClose)] 0) fun g => { g with retraining := List.range 64 }
     partsIn s 4 0 = true ∧ (recordsRead s 4).2 = true) ∧
    (let s := dueState [] 0
     partsIn s 4 0 = false ∧ partsIn s 4 1 = false) ∧
    (∀ n ∈ [0, 2], let s := dueState [(4, .close 0 emptyClose), (4, .grade 0 [])] n
      partsIn s 4 1 = true ∧ (partFrom s 4 1 s.twin.number).isSome = true ∧ (∀ k ∈ s.job.exchangesDue, 4 ≤ k) ∧ s.hif.detached = false) ∧
    (let s := setJob (dueState [(4, .close 0 emptyClose), (4, .grade 0 [])] 0) fun j => { j with exchangesDue := [3, 4] }
     ∃ k ∈ s.job.exchangesDue, k < 4) ∧
    job.grade.closings.find? (·.step = 4) = none ∧
    (mget (withScale job 9 record).scaling 9 = some record ∧ field (withScale job 9 record) .mgt 0 0x010 0 1 = 0 ∧ record.resetDue = none ∧
      record.silentHand = false ∧ silentStep (withScale job 9 record) ⟨9, 1, 0, true, 7⟩ = true ∧
      record.silentRun + 1 < field (withScale job 9 record) .mgt 0 0x214 8 8 ∧ field (withScale job 9 record) .mgt 0 0x010 2 1 = 0 ∧
      field (withScale job 9 record) .mgt 0 0x214 8 8 ≤ { record with silentRun := 63 }.silentRun + 1 ∧
      mget (withScale job 9 { record with silentRun := 63, lift := 4 }).scaling 9 = some { record with silentRun := 63, lift := 4 }) := by
  decide +kernel

def gradeCmd (base count : Nat) : HostCmd := cmd 0 { slot 0x001D with operand := base, param0 := count }

/-- GRADEBOOK_COMPARE of one pair on core 0, both arrays and the result in device memory. -/
def compareCmd (test ref result core : Nat) : HostCmd :=
  cmd 1 { slot 0x0139 with ctl := 64, operand := test, param0 := ref, param1 := result, param2 := 1 + 2 ^ 32 * core }

/-- Device memory with bytes of the format tag of a tile at address 0. -/
def taggedState (tag : Nat) (bad : Bool) : State :=
  setGddr (withMem coreState 0 (le 1 tag)) fun g => { g with badSectors := if bad then [64] else [] }

theorem witness_GradebookCommandsComplete :
    (∀ s ∈ [up, job], ∀ q ∈ [(0, 16384), (4096, 0), (1, 0), (4096, 16385)], ready (on s (gradeCmd q.1 q.2)) 0x001D (gradeCmd q.1 q.2) = true) ∧
    up.job.running = false ∧ job.job.running = true ∧
    (∀ q ∈ [(0, 0, 64, 0), (0, 256, 64, 31), (1, 0, 64, 0), (0, 1, 64, 0), (0, 0, 1, 0), (0, 0, 64, 256), (0, 0, 64, 32), (0, 0, 64, 31)],
      ready (on coreState (compareCmd q.1 q.2.1 q.2.2.1 q.2.2.2)) 0x0139 (compareCmd q.1 q.2.1 q.2.2.1 q.2.2.2) = true) ∧
    rangeBad coreState (biasTop - 64) 64 = false ∧ rangeBad coreState (biasTop - 63) 64 = true ∧
    physOf coreState 0 ≠ none ∧ physOf coreState 31 = none ∧ coreState.hif.dies.getD (32 / 32) 0 ≠ 1 ∧
    leAt (devRead (taggedState 3 false) 0 1) 0 1 = 3 ∧ leAt (devRead (taggedState 2 false) 0 1) 0 1 = 2 ∧
    rangeBad coreState 0 (1 * plainTile 3) = false ∧ rangeBad coreState 0 (1 * plainTile 1) = false ∧
    (compareAll (taggedState 3 true) (compareCmd 0 0 0 0) none 3 3 1 = .bad 64) ∧ badWrite coreState 0 64 = none := by decide +kernel

theorem mget_above {α : Type} : ∀ (m : List (Nat × α)) (a : Nat), (∀ c ∈ m, c.1 < a) → mget m a = none
  | [], _, _ => rfl
  | c :: m, a, h => by
    have := h c (by simp)
    simp only [mget]
    rw [if_neg (by omega)]
    exact mget_above m a fun c hc => h c (by simp [hc])

theorem readBytes_add (m : List Host.Cell) : ∀ (n k a : Nat), readBytes m a (n + k) = readBytes m a n ++ readBytes m (a + n) k
  | 0, k, a => by simp [readBytes]
  | n + 1, k, a => by
    rw [show n + 1 + k = (n + k) + 1 by omega]
    simp only [readBytes, List.cons_append, readBytes_add m n k (a + 1)]
    rw [show a + 1 + n = a + (n + 1) by omega]

theorem readBytes_zero (m : List Host.Cell) : ∀ (n a : Nat), (∀ c ∈ m, c.1 < a) → readBytes m a n = List.replicate n 0
  | 0, _, _ => rfl
  | n + 1, a, h => by
    simp only [readBytes, readByte, mget_above m a h, List.replicate_succ]
    rw [readBytes_zero m n (a + 1) fun c hc => Nat.lt_succ_of_lt (h c hc)]
    rfl

def zeros : List Byte := List.replicate 32768 0

/-- Device memory with a tile at address 0, which a comparison takes as both arrays. -/
def tileState (z : List Byte) : State := { coreState with mem := (bf16Head (crc32c z) (headCrc z)).zipIdx.map fun q => (q.2, q.1) }

theorem tile_read (z : List Byte) (n : Nat) : devRead (tileState z) 0 (64 + n) = bf16Head (crc32c z) (headCrc z) ++ List.replicate n 0 := by
  have r : ∀ x y, readBytes ((bf16Head x y).zipIdx.map fun q => (q.2, q.1)) 0 64 = bf16Head x y := fun x y => rfl
  have a : ∀ x y, ((bf16Head x y).zipIdx.map fun q => (q.2, q.1)).all (fun c => decide (c.1 < 64)) = true := fun x y => rfl
  have z0 : readBytes (tileState z).mem (0 + 64) n = List.replicate n 0 :=
    readBytes_zero _ n _ fun c hc => of_decide_eq_true (List.all_eq_true.mp (a _ _) c hc)
  have r0 : readBytes (tileState z).mem 0 64 = bf16Head (crc32c z) (headCrc z) := r _ _
  rw [devRead, readBytes_add, z0, r0]

theorem compare_tile (z : List Byte) (n : Nat) (p : plainTile 3 = 64 + n) (g : (List.replicate n (0 : Byte)).take 32768 = z) :
    ∃ a, compareAll (tileState z) (compareCmd 0 0 0 0) none 3 3 1 = .ok a := by
  have r : compareTile (tileState z) none 0 0 (64 + n) = .ok (bf16Head (crc32c z) (headCrc z) ++ List.replicate n 0) := by
    have w : memWaits (tileState z) 0 (64 + n) = false := rfl
    have b : badSector (tileState z) 0 (64 + n) = none := rfl
    have o : tornIn (tileState z) 0 (64 + n) = none := rfl
    simp only [compareTile, Nat.add_zero, w, b, o, Option.map_none, tile_read, if_neg Bool.false_ne_true]
  have k : ∀ x y (l : List Byte), (bf16Head x y ++ l).take 64 = bf16Head x y := fun x y l => List.take_left' rfl
  have d : ∀ x y (l : List Byte), (bf16Head x y ++ l).drop 64 = l := fun x y l => List.drop_left' rfl
  have e : ∀ x y (l : List Byte), leAt (bf16Head x y ++ l) 0 1 = 3 ∧ leAt (bf16Head x y ++ l) 2 1 = 1 ∧ leAt (bf16Head x y ++ l) 3 1 = 1 :=
    fun x y l => ⟨rfl, rfl, rfl⟩
  have q : (compareCmd 0 0 0 0).slot.operand = 0 ∧ (compareCmd 0 0 0 0).slot.param0 = 0 := ⟨rfl, rfl⟩
  have o := (bf16_ok z _ g).2
  have h : ∀ acc, ∃ a, compareStep (tileState z) (compareCmd 0 0 0 0) none 3 3 0 acc = .ok a := fun acc => by
    refine ⟨compareTiles acc (fmtOfTag 3).1 (fmtOfTag 3).1 1 1 (bf16Head (crc32c z) (headCrc z) ++ List.replicate n 0)
      (bf16Head (crc32c z) (headCrc z) ++ List.replicate n 0), ?_⟩
    simp only [compareStep, Nat.zero_mul, q, p, r, k, d, Option.isSome_none, Nat.add_zero, Nat.sub_zero,
      show (tileState z).part = .nst8064 from rfl, show (tileState z).job.layoutEpoch = 3 from rfl, o, e, if_neg Bool.false_ne_true, bne_self_eq_false]
  obtain ⟨a, ha⟩ := h ⟨0, 0, List.replicate 128 0, List.replicate 128 0, 0, 0, 2 ^ 64 - 1⟩
  simp only [compareAll, List.range_succ, List.range_zero, List.nil_append, List.foldl_cons, List.foldl_nil]
  exact ⟨a, ha⟩

theorem witness_GradebookCommandsComplete_result : ∃ a, compareAll (tileState zeros) (compareCmd 0 0 0 0) none 3 3 1 = .ok a :=
  compare_tile zeros 32960 (by decide) (by rw [List.take_replicate, zeros, show min 32768 32960 = 32768 from by decide])

/-! ### Witnesses: collectives, re-shards, attention -/

/-- A collective descriptor in device memory, with its CRC. -/
def colFlags (flags operation sram ring tensor epoch chunk mask : Nat) : List Byte :=
  let head := le 1 operation ++ le 1 flags ++ le 2 ring ++ le 2 tensor ++ le 2 epoch ++ le 1 sram ++ le 7 0 ++ le 4 chunk ++ le 4 0 ++
    le 8 65536 ++ le 8 131072 ++ le 8 mask ++ List.replicate 12 0
  head ++ le 4 (crc32c head)

def colBlock (operation sram ring tensor epoch chunk mask : Nat) : List Byte := colFlags 0 operation sram ring tensor epoch chunk mask

def colCmd : HostCmd := cmd 1 { slot 0x0131 with step := 5 }

/-- A job on whose ring of one, of two, or of two with one of them removed, a collective may run. -/
def ringState (ms : List Nat) (broken : Bool) : State :=
  setCol (on job colCmd) fun c => { c with rings := [(1, ⟨ms, 0, broken⟩)], members := if broken then 0xFFFD else 0xFFFF }

def colJob (operation : Nat) (ms : List Nat) (expect : List (Nat × Nat)) : ColJob :=
  ⟨colCmd, colDescOf (colBlock operation 0 1 9 3 256 3), 0, ms, expect, [], [], []⟩

def colState (j : ColJob) : State := setCol (ringState j.ring false) fun c => { c with jobs := [j] }

def colHdr (kind : Nat) : MsgHdr := { hdr kind 1 with ringId := 1, tensorId := 9, srcPosition := 1 }

/-- A table whose optimiser is the factored one. -/
def factored : TableDesc := { table with optimiser := 6 }

theorem witness_CollectivesMoveTheirChunks :
    (∀ ms ∈ [[0], [0, 1]], ready (ringState ms false) 0x0131 colCmd = true ∧ (ringState ms false).col.jobs = [] ∧
      operandOut (ringState ms false) colCmd 64 = false ∧ operandFault (ringState ms false) colCmd 64 = none ∧
      (∀ op ∈ [2, 5], operandBytes (ringState ms false) colCmd (colBlock op 0 1 9 3 256 1) 64 = colBlock op 0 1 9 3 256 1 ∧
        colFault (ringState ms false) 1 (colBlock op 0 1 9 3 256 1) (mget (ringState ms false).col.rings 1) = none ∧
        (owners (colDescOf (colBlock op 0 1 9 3 256 1)) ms.length).contains 0 = true ∧ ms.findIdx (· = 0) = 0) ∧
      (ringState ms false).col.early = [] ∧ (ringState ms false).col.retry = [] ∧ (ringState ms false).col.unsent = [] ∧
      (ringState ms false).tables.torn = [] ∧ quiet (ringState ms false) = true) ∧
    (∀ op ∈ [0, 8], colFault (ringState [0] false) 1 (colBlock op 0 1 9 3 256 1) (mget (ringState [0] false).col.rings 1) = some 0x100) ∧
    colFault (ringState [0] false) 1 (colBlock 2 0 1 9 4 256 1) (mget (ringState [0] false).col.rings 1) = none ∧
    (colDescOf (colBlock 2 0 1 9 4 256 1)).layoutEpoch ≠ (ringState [0] false).job.layoutEpoch ∧
    (colFault (ringState [0, 1] true) 1 (colBlock 2 0 1 9 3 256 1) (mget (ringState [0, 1] true).col.rings 1) = none ∧
      ([0, 1].find? fun m => !isMember (ringState [0, 1] true) m) = some 1) ∧
    (let other : HostCmd := { colCmd with slot := { colCmd.slot with requestId := 2 } }
     let s := setCol (ringState [0] false) fun c => { c with jobs := [{ colJob 2 [0] [] with cmd := other }] }
     (∀ j ∈ s.col.jobs, j.cmd ≠ colCmd) ∧ ∃ j ∈ s.col.jobs, j.desc.operation = 2 ∧ j.desc.ringId = 1 ∧ j.desc.tensor = 9 ∧
       j.cmd.slot.step = colCmd.slot.step) ∧
    (colFault (ringState [0] false) 1 (colBlock 2 0x80 1 9 3 256 1) (mget (ringState [0] false).col.rings 1) = none ∧
      (colDescOf (colBlock 2 0x80 1 9 3 256 1)).sourceSram = true ∧ physOf (ringState [0] false) 0 = none) ∧
    (colFault (ringState [0] false) 1 (colBlock 2 0x40 1 9 3 256 1) (mget (ringState [0] false).col.rings 1) = none ∧
      (colDescOf (colBlock 2 0x40 1 9 3 256 1)).destSram = true) ∧
    (colFault (ringState [0] false) 1 (colFlags 0x80 1 0 1 9 3 256 1) (mget (ringState [0] false).col.rings 1) = none ∧
      (colDescOf (colFlags 0x80 1 0 1 9 3 256 1)).toUpdate = true ∧ paramsFor (ringState [0] false) 9 5 = none) := by decide +kernel

/-- A run with a piece that has come. -/
def pieceJob (operation : Nat) (expect : List (Nat × Nat)) (p : Piece) : ColJob := { colJob operation [0, 1] expect with pieces := [p] }

def blockPiece : Piece := ⟨3, 1, 0, true, .block [7]⟩

/-- Its result would end beyond device memory. -/
def endless (j : ColJob) : ColJob := { j with desc := { j.desc with destBase := biasTop } }

theorem witness_CollectivesMoveTheirChunks_messages :
    fits (ringState [0, 1] false) (colHdr 1) = true ∧ (colHdr 1).ringId ≠ 0 ∧ (hdr 1 1).ringId = 0 ∧ { hdr 1 1 with last := true }.last = true ∧
    fits job { hdr 1 1 with last := true } = true ∧ fits job (hdr 1 1) = true ∧ (hdr 1 1).last = false ∧
    factoredTable job (hdr 1 1).tensorId = none ∧ (factoredTable (withTable job factored) 9).isSome = true ∧
    (ringState [0, 1] false).col.jobs = [] ∧
    (let s := colState (colJob 2 [0, 1] [])
     (s.col.jobs.find? fun j => j.desc.ringId = (colHdr 2).ringId ∧ j.desc.tensor = (colHdr 2).tensorId ∧ j.cmd.slot.step = (colHdr 2).step) =
       some (colJob 2 [0, 1] []) ∧ colFor s (colHdr 2) 2 0 = none) ∧
    (∀ q ∈ [(1, 1), (2, 2), (3, 4), (8, 6)],
      colFor (colState (colJob q.2 [0, 1] [(q.1, 0)])) (colHdr q.1) q.1 0 = some (colJob q.2 [0, 1] [(q.1, 0)])) := by decide +kernel

theorem witness_CollectivesMoveTheirChunks_pieces :
    wholeOf [] = none ∧ wholeOf [⟨1, 0, 0, true, .partialSum [1] false⟩] = some (.partialSum [1] false) ∧
    wholeOf [⟨2, 0, 0, true, .chunk [7]⟩] = some (.chunk [7]) ∧ wholeOf [blockPiece] = some (.block [7]) ∧
    (let j := pieceJob 1 [(1, 0)] ⟨1, 0, 0, true, .partialSum [1] false⟩
     quiet (colState j) = true ∧ colWaits (colState j) j 1 0 = false ∧
       colWaits (setGddr (colState j) fun g => { g with retraining := List.range 64 }) j 1 0 = true) ∧
    (∀ mask ∈ [1, 3], owners (colDescOf (colBlock 2 0 1 9 3 256 mask)) 2 ≠ []) ∧
    (owners (colJob 2 [0, 1] []).desc 2).getD 1 0 = 1 ∧ (owners (colJob 2 [0, 1] []).desc 2).getD 0 0 ≠ 1 ∧ (colJob 2 [0, 1] []).desc.destSram = false ∧
    (ticked (pieceJob 4 [(3, 1)] blockPiece) 3 1).expect = [] ∧ (ticked (pieceJob 4 [(3, 1), (3, 2)] blockPiece) 3 1).expect ≠ [] ∧
    colWaits (colState (pieceJob 4 [(3, 1)] blockPiece)) (pieceJob 4 [(3, 1)] blockPiece) 3 1 = false ∧
    endBad job (colJob 4 [0, 1] []).desc.destSram (colJob 4 [0, 1] []).desc.destBase 1 = false ∧
    endBad job (endless (colJob 4 [0, 1] [])).desc.destSram (endless (colJob 4 [0, 1] [])).desc.destBase 1 = true ∧
    (∀ base ∈ [65536, 65792], (match colRead (withMem job 65792 (le 1 0xFF)) false 0 base 256 with
      | .ok own => (chunkTiles (own.length / 256) own).all (sourceTileOk (ctlOf colCmd).mode) = (base == 65536)
      | _ => false) = true) ∧
    (owners (colJob 1 [0, 1] []).desc 2).getD 0 0 = 0 ∧ (owners (colJob 1 [0, 1] []).desc 2).getD 1 0 ≠ 0 ∧
    (∀ tag ∈ [3, 0xFF], (match colRead (withMem job 131072 (le 1 tag)) false 0 131072 64 with
      | .ok hd => storeTagOk (ctlOf colCmd).mode (leAt hd 0 1) = (tag == 3)
      | _ => false) = true) := by decide +kernel

def pending0 : Reshard := ⟨4, 5, planBlock, false, false, false, []⟩

/-- A module with a pending re-shard at the step that is open. -/
def reshardState (r : Reshard) (parts : List (Nat × ExchangePart)) : State :=
  setCol job fun c => { c with reshard := some r, parts := parts }

def partsOfAll (f : Nat → ExchangePart) : List (Nat × ExchangePart) := (List.range 16).map fun m => (5, f m)

theorem witness_ReshardsRunTheirSteps : up.col.reshard = none ∧
    (pending0.drained = false ∧ pending0.boundary ≤ (reshardState pending0 []).job.openStep ∧ inFlight (reshardState pending0 []) = false) ∧
    (let s := setCol (reshardState pending0 []) fun c => { c with retry := [sentMsg] }
     inFlight s = true) ∧
    partsIn (reshardState pending0 []) 5 2 = false ∧
    partsIn (reshardState { pending0 with drained := true } (partsOfAll fun m => .drained m 4)) 5 2 = true ∧
    partsIn (reshardState pending0 []) 5 3 = false ∧
    (let r := { pending0 with drained := true, switched := true, permuteDone := true }
     partsIn (reshardState r (partsOfAll fun m => .permuted m 4)) 5 3 = true ∧
     ((planTables r.plan).map fun bs => (tableDescOf bs).table).Nodup) ∧
    (∀ a ∈ [0, biasTop - 1], devRange job a 1 = true) ∧ devRange job biasTop 1 = false ∧ fits job (hdr 9 1) = true ∧
    fits job { hdr 9 1 with last := true } = true ∧ (hdr 9 1).ringId = 0 ∧ fits job { hdr 9 1 with last := true, ringId := 1 } = true ∧
    (let r := { pending0 with drained := true, switched := true, marksIn := List.range 16 }
     r.permuteDone = false ∧ (reshardState r []).col.retry = [] ∧ ∀ m ∈ members (reshardState r []), m ∈ r.marksIn) := by decide +kernel

/-- An attention descriptor of one BF16 head of 64 and 256 tokens, on core 0, with its CRC. -/
def attBlock (qTag epoch size core : Nat) : List Byte :=
  let head := le 2 9 ++ le 1 qTag ++ le 1 3 ++ le 1 3 ++ le 1 3 ++ le 1 0 ++ le 1 0 ++ le 1 1 ++ le 1 1 ++ le 1 size ++ le 1 0 ++ le 2 1 ++
    le 2 epoch ++ le 4 128 ++ le 4 256 ++ le 4 0x3F800000 ++ le 2 core ++ le 2 1 ++ le 4 0 ++ le 4 0 ++ List.replicate 84 0
  head ++ le 4 (crc32c head)

def attCmd : HostCmd := cmd 1 { slot 0x0120 with operand := 2 ^ 20, step := 5 }

def attSetting (ms : List Nat) (broken : Bool) (bs : List Byte) : State :=
  setCol (withMem (on coreState attCmd) (2 ^ 20) bs) fun c =>
    { c with rings := [(1, ⟨ms, 0, broken⟩)], members := if broken then 0xFFFD else 0xFFFF }

def runs : List (List Byte) := [attBlock 3 3 1 0, attBlock 3 3 1 1, attBlock 3 4 1 0]

theorem witness_AttentionRunsRoundItsRing :
    (∀ bs ∈ runs, ready (attSetting [0] false bs) 0x0120 attCmd = true ∧ (attSetting [0] false bs).att = [] ∧
      rangeBad (attSetting [0] false bs) attCmd.slot.operand 128 = false ∧ devRead (attSetting [0] false bs) attCmd.slot.operand 128 = bs ∧
      attFault (attSetting [0] false bs) (modeOf attCmd.slot.ctl) bs = none ∧ quiet (attSetting [0] false bs) = true) ∧
    (attFault (attSetting [0] false (attBlock 4 3 1 0)) (modeOf attCmd.slot.ctl) (attBlock 4 3 1 0) = some 0x102) ∧
    (attDescOf (attBlock 3 4 1 0)).layoutEpoch ≠ (attSetting [0] false []).job.layoutEpoch ∧
    (let s := attSetting [0, 1] true (attBlock 3 3 2 0)
     attFault s (modeOf attCmd.slot.ctl) (attBlock 3 3 2 0) = none ∧ ([0, 1].find? fun m => !isMember s m) = some 1) ∧
    absentCore (attSetting [0] false []) 1 1 = some 1 ∧ absentCore (attSetting [0] false []) 0 1 = none ∧
    (match readArrays (attSetting [0] false (attBlock 3 3 1 0)) (attDescOf (attBlock 3 3 1 0)) [] with
      | .bad a => a = 0
      | _ => false) = true ∧
    (match readArrays (withMem (attSetting [0] false (attBlock 3 3 1 0)) 0 (withCrc (List.replicate 64 0xFF))) (attDescOf (attBlock 3 3 1 0)) [] with
      | .fail st _ _ => st = 0x12
      | _ => false) = true ∧
    (let s := setHif (attSetting [0] false (attBlock 3 3 1 0)) fun h => { h with detached := true }
     quiet s = true ∧ ready s 0x0120 attCmd = true ∧
       (match readArrays s { attDescOf (attBlock 3 3 1 0) with hostBases := 1 } [] with
        | .wait => true
        | _ => false) = true) := by decide +kernel

/-- A run of a ring of two, as far as a number of sources. -/
def attJob (bs : List Byte) (opened : Bool) (source : Nat) (heard : List (Nat × OpenFormats)) : AttJob :=
  ⟨attCmd, attDescOf bs, [0, 1], [], heard, opened, source, [], [], []⟩

def narrow : OpenFormats := ⟨0x16, 3, true, 0, false⟩
def wide : OpenFormats := ⟨3, 3, true, 0, false⟩
def tooWide : OpenFormats := ⟨1, 3, false, 0, false⟩

def forwardBlock : List Byte := attBlock 3 3 2 0
def backwardBlock : List Byte := forwardBlock.take 6 ++ le 1 8 ++ forwardBlock.drop 7

def runState (j : AttJob) : State := { attSetting [0, 1] false [] with att := [j] }

def ringHdr : MsgHdr := { hdr 8 1 with ringId := 1, tensorId := 9 }

def pid (ret : Bool) (source epoch : Nat) : ParcelId := ⟨5, 1, 9, false, source, true, ret, epoch, 1⟩

/-- The state after a parcel has come whose mark stands. -/
def markedState (j : AttJob) (p : ParcelId) : State := withMem (runState j) (parcelPlace j p).2 (markBytes p)

theorem witness_AttentionRunsRoundItsRing_ends :
    (let j := attJob forwardBlock true 2 []
     (runState j).att.find? (·.cmd = attCmd) = some j ∧ j.opened = true ∧ j.ring.length ≤ j.source ∧ j.desc.hostBases = 0 ∧
       j.desc.backward = false ∧ ready (runState j) 0x0120 attCmd = true ∧ quiet (runState j) = true ∧ (runState j).col.early = [] ∧
       absentCore (runState j) j.desc.coreFirst j.desc.coreCount = none) ∧
    (let j := attJob backwardBlock true 2 []
     let p := parcelId (runState j) j 0 true true
     j.desc.backward = true ∧ partialsBack (markedState j p) j = true ∧ partialsBack (runState j) j = false ∧
       attGWaits (markedState j p) j = false ∧ (runState j).att.find? (·.cmd = attCmd) = some j ∧
       (match scaleRead (markedState j p) j.desc.tensor 5 with
        | .ok _ => true
        | _ => false) = true ∧
       attGWaits (setJob (withScale (runState j) 9 record) fun x => { x with exchangesDue := [4] }) j = true) ∧
    (let j := attJob forwardBlock true 1 []
     let p := parcelId (runState j) j (sourceAt 2 0 1).1 (sourceAt 2 0 1).2 false
     0 < j.source ∧ j.source < j.ring.length ∧ j.desc.ringPosition = 0 ∧
       (∀ s ∈ [runState j, markedState j p], slotWaits s j j.source = false ∧ slotBad s j j.source = none) ∧
       slotMarked (runState j) j p = false ∧ slotMarked (markedState j p) j p = true) := by decide +kernel

theorem witness_AttentionRunsRoundItsRing_opens :
    (fits job ringHdr = true ∧ attFor job ringHdr = none ∧ attOf job ringHdr false = none) ∧
    (∀ heard ∈ [[], [(0, wide)], [(0, narrow)], [(1, wide)]], ∀ o ∈ [false, true],
      let j := attJob forwardBlock o 0 heard
      attFor (runState j) ringHdr = some j ∧ attOf (runState j) ringHdr false = some j ∧ fits (runState j) ringHdr = true ∧
        fits (runState j) { ringHdr with last := true } = true) ∧
    openFault (attJob forwardBlock false 0 [(0, wide), (1, wide)]) = none ∧ wideFault (attJob forwardBlock false 0 [(0, wide), (1, wide)]) = none ∧
    openFault (attJob forwardBlock false 0 [(0, wide), (1, tooWide)]) = none ∧
    (wideFault (attJob forwardBlock false 0 [(0, wide), (1, tooWide)])).isSome = true ∧
    (openFault (attJob forwardBlock false 0 [(0, narrow), (1, wide)])).isSome = true := by decide +kernel

theorem witness_AttentionRunsRoundItsRing_parcels :
    (fits job { hdr 8 1 with tensorId := 0xFFFF } = true) ∧
    (∃ j ∈ (colState (colJob 6 [0, 1] [(8, 1)])).col.jobs, j.desc.operation = 6 ∧ j.desc.ringId = (colHdr 8).ringId ∧
      j.desc.tensor = (colHdr 8).tensorId ∧ j.cmd.slot.step = (colHdr 8).step) ∧
    fits (colState (colJob 6 [0, 1] [(8, 1)])) (colHdr 8) = true ∧ (colHdr 8).tensorId ≠ 0xFFFF ∧
    (let j := attJob forwardBlock true 0 []
     let h := { ringHdr with layoutEpoch := 2 }
     h.crcOk = true ∧ deaf (runState j) = false ∧ (runState j).pwr.recess = false ∧ (runState j).job.running = true ∧
       h.layoutEpoch ≠ (runState j).job.layoutEpoch ∧ attFor (runState j) h = some j) ∧
    attOf job ringHdr false = none ∧ (pid true 1 3).returning = true ∧ (pid false 1 3).returning = false ∧
    (let s := setCol job fun c => { c with early := [{ dst := 0, hdr := ringHdr, body := .parcel (pid false 1 3) [] }] }
     fits s ringHdr = true ∧ s.col.early.any (fun m => m.body = .parcel (pid false 1 3) []) = true) ∧
    (let j := attJob forwardBlock true 0 []
     let s := runState j
     fits s ringHdr = true ∧ attOf s ringHdr false = some j ∧ (pid false 1 4).layoutEpoch ≠ j.desc.layoutEpoch ∧
       (pid false 1 3).layoutEpoch = j.desc.layoutEpoch ∧ (pid true 1 3).source ≠ j.desc.ringPosition ∧
       memWaits (noted s ringHdr) (parcelPlace j (pid false 1 3)).1 (Machine.slotBytes j.desc) = false ∧
       memWaits (noted (setGddr s fun g => { g with retraining := List.range 64 }) ringHdr) (parcelPlace j (pid false 1 3)).1 (Machine.slotBytes j.desc) = true ∧
       slotMarked (noted (markedState j (pid false 1 3)) ringHdr) j (pid false 1 3) = true ∧ slotMarked (noted s ringHdr) j (pid false 1 3) = false ∧
       (storeParcel (noted s ringHdr) j (pid false 1 3) [[7]]).toBool = true ∧
       (storeParcel (noted (setGddr s fun g => { g with badSectors := [sectorOf (parcelPlace j (pid false 1 3)).1] }) ringHdr) j (pid false 1 3)
         [[7]]).toBool = false) := by decide +kernel

/-! ### An attention run over sound tiles -/

/-- Bytes as cells from an address up. -/
def place : Nat → List Byte → List Host.Cell
  | _, [] => []
  | a, b :: bs => (a, b) :: place (a + 1) bs

theorem place_range : ∀ (bs : List Byte) (a : Nat), ∀ c ∈ place a bs, a ≤ c.1 ∧ c.1 < a + bs.length
  | [], _, c, h => by simp [place] at h
  | b :: bs, a, c, h => by
    simp only [place, List.mem_cons] at h
    rcases h with h | h
    · subst h; simp
    · have := place_range bs (a + 1) c h; simp only [List.length_cons]; omega

theorem readBytes_skip (l m : List Host.Cell) : ∀ (n a : Nat), (∀ c ∈ l, c.1 < a ∨ a + n ≤ c.1) → readBytes (l ++ m) a n = readBytes m a n
  | 0, _, _ => rfl
  | n + 1, a, h => by
    have g : ∀ (l : List Host.Cell), (∀ c ∈ l, c.1 ≠ a) → mget (l ++ m) a = mget m a := by
      intro l
      induction l with
      | nil => intro _; rfl
      | cons c l ih =>
        intro hl
        simp only [List.cons_append, mget, if_neg (hl c (by simp))]
        exact ih fun x hx => hl x (by simp [hx])
    simp only [readBytes, readByte]
    rw [g l fun c hc => by have := h c hc; omega, readBytes_skip l m n (a + 1) fun c hc => by have := h c hc; omega]

theorem readBytes_place : ∀ (bs : List Byte) (a : Nat) (m : List Host.Cell), readBytes (place a bs ++ m) a bs.length = bs
  | [], _, _ => rfl
  | b :: bs, a, m => by
    have e := readBytes_skip [(a, b)] (place (a + 1) bs ++ m) bs.length (a + 1) (by simp)
    simp only [List.cons_append, List.nil_append] at e
    simp only [place, List.cons_append, List.length_cons, readBytes, readByte, mget, if_true, e, readBytes_place bs (a + 1) m]
    rfl

theorem readBytes_nil : ∀ (n a : Nat), readBytes [] a n = List.replicate n 0
  | 0, _ => rfl
  | n + 1, a => by simp only [readBytes, readByte, mget, List.replicate_succ, readBytes_nil n (a + 1)]; rfl

/-- Device memory with two tiles of one array, and the descriptor of a run. -/
def tilesOf (h : List Byte) : List Host.Cell := place 0 h ++ (place 33024 h ++ (place (2 ^ 20) (attBlock 3 3 2 0) ++ []))

def oneTile (h : List Byte) (n : Nat) : List Byte := h ++ List.replicate n 0

theorem array_read (h : List Byte) (l : h.length = 64) (n : Nat) (hn : n = 32960) :
    readBytes (tilesOf h) 0 ((64 + n) + (64 + n)) = oneTile h n ++ oneTile h n := by
  have p := place_range h 0
  have q := place_range h 33024
  have b := place_range (attBlock 3 3 2 0) (2 ^ 20)
  have r0 : readBytes (tilesOf h) 0 64 = h := by
    have := readBytes_place h 0 (place 33024 h ++ (place (2 ^ 20) (attBlock 3 3 2 0) ++ []))
    rwa [l] at this
  have r1 : readBytes (tilesOf h) 33024 64 = h := by
    rw [tilesOf, readBytes_skip _ _ _ _ fun c hc => by have := p c hc; omega]
    have := readBytes_place h 33024 (place (2 ^ 20) (attBlock 3 3 2 0) ++ [])
    rwa [l] at this
  have gap : ∀ a, (a = 64 ∨ a = 33088) → readBytes (tilesOf h) a n = List.replicate n 0 := fun a ha => by
    rw [tilesOf, readBytes_skip _ _ _ _ fun c hc => by have := p c hc; omega, readBytes_skip _ _ _ _ fun c hc => by have := q c hc; omega,
      readBytes_skip _ _ _ _ fun c hc => by have := b c hc; omega, readBytes_nil]
  rw [readBytes_add, readBytes_add, readBytes_add, Nat.zero_add, Nat.zero_add, show 64 + n = 33024 by omega, r0, r1, gap 64 (.inl rfl),
    gap 33088 (.inr rfl)]
  rfl

theorem descriptor_read (h : List Byte) (l : h.length = 64) : readBytes (tilesOf h) (2 ^ 20) 128 = attBlock 3 3 2 0 := by
  rw [tilesOf, readBytes_skip _ _ _ _ fun c hc => by have := place_range h 0 c hc; omega,
    readBytes_skip _ _ _ _ fun c hc => by have := place_range h 33024 c hc; omega]
  have := readBytes_place (attBlock 3 3 2 0) (2 ^ 20) []
  rwa [show (attBlock 3 3 2 0).length = 128 by decide +kernel] at this

def attTiles (h : List Byte) : State := { attSetting [0, 1] false [] with mem := tilesOf h }

def soundHead (z : List Byte) : List Byte := bf16Head (crc32c z) (headCrc z)

theorem soundHead_length (z : List Byte) : (soundHead z).length = 64 := by
  have : ∀ x y, (bf16Head x y).length = 64 := fun x y => rfl
  exact this _ _

theorem sound_array (s : State) (z : List Byte) (n : Nat) (hn : n = 32960) (g : (List.replicate n (0 : Byte)).take 32768 = z)
    (hp : s.part = .nst8064) (he : s.job.layoutEpoch = 3) (t : tagTile 3 = 64 + n) (hs : ∀ sp, (∃ ad < 2 ^ 20, sp = some (Config.reservedBase .nst8064 - ad)) →
      (sp.any fun k => decide (granules (64 + 32768) > k)) = false) :
    checkArray s 0 true 3 (oneTile (soundHead z) n ++ oneTile (soundHead z) n) = none := by
  have l := soundHead_length z
  have lt : (oneTile (soundHead z) n).length = 64 + n := by simp [oneTile, l]
  have k : ∀ ad < 2 ^ 20, checkTile (soundHead z) (List.replicate n 0) (some (Config.reservedBase .nst8064 - ad)) 3 = .ok := fun ad ha =>
    (bf16_checks _ _ _ (by rw [g]) rfl (crc32c_lt _) (crc32c_lt _) _ (hs _ ⟨ad, ha, rfl⟩)).1
  have t64 : (oneTile (soundHead z) n).take 64 = soundHead z := List.take_left' l
  have d64 : (oneTile (soundHead z) n).drop 64 = List.replicate n 0 := List.drop_left' l
  have tg : leAt (oneTile (soundHead z) n) 0 1 = 3 := by
    have : ∀ x y (m : List Byte), leAt (bf16Head x y ++ m) 0 1 = 3 := fun x y m => rfl
    exact this _ _ _
  have e0 : ((oneTile (soundHead z) n ++ oneTile (soundHead z) n).drop (0 * (64 + n))).take (64 + n) = oneTile (soundHead z) n := by
    rw [Nat.zero_mul, List.drop_zero]; exact List.take_left' lt
  have e1 : ((oneTile (soundHead z) n ++ oneTile (soundHead z) n).drop (1 * (64 + n))).take (64 + n) = oneTile (soundHead z) n := by
    rw [Nat.one_mul, List.drop_left' lt]; exact List.take_of_length_le (Nat.le_of_eq lt)
  have len : (oneTile (soundHead z) n ++ oneTile (soundHead z) n).length / (64 + n) = 2 := by
    rw [List.length_append, lt, ← Nat.two_mul]; exact Nat.mul_div_cancel 2 (by omega)
  simp only [checkArray, t, len, List.range_succ, List.range_zero, List.nil_append, List.cons_append, List.findSome?_cons, List.findSome?_nil,
    e0, e1, t64, d64, hp, he, if_true, k (0 + 0 * (64 + n)) (by omega), k (0 + 1 * (64 + n)) (by omega), tg, bne_self_eq_false, if_neg Bool.false_ne_true]

/-- The descriptor that attBlock spells. -/
def attLit : AttDesc :=
  { tensor := 9, qTag := 3, kTag := 3, vTag := 3, outTag := 3, strictFormat := false, minKey := 0, causal := false, backward := false, headDim := 64,
    qHeads := 1, kvHeads := 1, ringSize := 2, ringPosition := 0, ringId := 1, layoutEpoch := 3, chunk := 128, valid := 256, scale := 0x3F800000,
    coreFirst := 0, coreCount := 1, stateOffset := 0, hostBases := 0, qBase := 0, qdBase := 0, kBase := 0, kdBase := 0, vBase := 0, vtBase := 0,
    oBase := 0, lseBase := 0, ringBase := 0, gradBase := 0 }

theorem attBlock_desc : attDescOf (attBlock 3 3 2 0) = attLit := by decide +kernel

theorem arrays_ok (z : List Byte) (n m : Nat) (hn : n = 32960) (hm : m = (64 + n) + (64 + n)) (g : (List.replicate n (0 : Byte)).take 32768 = z)
    (hs : ∀ sp, (∃ ad < 2 ^ 20, sp = some (Config.reservedBase .nst8064 - ad)) → (sp.any fun k => decide (granules (64 + 32768) > k)) = false) :
    ∃ arrays, readArrays (attTiles (soundHead z)) attLit [] = .ok arrays := by
  have ha : (attArrays (attTiles (soundHead z)) attLit).zipIdx.take 10 = [((0, 0, m, true), 0), ((1, 0, m, false), 1), ((2, 0, m, true), 2),
      ((3, 0, m, false), 3), ((4, 0, m, true), 4), ((5, 0, m, false), 5), ((6, 0, m, false), 6), ((7, 0, 1024, false), 7)] := by
    subst hm hn; rfl
  have w : memWaits (attTiles (soundHead z)) 0 m = false := rfl
  have b : badSector (attTiles (soundHead z)) 0 m = none := rfl
  have r : devRead (attTiles (soundHead z)) 0 m = oneTile (soundHead z) n ++ oneTile (soundHead z) n := by
    rw [hm]; exact array_read _ (soundHead_length z) n hn
  have c : checkArray (attTiles (soundHead z)) 0 true 3 (oneTile (soundHead z) n ++ oneTile (soundHead z) n) = none :=
    sound_array _ z n hn g rfl rfl (by subst hn; rfl) hs
  have q : attLit.qTag = 3 ∧ attLit.kTag = 3 ∧ attLit.vTag = 3 ∧ attLit.outTag = 3 ∧ attLit.hostBases = 0 := ⟨rfl, rfl, rfl, rfl, rfl⟩
  have z0 : ∀ i, bitOf 0 i = false := fun i => by simp [bitOf]
  refine ⟨?_, ?_⟩
  rotate_left
  · simp only [readArrays, ha, q, z0, List.foldl_cons, List.foldl_nil, Bool.not_true, Bool.not_false, if_true, w, b, r, c,
      List.getD_cons_zero, List.getD_cons_succ, reduceCtorEq, Nat.reduceEqDiff, if_false]
    rfl

theorem witness_AttentionRunsRoundItsRing_start :
    let s := attTiles (soundHead zeros)
    (∃ arrays, readArrays s (attDescOf (devRead s attCmd.slot.operand 128)) [] = .ok arrays) ∧
    devRead s attCmd.slot.operand 128 = attBlock 3 3 2 0 ∧ attDescOf (devRead s attCmd.slot.operand 128) = attLit ∧
    (ready s 0x0120 attCmd = true ∧ s.gddr.retraining = [] ∧ s.gddr.badSectors = [] ∧ deadChannels s = [] ∧ s.att = [] ∧
      rangeBad s attCmd.slot.operand 128 = false ∧ attFault s (modeOf attCmd.slot.ctl) (attBlock 3 3 2 0) = none ∧
      attLit.layoutEpoch = s.job.layoutEpoch ∧ mget s.col.rings attLit.ringId = some ⟨[0, 1], 0, false⟩ ∧
      absentCore s attLit.coreFirst attLit.coreCount = none ∧ (∃ m ∈ [0, 1], m ≠ s.twin.number) ∧ s.col.early = []) := by
  intro s
  have e : devRead s attCmd.slot.operand 128 = attBlock 3 3 2 0 := descriptor_read _ (soundHead_length zeros)
  have a := arrays_ok zeros 32960 66048 rfl rfl (by rw [List.take_replicate, zeros, show min 32768 32960 = 32768 from by decide]) fun sp h => by
    obtain ⟨ad, l, rfl⟩ := h
    have c : 2 ^ 20 + 33024 ≤ Config.reservedBase .nst8064 := by decide
    simp only [Option.any_some, decide_eq_false_iff_not, show granules (64 + 32768) = 33024 from by decide]
    omega
  rw [e, attBlock_desc]
  exact ⟨a, rfl, rfl, by decide +kernel⟩

/-! ### Witnesses: keys and values -/

def poolHead (tag : Nat) : List Byte := le 1 1 ++ le 1 tag ++ le 1 0 ++ le 1 1 ++ le 4 0 ++ le 4 4 ++ le 4 4096 ++ le 8 65536 ++ le 4 0

/-- Pool 1: four BF16 pages of one head of 64. -/
def poolBlock (tag : Nat) : List Byte := poolHead tag ++ le 4 (crc32c (poolHead tag))

def poolCmd (tag : Nat) : HostCmd := cmd 1 (block 0x0128 (poolBlock tag))

def pooled : State := run (.kvPoolDefine (poolCmd 3)) (on coreState (poolCmd 3))

/-- A sequence record of one list of two entries. -/
def seqBlock (layers list cubby : Nat) : List Byte :=
  let head := le 4 0 ++ le 1 1 ++ le 1 layers ++ le 1 1 ++ le 1 0 ++ le 2 2 ++ le 2 0 ++ le 2 0 ++ le 1 1 ++ le 1 0 ++ le 8 list ++ le 8 cubby ++
    List.replicate 28 0
  head ++ le 4 (crc32c head)

def parentRec : List Byte := seqBlock 1 0x20000 0x40000
def childRec : List Byte := seqBlock 1 0x20040 0x42000

def seqCmd (op : Nat) : HostCmd := cmd 1 { slot op with ctl := 64, operand := 0x100000, param0 := 0x80000, step := 5 }

/-- KV_SHARE with one child, with or without FLUSH. -/
def shareCmd (flush : Nat) : HostCmd := { seqCmd 0x012A with slot := { (seqCmd 0x012A).slot with param1 := 2 ^ 31 * flush } }

/-- Pool 1, the two records, and the list of the children's addresses. -/
def recorded0 (op : Nat) : State := withMem (withMem (withMem (on pooled (seqCmd op)) 0x100000 parentRec) 0x100040 childRec) 0x80000 (le 8 0x100040)

/-- Both sequences open. -/
def opened : State :=
  clearSeq (clearSeq (recorded0 0x012A) (seqOf parentRec)) (seqOf childRec)

/-- The parent's cubby holds sixteen tokens; pages 0 and 1 are named or all are taken. -/
def filled (free : Bool) : State :=
  let s := setCubby opened (seqOf parentRec) 0 ⟨16, 16, 0⟩
  if free then s else setKvp s fun k => { k with heads := [(1, noPage)] }

theorem witness_PagesAndSequencesAreKept_pools :
    (ready (on coreState (poolCmd 3)) 0x0128 (poolCmd 3) = true ∧ inlineOf (poolCmd 3).slot 32 = poolBlock 3 ∧
      poolFault (on coreState (poolCmd 3)) (poolBlock 3) = none ∧ (pageEntry coreState 4).pool ≠ 1) ∧
    poolFault (on coreState (poolCmd 2)) (poolBlock 2) = some 0x101 ∧ ready (on coreState (poolCmd 2)) 0x0128 (poolCmd 2) = true ∧
    (let s := setKvp pooled fun k => { k with entries := [(0, ⟨noPage, .live, 1, 16, 0, 0, 1⟩), (1, ⟨noPage, .live, 1, 16, 0, 0, 2⟩), (2, ⟨noPage, .live, 1, 16, 0, 0, 1⟩)], pins := [(2, 255)] }
     ((pageEntry s 0).state = .live ∧ (pageEntry s 0).refs = 1 ∧ pinsOf s 0 = 0) ∧ 1 < (pageEntry s 1).refs ∧ 0 < pinsOf s 2) := by decide +kernel

theorem witness_PagesAndSequencesAreKept_sequences :
    (∀ op ∈ [0x0129, 0x012B], ready (recorded0 op) op (seqCmd op) = true ∧ quiet (recorded0 op) = true ∧
      rangeBad (recorded0 op) (seqCmd op).slot.operand 64 = false ∧ operandBytes (recorded0 op) (seqCmd op) [] 64 = parentRec ∧
      (seqOf parentRec).crcOk = true ∧ releaseFault (recorded0 op) (seqOf parentRec) = none) ∧
    (releaseFault (recorded0 0x012B) (seqOf (seqBlock 0 0x20000 0x40000))).isSome = true ∧
    (seqFault (recorded0 0x0129) (seqOf parentRec) = none ∧ seqNames (recorded0 0x0129) (seqOf parentRec) = false ∧
      seqFault (recorded0 0x0129) (seqOf (seqBlock 0 0 0)) = some 0x105 ∧ (seqOf (List.replicate 64 0)).crcOk = false ∧
      seqNames (setListEntry opened (seqOf parentRec) 0 1 3) (seqOf parentRec) = true) := by decide +kernel

theorem witness_PagesAndSequencesAreKept_sharing :
    (∀ f ∈ [0, 1], ready (on opened (shareCmd f)) 0x012A (shareCmd f) = true ∧ bitOf (shareCmd f).slot.param1 31 = (f == 1) ∧
      bitsOf (shareCmd f).slot.param1 0 11 + 1 = 1) ∧
    (bitsOf 1023 0 11 + 1 = 1024 ∧ 1024 < bitsOf 1024 0 11 + 1) ∧
    rangeBad opened 0x80000 (8 * 1) = false ∧ rangeBad opened 0x80000 (8 * 1024) = false ∧ leNat (devRead opened 0x80000 8) = 0x100040 ∧
    rangeBad opened 0x100040 64 = false ∧ rangeBad opened biasTop 64 = true ∧ seqOf (devRead opened 0x100040 64) = seqOf childRec ∧
    seqFault opened (seqOf childRec) = none ∧ childFault opened (seqOf parentRec) (seqOf childRec) = none ∧
    (childFault (filled true) (seqOf parentRec) (seqOf parentRec)).isSome = true ∧ seqLists (seqOf parentRec) = 1 ∧
    (cubbyOf (filled true) (seqOf parentRec) 0).isSome = true ∧
    ((sharedFlushes (filled true) (seqOf parentRec)).map fun e => flushNeeds (filled true) (seqOf parentRec) e.1 e.2).sum = 1 ∧
    (holdPages (filled true) 1 1).isSome = true ∧ holdPages (filled false) 1 1 = none := by decide +kernel

/-- A decode block of one row, with or without an append of the token at a position. -/
def decBlock (appends core : Nat) : List Byte :=
  let head := le 1 0 ++ le 1 0 ++ le 2 1 ++ le 4 0x3F800000 ++ le 2 core ++ le 1 1 ++ le 1 0 ++ le 4 1 ++ le 4 appends ++ le 4 0 ++ le 8 0x90000 ++
    le 8 0x91000 ++ le 8 0x92000 ++ le 8 0x93000 ++ le 8 0x94000 ++ le 8 0x95000 ++ List.replicate 52 0
  head ++ le 4 (crc32c head)

def decCmd : HostCmd := cmd 1 { slot 0x0121 with operand := 0xA0000, step := 5 }

/-- A row of the parent, and an append to it. -/
def decState (s : State) (blk : List Byte) (pos : Nat) : State :=
  withMem (withMem (withMem (on s decCmd) 0xA0000 blk) 0x90000 (le 8 0x100000 ++ le 1 0 ++ le 1 0 ++ le 2 0 ++ le 4 0)) 0x91000
    (le 8 0x100000 ++ le 1 0 ++ le 3 0 ++ le 4 pos ++ le 4 0 ++ le 4 0)

def planOf (s : State) (blk : List Byte) : AppendPlan := (decAppends s (decDescOf blk)).foldl (planAppend s (decDescOf blk)) ⟨[], [], [], none, none⟩

def decFaultOf (s : State) (blk : List Byte) : Option (Nat × Nat × Nat) :=
  decodeFault s decCmd (decDescOf blk) (decRows s (decDescOf blk)) (decAppends s (decDescOf blk)) (planOf s blk)

theorem witness_DecodesAppendAndAttend_checks :
    (let s := decState (filled true) (decBlock 1 0) 16
     ready s 0x0121 decCmd = true ∧ s.decodes = [] ∧ quiet s = true ∧ rangeBad s decCmd.slot.operand 128 = false ∧
       devRead s decCmd.slot.operand 128 = decBlock 1 0 ∧ decFault s (decBlock 1 0) = none ∧
       (∀ i < 1, rangeBad s (leNat (devRead s (0x90000 + 16 * i) 8)) 64 = false ∧ rangeBad s (leNat (devRead s (0x91000 + 24 * i) 8)) 64 = false) ∧
       decFaultOf s (decBlock 1 0) = none ∧
       linesOk s (decDescOf (decBlock 1 0)) (decRows s (decDescOf (decBlock 1 0))) (decAppends s (decDescOf (decBlock 1 0))) = none ∧
       (linesOk s { decDescOf (decBlock 1 0) with queryBase := biasTop } (decRows s (decDescOf (decBlock 1 0))) []).isSome = true ∧
       (planOf s (decBlock 1 0)).need = [(1, 1)]) ∧
    decFault (filled true) (List.replicate 128 0) = some 0x102 ∧ rangeBad (filled true) biasTop 128 = true := by decide +kernel

theorem witness_DecodesAppendAndAttend_reservation :
    (let s := decState (filled true) (decBlock 1 0) 16
     (match holdAll s (planOf s (decBlock 1 0)).need with
      | .ok _ => true
      | .error _ => false) = true) ∧
    (let s := decState (filled false) (decBlock 1 0) 16
     decFaultOf s (decBlock 1 0) = none ∧ (match holdAll s (planOf s (decBlock 1 0)).need with
      | .ok _ => false
      | .error e => e = (1, 1)) = true) ∧
    (∀ q ∈ [(0, 1, 16, 0x22), (1, 0, 17, 0x12)], (decFaultOf (decState (filled true) (decBlock q.1 q.2.1) q.2.2.1) (decBlock q.1 q.2.1)).any
      (fun f => f.1 = q.2.2.2) = true) ∧
    (decFaultOf (decState (recorded0 0x012A) (decBlock 1 0) 0) (decBlock 1 0)).any (fun f => f.1 = 0x23) = true := by decide +kernel

def decJob (own : List (Option RowState)) (rings : List Nat) : DecodeJob := ⟨decCmd, true, false, [], [], own, [0], rings, []⟩

/-- A record by position on the ring of modules 0 and 1. -/
def ringRec : List Byte :=
  let head := le 4 0 ++ le 1 (1 + 16) ++ le 1 1 ++ le 1 1 ++ le 1 0 ++ le 2 8 ++ le 2 8 ++ le 2 1 ++ le 1 2 ++ le 1 0 ++ le 8 0x20000 ++ le 8 0x40000 ++
    List.replicate 28 0
  head ++ le 4 (crc32c head)

def ringRow (s : State) : State :=
  setCubby (withMem (setCol s fun c => { c with rings := [(1, ⟨[0, 1], 0, false⟩)] }) 0x100000 ringRec) (seqOf ringRec) 0 ⟨1, 1, 0⟩

def ownJob : DecodeJob := decJob [some ⟨0, 0x3F800000, List.replicate 64 0⟩] []

theorem witness_DecodesAppendAndAttend :
    (let s := { decState (filled true) (decBlock 0 0) 0 with decodes := [decJob [] []] }
     ready s 0x0121 decCmd = true ∧ s.decodes.find? (·.cmd = decCmd) = some (decJob [] [])) ∧
    (let s := { decState (filled true) (decBlock 0 0) 0 with decodes := [ownJob] }
     ready s 0x0121 decCmd = true ∧ s.decodes.find? (·.cmd = decCmd) = some ownJob ∧ quiet s = true ∧
       decodeReady s (decRows s (decDescOf (decBlock 0 0))) ownJob = true ∧ devRead s decCmd.slot.operand 128 = decBlock 0 0 ∧
       ((decRows s (decDescOf (decBlock 0 0))).zipIdx.all fun r => ownJob.merge.getD r.2 0 = r.1.seq.position && !r.1.seq.byPosition) = true) ∧
    (let s := ringRow { decState (filled true) (decBlock 0 0) 0 with decodes := [decJob [none] [1]] }
     s.decodes.find? (·.cmd = decCmd) = some (decJob [none] [1]) ∧
       decodeReady s (decRows s (decDescOf (decBlock 0 0))) (decJob [none] [1]) = false) := by decide +kernel
end Sys2Proof.Tests
end

section
/-! The class and its twins: CLASS_FORM (O21). The members' mask bit by bit, the twin's number by group and position (R21), and
CLASS_FORM as one of its three ends. -/

namespace Sys2Proof.Proofs

open Sys2Proof Sys2Proof.Machine

/-! ### The twin's number (R21) -/

/-- The twin's group is the partner group. -/
theorem twinOfNumber_group (n : Nat) : twinOfNumber n / 4 = n / 4 ^^^ 1 := Nat.xor_div_two_pow (n := 2)

/-- The twin stands at the same position of its group. -/
theorem twinOfNumber_position (n : Nat) : twinOfNumber n % 4 = n % 4 := by
  have h : (n ^^^ 4) % 2 ^ 2 = n % 2 ^ 2 ^^^ 4 % 2 ^ 2 := Nat.xor_mod_two_pow
  simpa [twinOfNumber] using h

/-- A module has the lower number of its pair where its group is even. -/
theorem lt_twinOfNumber_iff (n : Nat) : n < twinOfNumber n ↔ n / 4 % 2 = 0 := by
  have hg := twinOfNumber_group n
  have hp := twinOfNumber_position n
  rcases Nat.even_or_odd (n / 4) with he | ho
  · rw [Nat.xor_one_of_even he] at hg
    have := Nat.even_iff.mp he
    omega
  · rw [Nat.xor_one_of_odd ho] at hg
    have := Nat.odd_iff.mp ho
    omega

theorem senior_iff {s : State} (h : s.twin.pair ≠ .unformed) : senior s = true ↔ s.twin.number / 4 % 2 = 0 := by
  simp [senior, inClass, h]

/-! ### The members' mask -/

/-- The mask of a class of a size: its modules, without the one that joins where one does. -/
def classMask (size number : Nat) (joining : Bool) : W64 :=
  if joining then BitVec.ofNat 64 (2 ^ size - 1) &&& ~~~((1 : W64) <<< number) else BitVec.ofNat 64 (2 ^ size - 1)

theorem getLsbD_allMembers {m : Nat} (size : Nat) (h : m < 64) :
    (BitVec.ofNat 64 (2 ^ size - 1)).getLsbD m = decide (m < size) := by
  rw [BitVec.getLsbD_ofNat, Nat.testBit_two_pow_sub_one, decide_eq_true h, Bool.true_and]

theorem getLsbD_oneMember {m : Nat} (n : Nat) (h : m < 64) : ((1 : W64) <<< n).getLsbD m = decide (m = n) := by
  have hbit : ((1 : W64) <<< n).getLsbD m = (decide (n < 64) && decide (n = m)) := by
    rw [← BitVec.getLsbD_twoPow, BitVec.twoPow_eq]
    rfl
  rw [hbit, Bool.eq_iff_iff]
  simp only [Bool.and_eq_true, decide_eq_true_eq]
  omega

theorem getLsbD_classMask {m : Nat} (size number : Nat) (joining : Bool) (h : m < 64) :
    (classMask size number joining).getLsbD m = (decide (m < size) && !(joining && decide (m = number))) := by
  cases joining
  · simp only [classMask, Bool.false_eq_true, if_false, getLsbD_allMembers size h, Bool.false_and, Bool.not_false, Bool.and_true]
  · simp only [classMask, if_true, BitVec.getLsbD_and, BitVec.getLsbD_not, getLsbD_allMembers size h, getLsbD_oneMember number h,
      decide_eq_true h, Bool.true_and]

/-! ### CLASS_FORM -/

theorem sizeAllowed_iff (p : Part) (n : Nat) : sizeAllowed p n = true ↔ (p = .nst8016 → n = 16) := by
  cases p <;> simp [sizeAllowed]

/-- The state that CLASS_FORM leaves: a twin record as at reset but for what the command gives, and a collective engine with the
members of the class and neither streams nor rings. -/
def formed (s : State) (number size : Nat) (seed : W64) (joining : Bool) : State :=
  { s with
    twin := { Twin.reset with pair := if joining then .detached else .paired, number := number, size := size, seed := seed }
    col := { s.col with members := classMask size number joining, marks := [], nextSeq := [], idents := [], retry := [],
                        unsent := [], ways := [], rings := [], newRings := [] } }

section Formed
variable (s : State) (number size : Nat) (seed : W64) (joining : Bool)

@[simp] theorem formed_pair : (formed s number size seed joining).twin.pair = if joining then .detached else .paired := rfl
@[simp] theorem formed_number : (formed s number size seed joining).twin.number = number := rfl
@[simp] theorem formed_size : (formed s number size seed joining).twin.size = size := rfl
@[simp] theorem formed_seed : (formed s number size seed joining).twin.seed = seed := rfl
@[simp] theorem twinOf_formed : twinOf (formed s number size seed joining) = twinOfNumber number := rfl

theorem isMember_formed {m : Nat} (h : m < 64) :
    isMember (formed s number size seed joining) m = (decide (m < size) && !(joining && decide (m = number))) :=
  getLsbD_classMask size number joining h

/-- A formed module is in a class, so its group alone says whether it is senior. -/
theorem senior_formed : senior (formed s number size seed joining) = true ↔ number / 4 % 2 = 0 :=
  senior_iff (by cases joining <;> simp)

end Formed

theorem exec_classForm_eq (c : HostCmd) (joining : Bool) (s : State) :
    exec (.classForm c joining) s = execClassForm c joining s := rfl

section Exec
variable {c : HostCmd} {joining : Bool} {s : State} {number size : Nat} (h : ready s 0x0018 c = true)
  (hnumber : number = bitsOf c.slot.param0 0 6) (hsize : size = 16 * (bitsOf c.slot.param0 8 2 + 1))
include h hnumber hsize

/-- CLASS_FORM that may run ends in one of three ways: refused on a running job, refused on its number and size, or DONE. -/
theorem exec_classForm : exec (.classForm c joining) s = .next
    (if s.job.running then refuse s c condition
     else if !sizeAllowed s.part size || decide (number ≥ size) then refuse s c 0x20
     else done (formed s number size (BitVec.ofNat 64 c.slot.param1) joining) c) := by
  subst hnumber hsize
  rw [exec_classForm_eq, execClassForm, runCmd, if_pos h]
  rfl

theorem classForm_forms (hjob : s.job.running = false) (hpart : s.part = .nst8016 → size = 16) (hlt : number < size) :
    EndsIn (.classForm c joining) s c 0 0 0 (formed s number size (BitVec.ofNat 64 c.slot.param1) joining) := by
  apply endsIn_done
  rw [exec_classForm h hnumber hsize]
  simp [hjob, (sizeAllowed_iff s.part size).mpr hpart, hlt]

theorem classForm_refuses_place (hjob : s.job.running = false) (hbad : (s.part = .nst8016 ∧ size ≠ 16) ∨ size ≤ number) :
    EndsIn (.classForm c joining) s c 0x12 0x20 0 s := by
  have hcond : (!sizeAllowed s.part size || decide (number ≥ size)) = true := by
    rw [Bool.or_eq_true, Bool.not_eq_true', ← Bool.not_eq_true, sizeAllowed_iff, decide_eq_true_eq, Classical.not_imp]
    exact hbad
  apply endsIn_finish _ (by decide)
  rw [exec_classForm h hnumber hsize, hjob, hcond]
  rfl

theorem classForm_refuses_running (hjob : s.job.running = true) : EndsIn (.classForm c joining) s c 0x12 condition 0 s := by
  apply endsIn_finish _ (by decide)
  rw [exec_classForm h hnumber hsize, hjob]
  rfl

end Exec

/-- Settles O21: the state that CLASS_FORM leaves is `formed`, and its twin and seniority follow from the module's number. -/
theorem classFormPlacesTheModule : Obligations.ClassFormPlacesTheModule := by
  intro c joining s number size h hnumber hsize
  refine ⟨fun hjob hpart hlt => ?_, classForm_refuses_place h hnumber hsize, classForm_refuses_running h hnumber hsize⟩
  refine ⟨_, classForm_forms h hnumber hsize hjob hpart hlt, formed_pair .., formed_number .., formed_size .., formed_seed ..,
    fun m => isMember_formed _ _ _ _ _, twinOf_formed ..,
    twinOfNumber_group number, twinOfNumber_position number, ?_, senior_formed .., rfl⟩
  rw [twinOf_formed, lt_twinOfNumber_iff, senior_formed]

end Sys2Proof.Proofs
end

section
/-! The start of a command: the header checks (O13). Which header is refused with what, and what a start leaves behind. -/

namespace Sys2Proof.Proofs

open Sys2Proof Sys2Proof.Machine

/-! ### The header checks (R57, R58, R291, R298) -/

/-- A header whose NUMERIC_MODE or ROUNDING is reserved, or that asks for a direction in another mode than STRICT (R57, R58). -/
abbrev ReservedFormat (ctl : Nat) : Prop :=
  bitsOf ctl 0 2 = 3 ∨ 3 < bitsOf ctl 2 3 ∨ (bitsOf ctl 2 3 ≠ 0 ∧ bitsOf ctl 0 2 ≠ 1)

theorem not_reservedFormat {ctl : Nat} (hmode : bitsOf ctl 0 2 < 3) (hround : bitsOf ctl 2 3 ≤ 3)
    (hstrict : bitsOf ctl 2 3 = 0 ∨ bitsOf ctl 0 2 = 1) : ¬ReservedFormat ctl := by
  rintro (h | h | ⟨hdir, hother⟩)
  · omega
  · omega
  · exact hstrict.elim hdir hother

section Header
variable {s : State} {c : HostCmd}

theorem headerFault_of_not_allowed (hop : opcodeAllowed c.slot.opcode c.fn = false) :
    headerFault s c = some (0x11, c.slot.opcode) := by
  simp [headerFault, hop]

/-- On a module that has not failed, an opcode that its function may use leaves two checks: the format, then INLINE_BYTES. -/
theorem headerFault_of_allowed (hop : opcodeAllowed c.slot.opcode c.fn = true) (hup : s.boot.failed = false) :
    headerFault s c = if ReservedFormat c.slot.ctl then some (0x12, 4)
      else if 192 < c.slot.inlineBytes then some (0x12, 5) else none := by
  simp [headerFault, hop, hup, or_assoc]

/-! ### What a start leaves behind -/

theorem startCmd_of_no_fault (h : headerFault s c = none) :
    startCmd s c = { s with hif := { s.hif with running := s.hif.running ++ [c] } } := by
  rw [startCmd, h]
  rfl

/-- A start with a fault ends the command that it has just listed as running; that listing is within what an end may change. -/
theorem startCmd_of_fault {st d0 : Nat} (h : headerFault s c = some (st, d0)) (hst : st ≠ 0x30) :
    Ended (startCmd s c) c st d0 0 ∧ OnlyEnds s (startCmd s c) c.fn := by
  have hlisted := ends_lists s s.hif.queues (s.hif.running ++ [c]) s.hif.duplicates s.hif.adminPending c.fn
  rw [startCmd, h]
  exact ⟨ended_finish _ c d0 0 hst, (hlisted.trans (ends_finish _ c st d0 0)).onlyEnds⟩

end Header

/-- Settles O13: the header checks in their order give the fault, and a start with a fault is the end of its command. -/
theorem badHeadersAreRefusedAtTheStart : Obligations.BadHeadersAreRefusedAtTheStart := by
  intro s c _
  refine ⟨fun hop => startCmd_of_fault (headerFault_of_not_allowed hop) (by decide), fun hop hup => ?_⟩
  have hfault := headerFault_of_allowed hop hup
  refine ⟨fun hres => ?_, fun hmode hround hstrict => ?_⟩
  · rw [if_pos hres] at hfault
    exact startCmd_of_fault hfault (by decide)
  · rw [if_neg (not_reservedFormat hmode hround hstrict)] at hfault
    refine ⟨fun hlong => ?_, fun hshort => ?_⟩
    · rw [if_pos hlong] at hfault
      exact startCmd_of_fault hfault (by decide)
    · rw [if_neg (by omega)] at hfault
      exact startCmd_of_no_fault hfault

end Sys2Proof.Proofs
end

section
/-! The host's view of memory and the management buses (O19): a counter raised and a register's RW bits read back, bytes of memory
read back after a write, CXL.mem accesses by what they meet (R129, R287, R289), and I3C and SMBus on auxiliary power (R434). -/

namespace Sys2Proof.Proofs

open Sys2Proof Sys2Proof.Machine Sys2Proof.Laws

/-! ### Fields of kept registers -/

theorem bitsOf_setBits (n lo w v : Nat) : bitsOf (setBits n lo w v) lo w = v % 2 ^ w := by
  have hfield : bitsOf n lo w * 2 ^ lo ≤ n := (Nat.mul_le_mul_right _ (Nat.mod_le _ _)).trans (Nat.div_mul_le_self n _)
  have hrest : (n - bitsOf n lo w * 2 ^ lo) / 2 ^ lo = 2 ^ w * (n / 2 ^ lo / 2 ^ w) := by
    have hsplit := Nat.div_add_mod (n / 2 ^ lo) (2 ^ w)
    rw [mul_comm (bitsOf n lo w), Nat.sub_mul_div_of_le _ _ _ (by rwa [mul_comm])]
    unfold bitsOf
    omega
  unfold setBits
  rw [bitsOf, Nat.add_mul_div_right _ _ (Nat.two_pow_pos lo), hrest, Nat.mul_add_mod, Nat.mod_mod]

/-- A field within the 32 bits of its register does not see what the register cuts off. -/
theorem bitsOf_word {n lo w : Nat} (h : lo + w ≤ 32) : bitsOf (n % 2 ^ 32) lo w = bitsOf n lo w := by
  refine Nat.eq_of_testBit_eq fun k => ?_
  simp only [bitsOf, Nat.testBit_mod_two_pow, Nat.testBit_div_two_pow]
  by_cases hk : k < w
  · simp [hk, show k + lo < 32 by omega]
  · simp [hk]

theorem satN_eq_min (w n : Nat) : satN w n = min n (2 ^ w - 1) := by
  unfold satN
  split <;> omega

@[simp] theorem kept_setReg (s : State) (b : Blk) (i off v : Nat) : kept (setReg s b i off v) b i off = v % 2 ^ 32 := by
  have hread : mget (setReg s b i off v).regs (regKey (setReg s b i off v) b i off) = some (BitVec.ofNat 32 v) := mget_mput_self ..
  rw [kept, hread]
  exact BitVec.toNat_ofNat v 32

/-- A counter field counts up to its largest value and stays there (R13). -/
theorem field_bump (s : State) (b : Blk) (i off n : Nat) {lo w : Nat} (h : lo + w ≤ 32) :
    field (bump s b i off lo w n) b i off lo w = min (field s b i off lo w + n) (2 ^ w - 1) := by
  have hpos := Nat.two_pow_pos w
  rw [field, bump, setField, kept_setReg, bitsOf_word h, bitsOf_setBits, satN_eq_min, Nat.mod_eq_of_lt (by omega)]

theorem sameRegs_bump (s : State) (b : Blk) (i off lo w n : Nat) : SameRegs s (bump s b i off lo w n) [regKey s b i off] :=
  sameRegs_setReg (List.mem_singleton_self _)

/-- A write that its encoding check takes leaves in the RW bits what was written (R13, R16). -/
theorem kept_writeFields_rw {s : State} {b : Blk} {i off v : Nat} (hok : (writable b i off v).ok = true)
    (hrw : (writable b i off v).rw ≠ 0) (hword : (writable b i off v).rw < 2 ^ 32) :
    kept (writeFields s b i off v) b i off &&& (writable b i off v).rw = v &&& (writable b i off v).rw := by
  unfold writeFields
  generalize writable b i off v = w at *
  obtain ⟨rw, w1c, ok⟩ := w
  subst hok
  simp only [Bool.not_true, Bool.false_eq_true, if_false, hrw, decide_false, Bool.false_and, kept_setReg]
  refine Nat.eq_of_testBit_eq fun k => ?_
  have hkeep : (2 ^ 32 - 1 - rw).testBit k = (decide (k < 32) && !rw.testBit k) := by
    rw [Nat.sub_sub, Nat.add_comm, Nat.testBit_two_pow_sub_succ hword]
  simp only [Nat.testBit_and, Nat.testBit_mod_two_pow, Nat.testBit_or, hkeep]
  by_cases hk : k < 32
  · cases rw.testBit k <;> simp [hk]
  · simp [Nat.testBit_lt_two_pow (hword.trans_le (Nat.pow_le_pow_right two_pos (not_lt.mp hk)))]

/-! ### Device memory -/

/-- Bytes written read back, and every other byte reads as before. -/
theorem readByte_writeBytes {m : List Host.Cell} (h : Memory.wf m = true) (a x : Nat) (bs : List Byte) :
    readByte (writeBytes m a bs) x = if a ≤ x ∧ x < a + bs.length then bs.getD (x - a) 0 else readByte m x := by
  induction bs generalizing m a with
  | nil => simp [writeBytes, show ¬(a ≤ x ∧ x < a) by omega]
  | cons b bs ih =>
    rw [writeBytes, ih (wf_writeByte a b h), readByte_writeByte h, List.length_cons]
    rcases lt_trichotomy x a with hlt | rfl | hgt
    · rw [if_neg (by omega), if_neg (by omega), if_neg (by omega)]
    · simp
    · have hstep : x - a = x - (a + 1) + 1 := by omega
      rw [hstep, List.getD_cons_succ, if_neg (show ¬a = x by omega)]
      congr 1
      simp only [eq_iff_iff]
      omega

/-! ### CXL.mem (R287, R289) -/

section Offer
variable {s : State} {x : CxlAccess}

theorem cxlOffer_waits (h : memWaits s x.range.1 x.range.2 = true) :
    cxlOffer s x = { s with gddr := { s.gddr with held := s.gddr.held ++ [x] } } := by
  rw [cxlOffer, h]
  rfl

theorem cxlOffer_runs (hheld : s.gddr.held = []) (h : memWaits s x.range.1 x.range.2 = false) : cxlOffer s x = cxlAccess s x := by
  rw [cxlOffer, h, hheld]
  rfl

end Offer

section Access
variable {s : State} {a n : Nat} {data : List Byte}

theorem cxlAccess_read_sound (h : badSector s a n = none) :
    cxlAccess s (.read a n []) = reply s (.bytes (readBytes s.mem a n)) := by
  simp [cxlAccess, metIn, meet, h, devRead]

theorem cxlAccess_read_uncorrectable {x : Nat} (h : badSector s a n = some x) :
    cxlAccess s (.read a n []) = bump (noteUE (reply s (.bytes (List.replicate n 0xFF))) x) .hif 0 0x138 16 16 1 := by
  simp [cxlAccess, metIn, meet, h]

theorem cxlAccess_write_sound (h : badWrite s a data.length = none) : cxlAccess s (.write a data) = hostPut s a data := by
  simp [cxlAccess, h]

theorem cxlAccess_write_uncorrectable {x : Nat} (h : badWrite s a data.length = some x) :
    cxlAccess s (.write a data) = noteUE s x := by
  simp [cxlAccess, h]

theorem hostPut_only (s : State) (a : Nat) (data : List Byte) :
    hostPut s a data = { devWrite s a data with tables := { s.tables with torn := (hostPut s a data).tables.torn } } := rfl

theorem inv_hostPut (h : Inv s) : Inv (hostPut s a data) := wf_devWrite a data h

theorem readByte_hostPut (h : Inv s) (x : Nat) : readByte (hostPut s a data).mem x =
    if a ≤ x ∧ x < a + data.length then data.getD (x - a) 0 else readByte s.mem x := readByte_writeBytes h a x data

end Access

section Exec
variable {s : State} {a : Nat} {read : LineRead} {data : List Byte}

theorem exec_cxlMemRead_device (h : devRange s a read.bytes = true) :
    exec (.cxlMemRead a read) s = .next (cxlOffer s (.read a read.bytes read.met)) := by
  change execCxlMemRead a read s = _
  rw [execCxlMemRead, h]
  rfl

/-- A read in device memory that nothing holds up takes place at once. -/
theorem exec_cxlMemRead_runs (hheld : s.gddr.held = []) (hnow : memWaits s a read.bytes = false) (h : devRange s a read.bytes = true) :
    exec (.cxlMemRead a read) s = .next (cxlAccess s (.read a read.bytes read.met)) := by
  rw [exec_cxlMemRead_device h, cxlOffer_runs (x := .read a read.bytes read.met) hheld hnow]

/-- A read in the reserved region is answered all ones and counted. -/
theorem exec_cxlMemRead_reserved (h : devRange s a read.bytes = false) : exec (.cxlMemRead a read) s =
    .next (bump (reply s (.bytes (List.replicate read.bytes 0xFF))) .hif 0 0x138 0 16 1) := by
  change execCxlMemRead a read s = _
  rw [execCxlMemRead, h]
  rfl

theorem exec_cxlMemWrite_device (h : devRange s a data.length = true) :
    exec (.cxlMemWrite a data) s = .next (cxlOffer s (.write a data)) := by
  change execCxlMemWrite a data s = _
  rw [execCxlMemWrite, h]
  rfl

/-- A write in device memory that nothing holds up takes place at once. -/
theorem exec_cxlMemWrite_runs (hheld : s.gddr.held = []) (hnow : memWaits s a data.length = false)
    (h : devRange s a data.length = true) : exec (.cxlMemWrite a data) s = .next (cxlAccess s (.write a data)) := by
  rw [exec_cxlMemWrite_device h, cxlOffer_runs (x := .write a data) hheld hnow]

/-- A write in the reserved region is counted, and discarded. -/
theorem exec_cxlMemWrite_reserved (h : devRange s a data.length = false) :
    exec (.cxlMemWrite a data) s = .next (bump s .hif 0 0x138 0 16 1) := by
  change execCxlMemWrite a data s = _
  rw [execCxlMemWrite, h]
  rfl

end Exec

theorem exec_cxlSnoop (a : Nat) (s : State) : exec (.cxlSnoop a) s = .next (reply s .rspIHitI) := rfl

/-! ### The management buses (R434) -/

section Buses
variable {s : State} (haux : s.pwr.auxGood = true)
include haux

theorem i3cMine_eq (a : Nat) : i3cMine s a = decide (a = s.boot.i3cAddress.getD 0x3A) := by
  rw [i3cMine, haux, Bool.true_and]

theorem exec_i3cDynamicAddress {a : Nat} (h : a < 128) :
    exec (.i3cDynamicAddress a) s = .next { s with boot := { s.boot with i3cAddress := some a } } := by
  change execI3cDynamicAddress a s = _
  rw [execI3cDynamicAddress, haux, decide_eq_true h]
  rfl

/-- An I3C read by register offset: answered where the address is the module's and the offset aligned. -/
theorem exec_i3cRegisterRead (a off : Nat) : exec (.i3cRegisterRead a off) s = .next
    (if a = s.boot.i3cAddress.getD 0x3A ∧ off % 4 = 0 then reply (read32 s off).1 (.value (read32 s off).2 4)
     else reply s .nack) := by
  change execI3cRegisterRead a off s = _
  rw [execI3cRegisterRead, i3cMine_eq haux]
  by_cases ha : a = s.boot.i3cAddress.getD 0x3A <;> by_cases hoff : off % 4 = 0 <;> simp [haux, ha, hoff]

/-- An I3C write: TST_CTL and PWR_LIMIT of the module take it, everything else is NACKed. -/
theorem exec_i3cRegisterWrite (a off : Nat) (v : W32) : exec (.i3cRegisterWrite a off v) s = .next
    (if a ≠ s.boot.i3cAddress.getD 0x3A then reply s .nack
     else if off = pageOf .tst 0 + 0x104 then reply (writeFields s .tst 0 0x104 v.toNat) .ack
     else if off = pageOf .pwr 0 + 0x108 then reply (writeFields s .pwr 0 0x108 v.toNat) .ack
     else reply s .nack) := by
  change execI3cRegisterWrite a off v s = _
  rw [execI3cRegisterWrite, i3cMine_eq haux]
  simp [haux]

theorem exec_i3cRegisterWrite_limit {a : Nat} (ha : a = s.boot.i3cAddress.getD 0x3A) (v : W32) :
    exec (.i3cRegisterWrite a (pageOf .pwr 0 + 0x108) v) s = .next (reply (writeFields s .pwr 0 0x108 v.toNat) .ack) := by
  rw [exec_i3cRegisterWrite haux, if_neg (not_not_intro ha), if_neg (by decide), if_pos rfl]

theorem exec_i3cRegisterWrite_other {a off : Nat} (hlimit : off ≠ pageOf .pwr 0 + 0x108) (htst : off ≠ pageOf .tst 0 + 0x104) (v : W32) :
    exec (.i3cRegisterWrite a off v) s = .next (reply s .nack) := by
  rw [exec_i3cRegisterWrite haux, if_neg htst, if_neg hlimit, ite_self]

theorem smbus_eq (n v : Nat) : smbus s n v = .next (reply s (.bytes (leBytes n v))) := by
  rw [smbus, haux]
  rfl

/-- An instruction that is a block read on SMBus is answered with the bytes of its value. -/
theorem leads_smbus {i : Instr} {n v : Nat} (h : exec i s = smbus s n v) : Leads i s fun t => t = reply s (.bytes (leBytes n v)) :=
  ⟨_, h.trans (smbus_eq haux n v), rfl⟩

end Buses

/-- DEV_PART holds the part number and the revision (R331). -/
theorem regValue_devPart (s : State) : regValue s .dev 0 0x100 = Config.partNumber s.part * 2 ^ 16 + 0x100 := rfl

theorem exec_smbusReadPart (s : State) : exec .smbusReadPart s = smbus s 4 (Config.partNumber s.part * 2 ^ 16 + 0x100) :=
  congrArg (smbus s 4) (regValue_devPart s)

/-- PWR_LIMIT takes a limit of 600 W to 1500 W (R351). -/
theorem kept_writeFields_limit (s : State) {v : Nat} (hlow : 600 ≤ v % 65536) (hhigh : v % 65536 ≤ 1500) :
    kept (writeFields s .pwr 0 0x108 v) .pwr 0 0x108 % 65536 = v % 65536 := by
  have hwritable : writable .pwr 0 0x108 v = ⟨2 ^ 16 - 1, 0, true⟩ := by
    simp [writable, bitsOf, hlow, hhigh]
  have hrw := kept_writeFields_rw (s := s) (b := .pwr) (i := 0) (off := 0x108) (v := v) (by rw [hwritable])
    (by rw [hwritable]; decide) (by rw [hwritable]; decide)
  rwa [hwritable, Nat.and_two_pow_sub_one_eq_mod, Nat.and_two_pow_sub_one_eq_mod] at hrw

/-! ### The obligation -/

/-- Settles O19: each access by the equation of its instruction; the counter, the bytes written and PWR_LIMIT by the rules on
counter fields, on memory and on RW bits. -/
theorem cxlMemoryAndManagementBusesAnswer : Obligations.CxlMemoryAndManagementBusesAnswer := by
  refine ⟨fun s a n met data => ?_, fun s a off v haux => ?_⟩
  · refine ⟨fun hheld hnow hdev => ?_, fun hres => ?_, fun hinv hheld hnow hdev hsound => ?_, fun x hheld hnow hdev hbad => ?_,
      fun hdev hwait => ?_, fun hdev hwait => ?_, fun hres => ?_, ?_⟩
    · have hexec := exec_cxlMemRead_runs (read := ⟨n, []⟩) hheld hnow hdev
      exact ⟨fun hsound => ⟨_, hexec, cxlAccess_read_sound hsound⟩, fun x hbad => ⟨_, hexec, cxlAccess_read_uncorrectable hbad⟩⟩
    · exact ⟨_, exec_cxlMemRead_reserved hres, rfl, field_bump _ .hif 0 0x138 1 (by decide), sameRegs_bump _ .hif 0 0x138 0 16 1⟩
    · have hexec := exec_cxlMemWrite_runs hheld hnow hdev
      rw [cxlAccess_write_sound hsound] at hexec
      exact ⟨_, hexec, readByte_hostPut hinv, inv_hostPut hinv, hostPut_only s a data⟩
    · exact ⟨_, exec_cxlMemWrite_runs hheld hnow hdev, cxlAccess_write_uncorrectable hbad⟩
    · exact ⟨_, exec_cxlMemRead_device hdev, cxlOffer_waits hwait⟩
    · exact ⟨_, exec_cxlMemWrite_device hdev, cxlOffer_waits hwait⟩
    · exact ⟨_, exec_cxlMemWrite_reserved hres, bump_only .., sameRegs_bump s .hif 0 0x138 0 16 1⟩
    · exact ⟨_, exec_cxlSnoop a s, rfl⟩
  · refine ⟨fun ha => ?_, fun ha hoff => ?_, fun ha => ?_, fun _ hlimit htst => ?_, fun ha => ?_, fun ha => ?_,
      leads_smbus haux (exec_smbusReadPart s), leads_smbus haux rfl, leads_smbus haux rfl, leads_smbus haux rfl,
      leads_smbus haux rfl, leads_smbus haux rfl⟩
    · exact ⟨_, exec_i3cDynamicAddress haux ha, rfl⟩
    · exact ⟨_, exec_i3cRegisterRead haux a off, if_pos ⟨ha, hoff⟩⟩
    · exact ⟨_, exec_i3cRegisterWrite_limit haux ha v, rfl, fun ⟨hlow, hhigh⟩ => kept_writeFields_limit s hlow hhigh⟩
    · exact ⟨_, exec_i3cRegisterWrite_other haux hlimit htst v, rfl⟩
    · exact ⟨_, exec_i3cRegisterWrite haux a off v, if_pos ha⟩
    · exact ⟨_, exec_i3cRegisterRead haux a off, if_neg fun h => ha h.1⟩

end Sys2Proof.Proofs
end

section
/-! What every command leaves alone (O5, O6): one lemma for each operation that answers a state, in the order of the model's files.
Each says that the operation keeps what `Kept` names: the queue of waiting commands, the part, and the canonical form of memory. -/

namespace Sys2Proof.Proofs

open Sys2Proof Sys2Proof.Machine Sys2Proof.Laws

set_option Elab.async false

variable {z s a b : State}

/-! ### How Kept goes through a definition -/

/-- An update of other fields than the three keeps them. -/
theorem keeps_fields (h : Kept z a) (hq : b.pending = a.pending := by rfl) (hp : b.part = a.part := by rfl)
    (hm : b.mem = a.mem := by rfl) : Kept z b := kept_same h hq hp hm

/-- An update of memory that keeps its canonical form. -/
theorem keeps_memory (h : Kept z a) (hm : Memory.wf a.mem = true → Memory.wf b.mem = true) (hq : b.pending = a.pending := by rfl)
    (hp : b.part = a.part := by rfl) : Kept z b := ⟨hq.trans h.pending, hp.trans h.part, hm ∘ h.mem⟩

/-- A record update of other fields than the three keeps them. -/
theorem keeps_with {tick freeCtr : Nat} {regs latch : List (Nat × W32)} {replies : List Reply} {hostOut : List HostWrite} {gddr : Gddr}
    {hif : Hif} {links : List (Nat × Link)} {twin : Twin} {col : Col} {job : Job} {tables : Tables} {scaling : List (Nat × ScaleRec)}
    {outliers : List (Nat × Outliers)} {grade : Gradebook} {kvp : Kvp} {att : List AttJob} {decodes : List DecodeJob} {cores : Cores}
    {pwr : Pwr} {rel : Rel} {boot : Boot} {undo : List UndoImage} (h : Kept z a) :
    Kept z ⟨a.pending, a.part, tick, freeCtr, regs, latch, replies, hostOut, a.mem, gddr, hif, links, twin, col, job, tables, scaling,
      outliers, grade, kvp, att, decodes, cores, pwr, rel, boot, undo⟩ := keeps_fields h

theorem keeps_ite {p : Prop} [Decidable p] (ha : Kept z a) (hb : Kept z b) : Kept z (if p then a else b) := by
  split
  · exact ha
  · exact hb

/-- The state that an operation may answer is kept. -/
def KeptSome (z : State) (o : Option State) : Prop := ∀ t, o = some t → Kept z t

theorem keptSome_none : KeptSome z none := fun _ e => (Option.some_ne_none _ e.symm).elim

theorem keptSome_some (h : Kept z a) : KeptSome z (some a) := fun _ e => Option.some.inj e ▸ h

/-- The state that an operation answers unless it fails is kept. -/
def KeptOk {ε : Type} (z : State) (r : Except ε State) : Prop := ∀ t, r = .ok t → Kept z t

theorem keptOk_error {ε : Type} {x : ε} : KeptOk z (.error x) := fun _ e => nomatch e

theorem keptOk_ok {ε : Type} (h : Kept z a) : KeptOk (ε := ε) z (.ok a) := fun _ e => Except.ok.inj e ▸ h

theorem keptSome_map {α : Type} {o : Option α} {f : α → State} (hf : ∀ x, Kept z (f x)) : KeptSome z (o.map f) := by
  cases o with
  | none => exact keptSome_none
  | some x => exact keptSome_some (hf x)

theorem keeps_getD {o : Option State} (ho : KeptSome z o) (h : Kept z s) : Kept z (o.getD s) := by
  cases o with
  | none => exact h
  | some t => exact ho t rfl

theorem keptOk_bind {ε : Type} {r : Except ε State} {f : State → Except ε State} (hf : ∀ t, Kept z t → KeptOk z (f t))
    (h : KeptOk z r) : KeptOk z (r.bind f) := by
  cases r with
  | error x => exact keptOk_error
  | ok t => exact hf t (h t rfl)

theorem keptOk_foldl {α ε : Type} {f : Except ε State → α → Except ε State} (hf : ∀ r x, KeptOk z r → KeptOk z (f r x)) :
    ∀ (l : List α) (r : Except ε State), KeptOk z r → KeptOk z (l.foldl f r)
  | [], _, h => h
  | x :: l, r, h => keptOk_foldl hf l (f r x) (hf r x h)

/-- A command answers a next state, which is kept. -/
def KeptNext (z : State) (o : Host.Outcome State Fault Refusal) : Prop := ∃ t, o = .next t ∧ Kept z t

theorem keptNext_next (h : Kept z a) : KeptNext z (.next a) := ⟨a, rfl, h⟩

theorem keeps_runCmd {op : Nat} {c : HostCmd} {body : State → State} (hb : ∀ t, Kept z t → Kept z (body t)) (h : Kept z s) :
    KeptNext z (runCmd s op c body) := keptNext_next (keeps_ite (hb s h) h)

/-- The states that a read of an item may answer are kept. -/
def KeptRead (z : State) : ItemRead → Prop
  | .ok _ => True
  | .wait t => Kept z t
  | .fail t _ => Kept z t

theorem KeptRead.wait {r : ItemRead} {t : State} (h : KeptRead z r) (e : r = .wait t) : Kept z t := by
  subst e
  exact h

theorem KeptRead.fail {r : ItemRead} {t : State} {x : Nat} (h : KeptRead z r) (e : r = .fail t x) : Kept z t := by
  subst e
  exact h

/-- The states that a record made readable comes with are kept. -/
def KeptReady (z : State) : Ready → Prop
  | .ok t _ => Kept z t
  | .wait t => Kept z t
  | .gone t _ => Kept z t

theorem KeptReady.ok {r : Ready} {t : State} {bs : List Byte} (h : KeptReady z r) (e : r = .ok t bs) : Kept z t := by
  subst e
  exact h

theorem KeptReady.wait {r : Ready} {t : State} (h : KeptReady z r) (e : r = .wait t) : Kept z t := by
  subst e
  exact h

theorem KeptReady.gone {r : Ready} {t : State} {x : Nat} (h : KeptReady z r) (e : r = .gone t x) : Kept z t := by
  subst e
  exact h

/-- The states that the read of a key comes with are kept. -/
def KeptKey (z : State) : KeyRead → Prop
  | .entry t _ => Kept z t
  | .wait t => Kept z t

theorem KeptKey.entry {r : KeyRead} {t : State} {x : ReplyEntry} (h : KeptKey z r) (e : r = .entry t x) : Kept z t := by
  subst e
  exact h

theorem KeptKey.wait {r : KeyRead} {t : State} (h : KeptKey z r) (e : r = .wait t) : Kept z t := by
  subst e
  exact h

/-- The states that moving bytes may answer are kept, and what is moved is as P says. -/
def KeptMoved {α : Type} (z : State) (P : α → Prop) : Moved α → Prop
  | .ok x => P x
  | .wait t => Kept z t
  | .fail t _ _ _ => Kept z t

theorem KeptMoved.wait {α : Type} {P : α → Prop} {r : Moved α} {t : State} (h : KeptMoved z P r) (e : r = .wait t) : Kept z t := by
  subst e
  exact h

theorem KeptMoved.fail {α : Type} {P : α → Prop} {r : Moved α} {t : State} {st d0 d1 : Nat} (h : KeptMoved z P r)
    (e : r = .fail t st d0 d1) : Kept z t := by
  subst e
  exact h

theorem KeptMoved.ok {α : Type} {P : α → Prop} {r : Moved α} {x : α} (h : KeptMoved z P r) (e : r = .ok x) : P x := by
  subst e
  exact h

theorem keeps_foldl_sweep {α : Type} {f : Sweeping → α → Sweeping} (hf : ∀ q x, Kept z q.s → Kept z (f q x).s) :
    ∀ (l : List α) (q : Sweeping), Kept z q.s → Kept z (l.foldl f q).s
  | [], _, h => h
  | x :: l, q, h => keeps_foldl_sweep hf l (f q x) (hf q x h)

/-! ### Device memory -/

theorem keeps_devWrite {x : Nat} {bs : List Byte} (h : Kept z s) : Kept z (devWrite s x bs) :=
  keeps_memory h (wf_devWrite x bs)

end Sys2Proof.Proofs
end

section
/-! What every command leaves alone (O5, O6): the host, its queues and messages. -/

namespace Sys2Proof.Proofs

open Sys2Proof Sys2Proof.Machine Sys2Proof.Laws

set_option Elab.async false

variable {z s : State}

/-! ### Regs -/

theorem keeps_read32 {off : Nat} (h : Kept z s) : Kept z (read32 s off).1 := by
  unfold read32
  split
  · exact keeps_fields h
  split
  · exact keeps_fields h
  split
  · exact keeps_fields h
  · exact h

theorem keeps_read64 {off : Nat} (h : Kept z s) : Kept z (read64 s off).1 := by
  unfold read64
  split
  · exact keeps_fields h
  · exact h

/-! ### Ops -/

theorem keeps_putEvent {e : EventRec} (h : Kept z s) : Kept z (putEvent s e) := by
  unfold putEvent
  split
  · exact keeps_ite (keeps_fields h) (keeps_fields h)
  · exact keeps_ite (keeps_ite (keeps_fields h) (keeps_fields h)) (keeps_ite (keeps_fields h) (keeps_fields h))

theorem keeps_post {b : Blk} {i code : Nat} {items : List Nat} (h : Kept z s) : Kept z (post s b i code items) :=
  keeps_putEvent (keeps_fields h)

theorem keeps_postLost (h : Kept z s) : Kept z (postLost s) := by
  unfold postLost
  split
  · exact h
  · exact keeps_ite (keeps_post (keeps_fields h)) h

theorem keeps_drainHands {n : Nat} (h : Kept z s) : Kept z (drainHands n s) := by
  induction n generalizing s with
  | zero => exact h
  | succ n ih =>
    unfold drainHands
    split
    · exact keeps_ite h (ih (keeps_fields h))
    · exact h

theorem keeps_drainAllHands (h : Kept z s) : Kept z (drainAllHands s) := keeps_drainHands h

theorem keeps_putHandRec {page bit : Nat} {withdrawn : Option Nat} {items : List Nat} (h : Kept z s) :
    Kept z (putHandRec s page bit withdrawn items) := keeps_drainAllHands (keeps_fields h)

theorem keeps_raise {b : Blk} {i bit : Nat} {items : List Nat} (h : Kept z s) : Kept z (raise s b i bit items) :=
  keeps_putHandRec (keeps_fields h)

theorem keeps_withdraw {hnd : Hand} (h : Kept z s) : Kept z (withdraw s hnd) := keeps_putHandRec (keeps_fields h)

theorem keeps_answer {b : Blk} {i : Nat} {act : Hand → State → Option State}
    (ha : ∀ hnd t, Kept z t → KeptSome z (act hnd t)) (h : Kept z s) : Kept z (answer s b i act) := by
  obtain he | ⟨hnd, t, -, ht, he⟩ := answer_cases s b i act
  · exact he ▸ keeps_fields h
  · exact he ▸ ha hnd _ (keeps_fields h) t ht

theorem keeps_postCompletion {base : Nat} {c : Completion} (h : Kept z s) : Kept z (postCompletion s base c) := by
  unfold postCompletion
  split
  · exact h
  · exact keeps_ite h (keeps_ite (keeps_fields h) (keeps_fields h))

theorem keeps_drainCompletions {n fn qn : Nat} (h : Kept z s) : Kept z (drainCompletions n fn qn s) := by
  induction n generalizing s with
  | zero => exact h
  | succ n ih =>
    unfold drainCompletions
    split
    · exact h
    · split
      · exact h
      · exact keeps_ite h (ih (keeps_fields h))

theorem keeps_adminCheck (h : Kept z s) : Kept z (adminCheck s) := keeps_ite (keeps_fields h) h

theorem keeps_remember {c : HostCmd} {d : Option (Nat × Nat × Nat)} (h : Kept z s) : Kept z (remember s c d) := by
  unfold remember
  dsimp only
  split
  · exact h
  · exact keeps_fields h

theorem keeps_postDuplicate {st d0 d1 : Nat} {d : HostCmd} (h : Kept z s) : Kept z (postDuplicate st d0 d1 s d) :=
  keeps_with (keeps_postCompletion h)

theorem keeps_reopen {c : HostCmd} {dups : List HostCmd} (h : Kept z s) : Kept z (reopen s c dups) := by
  unfold reopen
  split
  · exact h
  · exact keeps_with (keeps_remember h)

theorem keeps_recorded {c : HostCmd} {status d0 d1 : Nat} (h : Kept z s) : Kept z (recorded s c status d0 d1) :=
  keeps_postCompletion (keeps_remember (keeps_fields h))

theorem keeps_finish {c : HostCmd} {status d0 d1 : Nat} (h : Kept z s) : Kept z (finish s c status d0 d1) := by
  unfold finish
  dsimp only
  split
  · exact keeps_reopen (keeps_with (keeps_recorded h))
  · exact keeps_adminCheck (kept_foldl (fun _ _ ht => keeps_postDuplicate ht) _ _ (keeps_with (keeps_recorded h)))

theorem keeps_done {c : HostCmd} (h : Kept z s) : Kept z (done s c) := keeps_finish h

theorem keeps_refuse {c : HostCmd} {d0 : Nat} (h : Kept z s) : Kept z (refuse s c d0) := keeps_finish h

theorem keeps_noteUE {a : Nat} (h : Kept z s) : Kept z (noteUE s a) := keeps_post (keeps_ite (keeps_fields h) (keeps_fields h))

theorem keeps_miscorrect {a : Nat} (h : Kept z s) : Kept z (miscorrect s a) :=
  keeps_ite (keeps_fields h) (keeps_memory (keeps_fields h) (wf_writeBytes _ _))

theorem keeps_meetSector {r : SectorRead} (h : Kept z s) : Kept z (meetSector s r) := by
  unfold meetSector
  dsimp only
  split
  · exact h
  split
  · exact keeps_fields h
  · exact keeps_fields h
  · exact keeps_fields h
  · exact keeps_ite (keeps_fields h) (keeps_miscorrect (keeps_fields h))

theorem keeps_meet {rs : List SectorRead} (h : Kept z s) : Kept z (meet s rs) :=
  kept_foldl (fun _ _ ht => keeps_meetSector ht) _ _ h

theorem keeps_failUE {c : HostCmd} {a : Nat} (h : Kept z s) : Kept z (failUE s c a) := keeps_finish (keeps_noteUE h)

theorem keeps_requestPass {p : Nat} (h : Kept z s) : Kept z (requestPass s p) := keeps_ite h (keeps_fields h)

theorem keeps_idle (h : Kept z s) : Kept z (idle s) :=
  keeps_ite h (kept_foldl (fun _ _ ht1 => keeps_fields ht1) _ _ (keeps_fields h))

/-! ### Msg -/

theorem keeps_reserve {op ringId tensor step : Nat} {key : StreamKey} {n : Nat} (h : Kept z s) :
    Kept z (reserve s op ringId tensor step key n).1 := by
  unfold reserve
  dsimp only
  split
  · exact h
  · exact keeps_fields h

theorem keeps_route {m : Msg} (h : Kept z s) : Kept z (route s m).1 := by
  unfold route
  dsimp only
  split <;> exact keeps_fields h

theorem keeps_issue {m : Msg} (h : Kept z s) : Kept z (issue s m) := by
  unfold issue
  dsimp only
  split
  · exact keeps_with (keeps_with (keeps_with (keeps_with (keeps_route h))))
  · exact keeps_with (keeps_with (keeps_with (keeps_route h)))

theorem keeps_launch {m : Msg} (h : Kept z s) : Kept z (launch s m) := by
  unfold launch
  exact keeps_ite (keeps_fields h) (keeps_issue h)

theorem keeps_issueUnsent (h : Kept z s) : Kept z (issueUnsent s) :=
  kept_foldl (fun _ _ ht => keeps_launch ht) _ _ (keeps_fields h)

theorem keeps_resend {ms : List Msg} (h : Kept z s) : Kept z (resend s ms) :=
  kept_foldl (fun _ _ ht1 => keeps_with (keeps_with (keeps_route ht1))) _ _ h

theorem keeps_sendBlock {op ring tensor step : Nat} {ms : List (List Nat × MsgHdr × Body)} (h : Kept z s) :
    Kept z (sendBlock s op ring tensor step ms) :=
  kept_foldl (fun _ _ ht1 => kept_foldl (fun _ _ ht => keeps_launch ht) _ _ (keeps_reserve ht1)) _ _ h

theorem keeps_reserveBlock {op ring tensor step : Nat} {hs : List MsgHdr} (h : Kept z s) :
    Kept z (reserveBlock s op ring tensor step hs) := kept_foldl (fun _ _ ht1 => keeps_reserve ht1) _ _ h

theorem keeps_sendHdr {dst : Nat} {h0 : MsgHdr} {b : Body} (h : Kept z s) : Kept z (sendHdr s dst h0 b) := by
  unfold sendHdr
  exact keeps_launch (keeps_fields h)

theorem keeps_send {dst kind channel point step : Nat} {b : Body} (h : Kept z s) :
    Kept z (send s dst kind channel point step b) := keeps_sendHdr h

theorem keeps_sendAll {dsts : List Nat} {kind channel point step : Nat} {b : Body} (h : Kept z s) :
    Kept z (sendAll s dsts kind channel point step b) := kept_foldl (fun _ _ ht1 => keeps_send ht1) _ _ h

theorem keeps_sendTwin {b : Body} (h : Kept z s) : Kept z (sendTwin s b) := keeps_send h

theorem keeps_countRepeat {h0 : MsgHdr} (h : Kept z s) : Kept z (countRepeat s h0) :=
  keeps_ite (keeps_fields h) (keeps_fields h)

theorem keeps_receiveWith {hd : MsgHdr} {accept again : State → State} (ha : ∀ t, Kept z t → Kept z (accept t))
    (hg : ∀ t, Kept z t → Kept z (again t)) (h : Kept z s) : Kept z (receiveWith s hd accept again) := by
  have haccept : ∀ {t}, Kept z t → Kept z (ackAt (accept t) hd hd.sequence) := fun ht => keeps_with (ha _ ht)
  unfold receiveWith
  dsimp only
  refine keeps_ite h (keeps_ite (keeps_fields h) (keeps_ite (keeps_fields h) (keeps_ite (keeps_fields h) (keeps_ite (keeps_fields h)
    (keeps_ite (keeps_ite h (keeps_fields h)) (keeps_ite ?_ (keeps_ite (haccept (keeps_meet (keeps_fields h))) (keeps_fields h))))))))
  exact keeps_with (hg _ (keeps_countRepeat h))

theorem keeps_receive {hd : MsgHdr} {accept : State → State} (ha : ∀ t, Kept z t → Kept z (accept t)) (h : Kept z s) :
    Kept z (receive s hd accept) := keeps_receiveWith ha (fun _ => id) h

theorem keeps_requestItem {addr n step : Nat} {byUpdate torn : Bool} (h : Kept z s) :
    Kept z (requestItem s addr n step byUpdate torn) := keeps_ite h (keeps_sendTwin (keeps_fields h))

theorem keeps_readParts {addr n step : Nat} {parts : List (Nat × Nat)} {twinned byUpdate corrupt : Bool} (h : Kept z s) :
    KeptRead z (readParts s addr n step parts twinned byUpdate corrupt) := by
  have hask : ∀ x, Kept z (requestItem (noteUE s x) addr n step byUpdate false) := fun x => keeps_requestItem (keeps_noteUE h)
  unfold readParts
  dsimp only
  split
  · exact keeps_fields h
  · split
    · exact h
    · split
      · split
        · split
          · exact h
          · exact hask _
        · exact keeps_noteUE h
      · split
        · trivial
        · split
          · split
            · exact h
            · exact hask addr
          · exact keeps_noteUE h

theorem keeps_readItem {addr n step : Nat} {twinned byUpdate corrupt : Bool} (h : Kept z s) :
    KeptRead z (readItem s addr n step twinned byUpdate corrupt) := keeps_readParts h

theorem keeps_takeAck {stream : StreamKey} {dst upTo : Nat} (h : Kept z s) : Kept z (takeAck s stream dst upTo) :=
  keeps_issueUnsent (keeps_fields h)

theorem keeps_execRetryTimeout {stream : StreamKey} {dst : Nat} (h : Kept z s) : KeptNext z (execRetryTimeout stream dst s) :=
  keptNext_next (keeps_resend h)

theorem keeps_execReservedMessage {h0 : MsgHdr} (h : Kept z s) : KeptNext z (execReservedMessage h0 s) :=
  keptNext_next (keeps_ite h (keeps_fields h))

/-! ### Relay -/

theorem keeps_uninstall {c : ClassCmd} {u : UndoImage} (h : Kept z s) : Kept z (uninstall c u s) := by
  unfold uninstall
  dsimp only
  split
  · exact keeps_fields h
  · exact keeps_fields h
  · exact keeps_fields h
  · exact keeps_fields h
  · exact keeps_fields h
  · exact keeps_fields h
  · exact keeps_fields h
  · exact keeps_fields h
  · exact keeps_fields h
  · exact keeps_fields h
  · exact h

theorem keeps_installHere {c : ClassCmd} {inst : Install} (hi : ∀ k t, Kept z t → KeptOk z (inst k t)) (h : Kept z s) :
    Kept z (installHere s c inst).1 := by
  unfold installHere
  split
  · exact keeps_with (hi c s h _ ‹_›)
  · exact h

theorem keeps_takeBack {c : ClassCmd} (h : Kept z s) : Kept z (takeBack s c) := by
  unfold takeBack
  split
  · exact h
  · exact keeps_with (keeps_uninstall h)

theorem keeps_sendRelay {dst : Nat} {c : ClassCmd} (h : Kept z s) : Kept z (sendRelay s dst c) := keeps_send h

theorem keeps_settle {r : Relay} (h : Kept z s) : Kept z (settle s r) := by
  unfold settle
  dsimp only
  split
  · exact keeps_fields h
  split
  · exact keeps_done (keeps_fields h)
  · exact keeps_finish (kept_foldl (fun _ _ ht1 => keeps_sendRelay ht1) _ _ (keeps_takeBack (keeps_fields h)))

theorem keeps_startClass {c : HostCmd} {data : List Byte} {inst : Install} (hi : ∀ k t, Kept z t → KeptOk z (inst k t))
    (h : Kept z s) : Kept z (startClass s c data inst) := by
  have hhere : ∀ k, Kept z (installHere s k inst).1 := fun k => keeps_installHere hi h
  unfold startClass
  dsimp only
  split
  · exact h
  · split
    · split
      · exact keeps_done (keeps_with (hhere _))
      · exact keeps_finish (hhere _)
    · exact kept_foldl (fun t m ht => keeps_sendRelay ht) _ _ (keeps_with (hhere _))

theorem keeps_relayAnswer {r : Relay} {member status d0 d1 : Nat} (h : Kept z s) :
    Kept z (relayAnswer s r member status d0 d1) := keeps_settle h

theorem keeps_startRouted {c : HostCmd} {items : List (Nat × RoutedItem)} (h : Kept z s) : Kept z (startRouted s c items) := by
  unfold startRouted
  dsimp only
  split
  · exact h
  split
  · exact keeps_done (keeps_fields h)
  · exact kept_foldl (fun _ _ ht1 => keeps_send ht1) _ _ (keeps_fields h)

theorem keeps_routedAnswer {r : Routed} {src status d0 d1 : Nat} (h : Kept z s) :
    Kept z (routedAnswer s r src status d0 d1) := by
  unfold routedAnswer
  dsimp only
  split
  · exact keeps_fields h
  · split <;> exact keeps_finish (keeps_fields h)

theorem keeps_sendAnswer {dst tag status d0 d1 : Nat} (h : Kept z s) : Kept z (sendAnswer s dst tag status d0 d1) :=
  keeps_send h

theorem keeps_execMemberAnswer {h0 : MsgHdr} {tag status detail0 detail1 : Nat} (h : Kept z s) :
    KeptNext z (execMemberAnswer h0 tag status detail0 detail1 s) := by
  unfold execMemberAnswer
  refine keptNext_next (keeps_receive (fun t ht => ?_) h)
  split
  · exact keeps_ite (keeps_relayAnswer ht) ht
  · exact keeps_ite (keeps_routedAnswer ht) ht
  · exact ht

end Sys2Proof.Proofs
end

section
/-! What every command leaves alone (O5, O6): tables, tiles and update units. -/

namespace Sys2Proof.Proofs

open Sys2Proof Sys2Proof.Machine Sys2Proof.Laws

set_option Elab.async false

variable {z s : State}

/-! ### Flags -/

theorem keeps_gradeTaken {tensor : Nat} (h : Kept z s) : Kept z (gradeTaken s tensor).1 := by
  unfold gradeTaken
  split
  · exact h
  split
  · exact h
  · exact keeps_fields h

theorem keeps_noteGradeWith {src tensor : Nat} {f : GradeRec → GradeRec} (h : Kept z s) :
    Kept z (noteGradeWith s src tensor f) := keeps_ite (keeps_with (keeps_gradeTaken h)) (keeps_gradeTaken h)

theorem keeps_noteGrade {src tensor : Nat} {g : GradeRec} (h : Kept z s) : Kept z (noteGrade s src tensor g) :=
  keeps_noteGradeWith h

theorem keeps_noteCoreWith {phys tensor : Nat} {f : GradeRec → GradeRec} (h : Kept z s) :
    Kept z (noteCoreWith s phys tensor f) := keeps_ite (keeps_with (keeps_gradeTaken h)) (keeps_gradeTaken h)

theorem keeps_noteCore {phys tensor : Nat} {g : GradeRec} (h : Kept z s) : Kept z (noteCore s phys tensor g) :=
  keeps_noteCoreWith h

theorem keeps_noteConversion {phys tensor : Nat} {k : Kind} {c : Counts} {qs : List (Val × Val)} (h : Kept z s) :
    Kept z (noteConversion s phys tensor k c qs) := keeps_noteCoreWith h

theorem keeps_scaleRead {tensor step : Nat} (h : Kept z s) : KeptRead z (scaleRead s tensor step) := by
  unfold scaleRead
  split
  · exact trivial
  · exact keeps_readItem h

theorem keeps_scalesRead {ts : List Nat} {step : Nat} (h : Kept z s) : KeptRead z (scalesRead s ts step) := by
  suffices ∀ r, KeptRead z r → KeptRead z (ts.foldl (fun r t => match r with
      | .ok _ => scaleRead s t step
      | r => r) r) from this _ trivial
  induction ts with
  | nil => exact fun _ hr => hr
  | cons t ts ih =>
    intro r hr
    refine ih _ ?_
    dsimp only
    split
    · exact keeps_scaleRead h
    · exact hr

/-! ### Tables -/

theorem keeps_track {tensor : Nat} (h : Kept z s) : Kept z (track s tensor) := keeps_ite h (keeps_fields h)

theorem keeps_sendForward {stepEnd : Option Nat} (h : Kept z s) : Kept z (sendForward s stepEnd) :=
  keeps_ite h (keeps_ite (keeps_fields h) (keeps_sendTwin (keeps_fields h)))

theorem keeps_installTableDefine {c : ClassCmd} (h : Kept z s) : KeptOk z (installTableDefine c s) := by
  unfold installTableDefine
  dsimp only
  split
  · exact keptOk_error
  split
  · exact keptOk_error
  split
  · exact keptOk_error
  split
  · exact keptOk_ok (keeps_fields h)
  · exact keptOk_ok (keeps_track (keeps_fields h))

theorem keeps_execTableDefine {c : HostCmd} (h : Kept z s) : KeptNext z (execTableDefine c s) :=
  keeps_runCmd (fun _ ht => keeps_startClass (fun _ _ ht1 => keeps_installTableDefine ht1) ht) h

theorem keeps_installTableSwitch {c : ClassCmd} (h : Kept z s) : KeptOk z (installTableSwitch c s) := by
  unfold installTableSwitch
  dsimp only
  split
  · exact keptOk_error
  split
  · exact keptOk_error
  split
  · exact keptOk_error
  split
  · exact keptOk_error
  · exact keptOk_ok (keeps_fields h)

theorem keeps_execTableSwitch {c : HostCmd} (h : Kept z s) : KeptNext z (execTableSwitch c s) :=
  keeps_runCmd (fun _ ht => keeps_startClass (fun _ _ ht1 => keeps_installTableSwitch ht1) ht) h

theorem keeps_execTableStage {c : HostCmd} {data : List Byte} (h : Kept z s) : KeptNext z (execTableStage c data s) := by
  unfold execTableStage
  dsimp only
  refine keeps_runCmd (fun t ht => ?_) h
  split
  · exact keeps_refuse ht
  split
  · exact keeps_refuse ht
  split
  · exact keeps_refuse ht
  split
  · exact keeps_refuse ht
  split
  · exact keeps_failUE ht
  · exact keeps_ite (keeps_refuse ht) (keeps_startRouted ht)

theorem keeps_execTableRoll {c : HostCmd} {data : List Byte} (h : Kept z s) : KeptNext z (execTableRoll c data s) := by
  unfold execTableRoll
  dsimp only
  refine keeps_runCmd (fun t ht => ?_) h
  split
  · exact keeps_refuse ht
  split
  · exact keeps_refuse ht
  split
  · exact keeps_refuse ht
  split
  · exact keeps_refuse ht
  split
  · exact keeps_failUE ht
  · exact keeps_ite (keeps_refuse ht) (keeps_startRouted ht)

theorem keeps_execShardDefine {c : HostCmd} (h : Kept z s) : KeptNext z (execShardDefine c s) := by
  unfold execShardDefine
  dsimp only
  refine keeps_runCmd (fun t ht => ?_) h
  split
  · exact keeps_refuse ht
  · exact keeps_ite (keeps_finish ht) (keeps_done (keeps_track (keeps_fields ht)))

theorem keeps_installOptimSet {c : ClassCmd} (h : Kept z s) : KeptOk z (installOptimSet c s) := by
  unfold installOptimSet
  dsimp only
  split
  · exact keptOk_error
  · exact keptOk_ok (keeps_fields h)

theorem keeps_execOptimSet {c : HostCmd} (h : Kept z s) : KeptNext z (execOptimSet c s) :=
  keeps_runCmd (fun _ ht => keeps_startClass (fun _ _ ht1 => keeps_installOptimSet ht1) ht) h

/-! ### Apply -/

theorem keeps_setStat {key : Nat} {f : UpdStat → UpdStat} (h : Kept z s) : Kept z (setStat s key f) :=
  keeps_with (keeps_gradeTaken h)

theorem keeps_unitWrite {a : Nat} {bs : List Byte} (h : Kept z s) : Kept z (unitWrite s a bs) := by
  unfold unitWrite
  split
  · exact keeps_noteUE h
  · exact keeps_devWrite h

theorem keeps_secondWrite {o : Open2} (h : Kept z s) : Kept z (secondWrite s o) := by
  unfold secondWrite
  dsimp only
  split
  · exact keeps_sendForward (keeps_with (keeps_with (keeps_ite (keeps_unitWrite h) (keeps_unitWrite (keeps_unitWrite h)))))
  split
  · exact keeps_with (keeps_sendForward (keeps_with (keeps_with (keeps_ite (keeps_unitWrite h) (keeps_unitWrite
      (keeps_unitWrite h))))))
  · exact keeps_with (keeps_with (keeps_sendForward (keeps_with (keeps_with (keeps_ite (keeps_unitWrite h) (keeps_unitWrite
      (keeps_unitWrite h)))))))

theorem keeps_finishOpen {addr : Nat} (h : Kept z s) : Kept z (finishOpen s addr) := by
  unfold finishOpen
  split
  · exact h
  · exact keeps_ite h (keeps_secondWrite h)

theorem keeps_writeRecord {d : TableDesc} {v : Nat} {key : RowKey} {bs : List Byte} (h : Kept z s) :
    Kept z (writeRecord s d v key bs) := keeps_with (keeps_with (keeps_unitWrite (keeps_devWrite h)))

theorem keeps_firstWrite {d : TableDesc} {v : Nat} {key : RowKey} {old state weights : List Byte} {stamp : Nat} {renewal :
    Bool} (h : Kept z s) :
    Kept z (firstWrite s d v key old state weights stamp renewal) := keeps_with (keeps_with (keeps_devWrite h))

theorem keeps_reportTorn {unit addr : Nat} (h : Kept z s) : Kept z (reportTorn s unit addr) :=
  keeps_ite h (keeps_post (keeps_fields h))

theorem keeps_repairTorn {d : TableDesc} {v : Nat} {key : RowKey} {bs : List Byte} (h : Kept z s) :
    KeptReady z (repairTorn s d v key bs) := by
  unfold repairTorn
  dsimp only
  split
  · exact h
  split
  · split
    · exact h
    · exact keeps_requestItem h
  split
  · exact keeps_reportTorn (keeps_fields h)
  · exact keeps_with (keeps_post (keeps_with (keeps_writeRecord (keeps_fields h))))

theorem keeps_mendRecord {d : TableDesc} {v : Nat} {key : RowKey} {step : Nat} (h : Kept z s) :
    KeptReady z (mendRecord s d v key step) := by
  unfold mendRecord
  dsimp only
  split
  · rename_i e
    exact (keeps_readItem h).wait e
  · rename_i e
    exact (keeps_readItem h).fail e
  · exact keeps_repairTorn h

theorem keeps_readyRecord {d : TableDesc} {v : Nat} {key : RowKey} {step : Nat} {byUpdate : Bool} (h : Kept z s) :
    KeptReady z (readyRecord s d v key step byUpdate) := by
  unfold readyRecord
  dsimp only
  split
  · exact keeps_finishOpen h
  split
  · exact keeps_finishOpen h
  split
  · rename_i e2
    exact (keeps_readParts (keeps_finishOpen h)).wait e2
  · rename_i e2
    exact (keeps_readParts (keeps_finishOpen h)).fail e2
  split
  · split
    · rename_i e4
      exact (keeps_readParts (keeps_finishOpen h)).wait e4
    · rename_i e4
      exact (keeps_readParts (keeps_finishOpen h)).fail e4
    · exact keeps_finishOpen h
  split
  · exact keeps_finishOpen h
  split
  · exact keeps_mendRecord (keeps_finishOpen h)
  · exact keeps_finishOpen h

theorem keeps_renewRecord {d : TableDesc} {v : Nat} {key : RowKey} {bs : List Byte} {step : Nat} (h : Kept z s) :
    Kept z (renewRecord s d v key bs step) := keeps_ite h (keeps_firstWrite h)

theorem keeps_factorsReady {d : TableDesc} {step : Nat} (h : Kept z s) : KeptRead z (factorsReady s d step) := by
  unfold factorsReady
  split
  · exact keeps_readItem h
  · exact trivial

theorem keeps_updateReads {d : TableDesc} {step : Nat} (h : Kept z s) : KeptRead z (updateReads s d step) := by
  unfold updateReads
  split
  · exact keeps_scaleRead h
  · exact keeps_factorsReady h

theorem keeps_updateRecord {d : TableDesc} {pr : PendRow} {p : Params} {bs : List Byte} (h : Kept z s) :
    Kept z (updateRecord s d pr p bs) := keeps_ite (keeps_setStat (keeps_fields h)) (keeps_setStat (keeps_firstWrite h))

theorem keeps_applyRow {pr : PendRow} (h : Kept z s) : Kept z (applyRow s pr) := by
  unfold applyRow
  dsimp only
  split
  · exact h
  split
  · exact keeps_fields h
  split
  · exact keeps_fields h
  split
  · rename_i e3
    exact keeps_fields ((keeps_readyRecord (keeps_fields h)).wait e3)
  · rename_i e3
    split
    · exact keeps_fields ((keeps_readyRecord (keeps_fields h)).gone e3)
    · exact (keeps_readyRecord (keeps_fields h)).gone e3
  rename_i e3
  split
  · exact keeps_fields ((keeps_readyRecord (keeps_fields h)).ok e3)
  split
  · exact keeps_noteUE ((keeps_readyRecord (keeps_fields h)).ok e3)
  · rename_i e6
    exact keeps_fields ((keeps_updateReads ((keeps_readyRecord (keeps_fields h)).ok e3)).wait e6)
  · rename_i e6
    exact (keeps_updateReads ((keeps_readyRecord (keeps_fields h)).ok e3)).fail e6
  · exact (keeps_readyRecord (keeps_fields h)).ok e3
  · exact keeps_updateRecord ((keeps_readyRecord (keeps_fields h)).ok e3)

theorem keeps_retryRows (h : Kept z s) : Kept z (retryRows s) :=
  kept_foldl (fun _ _ ht => keeps_applyRow ht) _ _ (keeps_fields h)

theorem keeps_updateTile {d : ShardDesc} {i : Nat} {t : PendTile} {p : Params} (h : Kept z s) :
    Kept z (updateTile s d i t p) := by
  unfold updateTile
  dsimp only
  split
  · exact keeps_setStat (keeps_fields h)
  · exact keeps_with (keeps_setStat (keeps_with (keeps_with (keeps_with (keeps_devWrite h)))))

theorem keeps_rederiveTile {d : ShardDesc} {i : Nat} (h : Kept z s) : KeptSome z (rederiveTile s d i) :=
  keptSome_map fun _ => keeps_post (keeps_with (keeps_devWrite h))

theorem keeps_requestPair {d : ShardDesc} {i step : Nat} {byUpdate torn : Bool} (h : Kept z s) :
    Kept z (requestPair s d i step byUpdate torn) := keeps_requestItem (keeps_requestItem h)

theorem keeps_mendTile {d : ShardDesc} {i : Nat} (h : Kept z s) : KeptReady z (mendTile s d i) := by
  unfold mendTile
  dsimp only
  split
  · exact h
  split
  · exact h
  split
  · exact keeps_requestPair h
  split
  · exact keeps_reportTorn (keeps_fields h)
  rename_i e3
  exact keeps_rederiveTile (keeps_fields h) _ e3

theorem keeps_repairShard {d : ShardDesc} (h : Kept z s) : Kept z (repairShard s d) := by
  unfold repairShard
  split
  · exact h
  · exact kept_foldl (fun _ _ ht1 => keeps_getD (keeps_rederiveTile ht1) (keeps_reportTorn ht1)) _ _ h

theorem keeps_rewriteTile {d : ShardDesc} {i : Nat} {t : PendTile} (h : Kept z s) : Kept z (rewriteTile s d i t) := by
  unfold rewriteTile
  dsimp only
  split
  · exact keeps_fields h
  split
  · exact h
  · exact keeps_updateTile h

theorem keeps_applyTile {t : PendTile} (h : Kept z s) : Kept z (applyTile s t) := by
  unfold applyTile
  dsimp only
  split
  · exact keeps_fields h
  split
  · exact keeps_fields h
  split
  · exact keeps_with (keeps_finishOpen (keeps_fields h))
  split
  · exact keeps_with (keeps_with (keeps_finishOpen (keeps_fields h)))
  split
  · exact keeps_with (keeps_finishOpen (keeps_fields h))
  split
  · rename_i e5
    exact keeps_fields ((keeps_scaleRead (keeps_finishOpen (keeps_fields h))).wait e5)
  · rename_i e5
    exact keeps_fields ((keeps_scaleRead (keeps_finishOpen (keeps_fields h))).fail e5)
  split
  · rename_i e6
    refine keeps_with ?_
    split
    · exact keeps_requestPair ((keeps_readItem (keeps_finishOpen (keeps_fields h))).wait e6)
    · exact (keeps_readItem (keeps_finishOpen (keeps_fields h))).wait e6
  · rename_i e6 _
    refine keeps_with ?_
    split
    · exact keeps_requestPair ((keeps_readItem (keeps_finishOpen (keeps_fields h))).wait e6)
    · exact (keeps_readItem (keeps_finishOpen (keeps_fields h))).wait e6
  · rename_i e6 _
    exact keeps_fields ((keeps_readItem (keeps_finishOpen (keeps_fields h))).fail e6)
  · rename_i e6 _ _
    exact keeps_fields ((keeps_readItem (keeps_finishOpen (keeps_fields h))).fail e6)
  split
  · exact keeps_with (keeps_rewriteTile (keeps_finishOpen (keeps_fields h)))
  split
  · rename_i e9
    exact keeps_fields ((keeps_mendTile (keeps_finishOpen (keeps_fields h))).wait e9)
  · rename_i e9
    refine keeps_with ?_
    split
    · exact keeps_fields ((keeps_mendTile (keeps_finishOpen (keeps_fields h))).gone e9)
    · exact (keeps_mendTile (keeps_finishOpen (keeps_fields h))).gone e9
  rename_i e9
  exact keeps_with (keeps_rewriteTile ((keeps_mendTile (keeps_finishOpen (keeps_fields h))).ok e9))

theorem keeps_retryTiles (h : Kept z s) : Kept z (retryTiles s) :=
  kept_foldl (fun _ _ ht1 => keeps_applyTile ht1) _ _ (keeps_fields h)

end Sys2Proof.Proofs
end

section
/-! What every command leaves alone (O5, O6): cores and look-ups. -/

namespace Sys2Proof.Proofs

open Sys2Proof Sys2Proof.Machine Sys2Proof.Laws

set_option Elab.async false

variable {z s : State}

/-! ### Operands -/

theorem keeps_meetWord {logical : Nat} {w : WordRead} (h : Kept z s) : Kept z (meetWord logical s w) :=
  keeps_ite h (keeps_ite (keeps_fields h) (keeps_fields h))

theorem keeps_meetWords {logical : Nat} {ranges : List (Nat × Nat)} {ws : List WordRead} (h : Kept z s) :
    Kept z (meetWords s logical ranges ws) := kept_foldl (fun _ _ ht => keeps_meetWord ht) _ _ h

/-! ### Matrix -/

theorem keeps_endProgram {c : HostCmd} (h : Kept z s) : Kept z (endProgram s c) :=
  kept_foldl (fun _ _ ht1 => keeps_fields ht1) _ _ h

theorem keeps_failProgram {phys status d0 d1 : Nat} (h : Kept z s) : Kept z (failProgram s phys status d0 d1) := by
  unfold failProgram
  split
  · exact h
  · exact keeps_finish (keeps_endProgram h)

theorem keeps_onCore {logical : Nat} {act : State → Nat → State} (ha : ∀ t p, Kept z t → Kept z (act t p)) (h : Kept z s) :
    Kept z (onCore s logical act) := by
  unfold onCore
  split
  · exact h
  · exact keeps_ite (ha _ _ h) (keeps_requestPass h)

theorem keeps_failSram {logical phys off : Nat} (h : Kept z s) : Kept z (failSram s logical phys off) := keeps_failProgram h

theorem keeps_closePass {logical phys : Nat} {p : PassIn} {fa : Fmt} {aa : Arr} {fb : Fmt} {ab : Arr} {rate : Nat} {grouped :
    Bool} (h : Kept z s) :
    Kept z (closePass s logical phys p fa aa fb ab rate grouped) :=
  keeps_ite (keeps_fields h) (keeps_ite (keeps_fields h) (keeps_fields h))

theorem keeps_execMatrixPass {core : Nat} {m : MatPass} (h : Kept z s) : KeptNext z (execMatrixPass core m s) := by
  unfold execMatrixPass
  dsimp only
  refine keptNext_next (keeps_onCore (fun t phys1 ht => ?_) h)
  split
  · split
    · exact keeps_fields ht
    split
    · split
      · exact keeps_ite (keeps_fields ht) (keeps_fields ht)
      split
      · exact keeps_failSram (keeps_meetWords ht)
      split
      · exact keeps_failProgram (keeps_meetWords ht)
      split
      · exact keeps_failProgram (keeps_meetWords ht)
      · exact keeps_closePass (keeps_meetWords ht)
    split
    · exact keeps_ite (keeps_fields ht) (keeps_fields ht)
    split
    · exact keeps_failSram (keeps_meetWords ht)
    split
    · exact keeps_failProgram (keeps_meetWords ht)
    split
    · exact keeps_failProgram (keeps_meetWords ht)
    · exact keeps_closePass (keeps_meetWords ht)
  · exact keeps_failProgram ht

theorem keeps_execTileCopy {core : Nat} (h : Kept z s) : KeptNext z (execTileCopy core s) := by
  unfold execTileCopy
  dsimp only
  refine keptNext_next (keeps_onCore (fun t phys1 ht => ?_) h)
  split
  · exact ht
  split
  · exact ht
  · exact keeps_fields ht

theorem keeps_releaseTray {phys : Nat} (h : Kept z s) : Kept z (releaseTray s phys) := by
  unfold releaseTray
  dsimp only
  split
  · exact h
  · exact keeps_noteCore (keeps_fields h)

theorem keeps_execTrayRelease {core : Nat} (h : Kept z s) : KeptNext z (execTrayRelease core s) :=
  keptNext_next (keeps_onCore (fun _ _ ht => keeps_releaseTray ht) h)

/-! ### Vector -/

theorem keeps_countOp {logical phys : Nat} {tray : Bool} {es : List Exc} (h : Kept z s) :
    Kept z (countOp s logical phys tray es) := keeps_with (keeps_with (keeps_with (keeps_with (keeps_ite (keeps_fields h) h))))

theorem keeps_storeVec {logical phys : Nat} {v : VecOp} {tray : Bool} {sigma sh : Nat} {ls : List LaneOut} {off : Nat} {fa :
    Fmt × Arr} {kind : Kind} {so : Nat} {source : Option Nat} (h : Kept z s) :
    Kept z (storeVec s logical phys v tray sigma sh ls off fa kind so source) := by
  unfold storeVec
  dsimp only
  split
  · exact keeps_with (keeps_ite (keeps_countOp (keeps_fields h)) (keeps_noteConversion (keeps_countOp (keeps_fields h))))
  · exact keeps_ite (keeps_countOp (keeps_fields h)) (keeps_noteConversion (keeps_countOp (keeps_fields h)))

theorem keeps_runVec {logical phys : Nat} {v : VecOp} (h : Kept z s) : Kept z (runVec s logical phys v) := by
  unfold runVec
  dsimp only
  split
  · refine keeps_releaseTray (keeps_with (keeps_with (keeps_with ?_)))
    split
    · exact keeps_countOp (keeps_fields h)
    split
    · exact keeps_countOp (keeps_fields h)
    split
    · exact h
    · exact keeps_storeVec h
  refine keeps_with (keeps_with (keeps_with ?_))
  split
  · exact keeps_countOp (keeps_fields h)
  split
  · exact keeps_countOp (keeps_fields h)
  split
  · exact h
  · exact keeps_storeVec h

theorem keeps_execVectorOperation {core : Nat} {v : VecOp} (h : Kept z s) : KeptNext z (execVectorOperation core v s) := by
  unfold execVectorOperation
  dsimp only
  refine keptNext_next (keeps_onCore (fun t phys1 ht => ?_) h)
  split
  · exact keeps_failProgram ht
  split
  · exact keeps_fields ht
  split
  · exact keeps_fields ht
  split
  · exact keeps_fields ht
  split
  · exact keeps_failSram (keeps_meetWords ht)
  split
  · exact keeps_failProgram (keeps_meetWords ht)
  split
  · rename_i e6
    exact keeps_fields ((keeps_scalesRead (keeps_meetWords ht)).wait e6)
  · rename_i e6
    exact keeps_failProgram ((keeps_scalesRead (keeps_meetWords ht)).fail e6)
  · exact keeps_runVec (keeps_meetWords ht)

theorem keeps_runSpecial {logical phys : Nat} {f : SpecialFn} {src : VecSrc} {dstBuffer dstRow : Nat} {mode : NumMode}
    {rounding : Rounding} (h : Kept z s) :
    Kept z (runSpecial s logical phys f src dstBuffer dstRow mode rounding) := keeps_with (keeps_countOp (keeps_fields h))

theorem keeps_execSpecialFunction {core : Nat} {f : SpecialFn} {src : VecSrc} {dstBuffer dstRow : Nat} {mode : NumMode}
    {rounding : Rounding} (h : Kept z s) :
    KeptNext z (execSpecialFunction core f src dstBuffer dstRow mode rounding s) := by
  unfold execSpecialFunction
  dsimp only
  refine keptNext_next (keeps_onCore (fun t phys1 ht => ?_) h)
  split
  · split
    · exact keeps_failProgram ht
    split
    · exact keeps_fields ht
    split
    · exact keeps_fields ht
    split
    · exact keeps_failSram ht
    · exact keeps_ite (keeps_failProgram ht) (keeps_runSpecial ht)
  split
  · exact keeps_failProgram ht
  split
  · exact keeps_fields ht
  split
  · exact keeps_fields ht
  split
  · exact keeps_failSram ht
  · exact keeps_ite (keeps_failProgram ht) (keeps_runSpecial ht)

/-! ### Embed -/

theorem keeps_sendIdent {op ring : Nat} {dsts : List Nat} {h0 : MsgHdr} {b : Body} (h : Kept z s) :
    Kept z (sendIdent s op ring dsts h0 b) := keeps_sendBlock h

theorem keeps_sendLookMark {d : TableDesc} {step : Nat} (h : Kept z s) : Kept z (sendLookMark s d step) :=
  kept_foldl (fun _ _ ht1 => keeps_sendIdent ht1) _ _ (keeps_fields h)

theorem keeps_sendRows {d : TableDesc} {step ring o e : Nat} {rows : List GradRow} {last : Bool} (h : Kept z s) :
    Kept z (sendRows s d step ring o e rows last) := keeps_ite h (keeps_sendIdent h)

theorem keeps_sendEndMarks {d : TableDesc} {step : Nat} (h : Kept z s) : Kept z (sendEndMarks s d step) :=
  kept_foldl (fun _ _ ht1 => kept_foldl (fun _ _ ht => keeps_sendRows ht) _ _ ht1) _ _ (keeps_fields h)

theorem keeps_declareTable {decl : StepDecl} {d : TableDesc} (h : Kept z s) : Kept z (declareTable s decl d) :=
  keeps_ite (keeps_sendEndMarks (keeps_ite (keeps_sendLookMark h) h)) (keeps_ite (keeps_sendLookMark h) h)

theorem keeps_declareMarks (h : Kept z s) : Kept z (declareMarks s) := by
  unfold declareMarks
  split
  · exact h
  · exact keeps_ite (kept_foldl (fun _ _ ht1 => keeps_declareTable ht1) _ _ h) h

theorem keeps_countSpill {keys : List RowKey} (h : Kept z s) : Kept z (countSpill s keys) :=
  kept_foldl (fun _ _ ht1 => keeps_fields ht1) _ _ h

theorem keeps_countShared {occ : List (Nat × RowKey)} (h : Kept z s) : Kept z (countShared s occ) :=
  kept_foldl (fun _ _ ht1 => keeps_fields ht1) _ _ h

theorem keeps_sendBatch {d : TableDesc} {lk : Lookup} {o e : Nat} {ks : List RowKey} (h : Kept z s) :
    Kept z (sendBatch s d lk o e ks) := by
  unfold sendBatch
  split
  · exact h
  · exact h
  · exact keeps_sendIdent (keeps_fields h)

theorem keeps_sendPass {d : TableDesc} {lk : Lookup} (h : Kept z s) : Kept z (sendPass s d lk) :=
  kept_foldl (fun _ _ ht1 => kept_foldl (fun _ _ ht => keeps_sendBatch ht) _ _ ht1) _ _ h

theorem keeps_tryWrite {a : Nat} {bs : List Byte} (h : Kept z s) : KeptOk z (tryWrite s a bs) := by
  unfold tryWrite
  split
  · exact keptOk_error
  · exact keptOk_ok (keeps_devWrite h)

theorem keeps_poolLookup {d : TableDesc} {lk : Lookup} (h : Kept z s) : Kept z (poolLookup s d lk) := by
  unfold poolLookup
  dsimp only
  split
  · exact keeps_refuse (keeps_fields h)
  split
  · exact keeps_failUE (keeps_fields h)
  rename_i e1
  split
  · exact keeps_failUE (keeps_fields (keeps_tryWrite h _ e1))
  rename_i e2
  exact keeps_declareMarks (keeps_done (keeps_with (keeps_with (keeps_noteGradeWith (keeps_fields (keeps_tryWrite
      (keeps_tryWrite h _ e1) _ e2))))))

theorem keeps_startLookup {c : HostCmd} {d : TableDesc} {bs : List Byte} {idx offs : List Nat} {occ : List RowKey} (h : Kept z
    s) :
    Kept z (startLookup s c d bs idx offs occ) := by
  unfold startLookup
  dsimp only
  split
  · exact keeps_failUE h
  rename_i e
  split
  · exact keeps_finish (keeps_tryWrite h _ e)
  · exact keeps_sendPass (kept_foldl (fun _ _ ht1 => keeps_fields ht1) _ _ (keeps_with (keeps_countShared (keeps_tryWrite h _
      e))))

theorem keeps_execEmbLookup {c : HostCmd} (h : Kept z s) : KeptNext z (execEmbLookup c s) := by
  unfold execEmbLookup
  dsimp only
  refine keeps_runCmd (fun t ht => ?_) h
  split
  · exact ht
  split
  · exact keeps_refuse ht
  split
  · exact keeps_refuse ht
  split
  · exact ht
  split
  · exact keeps_failUE ht
  split
  · exact keeps_refuse ht
  split
  · exact ht
  split
  · exact keeps_failUE ht
  · exact keeps_ite (keeps_refuse ht) (keeps_startLookup ht)

theorem keeps_storeEntries {d : TableDesc} {lk : Lookup} {es : List ReplyEntry} (h : Kept z s) :
    KeptOk z (storeEntries s d lk es) := by
  refine keptOk_foldl (fun r x hr => ?_) _ _ (keptOk_ok h)
  split
  · exact keptOk_error
  · exact keeps_tryWrite (hr _ rfl)

theorem keeps_takeReply {d : TableDesc} {lk : Lookup} {es : List ReplyEntry} (h : Kept z s) : Kept z (takeReply s d lk es) := by
  unfold takeReply
  dsimp only
  split
  · exact keeps_finish (keeps_fields h)
  split
  · exact keeps_failUE (keeps_fields h)
  rename_i e1
  split
  · exact keeps_fields (keeps_storeEntries h _ e1)
  split
  · exact keeps_sendPass (keeps_countSpill (keeps_fields (keeps_storeEntries h _ e1)))
  · exact keeps_poolLookup (keeps_storeEntries h _ e1)

theorem keeps_execLookUpReply {h0 : MsgHdr} {entries : List ReplyEntry} (h : Kept z s) :
    KeptNext z (execLookUpReply h0 entries s) := by
  unfold execLookUpReply
  refine keptNext_next (keeps_receive (fun t ht => ?_) h)
  split
  · exact keeps_takeReply (keeps_fields ht)
  · exact ht

theorem keeps_retryLookups {lost : Nat} (h : Kept z s) : Kept z (retryLookups s lost) := by
  unfold retryLookups
  dsimp only
  refine kept_foldl (fun t1 lk1 ht1 => ?_) _ _ h
  split
  · exact ht1
  split
  · exact ht1
  split
  · exact keeps_finish (keeps_fields ht1)
  · exact keeps_sendPass ht1

theorem keeps_settleBackwards (h : Kept z s) : Kept z (settleBackwards s) :=
  kept_foldl (fun _ _ ht1 => keeps_done (keeps_fields ht1)) _ _ h

theorem keeps_sendBackward {d : TableDesc} {lk : Lookup} {c : HostCmd} {xs : List (RowKey × List (Val × Exc))} (h : Kept z s) :
    Kept z (sendBackward s d lk c xs) := by
  unfold sendBackward
  dsimp only
  refine keeps_settleBackwards ?_
  split
  · exact keeps_with (kept_foldl (fun _ _ ht1 => kept_foldl (fun _ _ ht => keeps_sendRows ht) _ _ ht1) _ _ (keeps_with
      (keeps_noteGrade h)))
  · exact kept_foldl (fun _ _ ht1 => kept_foldl (fun _ _ ht => keeps_sendRows ht) _ _ ht1) _ _ (keeps_with (keeps_noteGrade h))

theorem keeps_execEmbBackward {c : HostCmd} (h : Kept z s) : KeptNext z (execEmbBackward c s) := by
  unfold execEmbBackward
  dsimp only
  refine keeps_runCmd (fun t ht => ?_) h
  split
  · exact ht
  split
  · exact keeps_refuse ht
  split
  · exact keeps_refuse ht
  split
  · exact keeps_refuse ht
  split
  · exact keeps_refuse ht
  split
  · exact ht
  split
  · exact keeps_failUE ht
  split
  · exact keeps_failUE ht
  split
  · exact keeps_finish ht
  split
  · split
    · exact keeps_refuse ht
    split
    · exact ht
    · exact keeps_failUE ht
    · exact keeps_finish ht
    · exact keeps_sendBackward ht
  split
  · exact keeps_refuse ht
  split
  · exact ht
  · exact keeps_failUE ht
  · exact keeps_finish ht
  · exact keeps_sendBackward ht

end Sys2Proof.Proofs
end

section
/-! What every command leaves alone (O5, O6): host commands, owners and scaling. -/

namespace Sys2Proof.Proofs

open Sys2Proof Sys2Proof.Machine Sys2Proof.Laws

set_option Elab.async false

variable {z s : State}

/-! ### Host -/

theorem keeps_startCmd {c : HostCmd} (h : Kept z s) : Kept z (startCmd s c) := by
  unfold startCmd
  dsimp only
  split
  · exact keeps_fields h
  · exact keeps_finish (keeps_fields h)

theorem keeps_acceptId {q : Queue} {c : HostCmd} (h : Kept z s) : Kept z (acceptId s q c) := by
  unfold acceptId
  dsimp only
  split
  · exact keeps_startCmd (keeps_fields h)
  split
  · exact keeps_fields h
  · exact keeps_ite (keeps_startCmd (keeps_fields h)) (keeps_with (keeps_postCompletion h))
  · exact keeps_with (keeps_postCompletion h)

theorem keeps_consume {q : Queue} {bs : List Byte} (h : Kept z s) : Kept z (consume s q bs) := keeps_acceptId (keeps_fields h)

theorem keeps_stale {q : Queue} (h : Kept z s) : Kept z (stale s q) := keeps_post (keeps_fields h)

theorem keeps_exhausted {q : Queue} {bs : List Byte} (h : Kept z s) : Kept z (exhausted s q bs) :=
  keeps_ite (keeps_with (keeps_postCompletion (keeps_fields h))) (keeps_stale h)

theorem keeps_execSlotRead {fn queue : Nat} {bytes : List Byte} (h : Kept z s) :
    KeptNext z (execSlotRead fn queue bytes s) := by
  unfold execSlotRead
  refine keptNext_next ?_
  split
  · exact h
  · exact keeps_ite h (keeps_ite (keeps_consume h) (keeps_fields h))

theorem keeps_execSlotReRead {fn queue : Nat} {bytes : List Byte} (h : Kept z s) :
    KeptNext z (execSlotReRead fn queue bytes s) := by
  unfold execSlotReRead
  refine keptNext_next ?_
  split
  · exact h
  · exact keeps_ite h (keeps_ite (keeps_consume h) (keeps_ite (keeps_exhausted h) (keeps_fields h)))

theorem keeps_execDoorbell {fn queue : Nat} {value : W64} (h : Kept z s) : KeptNext z (execDoorbell fn queue value s) := by
  unfold execDoorbell
  dsimp only
  refine keptNext_next ?_
  split
  · exact keeps_fields h
  split
  · exact keeps_fields h
  refine keeps_with ?_
  split
  · exact keeps_with (keeps_drainCompletions (keeps_fields h))
  · exact keeps_drainCompletions (keeps_fields h)

theorem keeps_execCompletionPost {fn queue : Nat} (h : Kept z s) : KeptNext z (execCompletionPost fn queue s) := by
  unfold execCompletionPost
  refine keptNext_next ?_
  split
  · exact h
  · exact keeps_drainCompletions h

theorem keeps_execNop {c : HostCmd} (h : Kept z s) : KeptNext z (execNop c s) := keeps_runCmd (fun _ ht => keeps_done ht) h

theorem keeps_execQueueCreate {c : HostCmd} (h : Kept z s) : KeptNext z (execQueueCreate c s) := by
  unfold execQueueCreate
  dsimp only
  refine keeps_runCmd (fun t ht => ?_) h
  split
  · exact keeps_refuse ht
  split
  · exact keeps_refuse ht
  · exact keeps_ite (keeps_refuse ht) (keeps_ite (keeps_refuse ht) (keeps_done (keeps_fields ht)))

theorem keeps_execQueueDelete {c : HostCmd} (h : Kept z s) : KeptNext z (execQueueDelete c s) :=
  keeps_runCmd (fun _ ht => keeps_ite (keeps_refuse ht) (keeps_ite (keeps_refuse ht) (keeps_ite ht (keeps_with (keeps_done
      ht))))) h

theorem keeps_releaseEvents (h : Kept z s) : Kept z (releaseEvents s) :=
  kept_foldl (fun _ _ ht => keeps_putEvent ht) _ _ (keeps_fields h)

theorem keeps_setRings {r : Rings} (h : Kept z s) : Kept z (setRings s r) :=
  keeps_ite (keeps_fields h) (keeps_postLost (keeps_drainAllHands (keeps_releaseEvents (keeps_fields h))))

theorem keeps_writeResume {cause : Nat} (h : Kept z s) : Kept z (writeResume s cause) := by
  unfold writeResume
  dsimp only
  split
  · exact h
  · exact keeps_fields h

theorem keeps_execHostRingsSet {c : HostCmd} (h : Kept z s) : KeptNext z (execHostRingsSet c s) := by
  unfold execHostRingsSet
  dsimp only
  refine keeps_runCmd (fun t ht => ?_) h
  split
  · exact keeps_refuse ht
  split
  · exact keeps_done (keeps_setRings ht)
  split
  · exact keeps_with (keeps_done (keeps_setRings ht))
  · exact keeps_post (keeps_writeResume (keeps_with (keeps_done (keeps_setRings ht))))

theorem keeps_execFunctionMap {c : HostCmd} (h : Kept z s) : KeptNext z (execFunctionMap c s) :=
  keeps_runCmd (fun _ ht => keeps_ite (keeps_refuse ht) (keeps_ite (keeps_refuse ht) (keeps_done (keeps_fields ht)))) h

theorem keeps_execBiasSet {c : HostCmd} (h : Kept z s) : KeptNext z (execBiasSet c s) :=
  keeps_runCmd (fun _ ht => keeps_ite (keeps_refuse ht) (keeps_ite (keeps_refuse ht) (keeps_ite ht (keeps_done (keeps_fields
      ht))))) h

theorem keeps_execCxlSnoop {_addr : Nat} (h : Kept z s) : KeptNext z (execCxlSnoop _addr s) := keptNext_next (keeps_fields h)

theorem keeps_execHostLinkTrained {rate width : Nat} (h : Kept z s) : KeptNext z (execHostLinkTrained rate width s) :=
  keptNext_next (keeps_ite (keeps_post (keeps_fields h)) (keeps_fields h))

theorem keeps_detachHost {cause : Nat} (h : Kept z s) : Kept z (detachHost s cause) := keeps_ite h (keeps_fields h)

theorem keeps_execHostLinkLoss (h : Kept z s) : KeptNext z (execHostLinkLoss s) :=
  keptNext_next (keeps_detachHost (keeps_fields h))

theorem keeps_execHostLinkReattach (h : Kept z s) : KeptNext z (execHostLinkReattach s) :=
  keptNext_next (keeps_ite (keeps_fields h) h)

theorem keeps_resumeHost (h : Kept z s) : Kept z (resumeHost s) :=
  keeps_postLost (keeps_drainAllHands (kept_foldl (fun _ _ ht => keeps_putEvent ht) _ _ (keeps_post (keeps_writeResume
      (keeps_fields h)))))

theorem keeps_guardWrite {fn i : Nat} {b : Blk} {act : State → State} (ha : ∀ t, Kept z t → Kept z (act t)) (h : Kept z s) :
    Kept z (guardWrite s fn b i act) := keeps_ite h (keeps_ite (keeps_fields h) (keeps_ite (keeps_fields h) (ha s h)))

theorem keeps_writeGo (h : Kept z s) : Kept z (writeGo s) := keeps_ite (keeps_resumeHost h) h

theorem keeps_execResumeGo {fn : Nat} (h : Kept z s) : KeptNext z (execResumeGo fn s) :=
  keptNext_next (keeps_guardWrite (fun _ ht => keeps_writeGo ht) h)

theorem keeps_writeEventHead {v : Nat} (h : Kept z s) : Kept z (writeEventHead s v) := keeps_postLost (keeps_fields h)

theorem keeps_writeHandHead {v : Nat} (h : Kept z s) : Kept z (writeHandHead s v) := keeps_drainAllHands (keeps_fields h)

theorem keeps_execEventHeadWrite {fn : Nat} {value : W32} (h : Kept z s) : KeptNext z (execEventHeadWrite fn value s) :=
  keptNext_next (keeps_guardWrite (fun _ ht => keeps_writeEventHead ht) h)

theorem keeps_execHandHeadWrite {fn : Nat} {value : W32} (h : Kept z s) : KeptNext z (execHandHeadWrite fn value s) :=
  keptNext_next (keeps_guardWrite (fun _ ht => keeps_writeHandHead ht) h)

theorem keeps_execTranscriptHeadWrite {fn : Nat} {value : W64} (h : Kept z s) :
    KeptNext z (execTranscriptHeadWrite fn value s) := keptNext_next (keeps_guardWrite (fun _ ht => keeps_fields ht) h)

theorem keeps_writeAdminCtl {v : Nat} (h : Kept z s) : Kept z (writeAdminCtl s v) := by
  unfold writeAdminCtl
  dsimp only
  split
  · exact keeps_fields h
  · exact keeps_ite (keeps_ite (keeps_fields h) (keeps_fields h)) (keeps_ite (keeps_fields h) (keeps_fields h))

theorem keeps_execAdminQueueEnable {fn : Nat} {value : W32} (h : Kept z s) : KeptNext z (execAdminQueueEnable fn value s) :=
  keptNext_next (keeps_guardWrite (fun _ ht => keeps_writeAdminCtl ht) h)

theorem keeps_execAdminQueueDisable {fn : Nat} {value : W32} (h : Kept z s) : KeptNext z (execAdminQueueDisable fn value s) :=
  keptNext_next (keeps_guardWrite (fun _ ht => keeps_writeAdminCtl ht) h)

theorem keeps_execFlrPf0 (h : Kept z s) : KeptNext z (execFlrPf0 s) := keptNext_next (keeps_fields h)

/-! ### Owner -/

theorem keeps_readKey {d : TableDesc} {v step : Nat} {key : RowKey} (h : Kept z s) : KeptKey z (readKey s d v step key) := by
  unfold readKey
  dsimp only
  split
  · rename_i e
    exact (keeps_readyRecord h).wait e
  · rename_i e
    exact (keeps_readyRecord h).gone e
  rename_i e
  split
  · exact (keeps_readyRecord h).ok e
  · exact keeps_fields ((keeps_readyRecord h).ok e)

theorem keeps_readKeys {d : TableDesc} {v step : Nat} {keys : List RowKey} (h : Kept z s) :
    Kept z (readKeys s d v step keys).1 := by
  unfold readKeys
  refine kept_foldl_fst (fun q k1 hq => ?_) _ _ h
  split
  · exact hq
  split
  · rename_i e1
    exact (keeps_readKey hq).wait e1
  rename_i e1
  exact (keeps_readKey hq).entry e1

theorem keeps_replyTo {h0 : MsgHdr} {es : List ReplyEntry} (h : Kept z s) : Kept z (replyTo s h0 es) := keeps_sendHdr h

theorem keeps_serveBatch {b : HeldBatch} (h : Kept z s) : Kept z (serveBatch s b) := by
  unfold serveBatch
  dsimp only
  split
  · exact keeps_replyTo h
  split
  · exact keeps_replyTo h
  split
  · exact keeps_fields h
  split
  · exact keeps_with (keeps_readKeys (keeps_fields h))
  · exact keeps_replyTo (keeps_with (keeps_readKeys (keeps_fields h)))

theorem keeps_serveBatches (h : Kept z s) : Kept z (serveBatches s) :=
  kept_foldl (fun _ _ ht => keeps_serveBatch ht) _ _ (keeps_fields h)

theorem keeps_writeRoll {d : TableDesc} {r : Roll} (h : Kept z s) : Kept z (writeRoll s d r) := by
  unfold writeRoll
  dsimp only
  split
  · exact keeps_finishOpen h
  split
  · exact keeps_with (keeps_finishOpen h)
  split
  · exact keeps_writeRecord (keeps_with (keeps_finishOpen h))
  split
  · split
    · exact keeps_with (keeps_noteUE (keeps_finishOpen h))
    · exact keeps_writeRecord (keeps_with (keeps_finishOpen h))
  · rename_i e3
    exact (keeps_readItem (keeps_finishOpen h)).wait e3
  rename_i e3
  exact keeps_fields ((keeps_readItem (keeps_finishOpen h)).fail e3)

theorem keeps_runRolls {d : TableDesc} (h : Kept z s) : Kept z (runRolls s d) :=
  kept_foldl (fun _ _ ht1 => keeps_ite (keeps_writeRoll ht1) ht1) _ _ h

theorem keeps_applyStep {d : TableDesc} {step : Nat} (h : Kept z s) : Kept z (applyStep s d step) :=
  kept_foldl (fun _ _ ht1 => keeps_applyRow (keeps_fields ht1)) _ _ (keeps_fields h)

theorem keeps_tryApply {d : TableDesc} (h : Kept z s) : Kept z (tryApply s d) := keeps_ite (keeps_applyStep h) h

theorem keeps_advanceTable {t : Nat} (h : Kept z s) : Kept z (advanceTable s t) := by
  unfold advanceTable
  split
  · exact h
  · exact keeps_runRolls (keeps_tryApply h)

theorem keeps_advanceTables (h : Kept z s) : Kept z (advanceTables s) :=
  keeps_serveBatches (kept_foldl (fun _ _ ht1 => keeps_advanceTable ht1) _ _ h)

theorem keeps_kickUpdates (h : Kept z s) : Kept z (kickUpdates s) := keeps_advanceTables (keeps_retryTiles (keeps_retryRows h))

theorem keeps_execLookUpBatch {h0 : MsgHdr} {keys : List RowKey} (h : Kept z s) : KeptNext z (execLookUpBatch h0 keys s) :=
  keptNext_next (keeps_receiveWith (fun _ ht1 => keeps_serveBatch ht1) (fun _ ht1 => keeps_serveBatch ht1) h)

theorem keeps_execGradientRows {h0 : MsgHdr} {rows : List GradRow} (h : Kept z s) :
    KeptNext z (execGradientRows h0 rows s) := by
  unfold execGradientRows
  dsimp only
  refine keptNext_next (keeps_receive (fun t ht => ?_) h)
  split
  · exact keeps_fields ht
  · exact keeps_ite (keeps_advanceTables (keeps_fields ht)) (keeps_advanceTables (keeps_fields ht))

theorem keeps_execLookUpMark {h0 : MsgHdr} (h : Kept z s) : KeptNext z (execLookUpMark h0 s) :=
  keptNext_next (keeps_receive (fun _ ht => keeps_ite ht (keeps_advanceTables (keeps_fields ht))) h)

theorem keeps_execUpdateSecondWrite {addr : Nat} (h : Kept z s) : KeptNext z (execUpdateSecondWrite addr s) :=
  keptNext_next (keeps_finishOpen h)

theorem keeps_execReducedGradientTile {h0 : MsgHdr} {line depth : Nat} {elems : List Nat} (h : Kept z s) :
    KeptNext z (execReducedGradientTile h0 line depth elems s) :=
  keptNext_next (keeps_receive (fun _ ht => keeps_applyTile ht) h)

theorem keeps_takeStage {t index : Nat} {record : List Byte} {last : Bool} (h : Kept z s) :
    Kept z (takeStage s t index record last).1 := by
  unfold takeStage
  dsimp only
  split
  · exact h
  split
  · exact h
  split
  · exact keeps_serveBatches (keeps_fields h)
  split
  · exact h
  · exact keeps_writeRecord h

theorem keeps_takeRoll {t index version : Nat} {zero : Bool} {w : List Byte} {fixed : Option Nat} {tag : Nat} (h : Kept z s) :
    Kept z (takeRoll s t index version zero w fixed tag).1 := by
  unfold takeRoll
  dsimp only
  split
  · exact h
  split
  · exact h
  split
  · exact h
  split
  · exact keeps_noteUE h
  · exact keeps_runRolls (kept_foldl (fun _ _ ht1 => keeps_send ht1) _ _ (keeps_fields h))

theorem keeps_flipTable {t : Nat} (h : Kept z s) : Kept z (flipTable s t) := by
  unfold flipTable
  dsimp only
  split
  · exact h
  · exact keeps_ite h (keeps_post (keeps_fields h))

theorem keeps_raiseSwitches (h : Kept z s) : Kept z (raiseSwitches s) :=
  kept_foldl (fun _ _ ht1 => keeps_ite (keeps_raise (keeps_fields ht1)) ht1) _ _ h

theorem keeps_answerSwitch {v : Nat} (h : Kept z s) : Kept z (answerSwitch s v) := by
  unfold answerSwitch
  dsimp only
  refine keeps_answer (fun h1 t1 ht1 => ?_) h
  split
  · exact keptSome_some (keeps_serveBatches (keeps_fields ht1))
  · exact keptSome_some (keeps_serveBatches (keeps_fields ht1))
  · exact keptSome_none

theorem keeps_execTableSwitchAnswer {fn : Nat} {value : W32} (h : Kept z s) : KeptNext z (execTableSwitchAnswer fn value s) :=
  keptNext_next (keeps_guardWrite (fun _ ht => keeps_answerSwitch ht) h)

/-! ### Scale -/

theorem keeps_putP {t : Nat} {r : ScaleRec} {p : Int} (h : Kept z s) : Kept z (putP s t r p) :=
  keeps_ite (keeps_fields h) (keeps_fields h)

theorem keeps_restartHist {t first : Nat} (h : Kept z s) : Kept z (restartHist s t first) := by
  unfold restartHist
  dsimp only
  split
  · exact h
  · exact keeps_post (keeps_with (keeps_putP (keeps_fields h)))

theorem keeps_nextP {t step : Nat} (h : Kept z s) : Kept z (nextP s t step) := by
  unfold nextP
  dsimp only
  split
  · exact h
  · exact keeps_ite (keeps_restartHist h) (keeps_ite (keeps_putP h) (keeps_ite h (keeps_raise (keeps_fields h))))

theorem keeps_withdrawHand {bit t : Nat} (h : Kept z s) : Kept z (withdrawHand s bit t) := by
  unfold withdrawHand
  split
  · exact keeps_withdraw h
  · exact h

theorem keeps_withdrawHands {t : Nat} (h : Kept z s) : Kept z (withdrawHands s t) :=
  keeps_with (keeps_with (keeps_with (keeps_withdrawHand (keeps_withdrawHand (keeps_withdrawHand h)))))

theorem keeps_installScaleReset {c : ClassCmd} (h : Kept z s) : KeptOk z (installScaleReset c s) := by
  unfold installScaleReset
  dsimp only
  split
  · exact keptOk_error
  split
  · exact keptOk_ok (keeps_with (keeps_with (keeps_kickUpdates (keeps_withdrawHands h))))
  · exact keptOk_ok (keeps_restartHist (keeps_kickUpdates (keeps_withdrawHands h)))

theorem keeps_execScaleReset {c : HostCmd} (h : Kept z s) : KeptNext z (execScaleReset c s) :=
  keeps_runCmd (fun _ ht => keeps_startClass (fun _ _ ht1 => keeps_installScaleReset ht1) ht) h

theorem keeps_installOutlierSet {c : ClassCmd} (h : Kept z s) : KeptOk z (installOutlierSet c s) := by
  unfold installOutlierSet
  dsimp only
  split
  · exact keptOk_error
  · exact keptOk_ok (keeps_fields h)

theorem keeps_execOutlierSet {c : HostCmd} {data : List Byte} (h : Kept z s) : KeptNext z (execOutlierSet c data s) := by
  unfold execOutlierSet
  dsimp only
  refine keeps_runCmd (fun t ht => ?_) h
  split
  · exact keeps_refuse ht
  split
  · exact keeps_failUE ht
  · exact keeps_startClass (fun _ _ ht1 => keeps_installOutlierSet ht1) ht

theorem keeps_takeList {t step : Nat} {l : List Nat} (h : Kept z s) : Kept z (takeList s t step l) :=
  keeps_ite (keeps_fields h) (keeps_post (keeps_fields h))

theorem keeps_execOutlierSelection {tensor step : Nat} (h : Kept z s) : KeptNext z (execOutlierSelection tensor step s) := by
  unfold execOutlierSelection
  dsimp only
  refine keptNext_next ?_
  split
  · exact h
  · exact keeps_ite h (keeps_ite (keeps_raise (keeps_fields h)) (keeps_takeList (keeps_fields h)))

theorem keeps_answerMgt {v : Nat} (h : Kept z s) : Kept z (answerMgt s v) := by
  unfold answerMgt
  dsimp only
  refine keeps_answer (fun h1 t1 ht1 => ?_) h
  split
  · exact keptSome_none
  split
  · split
    · exact keptSome_none
    · exact keptSome_map fun r1 => keeps_kickUpdates (keeps_with (keeps_with (keeps_putP ht1)))
  · split
    · exact keptSome_some (keeps_kickUpdates (keeps_takeList ht1))
    split
    · exact keptSome_some (keeps_kickUpdates (keeps_takeList ht1))
    · exact keptSome_map fun l1 => keeps_kickUpdates (keeps_takeList ht1)
  split
  · exact keptSome_none
  · exact keptSome_map fun r1 => keeps_fields ht1

theorem keeps_execPrescaleAnswer {fn : Nat} {value : W32} (h : Kept z s) : KeptNext z (execPrescaleAnswer fn value s) :=
  keptNext_next (keeps_guardWrite (fun _ ht => keeps_answerMgt ht) h)

theorem keeps_execOutlierAnswer {fn : Nat} {value : W32} (h : Kept z s) : KeptNext z (execOutlierAnswer fn value s) :=
  keptNext_next (keeps_guardWrite (fun _ ht => keeps_answerMgt ht) h)

theorem keeps_execSilentLayerAnswer {fn : Nat} {value : W32} (h : Kept z s) : KeptNext z (execSilentLayerAnswer fn value s) :=
  keptNext_next (keeps_guardWrite (fun _ ht => keeps_answerMgt ht) h)

theorem keeps_passPart {step : Nat} {p : ExchangePart} (h : Kept z s) : Kept z (passPart s step p) := by
  unfold passPart
  dsimp only
  split
  · exact h
  split
  · exact keeps_fields h
  · exact keeps_ite (keeps_fields h) (keeps_send (keeps_fields h))

theorem keeps_execStepCloseContribution {h0 : MsgHdr} {p : ExchangePart} (h : Kept z s) :
    KeptNext z (execStepCloseContribution h0 p s) :=
  keptNext_next (keeps_receive (fun _ ht => keeps_ite (keeps_passPart ht) (keeps_fields ht)) h)

theorem keeps_takeForce {closed : Nat} {now : Nat → Bool} (h : Kept z s) : Kept z (takeForce s closed now) :=
  keeps_with (keeps_with (kept_foldl (fun _ _ ht1 => keeps_track (keeps_fields ht1)) _ _ h))

theorem keeps_takePending {step : Nat} {ps : List ExchangePart} (h : Kept z s) : Kept z (takePending s step ps) :=
  keeps_with (keeps_takeForce h)

theorem keeps_trackNamed {ps : List ExchangePart} (h : Kept z s) : Kept z (trackNamed s ps) :=
  kept_foldl (fun _ _ ht => keeps_track ht) _ _ h

theorem keeps_recordsRead {step : Nat} (h : Kept z s) : Kept z (recordsRead s step).1 := by
  unfold recordsRead
  refine kept_foldl_fst (fun q1 e1 hq1 => ?_) _ _ h
  split
  · rename_i e
    exact (keeps_scaleRead hq1).wait e
  · exact hq1

theorem keeps_execStepCloseExchangeDone {step : Nat} (h : Kept z s) : KeptNext z (execStepCloseExchangeDone step s) := by
  unfold execStepCloseExchangeDone
  dsimp only
  refine keptNext_next ?_
  split
  · exact h
  split
  · exact h
  split
  · exact keeps_recordsRead h
  · exact keeps_passPart (keeps_declareMarks (kept_foldl (fun _ _ ht1 => keeps_flipTable ht1) _ _ (kept_foldl (fun _ _ ht1 =>
      keeps_fields ht1) _ _ (keeps_takePending (keeps_trackNamed h)))))

theorem keeps_setLift {t step : Nat} {r : ScaleRec} {l : Nat} (h : Kept z s) : Kept z (setLift s t step r l) :=
  keeps_ite (keeps_post (keeps_fields h)) (keeps_post (keeps_fields h))

theorem keeps_actSilent {t step : Nat} {r : ScaleRec} (h : Kept z s) : Kept z (actSilent s t step r) :=
  keeps_ite (keeps_raise (keeps_fields h)) (keeps_setLift h)

theorem keeps_dropHand {bit t : Nat} (h : Kept z s) : Kept z (dropHand s bit t) := by
  unfold dropHand
  split
  · exact keeps_fields h
  · exact h

theorem keeps_silentRule {step : Nat} {g : GradeContribution} (h : Kept z s) : Kept z (silentRule s step g) := by
  unfold silentRule
  dsimp only
  split
  · exact h
  split
  · exact keeps_ite (keeps_setLift (keeps_with (keeps_with (keeps_dropHand h)))) h
  · exact keeps_ite (keeps_ite (keeps_actSilent (keeps_fields h)) (keeps_fields h)) (keeps_ite (keeps_fields h) h)

theorem keeps_writeBank {c : Closing} {ps : List ExchangePart} (h : Kept z s) : Kept z (writeBank s c ps) :=
  keeps_ite h (keeps_with (keeps_with (kept_foldl (fun _ _ ht1 => keeps_fields ht1) _ _ h)))

theorem keeps_execGradebookExchangeDone {step : Nat} (h : Kept z s) : KeptNext z (execGradebookExchangeDone step s) := by
  unfold execGradebookExchangeDone
  dsimp only
  refine keptNext_next ?_
  split
  · exact h
  split
  · exact h
  · exact keeps_kickUpdates (keeps_with (keeps_with (keeps_with (kept_foldl (fun _ _ ht1 => keeps_fields ht1) _ _
      (keeps_writeBank (kept_foldl (fun _ _ ht1 => keeps_nextP (keeps_silentRule ht1)) _ _ h))))))

theorem keeps_execGradebookSet {c : HostCmd} (h : Kept z s) : KeptNext z (execGradebookSet c s) := by
  unfold execGradebookSet
  dsimp only
  refine keeps_runCmd (fun t ht => ?_) h
  split
  · exact keeps_refuse ht
  · exact keeps_ite (keeps_refuse ht) (keeps_ite (keeps_done (keeps_fields ht)) (keeps_done (keeps_fields ht)))

theorem keeps_installGradebookLift {c : ClassCmd} (h : Kept z s) : KeptOk z (installGradebookLift c s) := by
  unfold installGradebookLift
  dsimp only
  split
  · exact keptOk_error
  split
  · exact keptOk_error
  · exact keptOk_ok (keeps_fields h)

theorem keeps_execGradebookLift {c : HostCmd} (h : Kept z s) : KeptNext z (execGradebookLift c s) :=
  keeps_runCmd (fun _ ht => keeps_startClass (fun _ _ ht1 => keeps_installGradebookLift ht1) ht) h

theorem keeps_takeLifts {step : Nat} (h : Kept z s) : Kept z (takeLifts s step) := by
  unfold takeLifts
  dsimp only
  refine kept_foldl (fun t1 e1 ht1 => ?_) _ _ h
  split
  · split
    · exact ht1
    refine keeps_with (keeps_with ?_)
    split
    · exact keeps_withdraw ht1
    · exact ht1
  · exact ht1

theorem keeps_endCompare {c : HostCmd} {a : CompareAcc} (h : Kept z s) : Kept z (endCompare s c a) := by
  unfold endCompare
  dsimp only
  split
  · split
    · exact keeps_failUE h
    rename_i e1
    exact keeps_done (keeps_fields (keeps_tryWrite h _ e1))
  · exact keeps_done (keeps_fields h)

theorem keeps_execGradebookCompare {c : HostCmd} {data : List Byte} (h : Kept z s) : KeptNext z (execGradebookCompare c data s) := by
  unfold execGradebookCompare
  refine keeps_runCmd (fun t ht => ?_) h
  have hrefuse : ∀ d0, Kept z (refuse t c d0) := fun _ => keeps_refuse ht
  have hfinish : ∀ st d0 d1, Kept z (finish t c st d0 d1) := fun _ _ _ => keeps_finish ht
  refine keeps_ite (hrefuse _) (keeps_ite (hrefuse _) (keeps_ite (hrefuse _) (keeps_ite (hrefuse _) (keeps_ite (hfinish _ _ _)
    (keeps_ite ht (keeps_ite (hfinish _ _ _) (keeps_ite (hfinish _ _ _) (keeps_ite (hrefuse _) (keeps_ite (hrefuse _) ?_)))))))))
  split
  · exact ht
  · exact keeps_failUE ht
  · exact hfinish _ _ _
  · exact keeps_endCompare ht

theorem keeps_setColumns {d : TableDesc} {step : Nat} {sums : List Nat} {n : Nat} (h : Kept z s) :
    Kept z (setColumns s d step sums n) := by
  unfold setColumns
  dsimp only
  split
  · exact keeps_fields h
  · exact keeps_ite (keeps_fields h) (keeps_devWrite (keeps_fields h))

theorem keeps_sendColumns {dst : Nat} {d : TableDesc} {step : Nat} {last : Bool} {v : List Nat × Nat} (h : Kept z s) :
    Kept z (sendColumns s dst d step last v) := keeps_sendHdr h

theorem keeps_passColumns {d : TableDesc} {step : Nat} {v : List Nat × Nat} (h : Kept z s) :
    Kept z (passColumns s d step v) := by
  unfold passColumns
  dsimp only
  split
  · exact keeps_sendColumns h
  · exact keeps_setColumns (kept_foldl (fun _ _ ht1 => keeps_sendColumns ht1) _ _ h)

theorem keeps_joinColumns {d : TableDesc} {step : Nat} (h : Kept z s) : Kept z (joinColumns s d step) := by
  unfold joinColumns
  split
  · split
    · exact keeps_passColumns h
    split
    · exact keeps_passColumns h
    · exact h
  · exact h

theorem keeps_closeColumns {step : Nat} (h : Kept z s) : Kept z (closeColumns s step) :=
  kept_foldl (fun _ _ ht1 => keeps_ite (keeps_joinColumns (keeps_fields ht1)) (keeps_fields ht1)) _ _ h

theorem keeps_takeColumns {d : TableDesc} {h0 : MsgHdr} {elems : List Nat} (h : Kept z s) :
    Kept z (takeColumns s d h0 elems) := by
  unfold takeColumns
  dsimp only
  split
  · exact keeps_advanceTables (keeps_setColumns h)
  · exact keeps_advanceTables (keeps_joinColumns (keeps_fields h))

theorem keeps_renewRecords {step n : Nat} {rs : List (Nat × TableDesc × Nat × RowKey)} (h : Kept z s) :
    Kept z (renewRecords s step rs n).1 := by
  induction rs generalizing s n with
  | nil => exact h
  | cons r rest ih =>
    cases n with
    | zero => exact h
    | succ n =>
      unfold renewRecords
      split
      · exact ih h
      have hread := keeps_readyRecord (d := r.2.1) (v := r.2.2.1) (key := r.2.2.2) (step := step) (byUpdate := true) h
      split
      · exact ih (keeps_renewRecord (hread.ok ‹_›))
      · exact hread.wait ‹_›
      · exact ih (hread.gone ‹_›)

theorem keeps_execStampRenewal {unit count : Nat} (h : Kept z s) : KeptNext z (execStampRenewal unit count s) := by
  unfold execStampRenewal
  dsimp only
  refine keptNext_next ?_
  split
  · exact h
  · exact keeps_with (keeps_renewRecords h)

end Sys2Proof.Proofs
end

section
/-! What every command leaves alone (O5, O6): collectives, programs and attention. -/

namespace Sys2Proof.Proofs

open Sys2Proof Sys2Proof.Machine Sys2Proof.Laws

set_option Elab.async false

variable {z s : State}

/-! ### Collect -/

theorem keeps_installRing {c : ClassCmd} (h : Kept z s) : KeptOk z (installRing c s) := by
  unfold installRing
  dsimp only
  split
  · exact keptOk_error
  split
  · exact keptOk_error
  split
  · exact keptOk_error
  split
  · exact keptOk_error
  split
  · exact keptOk_error
  · split <;> exact keptOk_ok (keeps_fields h)

theorem keeps_execColRingDefine {c : HostCmd} (h : Kept z s) : KeptNext z (execColRingDefine c s) :=
  keeps_runCmd (fun _ ht => keeps_startClass (fun _ _ ht1 => keeps_installRing ht1) ht) h

theorem keeps_failRead {c : HostCmd} {core : Nat} {r : ColRead} (h : Kept z s) : Kept z (failRead s c core r) := by
  unfold failRead
  split
  · exact keeps_failUE h
  · exact keeps_finish h
  · exact keeps_finish h
  · exact h

theorem keeps_colWrite {sram : Bool} {core a : Nat} {bs : List Byte} (h : Kept z s) : KeptOk z (colWrite s sram core a bs) := by
  unfold colWrite
  split
  · exact keptOk_ok (keeps_fields h)
  · exact keeps_tryWrite h

theorem keeps_noteCol {d : ColDesc} {xs : List (Nat × Exc)} (h : Kept z s) : Kept z (noteCol s d xs) := keeps_noteGrade h

theorem keeps_noteResult {d : ColDesc} {hd : List Byte} {xs : List Nat} {r : List Byte × List Exc × List (Val × Val)} (h :
    Kept z s) :
    Kept z (noteResult s d hd xs r) := keeps_ite (keeps_with (keeps_noteGradeWith h)) (keeps_noteGradeWith h)

theorem keeps_sendChunk {j : ColJob} {dst kind k : Nat} {dir : Bool} {b : Body} (h : Kept z s) :
    Kept z (sendChunk s j dst kind k dir b) := keeps_sendBlock h

theorem keeps_settleCollectives (h : Kept z s) : Kept z (settleCollectives s) :=
  kept_foldl (fun _ _ ht1 => keeps_done (keeps_fields ht1)) _ _ h

theorem keeps_failCol {j : ColJob} {st d0 d1 : Nat} (h : Kept z s) : Kept z (failCol s j st d0 d1) :=
  keeps_finish (keeps_fields h)

theorem keeps_failColWrite {j : ColJob} {a : Nat} (h : Kept z s) : Kept z (failColWrite s j a) := keeps_failUE (keeps_fields h)

theorem keeps_forwardChunk {j : ColJob} {os : List Nat} {k : Nat} {bs : List Byte} (h : Kept z s) :
    Kept z (forwardChunk s j os k bs) := keeps_ite h (keeps_sendChunk h)

theorem keeps_putChunk {j : ColJob} {os : List Nat} {k : Nat} {bs : List Byte} (h : Kept z s) :
    KeptOk z (putChunk s j os k bs) := by
  unfold putChunk
  dsimp only
  split
  · exact keptOk_ok h
  · exact keeps_colWrite h

theorem keeps_deliverUpdates {j : ColJob} {tiles : List (List Byte)} {xs : List Nat} (h : Kept z s) :
    Kept z (deliverUpdates s j tiles xs) := keeps_sendBlock h

theorem keeps_copyResult {j : ColJob} {base : Nat} {bs : List Byte} (h : Kept z s) : Kept z (copyResult s j base bs) :=
  keeps_ite h (keeps_sendBlock h)

theorem keeps_finishChunk {j : ColJob} {os : List Nat} {k : Nat} {own : List Byte} {xs : List (Nat × Exc)} (h : Kept z s) :
    Kept z (finishChunk s j os k own xs) := by
  unfold finishChunk
  dsimp only
  split
  · exact keeps_settleCollectives (keeps_deliverUpdates (keeps_fields h))
  split
  · split
    · exact keeps_failCol h
    split
    · exact keeps_failColWrite (kept_foldl (fun _ _ ht1 => keeps_noteResult ht1) _ _ h)
    rename_i e3
    refine keeps_settleCollectives ?_
    split
    · exact keeps_forwardChunk (keeps_copyResult (keeps_fields (keeps_colWrite (kept_foldl (fun _ _ ht1 => keeps_noteResult
        ht1) _ _ h) _ e3)))
    · exact keeps_copyResult (keeps_fields (keeps_colWrite (kept_foldl (fun _ _ ht1 => keeps_noteResult ht1) _ _ h) _ e3))
  split
  · exact keeps_failCol h
  split
  · exact keeps_failColWrite (kept_foldl (fun _ _ ht1 => keeps_noteResult ht1) _ _ h)
  rename_i e3
  refine keeps_settleCollectives ?_
  split
  · exact keeps_forwardChunk (keeps_copyResult (keeps_fields (keeps_colWrite (kept_foldl (fun _ _ ht1 => keeps_noteResult ht1)
      _ _ h) _ e3)))
  · exact keeps_copyResult (keeps_fields (keeps_colWrite (kept_foldl (fun _ _ ht1 => keeps_noteResult ht1) _ _ h) _ e3))

theorem keeps_reduceStep {j : ColJob} {k : Nat} {acc : Option (List Nat)} (h : Kept z s) : Kept z (reduceStep s j k acc) := by
  unfold reduceStep
  dsimp only
  split
  · exact h
  · split
    · exact keeps_failCol h
    split
    · exact keeps_finishChunk (keeps_noteCol h)
    · exact keeps_settleCollectives (keeps_sendChunk (keeps_with (keeps_noteCol h)))
  · exact keeps_failRead (keeps_fields h)

theorem keeps_beginReduce {j : ColJob} (h : Kept z s) : Kept z (beginReduce s j) := by
  unfold beginReduce
  dsimp only
  refine kept_foldl (fun t1 q1 ht1 => ?_) _ _ h
  split
  · split
    · exact keeps_reduceStep ht1
    · exact ht1
  · exact ht1

theorem keeps_beginBlocks {j : ColJob} {list : List Byte} (h : Kept z s) : Kept z (beginBlocks s j list) :=
  kept_foldl (fun _ _ ht1 => keeps_ite (keeps_fields ht1) (keeps_sendChunk ht1)) _ _ h

theorem keeps_sendMove {dsts : List Nat} {owner ring tensor step a : Nat} {bs : List Byte} {last : Bool} (h : Kept z s) :
    Kept z (sendMove s dsts owner ring tensor step a bs last) :=
  kept_foldl (fun _ _ ht => kept_foldl (fun _ _ ht1 => keeps_launch ht1) _ _ (keeps_fields ht)) _ _ h

theorem keeps_beginMoves {j : ColJob} {list : List Byte} (h : Kept z s) : Kept z (beginMoves s j list) := keeps_sendBlock h

theorem keeps_beginCol {j : ColJob} {src : List Byte} (h : Kept z s) : Kept z (beginCol s j src) := by
  unfold beginCol
  dsimp only
  split
  · exact keeps_beginReduce h
  · exact keeps_beginReduce h
  · exact keeps_beginBlocks h
  · exact keeps_ite h (keeps_ite (keeps_sendChunk (keeps_sendChunk h)) (keeps_sendChunk h))
  · exact keeps_beginMoves h
  split
  · split
    · exact keeps_failColWrite h
    rename_i e6
    exact keeps_ite (keeps_forwardChunk (keeps_putChunk h _ e6)) (keeps_putChunk h _ e6)
  · exact h

theorem keeps_takeChunk {j : ColJob} {k : Nat} {bs : List Byte} (h : Kept z s) : Kept z (takeChunk s j k bs) := by
  unfold takeChunk
  dsimp only
  split
  · exact keeps_failColWrite h
  rename_i e
  exact keeps_settleCollectives (keeps_forwardChunk (keeps_putChunk (keeps_fields h) _ e))

theorem keeps_placeBlocks {j : ColJob} (h : Kept z s) : Kept z (placeBlocks s j) := by
  unfold placeBlocks
  dsimp only
  split
  · exact keeps_failCol h
  split
  · exact keeps_failColWrite h
  rename_i e1
  exact keeps_settleCollectives (keeps_colWrite h _ e1)

theorem keeps_takeBlock {j : ColJob} {source : Nat} {bs : List Byte} (h : Kept z s) : Kept z (takeBlock s j source bs) :=
  keeps_ite (keeps_placeBlocks (keeps_fields h)) (keeps_fields h)

theorem keeps_takePass {j : ColJob} {source : Nat} {bs : List Byte} (h : Kept z s) : Kept z (takePass s j source bs) := by
  unfold takePass
  dsimp only
  split
  · exact keeps_failColWrite h
  rename_i e
  exact keeps_settleCollectives (keeps_fields (keptOk_bind (fun _ ht1 => keeps_colWrite ht1) (keeps_colWrite h) _ e))

theorem keeps_takeWhole {j : ColJob} {kind k : Nat} (h : Kept z s) : Kept z (takeWhole s j kind k) := by
  unfold takeWhole
  dsimp only
  split
  · exact h
  split
  · exact h
  split
  · exact keeps_reduceStep h
  · exact keeps_takeChunk h
  · exact keeps_takeBlock h
  · exact keeps_takePass h
  · exact h

theorem keeps_takePiece {h0 : MsgHdr} {kind : Nat} {body : Body} (h : Kept z s) : Kept z (takePiece s h0 kind body) := by
  unfold takePiece
  dsimp only
  split
  · exact keeps_fields h
  split
  · exact keeps_fields h
  · exact keeps_takeWhole (keeps_fields h)

theorem keeps_takeEarly {m : Msg} (h : Kept z s) : Kept z (takeEarly s m) := by
  unfold takeEarly
  dsimp only
  split
  · exact keeps_takePiece h
  · exact keeps_takePiece h
  · exact keeps_takePiece h
  · exact keeps_takePiece h
  · exact keeps_ite (keeps_takePiece h) (keeps_fields h)
  · exact keeps_fields h

theorem keeps_takeAllEarly (h : Kept z s) : Kept z (takeAllEarly s) :=
  kept_foldl (fun _ _ ht => keeps_takeEarly ht) _ _ (keeps_fields h)

theorem keeps_retryPieces {c : HostCmd} (h : Kept z s) : Kept z (retryPieces s c) := by
  unfold retryPieces
  split
  · exact h
  refine kept_foldl (fun t1 e1 ht1 => ?_) _ _ h
  split
  · exact keeps_takeWhole ht1
  · exact ht1

theorem keeps_reserveCol {j : ColJob} {src : List Byte} (h : Kept z s) : Kept z (reserveCol s j src) :=
  kept_foldl (fun _ _ ht1 => keeps_reserveBlock ht1) _ _ h

theorem keeps_startCol {c : HostCmd} {d : ColDesc} {ring : List Nat} (h : Kept z s) : Kept z (startCol s c d ring) := by
  unfold startCol
  dsimp only
  split
  · exact h
  split
  · exact h
  · split
    · exact keeps_settleCollectives (keeps_takeAllEarly (keeps_beginCol (keeps_reserveCol (keeps_fields h))))
    split
    · exact keeps_refuse h
    split
    · exact h
    · exact keeps_failRead h
    · exact keeps_settleCollectives (keeps_takeAllEarly (keeps_beginCol (keeps_reserveCol (keeps_fields h))))
  · exact keeps_failRead h

theorem keeps_execColRun {c : HostCmd} {data : List Byte} (h : Kept z s) : KeptNext z (execColRun c data s) := by
  unfold execColRun
  dsimp only
  refine keeps_runCmd (fun t ht => ?_) h
  split
  · exact keeps_settleCollectives (keeps_takeAllEarly (keeps_retryPieces ht))
  split
  · exact keeps_refuse ht
  split
  · exact keeps_failUE ht
  split
  · exact keeps_refuse ht
  split
  · exact keeps_finish ht
  split
  · exact keeps_finish ht
  split
  · exact keeps_refuse ht
  · exact keeps_ite (keeps_finish ht) (keeps_ite (keeps_finish ht) (keeps_startCol ht))

theorem keeps_execReductionPartial {h0 : MsgHdr} {elems : List Nat} (h : Kept z s) :
    KeptNext z (execReductionPartial h0 elems s) := by
  unfold execReductionPartial
  refine keptNext_next (keeps_receive (fun t ht => ?_) h)
  split
  · exact keeps_takePiece ht
  split
  · exact keeps_fields ht
  split
  · exact keeps_takeColumns ht
  · exact keeps_fields ht

theorem keeps_execGatherChunk {h0 : MsgHdr} {bytes : List Byte} (h : Kept z s) : KeptNext z (execGatherChunk h0 bytes s) :=
  keptNext_next (keeps_receive (fun _ ht => keeps_takePiece ht) h)

theorem keeps_execAllToAllBlock {h0 : MsgHdr} {bytes : List Byte} (h : Kept z s) : KeptNext z (execAllToAllBlock h0 bytes s) :=
  keptNext_next (keeps_receive (fun _ ht => keeps_takePiece ht) h)

theorem keeps_installReshard {c : ClassCmd} (h : Kept z s) : KeptOk z (installReshard c s) := by
  unfold installReshard
  dsimp only
  split
  · exact keptOk_error
  split
  · exact keptOk_error
  split
  · exact keptOk_error
  split
  · exact keptOk_error
  split
  · exact keptOk_error
  split
  · exact keptOk_error
  · exact keptOk_ok (keeps_fields h)

theorem keeps_execReshard {c : HostCmd} {plan : List Byte} (h : Kept z s) : KeptNext z (execReshard c plan s) := by
  unfold execReshard
  dsimp only
  refine keeps_runCmd (fun t ht => ?_) h
  split
  · exact keeps_refuse ht
  split
  · exact keeps_failUE ht
  · exact keeps_startClass (fun _ _ ht1 => keeps_installReshard ht1) ht

theorem keeps_execReshardDrain (h : Kept z s) : KeptNext z (execReshardDrain s) := by
  unfold execReshardDrain
  refine keptNext_next ?_
  split
  · exact h
  · exact keeps_ite h (keeps_passPart (keeps_fields h))

theorem keeps_rewriteEpoch {a epoch : Nat} (h : Kept z s) : Kept z (rewriteEpoch s a epoch) := keeps_with (keeps_devWrite h)

theorem keeps_rewriteShard {d : ShardDesc} {epoch : Nat} (h : Kept z s) : Kept z (rewriteShard s d epoch) :=
  kept_foldl (fun _ _ ht1 => keeps_ite (keeps_rewriteEpoch ht1) (keeps_rewriteEpoch (keeps_rewriteEpoch ht1))) _ _ h

theorem keeps_sendRange {dsts : List Nat} {owner tensor step src dst n : Nat} (h : Kept z s) :
    Kept z (sendRange s dsts owner tensor step src dst n) := by
  unfold sendRange
  split
  · exact keeps_noteUE h
  · exact keeps_sendMove h

theorem keeps_moveSlot {r : Reshard} {old new : TableDesc} {v : Nat} (h : Kept z s) : Kept z (moveSlot s r old new v) :=
  kept_foldl (fun _ _ ht1 => keeps_ite ht1 (kept_foldl (fun _ _ ht => keeps_ite ht (keeps_sendRange (keeps_sendRange ht))) _ _
      ht1)) _ _ h

theorem keeps_sendMoves {r : Reshard} (h : Kept z s) : Kept z (sendMoves s r) := by
  unfold sendMoves
  dsimp only
  refine kept_foldl (fun _ _ ht1 => keeps_sendMove ht1) _ _ (kept_foldl (fun _ _ ht1 => keeps_ite ht1 (keeps_sendRange ht1)) _
      _ (kept_foldl (fun t1 bs1 ht1 => ?_) _ _ h))
  split
  · exact ht1
  · exact keeps_ite (keeps_moveSlot ht1) (keeps_moveSlot (keeps_moveSlot ht1))

theorem keeps_execReshardPermute (h : Kept z s) : KeptNext z (execReshardPermute s) := by
  unfold execReshardPermute
  dsimp only
  refine keptNext_next ?_
  split
  · exact h
  split
  · exact h
  · exact keeps_sendMoves (keeps_with (keeps_with (keeps_with (kept_foldl (fun _ _ ht1 => keeps_rewriteShard ht1) _ _ h))))

theorem keeps_settlePermute (h : Kept z s) : Kept z (settlePermute s) := by
  unfold settlePermute
  split
  · exact h
  · exact keeps_ite h (keeps_passPart (keeps_fields h))

theorem keeps_execPermuteMove {h0 : MsgHdr} {addr : Nat} {bytes : List Byte} (h : Kept z s) :
    KeptNext z (execPermuteMove h0 addr bytes s) := by
  unfold execPermuteMove
  dsimp only
  refine keptNext_next (keeps_receive (fun t ht => ?_) h)
  split
  · refine keeps_settlePermute (keeps_with ?_)
    split
    · exact ht
    split
    · rename_i e2
      exact keeps_fields (keeps_tryWrite ht _ e2)
    · exact keeps_noteUE ht
  split
  · exact ht
  split
  · rename_i e2
    exact keeps_fields (keeps_tryWrite ht _ e2)
  · exact keeps_noteUE ht

theorem keeps_installLayout {r : Reshard} (h : Kept z s) : Kept z (installLayout s r) :=
  kept_foldl (fun _ _ ht1 => keeps_ite ht1 (keeps_track (keeps_fields ht1))) _ _ (kept_foldl (fun _ _ ht1 => keeps_track
      (keeps_fields ht1)) _ _ h)

theorem keeps_execReshardDone (h : Kept z s) : KeptNext z (execReshardDone s) := by
  unfold execReshardDone
  dsimp only
  refine keptNext_next ?_
  split
  · exact h
  · exact keeps_ite h (keeps_advanceTables (keeps_post (keeps_with (keeps_installLayout h))))

/-! ### Program -/

theorem keeps_requestPasses {ps : List Nat} (h : Kept z s) : Kept z (requestPasses s ps) :=
  kept_foldl (fun _ _ ht => keeps_requestPass ht) _ _ h

theorem keeps_startProgram {c : HostCmd} {decl : StepDecl} {ps : List Nat} (h : Kept z s) : Kept z (startProgram s c decl ps) :=
  keeps_requestPasses (keeps_with (kept_foldl (fun _ _ ht1 => keeps_fields ht1) _ _ h))

theorem keeps_issueTransfer {phys kind : Nat} {t : Transfer} (h : Kept z s) : Kept z (issueTransfer s phys kind t) :=
  keeps_ite (keeps_fields h) (keeps_failProgram h)

theorem keeps_execStreamIn {core : Nat} {t : Transfer} (h : Kept z s) : KeptNext z (execStreamIn core t s) :=
  keptNext_next (keeps_onCore (fun _ _ ht1 => keeps_issueTransfer ht1) h)

theorem keeps_execGather {core : Nat} {t : Transfer} (h : Kept z s) : KeptNext z (execGather core t s) :=
  keptNext_next (keeps_onCore (fun _ _ ht1 => keeps_issueTransfer ht1) h)

theorem keeps_execOffload {core : Nat} {t : Transfer} (h : Kept z s) : KeptNext z (execOffload core t s) :=
  keptNext_next (keeps_onCore (fun _ _ ht1 => keeps_issueTransfer ht1) h)

theorem keeps_execFetch {core : Nat} {t : Transfer} (h : Kept z s) : KeptNext z (execFetch core t s) :=
  keptNext_next (keeps_onCore (fun _ _ ht1 => keeps_issueTransfer ht1) h)

theorem keeps_receiveTile {logical phys : Nat} {t : Transfer} {bs : List Byte} {after : State → State}
    (ha : ∀ u, Kept z u → Kept z (after u)) (h : Kept z s) : Kept z (receiveTile s logical phys t bs after) := by
  have hput : ∀ b, Kept z (after (sramWrite s logical t.sramOffset b)) := fun b => ha _ (keeps_fields h)
  have hread := keeps_readItem (addr := t.addr) (n := t.bytes) (step := coreStep s phys) (twinned := t.twinned) (byUpdate := false)
    (corrupt := true) h
  unfold receiveTile
  dsimp only
  split
  · exact hput bs
  split
  · exact hput bs
  · split
    · exact keeps_failProgram h
    split
    · exact hput _
    · exact hread.wait ‹_›
    · exact keeps_failProgram (hread.fail ‹_›)
  · exact keeps_failProgram h
  · exact keeps_failProgram h

theorem keeps_fetchBytes {phys : Nat} {t : Transfer} {got : State → List Byte → State}
    (hg : ∀ u bs, Kept z u → Kept z (got u bs)) (h : Kept z s) : Kept z (fetchBytes s phys t got) := by
  have hmeet : Kept z (meet s (metIn t.met t.addr t.bytes)) := keeps_meet h
  unfold fetchBytes
  dsimp only
  split
  · exact keeps_failProgram h
  split
  · exact hg _ _ hmeet
  · exact (keeps_readItem hmeet).wait ‹_›
  · exact keeps_failProgram ((keeps_readItem hmeet).fail ‹_›)

theorem keeps_offload {logical phys : Nat} {t : Transfer} (h : Kept z s) : Kept z (offload s logical phys t) := by
  unfold offload
  dsimp only
  split
  · exact keeps_failSram (keeps_meetWords h)
  split
  · exact keeps_with (keeps_with (keeps_with (keeps_meetWords h)))
  split
  · exact keeps_meetWords h
  split
  · exact keeps_failProgram (keeps_noteUE (keeps_meetWords h))
  · exact keeps_with (keeps_with (keeps_devWrite (keeps_meetWords h)))

theorem keeps_execTransferComplete {core ident : Nat} (h : Kept z s) : KeptNext z (execTransferComplete core ident s) := by
  unfold execTransferComplete
  dsimp only
  refine keptNext_next ?_
  split
  · exact h
  split
  · exact h
  split
  · exact h
  split
  · exact keeps_offload h
  split
  · exact keeps_receiveTile (fun _ ht => keeps_fields ht) h
  · exact keeps_fetchBytes (fun _ _ ht => keeps_receiveTile (fun _ ht1 => keeps_fields ht1) ht) h

theorem keeps_execSend {core dst ordinal srcOffset bytes buffer dstOffset : Nat} (h : Kept z s) :
    KeptNext z (execSend core dst ordinal srcOffset bytes buffer dstOffset s) := by
  unfold execSend
  dsimp only
  refine keptNext_next (keeps_onCore (fun t phys1 ht => ?_) h)
  split
  · exact keeps_failProgram ht
  split
  · exact keeps_ite ht (keeps_failProgram ht)
  split
  · exact keeps_fields ht
  split
  · exact keeps_fields ht
  split
  · exact keeps_failSram ht
  · exact keeps_fields ht

theorem keeps_execBoundary {core position restoreAddr : Nat} (h : Kept z s) :
    KeptNext z (execBoundary core position restoreAddr s) := keptNext_next (keeps_onCore (fun _ _ ht => keeps_fields ht) h)

theorem keeps_execCoreFault {physical : Nat} (h : Kept z s) : KeptNext z (execCoreFault physical s) := by
  unfold execCoreFault
  dsimp only
  refine keptNext_next ?_
  split
  · exact h
  · exact h
  · exact h
  split
  · exact keeps_post (keeps_fields h)
  split
  · exact keeps_ite (keeps_raise (keeps_post (keeps_fields h))) (keeps_post (keeps_fields h))
  · exact keeps_post (keeps_fields h)

theorem keeps_endRunsOn {logical : Nat} (h : Kept z s) : Kept z (endRunsOn s logical) :=
  kept_foldl (fun _ _ ht1 => keeps_finish ht1) _ _ (keeps_fields h)

theorem keeps_makeAbsent {logical failed : Nat} (h : Kept z s) : Kept z (makeAbsent s logical failed) := by
  unfold makeAbsent
  dsimp only
  split
  · exact keeps_with (keeps_post (keeps_with (keeps_endRunsOn h)))
  split
  · exact keeps_finish (keeps_endProgram (keeps_with (keeps_with (keeps_post (keeps_with (keeps_endRunsOn h))))))
  · exact keeps_with (keeps_with (keeps_post (keeps_with (keeps_endRunsOn h))))

theorem keeps_restoreEntry {logical phys : Nat} {t : Transfer} (h : Kept z s) : Kept z (restoreEntry logical phys s t) := by
  unfold restoreEntry
  dsimp only
  split
  · exact h
  split
  · exact keeps_receiveTile (fun _ ht1 => ht1) h
  · exact keeps_fetchBytes (fun _ _ ht1 => keeps_receiveTile (fun _ ht2 => ht2) ht1) h

theorem keeps_restoreWaits {phys : Nat} {t : Transfer} (h : Kept z s) : KeptSome z (restoreWaits s phys t) := by
  unfold restoreWaits
  split
  · exact keptSome_none
  split
  · rename_i e1
    exact keptSome_some ((keeps_readItem h).wait e1)
  · exact keptSome_none

theorem keeps_seatSubstitute {logical failed sub : Nat} (h : Kept z s) : Kept z (seatSubstitute s logical failed sub) := by
  unfold seatSubstitute
  dsimp only
  split
  · rename_i t e
    obtain ⟨x, -, hx⟩ := List.exists_of_findSome?_eq_some e
    exact keeps_restoreWaits h t hx
  · exact keeps_requestPasses (kept_foldl (fun t x ht => keeps_restoreEntry ht) _ _ (keeps_fields h))

theorem keeps_execSubstituteSeat {logical : Nat} (h : Kept z s) : KeptNext z (execSubstituteSeat logical s) := by
  unfold execSubstituteSeat
  refine keptNext_next ?_
  split
  · exact h
  split
  · exact h
  split
  · exact keeps_makeAbsent h
  · exact keeps_seatSubstitute h

theorem keeps_execCoreSubstituted {logical : Nat} (h : Kept z s) : KeptNext z (execCoreSubstituted logical s) := by
  unfold execCoreSubstituted
  refine keptNext_next ?_
  split
  · exact keeps_with (keeps_post (keeps_fields h))
  · exact h

/-! ### Attend -/

theorem keeps_noteAtt {tensor core pairs : Nat} {a : AttCount} (h : Kept z s) : Kept z (noteAtt s tensor core pairs a) := by
  unfold noteAtt
  dsimp only
  refine keeps_with (keeps_with (keeps_with (keeps_noteGradeWith ?_)))
  split
  · exact keeps_fields h
  refine keeps_with (keeps_with (keeps_with (keeps_with (keeps_with (keeps_with ?_)))))
  split <;> exact keeps_fields h

theorem keeps_forwardSource {j : AttJob} {src : Nat} {items : List (List Byte)} (h : Kept z s) :
    Kept z (forwardSource s j src items).1 := by
  unfold forwardSource
  dsimp only
  refine kept_foldl_fst (fun q1 q2 hq1 => ?_) _ _ h
  split
  · exact hq1
  · exact keeps_with (keeps_noteAtt hq1)

theorem keeps_saveGradients {j : AttJob} (h : Kept z s) : Kept z (saveGradients s j) := by
  unfold saveGradients
  refine kept_foldl (fun t1 q1 ht1 => ?_) _ _ h
  split
  · exact ht1
  · exact keeps_fields ht1

theorem keeps_noteDots {j : AttJob} (h : Kept z s) : Kept z (noteDots s j) :=
  kept_foldl (fun _ _ ht1 => keeps_noteAtt ht1) _ _ h

theorem keeps_backwardSource {j : AttJob} {src : Nat} {items : List (List Byte)} (h : Kept z s) :
    Kept z (backwardSource s j src items).1 := by
  unfold backwardSource
  dsimp only
  refine keeps_saveGradients (kept_foldl_fst (fun q1 q2 hq1 => kept_foldl_fst (fun q core1 hq => ?_) _ _ hq1) _ _ (keeps_ite
      (keeps_noteDots h) h))
  split
  · exact hq
  · exact keeps_noteAtt hq

theorem keeps_attWrite {d : AttDesc} {bit a : Nat} {bs : List Byte} (h : Kept z s) : KeptOk z (attWrite s d bit a bs) := by
  unfold attWrite
  split
  · exact keptOk_ok (keeps_fields h)
  · exact keeps_tryWrite h

theorem keeps_outTiles {j : AttJob} {kind n : Nat} {row : Nat → Nat → List Nat} (h : Kept z s) :
    Kept z (outTiles s j kind n row).1 := kept_foldl_fst (fun _ _ hq => keeps_noteAtt hq) _ _ h

theorem keeps_failAtt {j : AttJob} {st d0 d1 : Nat} (h : Kept z s) : Kept z (failAtt s j st d0 d1) :=
  keeps_finish (keeps_with (keeps_ite (kept_foldl (fun _ _ ht1 => keeps_fields ht1) _ _ h) h))

theorem keeps_abortAtt {j : AttJob} {a : Nat} (h : Kept z s) : Kept z (abortAtt s j a) := by
  unfold abortAtt
  exact keeps_failAtt (keeps_noteUE (kept_foldl (fun _ _ ht1 => keeps_sendHdr ht1) _ _ h))

theorem keeps_noteFinish {j : AttJob} (h : Kept z s) : Kept z (noteFinish s j) :=
  kept_foldl (fun _ _ ht1 => keeps_noteAtt ht1) _ _ h

theorem keeps_finishForward {j : AttJob} (h : Kept z s) : Kept z (finishForward s j) := by
  unfold finishForward
  dsimp only
  split
  · exact keeps_abortAtt (keeps_outTiles (keeps_noteFinish h))
  rename_i e
  split
  · exact keeps_abortAtt (keeps_attWrite (keeps_outTiles (keeps_noteFinish h)) _ e)
  rename_i e1
  exact keeps_done (keeps_fields (keeps_attWrite (keeps_attWrite (keeps_outTiles (keeps_noteFinish h)) _ e) _ e1))

theorem keeps_finishBackward {j : AttJob} {returned : Bool → Option (List (List Byte))} (h : Kept z s) :
    Kept z (finishBackward s j returned) := by
  unfold finishBackward
  dsimp only
  split
  · exact keeps_abortAtt (keeps_outTiles (keeps_outTiles (keeps_outTiles (keeps_noteAtt h))))
  rename_i e
  split
  · exact keeps_abortAtt (keeps_attWrite (keeps_outTiles (keeps_outTiles (keeps_outTiles (keeps_noteAtt h)))) _ e)
  rename_i e1
  split
  · exact keeps_abortAtt (keeps_attWrite (keeps_attWrite (keeps_outTiles (keeps_outTiles (keeps_outTiles (keeps_noteAtt h))))
      _ e) _ e1)
  rename_i e2
  exact keeps_done (keeps_fields (keeps_attWrite (keeps_attWrite (keeps_attWrite (keeps_outTiles (keeps_outTiles
      (keeps_outTiles (keeps_noteAtt h)))) _ e) _ e1) _ e2))

/-! ### Ring -/

theorem keeps_passParcel {ring : List Nat} {me : Nat} {pid : ParcelId} {up : Bool} {items : List (List Byte)} (h : Kept z s) :
    Kept z (passParcel s ring me pid up items) := by
  unfold passParcel
  exact keeps_sendHdr h

theorem keeps_sendParcel {j : AttJob} {pid : ParcelId} {up : Bool} {items : List (List Byte)} (h : Kept z s) :
    Kept z (sendParcel s j pid up items) := keeps_passParcel h

theorem keeps_forwardParcel {j : AttJob} {src : Nat} {cw : Bool} {items : List (List Byte)} (h : Kept z s) :
    Kept z (forwardParcel s j src cw items) := keeps_ite (keeps_sendParcel h) (keeps_ite (keeps_sendParcel h) h)

theorem keeps_storeParcel {j : AttJob} {pid : ParcelId} {items : List (List Byte)} (h : Kept z s) :
    KeptOk z (storeParcel s j pid items) :=
  keptOk_foldl (fun _ _ hr => keptOk_bind (fun _ ht => keeps_tryWrite ht) hr) _ _ (keptOk_ok h)

theorem keeps_countNarrow {j : AttJob} {src : Nat} (h : Kept z s) : Kept z (countNarrow s j src) :=
  keeps_noteGrade (keeps_fields h)

theorem keeps_waitParcel {d : AttDesc} (h : Kept z s) : Kept z (waitParcel s d) :=
  kept_foldl (fun _ _ ht1 => keeps_fields ht1) _ _ h

theorem keeps_workItems {j : AttJob} {src : Nat} {cw : Bool} {items : List (List Byte)} (h : Kept z s) :
    Kept z (workItems s j src cw items) := by
  unfold workItems
  dsimp only
  split
  · split
    · exact keeps_with (keeps_backwardSource (keeps_countNarrow h))
    · exact keeps_forwardParcel (keeps_noteAtt (keeps_with (keeps_backwardSource (keeps_countNarrow h))))
  · exact keeps_with (keeps_forwardSource (keeps_countNarrow h))

theorem keeps_workSource {j : AttJob} (h : Kept z s) : Kept z (workSource s j) := by
  unfold workSource
  dsimp only
  split
  · exact h
  split
  · exact keeps_workItems h
  split
  · exact h
  split
  · exact keeps_abortAtt h
  · exact keeps_ite (keeps_workItems h) (keeps_waitParcel h)

theorem keeps_endRun {j : AttJob} (h : Kept z s) : Kept z (endRun s j) :=
  keeps_ite h (keeps_ite (keeps_finishForward h) (keeps_ite h (keeps_ite (keeps_finishBackward h) h)))

theorem keeps_advanceAtt {k : Nat} {c : HostCmd} (h : Kept z s) : Kept z (advanceAtt k s c) := by
  induction k generalizing s with
  | zero => exact h
  | succ k ih =>
    unfold advanceAtt
    split
    · exact h
    rename_i j _
    have hread : KeptRead z (if j.desc.backward then scaleRead s j.desc.tensor c.slot.step else .ok []) := by
      split
      · exact keeps_scaleRead h
      · trivial
    split
    · exact keeps_failAtt h
    · exact hread.wait ‹_›
    · exact keeps_failAtt (hread.fail ‹_›)
    · refine keeps_ite h (keeps_ite (keeps_endRun h) ?_)
      dsimp only
      split
      · exact keeps_workSource h
      · exact keeps_ite (keeps_workSource h) (ih (keeps_workSource h))

theorem keeps_forwardHeld {j : AttJob} (h : Kept z s) : Kept z (forwardHeld s j) :=
  keeps_ite h (kept_foldl (fun _ _ ht1 => keeps_ite (keeps_forwardParcel ht1) ht1) _ _ h)

theorem keeps_tryOpen {j : AttJob} (h : Kept z s) : Kept z (tryOpen s j) := by
  unfold tryOpen
  dsimp only
  split
  · exact h
  split
  · exact keeps_failAtt h
  · exact keeps_failAtt h
  refine keeps_advanceAtt (keeps_forwardHeld ?_)
  split
  · exact keeps_sendParcel (keeps_ite (keeps_sendParcel (keeps_fields h)) (keeps_fields h))
  · exact keeps_ite (keeps_sendParcel (keeps_fields h)) (keeps_fields h)

theorem keeps_takeOpen {h0 : MsgHdr} {f : OpenFormats} (h : Kept z s) : Kept z (takeOpen s h0 f) := by
  unfold takeOpen
  dsimp only
  split
  · exact keeps_fields h
  · exact keeps_ite (keeps_ite h (keeps_sendHdr h)) (keeps_ite h (keeps_tryOpen (keeps_fields h)))

theorem keeps_relayReturn {h0 : MsgHdr} {pid : ParcelId} {items : List (List Byte)} (h : Kept z s) :
    Kept z (relayReturn s h0 pid items) := by
  unfold relayReturn
  dsimp only
  split
  · exact h
  · exact keeps_ite h (keeps_passParcel h)

theorem keeps_earlyParcel {h0 : MsgHdr} {pid : ParcelId} {items : List (List Byte)} (h : Kept z s) :
    Kept z (earlyParcel s h0 pid items) := keeps_ite (keeps_relayReturn h) (keeps_ite (keeps_fields h) (keeps_fields h))

theorem keeps_takeParcel {h0 : MsgHdr} {pid : ParcelId} {items : List (List Byte)} (h : Kept z s) :
    Kept z (takeParcel s h0 pid items) := by
  unfold takeParcel
  dsimp only
  split
  · exact keeps_earlyParcel h
  split
  · exact keeps_failAtt h
  split
  · exact keeps_sendParcel h
  split
  · exact keeps_fields h
  split
  · exact keeps_fields h
  split
  · exact keeps_abortAtt h
  rename_i e5
  exact keeps_advanceAtt (keeps_ite (keeps_storeParcel h _ e5) (keeps_forwardParcel (keeps_storeParcel h _ e5)))

theorem keeps_refuseParcel {h0 : MsgHdr} (h : Kept z s) : Kept z (refuseParcel s h0) := by
  unfold refuseParcel
  split
  · exact h
  split
  · exact h
  · exact keeps_failAtt h

theorem keeps_takeEarlyRing {j : AttJob} (h : Kept z s) : Kept z (takeEarlyRing s j) := by
  unfold takeEarlyRing
  dsimp only
  refine kept_foldl (fun t1 m1 ht1 => ?_) _ _ (keeps_fields h)
  split
  · exact keeps_takeOpen ht1
  · exact keeps_takeParcel ht1
  · exact ht1

theorem keeps_startAtt {c : HostCmd} {d : AttDesc} {ring : List Nat} {arrays : List (List Byte)} (h : Kept z s) :
    Kept z (startAtt s c d ring arrays) := by
  unfold startAtt
  dsimp only
  split
  · exact keeps_takeEarlyRing (kept_foldl (fun _ _ ht1 => keeps_sendHdr ht1) _ _ (kept_foldl (fun _ _ ht1 => keeps_fields ht1)
      _ _ (keeps_fields h)))
  · exact keeps_tryOpen (keeps_takeEarlyRing (kept_foldl (fun _ _ ht1 => keeps_sendHdr ht1) _ _ (kept_foldl (fun _ _ ht1 =>
      keeps_fields ht1) _ _ (keeps_fields h))))

theorem keeps_resumeAtt {c : HostCmd} (h : Kept z s) : Kept z (resumeAtt s c) := by
  unfold resumeAtt
  split
  · exact h
  · exact keeps_advanceAtt (keeps_takeEarlyRing h)

theorem keeps_admitAtt {c : HostCmd} {d : AttDesc} {data : List Byte} (h : Kept z s) : Kept z (admitAtt s c d data) := by
  unfold admitAtt
  dsimp only
  split
  · exact keeps_finish h
  split
  · exact keeps_finish h
  split
  · exact keeps_finish h
  split
  · exact h
  · exact keeps_abortAtt h
  · exact keeps_finish h
  · exact keeps_startAtt h

theorem keeps_execAttRun {c : HostCmd} {data : List Byte} (h : Kept z s) : KeptNext z (execAttRun c data s) := by
  unfold execAttRun
  dsimp only
  refine keeps_runCmd (fun t ht => ?_) h
  split
  · exact keeps_resumeAtt ht
  split
  · exact keeps_refuse ht
  split
  · exact ht
  split
  · exact keeps_failUE ht
  · exact keeps_refuse ht
  · exact keeps_failUE ht
  · exact keeps_admitAtt ht

theorem keeps_execRingOpen {h0 : MsgHdr} {f : OpenFormats} (h : Kept z s) : KeptNext z (execRingOpen h0 f s) :=
  keptNext_next (keeps_receive (fun _ ht => keeps_takeOpen ht) h)

theorem keeps_execAbortNotice {h0 : MsgHdr} {cls addr : Nat} (h : Kept z s) : KeptNext z (execAbortNotice h0 cls addr s) := by
  unfold execAbortNotice
  refine keptNext_next (keeps_receive (fun t ht => ?_) h)
  split
  · exact ht
  · exact keeps_failAtt ht

end Sys2Proof.Proofs
end

section
/-! What every command leaves alone (O5, O6): pages and decodes. -/

namespace Sys2Proof.Proofs

open Sys2Proof Sys2Proof.Machine Sys2Proof.Laws

set_option Elab.async false

variable {z s : State}

/-! ### KV -/

theorem keeps_holdPages {pool n : Nat} {q : State × List Nat} (h : Kept z s) (e : holdPages s pool n = some q) : Kept z q.1 := by
  have hs : Kept z ((poolFree s pool n).foldl (fun t p => setEntry t p ⟨0, .held, pool, 0, 0, 0, 0⟩) s) :=
    kept_foldl (fun t p ht => keeps_fields ht) _ _ h
  unfold holdPages at e
  dsimp only at e
  split at e
  · exact absurd e (Option.some_ne_none _).symm
  · obtain rfl := Option.some.inj e
    refine keeps_with (keeps_with ?_)
    split
    · exact keeps_fields hs
    · exact keeps_fields hs

theorem keeps_settlePage {n : Nat} (h : Kept z s) : Kept z (settlePage s n) := keeps_ite (keeps_fields h) h

theorem keeps_lowerRef {n : Nat} (h : Kept z s) : Kept z (lowerRef s n) := keeps_settlePage (keeps_fields h)

theorem keeps_dropRef {n : Nat} (h : Kept z s) : Kept z (dropRef s n) := keeps_with (keeps_with (keeps_with (keeps_lowerRef h)))

theorem keeps_unpinPage {n : Nat} (h : Kept z s) : Kept z (unpinPage s n) := keeps_settlePage (keeps_fields h)

theorem keeps_execKvPoolDefine {c : HostCmd} (h : Kept z s) : KeptNext z (execKvPoolDefine c s) := by
  unfold execKvPoolDefine
  dsimp only
  refine keeps_runCmd (fun t ht => ?_) h
  split
  · exact keeps_refuse ht
  · exact keeps_done (keeps_fields ht)

theorem keeps_setListEntry {q : SeqRec} {l j n : Nat} (h : Kept z s) : Kept z (setListEntry s q l j n) := keeps_devWrite h

theorem keeps_setCubby {q : SeqRec} {l : Nat} {k : Cubby} (h : Kept z s) : Kept z (setCubby s q l k) := keeps_devWrite h

theorem keeps_clearSeq {q : SeqRec} (h : Kept z s) : Kept z (clearSeq s q) :=
  kept_foldl (fun _ _ ht1 => keeps_setCubby ht1) _ _ (keeps_devWrite h)

theorem keeps_gated {c : HostCmd} {rs : List (Nat × Nat)} {k : State → State} (hk : ∀ t, Kept z t → Kept z (k t)) (h : Kept z s) :
    Kept z (gated s c rs k) := by
  unfold gated
  split
  · exact h
  split
  · exact keeps_failUE h
  · exact hk s h

theorem keeps_withSeq {c : HostCmd} {data : List Byte} {k : State → SeqRec → State} (hk : ∀ t q, Kept z t → Kept z (k t q))
    (h : Kept z s) : Kept z (withSeq s c data k) := keeps_ite (keeps_refuse h) (keeps_gated (fun t ht => hk t _ ht) h)

theorem keeps_execKvSeqOpen {c : HostCmd} {data : List Byte} (h : Kept z s) : KeptNext z (execKvSeqOpen c data s) := by
  unfold execKvSeqOpen
  refine keeps_runCmd (fun t ht => keeps_withSeq (fun t1 q1 ht1 => ?_) ht) h
  split
  · exact keeps_refuse ht1
  · exact keeps_gated (fun _ ht2 => keeps_ite (keeps_refuse ht2) (keeps_done (keeps_clearSeq (keeps_fields ht2)))) ht1

theorem keeps_poolGate {c : HostCmd} {pools : List Nat} {k : State → State} (hk : ∀ t, Kept z t → Kept z (k t)) (h : Kept z s) :
    Kept z (poolGate s c pools k) := by
  unfold poolGate
  split
  · exact keeps_failUE h
  · exact hk s h

theorem keeps_execKvRelease {c : HostCmd} {data : List Byte} (h : Kept z s) : KeptNext z (execKvRelease c data s) := by
  unfold execKvRelease
  dsimp only
  refine keeps_runCmd (fun t ht => keeps_withSeq (fun t1 q1 ht1 => ?_) ht) h
  split
  · exact keeps_refuse ht1
  · exact keeps_gated (fun _ ht2 => keeps_done (keeps_clearSeq (kept_foldl (fun _ _ ht3 => keeps_dropRef ht3) _ _ ht2))) ht1

theorem keeps_flush {c : Ctl} {q : SeqRec} {l : Nat} {k : Cubby} {held : List Nat} (h : Kept z s) :
    Kept z (flush s c q l k held).1 := by
  unfold flush
  dsimp only
  refine keeps_with (keeps_setCubby ?_)
  split
  · exact keeps_with (keeps_with (keeps_devWrite h))
  · exact keeps_with (keeps_with (keeps_with (keeps_setListEntry (keeps_ite (keeps_with (keeps_lowerRef (keeps_with
      (keeps_devWrite h)))) (keeps_with (keeps_devWrite h))))))

theorem keeps_failPool {c : HostCmd} {pool short : Nat} (h : Kept z s) : Kept z (failPool s c pool short) :=
  keeps_finish (keeps_post (keeps_fields h))

theorem keeps_copySeq {par child : SeqRec} (h : Kept z s) : Kept z (copySeq s par child) :=
  kept_foldl (fun _ _ ht1 => keeps_devWrite (keeps_devWrite ht1)) _ _ h

theorem keeps_shareRefs {par : SeqRec} {children : List SeqRec} (h : Kept z s) : Kept z (shareRefs s par children) :=
  kept_foldl (fun _ _ ht1 => kept_foldl (fun _ _ ht => keeps_ite ht (keeps_fields ht)) _ _ ht1) _ _ h

theorem keeps_execKvShare {c : HostCmd} {data : List Byte} (h : Kept z s) : KeptNext z (execKvShare c data s) := by
  unfold execKvShare
  refine keeps_runCmd (fun _ hs => keeps_withSeq (fun _ par hs => keeps_ite (keeps_refuse hs) (keeps_ite (keeps_refuse hs) ?_)) hs) h
  split
  · exact keeps_refuse hs
  refine keeps_gated (fun _ hs => keeps_ite (keeps_refuse hs) (keeps_gated (fun _ hs => ?_) hs)) hs
  dsimp only
  split
  · exact keeps_refuse hs
  refine keeps_gated (fun _ hs => keeps_poolGate (fun _ hs => keeps_gated (fun _ hs => ?_) hs) hs) hs
  split
  · exact keeps_refuse hs
  · exact keeps_failUE hs
  split
  · exact keeps_failPool hs
  have hheld := keeps_holdPages hs ‹_›
  refine keeps_ite hs (keeps_done (kept_foldl (fun _ _ ht => keeps_copySeq ht) _ _ (keeps_shareRefs (keeps_with
    (kept_foldl (fun _ _ ht => keeps_fields ht) _ _ (kept_foldl_fst (fun _ _ hq => keeps_flush hq) _ _ hheld))))))

theorem keeps_runAppend {c : Ctl} {d : DecDesc} {q : State × List (Nat × List Nat)} {x : DecAppend} (h : Kept z q.1) :
    Kept z (runAppend c d q x).1 := by
  unfold runAppend
  dsimp only
  split
  · exact keeps_fields h
  split
  · exact keeps_fields h
  split
  · exact keeps_setCubby (keeps_fields h)
  refine keeps_setCubby (kept_foldl (fun t i ht => keeps_devWrite (keeps_devWrite ht)) _ _ ?_)
  split
  · exact keeps_flush (keeps_fields h)
  · exact keeps_fields h

theorem keeps_noteSplits {c : Ctl} {d : DecDesc} {rows : List DecRow} (h : Kept z s) : Kept z (noteSplits s c d rows) :=
  kept_foldl (fun _ _ ht1 => keeps_noteAtt (kept_foldl (fun _ _ ht => keeps_noteAtt (keeps_fields ht)) _ _ ht1)) _ _ h

theorem keeps_dropDecode {j : DecodeJob} (h : Kept z s) : Kept z (dropDecode s j) :=
  kept_foldl (fun _ _ ht => keeps_fields ht) _ _ (kept_foldl (fun _ _ ht => keeps_unpinPage ht) _ _ (keeps_fields h))

theorem keeps_outputLine {c : Ctl} {d : DecDesc} {hd : Nat} {x : Option RowState} (h : Kept z s) :
    Kept z (outputLine s c d hd x).1 := by
  unfold outputLine
  dsimp only
  split
  · exact keeps_fields h
  · exact h

theorem keeps_finishDecode {j : DecodeJob} (h : Kept z s) : Kept z (finishDecode s j) := by
  unfold finishDecode
  dsimp only
  split
  · exact h
  split
  · refine keeps_failUE (keeps_dropDecode (kept_foldl_fst (fun q1 q2 hq1 => ?_) _ _ h))
    split
    · exact hq1
    split
    · exact keeps_outputLine hq1
    rename_i e3
    exact keeps_noteAtt (keeps_tryWrite (keeps_outputLine hq1) _ e3)
  refine keeps_done (keeps_dropDecode (kept_foldl_fst (fun q1 q2 hq1 => ?_) _ _ h))
  split
  · exact hq1
  split
  · exact keeps_outputLine hq1
  rename_i e3
  exact keeps_noteAtt (keeps_tryWrite (keeps_outputLine hq1) _ e3)

theorem keeps_sendPartials {d : DecDesc} {rows : List DecRow} {j : DecodeJob} (h : Kept z s) :
    Kept z (sendPartials s d rows j) :=
  kept_foldl (fun _ _ ht1 => kept_foldl (fun _ _ ht => keeps_ite ht (keeps_sendHdr ht)) _ _ ht1) _ _ h

theorem keeps_takePartials {h0 : MsgHdr} {pid : ParcelId} {items : List (List Byte)} (h : Kept z s) :
    Kept z (takePartials s h0 pid items) := by
  unfold takePartials
  dsimp only
  split
  · exact keeps_fields h
  · exact keeps_ite (keeps_fields h) (keeps_finishDecode (keeps_fields h))

theorem keeps_attendDecode {c : HostCmd} (h : Kept z s) : Kept z (attendDecode s c) := by
  unfold attendDecode
  dsimp only
  split
  · exact h
  split
  · exact h
  split
  · exact keeps_failUE (keeps_dropDecode h)
  split
  · exact keeps_finish (keeps_dropDecode h)
  split
  · exact keeps_ite h (keeps_fields h)
  split
  · exact keeps_failUE (keeps_dropDecode h)
  split
  · exact h
  split
  · refine kept_foldl (fun t1 m1 ht1 => ?_) _ _ (keeps_with (keeps_with (keeps_with (keeps_noteSplits (keeps_sendPartials
      (keeps_with (kept_foldl (fun _ _ ht => keeps_fields ht) _ _ h)))))))
    split
    · exact keeps_takePartials ht1
    · exact ht1
  refine keeps_finishDecode (kept_foldl (fun t1 m1 ht1 => ?_) _ _ (keeps_with (keeps_with (keeps_with (keeps_noteSplits
      (keeps_sendPartials (keeps_with (kept_foldl (fun _ _ ht => keeps_fields ht) _ _ h))))))))
  split
  · exact keeps_takePartials ht1
  · exact ht1

theorem keeps_holdAll {need : List (Nat × Nat)} {q : State × List (Nat × List Nat)} (h : Kept z s) (e : holdAll s need = .ok q) :
    Kept z q.1 := by
  suffices hall : ∀ (l : List (Nat × Nat)) (r : Except (Nat × Nat) (State × List (Nat × List Nat))), (∀ q, r = .ok q → Kept z q.1) →
      ∀ q, l.foldl (fun a e => match a with
        | .error x => .error x
        | .ok t => match holdPages t.1 e.1 e.2 with
          | none => .error (e.1, e.2 - (poolFree t.1 e.1 e.2).length)
          | some h => .ok (h.1, mput t.2 e.1 h.2)) r = .ok q → Kept z q.1 from
    hall need (.ok (s, [])) (fun _ e => Except.ok.inj e ▸ h) q e
  intro l
  induction l with
  | nil => exact fun r hr => hr
  | cons x l ih =>
    refine fun r hr => ih _ fun q hq => ?_
    dsimp only at hq
    split at hq
    · exact nomatch hq
    · split at hq
      · exact nomatch hq
      · obtain rfl := Except.ok.inj hq
        exact keeps_holdPages (hr _ rfl) ‹_›

theorem keeps_beginDecode {c : HostCmd} {d : DecDesc} (h : Kept z s) : Kept z (beginDecode s c d) := by
  unfold beginDecode
  dsimp only
  split
  · exact keeps_ite (keeps_failUE h) (keeps_finish h)
  · exact keeps_refuse h
  refine keeps_gated (fun t ht => keeps_poolGate (fun u hu => keeps_gated (fun v hv => ?_) hu) ht) h
  split
  · exact keeps_failPool hv
  have hheld := keeps_holdAll hv ‹_›
  refine keeps_ite hv (keeps_attendDecode (keeps_with (kept_foldl (fun _ _ ht => keeps_fields ht) _ _ (keeps_with ?_))))
  exact kept_foldl_fst (fun q x hq => keeps_runAppend hq) _ _ hheld

theorem keeps_execAttDecode {c : HostCmd} (h : Kept z s) : KeptNext z (execAttDecode c s) := by
  unfold execAttDecode
  dsimp only
  refine keeps_runCmd (fun t ht => ?_) h
  split
  · exact keeps_ite (keeps_attendDecode ht) (keeps_finishDecode ht)
  split
  · exact keeps_refuse ht
  refine keeps_gated (fun t1 ht1 => ?_) ht
  split
  · exact keeps_refuse ht1
  · exact keeps_gated (fun _ ht2 => keeps_ite (keeps_refuse ht2) (keeps_gated (fun _ ht3 => keeps_beginDecode ht3) ht2)) ht1

theorem keeps_execParcel {h0 : MsgHdr} {pid : ParcelId} {items : List (List Byte)} (h : Kept z s) :
    KeptNext z (execParcel h0 pid items s) :=
  keptNext_next (keeps_receive (fun _ ht => keeps_ite (keeps_takePartials ht) (keeps_ite (keeps_takePiece ht)
      (keeps_takeParcel ht))) (keeps_refuseParcel h))

theorem keeps_abortDecodes {hit : HostCmd → Bool} (h : Kept z s) : Kept z (abortDecodes s hit) :=
  kept_foldl (fun _ _ ht1 => keeps_with (keeps_dropDecode ht1)) _ _ h

theorem keeps_recoverPages (h : Kept z s) : Kept z (recoverPages s) :=
  kept_foldl (fun _ _ ht1 => keeps_fields ht1) _ _ (keeps_fields h)

end Sys2Proof.Proofs
end

section
/-! What every command leaves alone (O5, O6): members, twins, steps and copies. -/

namespace Sys2Proof.Proofs

open Sys2Proof Sys2Proof.Machine Sys2Proof.Laws

set_option Elab.async false

variable {z s : State}

/-! ### Members -/

theorem keeps_settleAll (h : Kept z s) : Kept z (settleAll s) :=
  keeps_settlePermute (keeps_settleCollectives (keeps_settleBackwards h))

theorem keeps_execAcknowledgement {h0 : MsgHdr} {stream : StreamKey} {dst upTo : Nat} (h : Kept z s) :
    KeptNext z (execAcknowledgement h0 stream dst upTo s) := keptNext_next (keeps_ite h (keeps_settleAll (keeps_takeAck h)))

theorem keeps_failOwner {m : Msg} {held : Nat} (h : Kept z s) : Kept z (failOwner s m held) := by
  unfold failOwner
  dsimp only
  split
  · split
    · exact keeps_finish (keeps_fields h)
    · exact h
  · split
    · exact keeps_finish (keeps_fields h)
    · exact h
  split
  · exact keeps_failCol h
  · exact keeps_failAtt h
  · exact keeps_finish (keeps_dropDecode h)
  · exact h

theorem keeps_execReject {h0 : MsgHdr} {stream : StreamKey} {dst sequence held : Nat} (h : Kept z s) :
    KeptNext z (execReject h0 stream dst sequence held s) := by
  unfold execReject
  dsimp only
  refine keptNext_next ?_
  split
  · exact h
  split
  · exact h
  · exact keeps_settleAll (keeps_failOwner (keeps_issueUnsent (keeps_fields h)))

theorem keeps_endWaiters {hit : List Nat → Bool} {lost step : Nat} (h : Kept z s) : Kept z (endWaiters s hit lost step) :=
  kept_foldl (fun _ _ ht1 => keeps_finish (keeps_dropDecode ht1)) _ _ (kept_foldl (fun _ _ ht1 => keeps_failAtt ht1) _ _
      (kept_foldl (fun _ _ ht1 => keeps_failCol ht1) _ _ h))

theorem keeps_endRouted {lost step : Nat} (h : Kept z s) : Kept z (endRouted s lost step) := by
  unfold endRouted
  refine kept_foldl (fun t1 r1 ht1 => kept_foldl (fun t x ht => ?_) _ _ ht1) _ _ h
  split
  · exact keeps_routedAnswer ht
  · exact ht

theorem keeps_repassParts (h : Kept z s) : Kept z (repassParts s) := by
  unfold repassParts
  split
  · exact h
  · exact kept_foldl (fun _ _ ht1 => keeps_ite ht1 (keeps_send ht1)) _ _ h

theorem keeps_removeMember {lost step : Nat} (h : Kept z s) : Kept z (removeMember s lost step) := by
  unfold removeMember
  dsimp only
  split
  · exact h
  refine keeps_advanceTables (keeps_retryLookups (keeps_settleAll ?_))
  split
  · refine keeps_repassParts (kept_foldl (fun _ _ ht1 => keeps_settle ht1) _ _ (keeps_post ?_))
    split
    · exact keeps_with (keeps_issueUnsent (keeps_with (keeps_endWaiters (keeps_with (keeps_endRouted h)))))
    · exact keeps_issueUnsent (keeps_with (keeps_endWaiters (keeps_with (keeps_endRouted h))))
  refine kept_foldl (fun _ _ ht1 => keeps_settle ht1) _ _ (keeps_post ?_)
  split
  · exact keeps_with (keeps_issueUnsent (keeps_with (keeps_endWaiters (keeps_with (keeps_endRouted h)))))
  · exact keeps_issueUnsent (keeps_with (keeps_endWaiters (keeps_with (keeps_endRouted h))))

theorem keeps_sendRemoval {lost : Nat} (h : Kept z s) : Kept z (sendRemoval s lost) :=
  keeps_removeMember (keeps_with (keeps_sendAll h))

theorem keeps_abandonRepairs (h : Kept z s) : Kept z (abandonRepairs s) := by
  unfold abandonRepairs
  dsimp only
  refine kept_foldl (fun t1 r1 ht1 => ?_) _ _ (keeps_fields h)
  split
  · exact keeps_withdraw (kept_foldl (fun _ _ ht => keeps_post ht) _ _ ht1)
  · exact kept_foldl (fun _ _ ht => keeps_post ht) _ _ ht1

theorem keeps_answerAttach {e : Enrolment} {st d0 d1 : Nat} (h : Kept z s) : Kept z (answerAttach s e st d0 d1) := by
  unfold answerAttach
  split
  · exact h
  · exact keeps_sendAnswer h

theorem keeps_declareLost {cause : Nat} (h : Kept z s) : Kept z (declareLost s cause) := by
  unfold declareLost
  dsimp only
  split
  · refine keeps_kickUpdates ?_
    split
    · exact keeps_sendRemoval (keeps_abandonRepairs (keeps_post (keeps_fields h)))
    · exact keeps_abandonRepairs (keeps_post (keeps_fields h))
  · split
    · split
      · exact keeps_sendRemoval (keeps_answerAttach (keeps_post (keeps_post (keeps_fields h))))
      · exact keeps_answerAttach (keeps_post (keeps_post (keeps_fields h)))
    split
    · exact keeps_sendRemoval (keeps_post (keeps_post (keeps_fields h)))
    · exact keeps_post (keeps_post (keeps_fields h))
  · split
    · exact keeps_sendRemoval (keeps_post (keeps_post (keeps_fields h)))
    · exact keeps_post (keeps_post (keeps_fields h))
  · exact keeps_fields h

theorem keeps_leaveClass {step : Nat} (h : Kept z s) : Kept z (leaveClass s step) :=
  keeps_abandonRepairs (keeps_post (keeps_issueUnsent (keeps_with (keeps_endWaiters (keeps_fields h)))))

theorem keeps_takeRemoval {lost step sender : Nat} (h : Kept z s) : Kept z (takeRemoval s lost step sender) := by
  unfold takeRemoval
  dsimp only
  split
  · exact keeps_ite (keeps_declareLost (keeps_fields h)) (keeps_leaveClass (keeps_fields h))
  split
  · split
    · exact keeps_fields h
    · exact keeps_removeMember (keeps_ite (keeps_fields h) (keeps_post (keeps_fields h)))
  split
  · exact keeps_abandonRepairs (keeps_with (keeps_removeMember (keeps_fields h)))
  · exact keeps_removeMember (keeps_fields h)

theorem keeps_takeReadmission {target step : Nat} (h : Kept z s) : Kept z (takeReadmission s target step) :=
  keeps_post (keeps_fields h)

theorem keeps_execReAdmissionNotice {h0 : MsgHdr} {target step : Nat} (h : Kept z s) :
    KeptNext z (execReAdmissionNotice h0 target step s) := by
  unfold execReAdmissionNotice
  refine keptNext_next (keeps_receive (fun t ht => ?_) h)
  split
  · exact keeps_ite (keeps_fields ht) (keeps_takeReadmission ht)
  · exact keeps_ite (keeps_fields ht) (keeps_kickUpdates (keeps_takeReadmission ht))

theorem keeps_releaseNotices (h : Kept z s) : Kept z (releaseNotices s) := by
  refine kept_foldl (fun t m ht => ?_) _ _ (keeps_fields h)
  split
  · exact keeps_takeRemoval ht
  · exact keeps_takeReadmission ht
  · exact ht

/-! ### Twin -/

theorem keeps_putItem {x : StoredItem} (h : Kept z s) : Kept z (putItem s x) := by
  unfold putItem
  dsimp only
  split
  · exact keeps_fields h
  · exact keeps_with (keeps_ite (keeps_devWrite h) (keeps_devWrite (keeps_devWrite h)))

theorem keeps_keepPartials {seg : Nat} (h : Kept z s) : Kept z (keepPartials s seg) := keeps_ite (keeps_fields h) h

theorem keeps_rotateSegment {seg : Nat} (h : Kept z s) : Kept z (rotateSegment s seg).1 := by
  unfold rotateSegment
  dsimp only
  exact keeps_fields h

theorem keeps_openRepair {seg step : Nat} {mine : Bool} (h : Kept z s) : Kept z (openRepair s seg step mine) :=
  keeps_sendTwin (keeps_fields h)

theorem keeps_proposeStep {r : Repair} (h : Kept z s) : Kept z (proposeStep s r) := keeps_sendTwin (keeps_fields h)

theorem keeps_mendItem {a : Nat} (h : Kept z s) : KeptReady z (mendItem s a) := by
  unfold mendItem
  dsimp only
  split
  · split
    · exact keeps_finishOpen h
    split
    · exact keeps_repairTorn (keeps_finishOpen h)
    · exact keeps_finishOpen h
  · split
    · exact keeps_finishOpen h
    split
    · exact keeps_mendTile (keeps_finishOpen h)
    · exact keeps_finishOpen h
  · exact h

theorem keeps_matchHashes {r : Repair} {theirs : List Nat} (h : Kept z s) : Kept z (matchHashes s r theirs) :=
  keeps_ite (keeps_fields h) (keeps_ite (keeps_proposeStep (keeps_fields h)) (keeps_fields h))

theorem keeps_compareDigests {step : Nat} {ds : List (Nat × Nat)} (h : Kept z s) : Kept z (compareDigests s step ds) := by
  unfold compareDigests
  dsimp only
  split
  · exact keeps_fields h
  refine kept_foldl (fun t1 e1 ht1 => ?_) _ _ (keeps_fields h)
  split
  · exact ht1
  · exact keeps_ite ht1 (keeps_openRepair ht1)

theorem keeps_takeHeldDigests {step : Nat} (h : Kept z s) : Kept z (takeHeldDigests s step) := by
  unfold takeHeldDigests
  refine kept_foldl (fun t1 m1 ht1 => ?_) _ _ (keeps_fields h)
  split
  · exact keeps_compareDigests ht1
  · exact ht1

theorem keeps_rotate {segs : List Nat} (h : Kept z s) : Kept z (rotate s segs).1 := by
  refine kept_foldl_fst (fun q g hq => ?_) segs (s, []) h
  dsimp only
  exact keeps_rotateSegment hq

theorem keeps_closeDigests {step : Nat} (h : Kept z s) : Kept z (closeDigests s step) := by
  unfold closeDigests
  dsimp only
  split
  · exact keeps_fields h
  · exact keeps_takeHeldDigests (kept_foldl (fun _ _ ht1 => keeps_ite ht1 (keeps_openRepair ht1)) _ _ (keeps_sendTwin
      (keeps_with (keeps_rotate (kept_foldl (fun _ _ ht => keeps_keepPartials ht) _ _ (keeps_fields h))))))

theorem keeps_execDigest {h0 : MsgHdr} {step : Nat} {ds : List (Nat × Nat)} (h : Kept z s) :
    KeptNext z (execDigest h0 step ds s) :=
  keptNext_next (keeps_receive (fun _ ht => keeps_ite ht (keeps_ite (keeps_fields ht) (keeps_compareDigests ht))) h)

theorem keeps_execGranuleHashes {h0 : MsgHdr} {segment step : Nat} {hashes : List Nat} (h : Kept z s) :
    KeptNext z (execGranuleHashes h0 segment step hashes s) := by
  unfold execGranuleHashes
  dsimp only
  refine keptNext_next (keeps_receive (fun t ht => ?_) h)
  split
  · exact ht
  split
  · exact keeps_ite ht (keeps_openRepair ht)
  · exact keeps_ite (keeps_ite ht (keeps_openRepair ht)) (keeps_matchHashes (keeps_ite ht (keeps_openRepair ht)))

theorem keeps_repairItem {a : Nat} (h : Kept z s) : Kept z (repairItem s a) := keeps_ite h (keeps_proposeStep (keeps_fields h))

theorem keeps_execRepairStepProposal {h0 : MsgHdr} {addr u : Nat} {isAnswer : Bool} {act : Nat} (h : Kept z s) :
    KeptNext z (execRepairStepProposal h0 addr u isAnswer act s) := by
  unfold execRepairStepProposal
  dsimp only
  refine keptNext_next (keeps_receive (fun t ht => ?_) h)
  split
  · exact ht
  split
  · exact keeps_fields ht
  split
  · exact keeps_ite ht (keeps_fields ht)
  split
  · exact keeps_with (keeps_ite ht (keeps_fields ht))
  · exact keeps_sendTwin (keeps_with (keeps_ite ht (keeps_fields ht)))

theorem keeps_postDivergent {a : Nat} {d : Nat × Nat} {u : Nat} {copied : Bool} (h : Kept z s) :
    Kept z (postDivergent s a d u copied) := keeps_ite (keeps_with (keeps_post h)) (keeps_post h)

theorem keeps_endRepair {r : Repair} (h : Kept z s) : Kept z (endRepair s r) := by
  unfold endRepair
  dsimp only
  split
  · exact keeps_fields h
  · exact keeps_ite (keeps_fields h) (keeps_ite (keeps_raise (keeps_fields h)) (keeps_fields h))

theorem keeps_compareCopy {r : Repair} {x : StoredItem} {ok offered : Bool} (h : Kept z s) :
    Kept z (compareCopy s r x ok offered) := by
  unfold compareCopy
  dsimp only
  split
  · exact keeps_endRepair h
  split
  · exact keeps_endRepair (keeps_with (keeps_post (keeps_putItem h)))
  split
  · exact keeps_endRepair (keeps_post (keeps_fields h))
  split
  · exact keeps_endRepair h
  split
  · exact keeps_endRepair h
  split
  · exact keeps_endRepair (keeps_ite (keeps_postDivergent (keeps_putItem h)) (keeps_putItem h))
  · exact keeps_ite (keeps_endRepair (keeps_ite (keeps_postDivergent h) h)) (keeps_endRepair h)

theorem keeps_takeHeldCopies (h : Kept z s) : Kept z (takeHeldCopies s) := by
  unfold takeHeldCopies
  dsimp only
  refine kept_foldl (fun t1 m1 ht1 => ?_) _ _ (keeps_fields h)
  split
  · split
    · exact keeps_compareCopy ht1
    · exact keeps_fields ht1
  · exact ht1

theorem keeps_offerItem {key x : Nat} (h : Kept z s) : Kept z (offerItem s key x) := by
  unfold offerItem
  split
  · exact h
  refine keeps_ite h ?_
  have hmend := keeps_mendItem (a := x) h
  split
  · exact hmend.wait ‹_›
  have hstate : Kept z (mendItem s x).state := by
    cases e : mendItem s x with
    | ok t bs => exact hmend.ok e
    | wait t => exact hmend.wait e
    | gone t y => exact hmend.gone e
  have hoffered : ∀ o : Option Repair, Kept z (match o with
      | some x' => setRepair (mendItem s x).state { x' with offered := x'.offered ++ [x] }
      | none => (mendItem s x).state) := by
    intro o
    cases o with
    | none => exact hstate
    | some x' => exact keeps_with hstate
  dsimp only
  split
  · exact hoffered _
  · exact keeps_sendTwin (hoffered _)

theorem keeps_offerItems (h : Kept z s) : Kept z (offerItems s) :=
  keeps_takeHeldCopies (kept_foldl (fun _ _ ht1 => kept_foldl (fun _ _ ht => keeps_offerItem ht) _ _ ht1) _ _ h)

theorem keeps_closeRepairs {closed : Nat} (h : Kept z s) : Kept z (closeRepairs s closed) :=
  keeps_offerItems (kept_foldl (fun _ _ ht1 => keeps_fields ht1) _ _ h)

theorem keeps_execRepairCopy {h0 : MsgHdr} {item : StoredItem} {ok offered : Bool} (h : Kept z s) :
    KeptNext z (execRepairCopy h0 item ok offered s) := by
  unfold execRepairCopy
  refine keptNext_next (keeps_receive (fun t ht => ?_) h)
  split
  · exact keeps_kickUpdates (keeps_compareCopy ht)
  · exact keeps_ite (keeps_fields ht) ht

theorem keeps_answerTwin {hnd : Hand} {v : Nat} (h : Kept z s) : KeptSome z (answerTwin s hnd v) := by
  unfold answerTwin
  dsimp only
  split
  · split
    · exact keptSome_some h
    · exact keptSome_none
  split
  · exact keptSome_some (keeps_proposeStep (keeps_fields h))
  · exact keptSome_some (keeps_proposeStep (keeps_fields h))
  · exact keptSome_some (keeps_sendTwin (keeps_with (kept_foldl (fun _ _ ht1 => keeps_postDivergent ht1) _ _ h)))
  · exact keptSome_none

theorem keeps_execTwinServeRequest {h0 : MsgHdr} {addr bytes step : Nat} {byUpdate : Bool} (h : Kept z s) :
    KeptNext z (execTwinServeRequest h0 addr bytes step byUpdate s) := by
  unfold execTwinServeRequest
  dsimp only
  refine keptNext_next (keeps_receive (fun t ht => ?_) h)
  split
  · exact keeps_sendTwin (keeps_finishOpen ht)
  split
  · exact keeps_sendTwin (keeps_finishOpen ht)
  split
  · exact keeps_sendTwin (keeps_finishOpen ht)
  · exact keeps_ite (keeps_sendTwin (keeps_finishOpen ht)) (keeps_sendTwin (keeps_finishOpen ht))

theorem keeps_settleOwn {a : Nat} (h : Kept z s) : Kept z (settleOwn s a) :=
  kept_foldl (fun _ _ ht1 => keeps_fields ht1) _ _ (keeps_fields h)

theorem keeps_execServedCopy {h0 : MsgHdr} {item : StoredItem} {ownResult : Bool} (h : Kept z s) :
    KeptNext z (execServedCopy h0 item ownResult s) := by
  unfold execServedCopy
  dsimp only
  refine keptNext_next (keeps_receive (fun t ht => ?_) h)
  split
  · exact ht
  split
  · exact keeps_kickUpdates (keeps_offerItems (keeps_ite (keeps_fields ht) (keeps_repairItem (keeps_fields ht))))
  refine keeps_kickUpdates (keeps_offerItems ?_)
  split
  · refine keeps_settleOwn ?_
    split
    · exact keeps_post (keeps_with (keeps_with (keeps_putItem ht)))
    · exact keeps_post (keeps_with (keeps_putItem ht))
  split
  · exact keeps_post (keeps_with (keeps_with (keeps_putItem ht)))
  · exact keeps_post (keeps_with (keeps_putItem ht))

theorem keeps_execTwinHeartbeat {h0 : MsgHdr} (h : Kept z s) : KeptNext z (execTwinHeartbeat h0 s) :=
  keptNext_next (keeps_receive (fun _ ht => ht) h)

theorem keeps_execHeartbeatSend (h : Kept z s) : KeptNext z (execHeartbeatSend s) :=
  keptNext_next (keeps_ite h (keeps_sendTwin h))

theorem keeps_execTwinLossTimeout (h : Kept z s) : KeptNext z (execTwinLossTimeout s) :=
  keptNext_next (keeps_ite h (keeps_declareLost h))

theorem keeps_execRecoveryNotice {h0 : MsgHdr} {state : PairState} {channelLost : Bool} (h : Kept z s) :
    KeptNext z (execRecoveryNotice h0 state channelLost s) :=
  keptNext_next (keeps_ite (keeps_ite (keeps_fields h) h) (keeps_receive (fun _ ht => keeps_declareLost ht) h))

theorem keeps_execRemovalNotice {h0 : MsgHdr} {lost step : Nat} (h : Kept z s) :
    KeptNext z (execRemovalNotice h0 lost step s) := by
  unfold execRemovalNotice
  refine keptNext_next ?_
  split
  · exact keeps_ite (keeps_fields h) h
  · exact keeps_receive (fun _ ht => keeps_ite (keeps_fields ht) (keeps_takeRemoval ht)) h

theorem keeps_execEnrolmentStart (h : Kept z s) : KeptNext z (execEnrolmentStart s) :=
  keptNext_next (keeps_ite h (keeps_sendTwin (keeps_fields h)))

theorem keeps_copySegments {segs : List Nat} (h : Kept z s) : Kept z (copySegments s segs) :=
  kept_foldl (fun _ _ ht1 => keeps_sendTwin ht1) _ _ h

theorem keeps_startSource {attach : Option (Nat × Nat)} (h : Kept z s) : Kept z (startSource s attach) :=
  keeps_copySegments (keeps_ite (keeps_sendTwin (keeps_fields h)) (keeps_fields h))

theorem keeps_execEnrolmentAgree {h0 : MsgHdr} (h : Kept z s) : KeptNext z (execEnrolmentAgree h0 s) :=
  keptNext_next (keeps_receive (fun _ ht => keeps_ite (keeps_startSource ht) ht) h)

theorem keeps_execJobState {h0 : MsgHdr} {j : JobStateMsg} (h : Kept z s) : KeptNext z (execJobState h0 j s) := by
  unfold execJobState
  dsimp only
  refine keptNext_next (keeps_receive (fun t ht => ?_) h)
  split
  · exact ht
  · exact kept_foldl (fun _ _ ht1 => keeps_fields ht1) _ _ (kept_foldl (fun _ _ ht1 => keeps_fields ht1) _ _ (keeps_fields ht))

theorem keeps_putForward {x : StoredItem} (h : Kept z s) : Kept z (putForward s x) := keeps_ite (keeps_devWrite h) h

theorem keeps_finishEnrolment (h : Kept z s) : Kept z (finishEnrolment s) := by
  unfold finishEnrolment
  dsimp only
  split
  · split
    · exact keeps_kickUpdates (keeps_takeReadmission (keeps_fields h))
    · exact h
  · exact h

theorem keeps_execEnrolmentSegment {hd : MsgHdr} {base length : Nat} {content : SegmentContent} (h : Kept z s) :
    KeptNext z (execEnrolmentSegment hd base length content s) := by
  refine keptNext_next (keeps_receive (fun t ht => keeps_ite ht (keeps_finishEnrolment (keeps_with ?_))) h)
  exact kept_foldl (fun _ _ hu => keeps_putForward hu) _ _
    (keeps_memory ht fun hm => wf_foldl_writeByte base _ (wf_zeroRange base length hm))

theorem keeps_execEnrolmentCutOver (h : Kept z s) : KeptNext z (execEnrolmentCutOver s) := by
  unfold execEnrolmentCutOver
  dsimp only
  refine keptNext_next ?_
  split
  · exact h
  split
  · exact h
  · exact keeps_answerAttach (keeps_takeReadmission (keeps_with (keeps_sendAll (keeps_sendForward (keeps_sendTwin h)))))

theorem keeps_execTwinDetach {c : HostCmd} (h : Kept z s) : KeptNext z (execTwinDetach c s) :=
  keeps_runCmd (fun _ ht => keeps_ite (keeps_refuse ht) (keeps_startRouted ht)) h

theorem keeps_execTwinAttach {c : HostCmd} (h : Kept z s) : KeptNext z (execTwinAttach c s) :=
  keeps_runCmd (fun _ ht => keeps_ite (keeps_refuse ht) (keeps_startRouted ht)) h

theorem keeps_execRoutedItem {h0 : MsgHdr} {item : RoutedItem} {tag : Nat} (h : Kept z s) :
    KeptNext z (execRoutedItem h0 item tag s) := by
  unfold execRoutedItem
  dsimp only
  refine keptNext_next (keeps_receive (fun t ht => ?_) h)
  split
  · exact keeps_sendAnswer (keeps_takeRoll ht)
  · exact keeps_takeRoll ht
  · exact keeps_sendAnswer (keeps_takeStage ht)
  · exact keeps_ite (keeps_sendAnswer ht) (keeps_ite (keeps_sendAnswer ht) (keeps_fields ht))
  · exact keeps_ite (keeps_sendAnswer ht) (keeps_ite (keeps_sendAnswer ht) (keeps_startSource ht))

theorem keeps_closeDetach {step : Nat} (h : Kept z s) : Kept z (closeDetach s step) := by
  unfold closeDetach
  dsimp only
  split
  · exact h
  split
  · exact h
  · exact keeps_sendAnswer (keeps_post (keeps_with (keeps_with (keeps_abandonRepairs (keeps_with (keeps_sendAll h))))))

theorem keeps_execClassForm {c : HostCmd} {joining : Bool} (h : Kept z s) : KeptNext z (execClassForm c joining s) :=
  keeps_runCmd (fun _ ht => keeps_ite (keeps_refuse ht) (keeps_ite (keeps_refuse ht) (keeps_done (keeps_fields ht)))) h

/-! ### Close -/

theorem keeps_execProgramRun {c : HostCmd} {image : List Byte} {decl : StepDecl} (h : Kept z s) :
    KeptNext z (execProgramRun c image decl s) := by
  unfold execProgramRun
  dsimp only
  refine keeps_runCmd (fun t ht => ?_) h
  split
  · exact keeps_ite (keeps_done (keeps_endProgram ht)) ht
  split
  · exact keeps_refuse ht
  split
  · exact keeps_refuse ht
  split
  · exact ht
  split
  · exact keeps_failUE ht
  split
  · exact keeps_refuse ht
  split
  · exact keeps_finish ht
  · exact keeps_ite ht (keeps_advanceTables (keeps_declareMarks (keeps_startProgram ht)))

theorem keeps_postInvalid {step : Nat} (h : Kept z s) : Kept z (postInvalid s step) := by
  unfold postInvalid
  dsimp only
  split
  · exact h
  · exact keeps_post h

theorem keeps_endMaxima {selection : Nat} (h : Kept z s) : Kept z (endMaxima selection s) :=
  kept_foldl (fun _ _ ht => keeps_sendHdr ht) _ _ h

theorem keeps_sendMaxima {selection : Nat} (h : Kept z s) : Kept z (sendMaxima s selection) := by
  unfold sendMaxima
  dsimp only
  split
  · exact h
  · exact keeps_endMaxima (kept_foldl (fun _ _ ht1 => kept_foldl (fun _ _ ht => kept_foldl (fun _ _ ht2 => keeps_sendHdr ht2)
      _ _ ht) _ _ ht1) _ _ h)

theorem keeps_takeGradebook (h : Kept z s) : Kept z (takeGradebook s) := by
  unfold takeGradebook
  dsimp only
  split
  · exact h
  · exact keeps_fields h

theorem keeps_startRenewal {step : Nat} (h : Kept z s) : Kept z (startRenewal s step) := keeps_ite h (keeps_fields h)

theorem keeps_openNext {step : Nat} (h : Kept z s) : Kept z (openNext s step) :=
  keeps_kickUpdates (keeps_declareMarks (keeps_raiseSwitches (keeps_with (keeps_with (keeps_with (keeps_with
      (keeps_releaseNotices (keeps_closeRepairs (keeps_fields h)))))))))

theorem keeps_execStepClose (h : Kept z s) : KeptNext z (execStepClose s) := by
  unfold execStepClose
  dsimp only
  refine keptNext_next ?_
  split
  · exact h
  · exact keeps_openNext (keeps_closeDetach (keeps_sendForward (keeps_takeGradebook (keeps_sendMaxima (keeps_takeLifts
      (keeps_startRenewal (keeps_with (keeps_with (keeps_closeColumns (keeps_passPart (keeps_postInvalid (keeps_closeDigests
      h))))))))))))

theorem keeps_installJobStart {c : ClassCmd} (h : Kept z s) : KeptOk z (installJobStart c s) := by
  unfold installJobStart
  dsimp only
  split
  · exact keptOk_error
  split
  · exact keptOk_error
  · exact keptOk_ok (keeps_raiseSwitches (keeps_with (keeps_with (keeps_with (keeps_with (keeps_with (keeps_ite h
      (keeps_fields h))))))))

theorem keeps_execJobStart {c : HostCmd} (h : Kept z s) : KeptNext z (execJobStart c s) :=
  keeps_runCmd (fun _ ht => keeps_startClass (fun _ _ ht1 => keeps_installJobStart ht1) ht) h

theorem keeps_restartAsked (h : Kept z s) : Kept z (restartAsked s) := kept_foldl (fun _ _ ht1 => keeps_restartHist ht1) _ _ h

theorem keeps_installJobEnd {c : ClassCmd} (h : Kept z s) : KeptOk z (installJobEnd c s) := by
  unfold installJobEnd
  split
  · exact keptOk_error
  · exact keptOk_ok (keeps_with (keeps_restartAsked (keeps_takeForce (keeps_takeGradebook h))))

theorem keeps_execJobEnd {c : HostCmd} (h : Kept z s) : KeptNext z (execJobEnd c s) :=
  keeps_runCmd (fun _ ht => keeps_ite ht (keeps_startClass (fun _ _ ht1 => keeps_installJobEnd ht1) ht)) h

/-! ### Copy -/

theorem keeps_hostPut {a : Nat} {bs : List Byte} (h : Kept z s) : Kept z (hostPut s a bs) := keeps_with (keeps_devWrite h)

theorem keeps_cxlAccess {x : CxlAccess} (h : Kept z s) : Kept z (cxlAccess s x) := by
  unfold cxlAccess
  dsimp only
  split
  · split
    · exact keeps_with (keeps_noteUE (keeps_with (keeps_meet h)))
    · exact keeps_with (keeps_meet h)
  split
  · exact keeps_noteUE h
  · exact keeps_hostPut h

theorem keeps_cxlOffer {x : CxlAccess} (h : Kept z s) : Kept z (cxlOffer s x) := keeps_ite (keeps_fields h) (keeps_cxlAccess h)

theorem keeps_runHeld (h : Kept z s) : Kept z (runHeld s) := kept_foldl (fun _ _ ht => keeps_cxlOffer ht) _ _ (keeps_fields h)

theorem keeps_execCxlMemRead {addr : Nat} {read : LineRead} (h : Kept z s) : KeptNext z (execCxlMemRead addr read s) :=
  keptNext_next (keeps_ite (keeps_fields h) (keeps_cxlOffer h))

theorem keeps_execCxlMemWrite {addr : Nat} {data : List Byte} (h : Kept z s) : KeptNext z (execCxlMemWrite addr data s) :=
  keptNext_next (keeps_ite (keeps_fields h) (keeps_cxlOffer h))

theorem keeps_takeFrom {p : Place} {n : Nat} {data : List Byte} (h : Kept z s) : KeptMoved z (fun _ => True) (takeFrom s p n data) := by
  unfold takeFrom
  split
  · split
    · exact h
    · trivial
  · split
    · exact h
    split
    · exact h
    split
    · exact h
    · trivial
  · split
    · exact h
    split
    · split
      · exact h
      · trivial
    split
    · exact keeps_noteUE h
    split
    · exact keeps_noteUE h
    · exact (keeps_readItem h).wait ‹_›
    · exact (keeps_readItem h).fail ‹_›

theorem keeps_putAt {p : Place} {bs : List Byte} (h : Kept z s) : KeptMoved z (Kept z) (putAt s p bs) := by
  unfold putAt
  split
  · split
    · exact h
    · exact keeps_fields h
  · split
    · exact h
    split
    · exact h
    · exact keeps_fields h
  · split
    · exact h
    split
    · exact keeps_noteUE h
    · exact keeps_hostPut h

theorem keeps_copyBytes {src dst : Place} {n : Nat} {data : List Byte} (h : Kept z s) :
    KeptMoved z (Kept z) (copyBytes s src dst n data) := by
  unfold copyBytes
  split
  · exact (keeps_takeFrom h).wait ‹_›
  · exact (keeps_takeFrom h).fail ‹_›
  · exact keeps_putAt h

theorem keeps_execDmaCopy {c : HostCmd} {data : List Byte} (h : Kept z s) : KeptNext z (execDmaCopy c data s) := by
  unfold execDmaCopy
  refine keeps_runCmd (fun t ht => ?_) h
  refine keeps_ite (keeps_refuse ht) (keeps_ite (keeps_refuse ht) (keeps_ite (keeps_refuse ht) (keeps_ite (keeps_refuse ht)
    (keeps_ite (keeps_refuse ht) ?_))))
  split
  · exact (keeps_copyBytes ht).wait ‹_›
  · exact keeps_finish ((keeps_copyBytes ht).fail ‹_›)
  · exact keeps_done ((keeps_copyBytes ht).ok ‹_›)

theorem keeps_execObjectPlace {c : HostCmd} {data : List Byte} (h : Kept z s) : KeptNext z (execObjectPlace c data s) := by
  unfold execObjectPlace
  dsimp only
  refine keeps_runCmd (fun t ht => ?_) h
  split
  · exact keeps_refuse ht
  split
  · exact keeps_ite (keeps_refuse ht) (keeps_done (keeps_fields ht))
  split
  · exact keeps_done (keeps_fields ht)
  split
  · rename_i e3
    exact (keeps_copyBytes ht).wait e3
  · rename_i e3
    exact keeps_finish ((keeps_copyBytes ht).fail e3)
  rename_i e3
  exact keeps_done (keeps_fields ((keeps_copyBytes ht).ok e3))

theorem keeps_execObjectFree {c : HostCmd} (h : Kept z s) : KeptNext z (execObjectFree c s) :=
  keeps_runCmd (fun _ ht => keeps_ite (keeps_refuse ht) (keeps_done (keeps_fields ht))) h

/-! ### Class -/

theorem keeps_installerOf {n : Nat} {inst : Install} (e : installerOf n = some inst) {k : ClassCmd} (h : Kept z s) :
    KeptOk z (inst k s) := by
  unfold installerOf at e
  split at e
  · exact Option.some.inj e ▸ keeps_installJobStart h
  · exact Option.some.inj e ▸ keeps_installJobEnd h
  · exact Option.some.inj e ▸ keeps_installTableDefine h
  · exact Option.some.inj e ▸ keeps_installTableSwitch h
  · exact Option.some.inj e ▸ keeps_installOptimSet h
  · exact Option.some.inj e ▸ keeps_installScaleReset h
  · exact Option.some.inj e ▸ keeps_installOutlierSet h
  · exact Option.some.inj e ▸ keeps_installRing h
  · exact Option.some.inj e ▸ keeps_installReshard h
  · exact Option.some.inj e ▸ keeps_installGradebookLift h
  · exact absurd e (Option.some_ne_none _).symm

theorem keeps_takeRelay {c : ClassCmd} (h : Kept z s) : Kept z (takeRelay s c) := by
  unfold takeRelay
  split
  · exact keeps_takeBack h
  split
  · exact h
  · exact keeps_sendAnswer (keeps_installHere (fun _ _ ht => keeps_installerOf ‹_› ht) h)

theorem keeps_execClassCommandRelay {h0 : MsgHdr} {c : ClassCmd} (h : Kept z s) : KeptNext z (execClassCommandRelay h0 c s) :=
  keptNext_next (keeps_ite h (keeps_receive (fun _ ht => keeps_takeRelay ht) h))

end Sys2Proof.Proofs
end

section
/-! What every command leaves alone (O5, O6): resets, bring-up and recovery. -/

namespace Sys2Proof.Proofs

open Sys2Proof Sys2Proof.Machine Sys2Proof.Laws

set_option Elab.async false

variable {z s : State}

/-! ### Abort -/

theorem keeps_abortRelays {hit : HostCmd → Bool} (h : Kept z s) : Kept z (abortRelays s hit) :=
  kept_foldl (fun _ _ ht1 => keeps_with (kept_foldl (fun _ _ ht => keeps_sendRelay ht) _ _ (keeps_takeBack ht1))) _ _ h

theorem keeps_abortEngines {hit : HostCmd → Bool} (h : Kept z s) : Kept z (abortEngines s hit) :=
  keeps_abortDecodes (keeps_with (keeps_with (keeps_with (kept_foldl (fun _ _ ht => keeps_fields ht) _ _ h))))

theorem keeps_abortCommands {hit : HostCmd → Bool} (h : Kept z s) : Kept z (abortCommands s hit) :=
  kept_foldl (fun _ _ ht1 => keeps_finish ht1) _ _ (keeps_abortEngines (keeps_abortRelays (keeps_fields h)))

theorem keeps_clearCounters {fn : Nat} (h : Kept z s) : Kept z (clearCounters s fn) :=
  kept_foldl (fun _ _ ht1 => keeps_with (kept_foldl (fun _ _ ht => keeps_fields ht) _ _ (kept_foldl (fun _ _ ht =>
      keeps_fields ht) _ _ ht1))) _ _ h

theorem keeps_settleSeats {fn : Nat} (h : Kept z s) : Kept z (settleSeats s fn) := by
  unfold settleSeats
  dsimp only
  refine keeps_with (kept_foldl (fun t1 e1 ht1 => ?_) _ _ h)
  split
  · exact keeps_makeAbsent ht1
  · exact keeps_seatSubstitute ht1

theorem keeps_functionReset {fn cause : Nat} (h : Kept z s) : Kept z (functionReset s fn cause) := by
  unfold functionReset
  dsimp only
  split
  · exact h
  · exact keeps_post (keeps_with (keeps_with (keeps_with (keeps_clearCounters (keeps_with (keeps_abortCommands
      (keeps_settleSeats h)))))))

theorem keeps_execFunctionReset {fn cause : Nat} (h : Kept z s) : KeptNext z (execFunctionReset fn cause s) :=
  keptNext_next (keeps_functionReset h)

theorem keeps_execFlrComputeFunction {fn : Nat} (h : Kept z s) : KeptNext z (execFlrComputeFunction fn s) :=
  keptNext_next (keeps_functionReset h)

theorem keeps_execSelfReset (h : Kept z s) : KeptNext z (execSelfReset s) :=
  keptNext_next (keeps_ite h (kept_foldl (fun _ _ ht1 => keeps_functionReset ht1) _ _ (keeps_fields h)))

theorem keeps_requestReset {b : Blk} {i : Nat} (h : Kept z s) : Kept z (requestReset s b i) := by
  unfold requestReset
  split
  · exact h
  · exact keeps_functionReset h

theorem keeps_execFunctionResetRequest {fn offset : Nat} (h : Kept z s) :
    KeptNext z (execFunctionResetRequest fn offset s) := by
  unfold execFunctionResetRequest
  refine keptNext_next ?_
  split
  · exact h
  split
  · exact keeps_fields h
  · exact keeps_guardWrite (fun _ ht => keeps_ite ht (keeps_requestReset ht)) h

/-! ### Sec -/

theorem keeps_bootKind {kind : Nat} (h : Kept z s) : Kept z (bootKind s kind).1 := by
  unfold bootKind
  dsimp only
  split
  · exact keeps_fields h
  split
  · exact keeps_with (keeps_with (keeps_post (keeps_fields h)))
  · exact keeps_with (keeps_post (keeps_fields h))

theorem keeps_checkIdentity (h : Kept z s) : Kept z (checkIdentity s) :=
  keeps_ite h (keeps_ite (keeps_fields h) (keeps_post (keeps_fields h)))

theorem keeps_bootManagement (h : Kept z s) : Kept z (bootManagement s).1 := by
  unfold bootManagement
  dsimp only
  split
  · exact keeps_checkIdentity (keeps_bootKind (keeps_fields h))
  · exact keeps_bootKind (keeps_fields h)

theorem keeps_execSecAttest {c : HostCmd} (h : Kept z s) : KeptNext z (execSecAttest c s) :=
  keeps_runCmd (fun _ ht => keeps_ite (keeps_refuse ht) (keeps_ite ht (keeps_done (keeps_fields ht)))) h

theorem keeps_execSecIdentityRead {c : HostCmd} (h : Kept z s) : KeptNext z (execSecIdentityRead c s) :=
  keeps_runCmd (fun _ ht => keeps_ite ht (keeps_finish (keeps_fields ht))) h

theorem keeps_execSecFirmwareStage {c : HostCmd} {image : List Byte} (h : Kept z s) :
    KeptNext z (execSecFirmwareStage c image s) := by
  unfold execSecFirmwareStage
  dsimp only
  refine keeps_runCmd (fun t ht => ?_) h
  split
  · exact keeps_refuse (keeps_fields ht)
  split
  · exact ht
  split
  · exact keeps_refuse (keeps_post (keeps_fields ht))
  · exact keeps_done (keeps_fields ht)

theorem keeps_execSecRollbackCommit {c : HostCmd} (h : Kept z s) : KeptNext z (execSecRollbackCommit c s) :=
  keeps_runCmd (fun _ ht => keeps_ite (keeps_refuse ht) (keeps_done (keeps_post (keeps_fields ht)))) h

theorem keeps_execSecDebugChallenge {c : HostCmd} (h : Kept z s) : KeptNext z (execSecDebugChallenge c s) :=
  keeps_runCmd (fun _ ht => keeps_ite ht (keeps_done (keeps_fields ht))) h

theorem keeps_clearSecrets (h : Kept z s) : Kept z (clearSecrets s) := by
  unfold clearSecrets
  dsimp only
  split
  · exact keeps_post (keeps_with (keeps_with (keeps_with (keeps_abortCommands h))))
  · exact keeps_with (keeps_with (keeps_with (keeps_abortCommands h)))

theorem keeps_grantDebug {perms : Nat} (h : Kept z s) : Kept z (grantDebug s perms) := keeps_post (keeps_fields h)

theorem keeps_execSecDebugUnlock {c : HostCmd} {token : List Byte} (h : Kept z s) :
    KeptNext z (execSecDebugUnlock c token s) := by
  unfold execSecDebugUnlock
  dsimp only
  refine keeps_runCmd (fun t ht => ?_) h
  split
  · exact ht
  split
  · exact keeps_refuse (keeps_post (keeps_fields ht))
  split
  · exact keeps_refuse (keeps_fields ht)
  split
  · exact keeps_clearSecrets (keeps_done (keeps_grantDebug (keeps_fields ht)))
  · exact keeps_done (keeps_grantDebug (keeps_fields ht))

theorem keeps_execSecDebugLock {c : HostCmd} (h : Kept z s) : KeptNext z (execSecDebugLock c s) :=
  keeps_runCmd (fun _ ht => keeps_done (keeps_post (keeps_fields ht))) h

/-! ### Boot -/

theorem keeps_lbistFail {ty i sig : Nat} (h : Kept z s) : Kept z (lbistFail s ty i sig) :=
  keeps_ite (keeps_post h) (keeps_with (keeps_with (keeps_post h)))

theorem keeps_latchRow {c : Nat} (h : Kept z s) : Kept z (latchRow s c) := keeps_ite h (keeps_fields h)

theorem keeps_showTested (h : Kept z s) : Kept z (showTested s) :=
  kept_foldl (fun _ _ ht1 => keeps_fields ht1) _ _ (kept_foldl (fun _ _ ht1 => keeps_fields ht1) _ _ h)

theorem keeps_selfTest {r : TestReport} (h : Kept z s) : Kept z (selfTest s r) :=
  kept_foldl (fun _ _ ht => keeps_fields ht) _ _ (kept_foldl (fun _ _ ht1 => keeps_with (keeps_post (keeps_latchRow ht1))) _ _
      (kept_foldl (fun _ _ ht1 => keeps_post (keeps_latchRow ht1)) _ _ (kept_foldl (fun _ _ ht1 => keeps_lbistFail ht1) _ _
      (kept_foldl (fun _ _ ht1 => keeps_lbistFail (keeps_with (keeps_ite (keeps_post ht1) ht1))) _ _ (keeps_showTested h)))))

theorem keeps_announceAbsent {n failed : Nat} (h : Kept z s) : Kept z (announceAbsent s n failed) := keeps_with (keeps_post h)

theorem keeps_buildChart {r : TestReport} (h : Kept z s) : Kept z (buildChart s r) :=
  kept_foldl (fun _ _ ht1 => keeps_announceAbsent ht1) _ _ (keeps_fields h)

theorem keeps_dropUnloaded {r : TestReport} (h : Kept z s) : Kept z (dropUnloaded s r).1 := by
  unfold dropUnloaded
  refine kept_foldl_fst (fun q1 p1 hq1 => ?_) _ _ h
  split
  · exact keeps_post (keeps_with hq1)
  · exact keeps_post (keeps_with hq1)
  · exact hq1

theorem keeps_loadCores {r : TestReport} (h : Kept z s) : Kept z (loadCores s r) := by
  unfold loadCores
  dsimp only
  refine kept_foldl (fun t1 e1 ht1 => ?_) _ _ (keeps_dropUnloaded h)
  split
  · exact keeps_fields ht1
  · exact keeps_announceAbsent ht1

theorem keeps_trainMemory {r : TestReport} (h : Kept z s) : Kept z (trainMemory s r) :=
  kept_foldl (fun _ _ ht1 => keeps_post ht1) _ _ (keeps_fields h)

theorem keeps_zeroFill {r : TestReport} (h : Kept z s) : Kept z (zeroFill s r) := by
  have hzero : Kept z (setGddr { s with mem := [] } fun g => { g with badSectors := r.sweepFail.foldl insertNat [], marks := [] }) :=
    keeps_memory h fun _ => rfl
  unfold zeroFill
  exact keeps_ite hzero (kept_foldl (fun t a ht => keeps_post (keeps_with (keeps_ite (keeps_fields ht) ht))) _ _ hzero)

theorem keeps_finishPowerOn {r : TestReport} (h : Kept z s) : Kept z (finishPowerOn s r) := keeps_post (keeps_fields h)

theorem keeps_powerOn {r : TestReport} (h : Kept z s) : Kept z (powerOn s r) := by
  unfold powerOn
  dsimp only
  split
  · exact keeps_with (keeps_with (keeps_bootManagement (keeps_fields h)))
  split
  · exact keeps_finishPowerOn (keeps_with (keeps_selfTest (keeps_bootManagement (keeps_fields h))))
  split
  · exact keeps_finishPowerOn (keeps_with (keeps_bootKind (keeps_buildChart (keeps_selfTest (keeps_bootManagement
      (keeps_fields h))))))
  · exact keeps_finishPowerOn (keeps_zeroFill (keeps_trainMemory (keeps_with (keeps_loadCores (keeps_bootKind
      (keeps_buildChart (keeps_selfTest (keeps_bootManagement (keeps_fields h)))))))))

theorem keeps_continueBoot {r : TestReport} (h : Kept z s) : Kept z (continueBoot s r) := keeps_ite (keeps_powerOn h) h

theorem keeps_execAuxPowerGood (h : Kept z s) : KeptNext z (execAuxPowerGood s) :=
  keptNext_next (keeps_ite h (keeps_ite (keeps_fields h) (keeps_fields h)))

theorem keeps_execMainPgAsserted {report : TestReport} (h : Kept z s) : KeptNext z (execMainPgAsserted report s) :=
  keptNext_next (keeps_ite h (keeps_continueBoot (keeps_fields h)))

theorem keeps_powerCut (h : Kept z s) : Kept z (powerCut s) := keeps_memory h fun _ => rfl

theorem keeps_execMainPgLost (h : Kept z s) : KeptNext z (execMainPgLost s) :=
  keptNext_next (keeps_ite h (keeps_ite (keeps_memory h fun _ => rfl) (keeps_memory h fun _ => rfl)))

theorem keeps_execAuxPowerLost (h : Kept z s) : KeptNext z (execAuxPowerLost s) :=
  keptNext_next (keeps_ite (keeps_powerCut h) h)

/-! ### Recovery -/

theorem keeps_withdrawAll (h : Kept z s) : Kept z (withdrawAll s) := kept_foldl (fun _ _ ht => keeps_withdraw ht) _ _ h

theorem keeps_giveNotice (h : Kept z s) : Kept z (giveNotice s) := by
  unfold giveNotice
  dsimp only
  split
  · exact h
  refine keeps_abandonRepairs (keeps_with ?_)
  split
  · refine keeps_sendAnswer ?_
    split
    · exact keeps_answerAttach (keeps_with (keeps_sendTwin h))
    · exact keeps_with (keeps_sendTwin h)
  split
  · exact keeps_answerAttach (keeps_with (keeps_sendTwin h))
  · exact keeps_with (keeps_sendTwin h)

theorem keeps_drainUpdates (h : Kept z s) : Kept z (drainUpdates s) :=
  kept_foldl (fun _ _ ht => keeps_secondWrite ht) _ _ (keeps_retryTiles (keeps_retryRows h))

theorem keeps_drainRecovery (h : Kept z s) : Kept z (drainRecovery s) := by
  unfold drainRecovery
  dsimp only
  split
  · exact keeps_drainUpdates h
  · exact keeps_with (keeps_with (keeps_with (keeps_with (keeps_drainUpdates h))))

theorem keeps_startRecovery {cause : Nat} (h : Kept z s) : Kept z (startRecovery s cause) := by
  unfold startRecovery
  dsimp only
  split
  · exact h
  · exact keeps_drainRecovery (keeps_with (keeps_with (keeps_with (keeps_abortCommands (keeps_with (keeps_detachHost
      (keeps_withdrawAll (keeps_giveNotice (keeps_with (keeps_post (keeps_fields h)))))))))))

theorem keeps_retestCores {r : TestReport} (h : Kept z s) : Kept z (retestCores s r) :=
  kept_foldl (fun _ _ ht1 => keeps_ite (keeps_post (keeps_fields ht1)) (keeps_fields ht1)) _ _ h

theorem keeps_rebuildChart {lost : List (Nat × Nat)} (h : Kept z s) : Kept z (rebuildChart s lost) := by
  unfold rebuildChart
  dsimp only
  refine kept_foldl (fun t1 n1 ht1 => ?_) _ _ (keeps_fields h)
  split
  · exact keeps_with (keeps_post (keeps_fields ht1))
  split
  · exact keeps_announceAbsent ht1
  · exact ht1

theorem keeps_retrainMemory {r : TestReport} (h : Kept z s) : Kept z (retrainMemory s r) :=
  keeps_with (kept_foldl (fun _ _ ht1 => keeps_post ht1) _ _ (keeps_trainMemory h))

theorem keeps_runRecovery {r : TestReport} (h : Kept z s) : Kept z (runRecovery s r) := by
  unfold runRecovery
  dsimp only
  split
  · exact h
  split
  · exact keeps_with (keeps_with (keeps_bootManagement h))
  split
  · exact keeps_with (keeps_with (keeps_bootKind (keeps_bootManagement h)))
  · exact keeps_with (keeps_retrainMemory (keeps_with (keeps_rebuildChart (keeps_retestCores (keeps_dropUnloaded
      (keeps_bootKind (keeps_bootManagement h)))))))

theorem keeps_execDeviceRecovery {cause : Nat} {report : TestReport} (h : Kept z s) :
    KeptNext z (execDeviceRecovery cause report s) := keptNext_next (keeps_runRecovery (keeps_startRecovery h))

theorem keeps_execDeviceRecoveryRequest {fn : Nat} (h : Kept z s) : KeptNext z (execDeviceRecoveryRequest fn s) :=
  keptNext_next (keeps_guardWrite (fun _ ht => keeps_startRecovery ht) h)

theorem keeps_choosePair (h : Kept z s) : Kept z (choosePair s) := by
  unfold choosePair
  dsimp only
  split
  · exact h
  split
  · exact keeps_leaveClass h
  split
  · exact keeps_ite (keeps_fields h) (keeps_ite (keeps_sendRemoval (keeps_fields h)) (keeps_fields h))
  · exact keeps_ite (keeps_fields h) (keeps_fields h)

theorem keeps_raiseAgain (h : Kept z s) : Kept z (raiseAgain s) :=
  kept_foldl (fun _ _ ht1 => keeps_raise ht1) _ _ (keeps_fields h)

theorem keeps_execRecoveryReturn (h : Kept z s) : KeptNext z (execRecoveryReturn s) := by
  unfold execRecoveryReturn
  dsimp only
  refine keptNext_next ?_
  split
  · exact h
  · exact keeps_with (keeps_raiseAgain (keeps_post (keeps_with (keeps_kickUpdates (kept_foldl (fun _ _ ht => keeps_repairShard
      ht) _ _ (keeps_recoverPages (keeps_choosePair (keeps_fields h))))))))

theorem keeps_execPerstAsserted (h : Kept z s) : KeptNext z (execPerstAsserted s) := by
  have hpin : Kept z (setPwr s fun p => { p with perst := true }) := keeps_fields h
  exact keptNext_next (keeps_ite h (keeps_ite (keeps_startRecovery hpin) (keeps_ite hpin (keeps_fields hpin))))

theorem keeps_execPerstDeasserted {report : TestReport} (h : Kept z s) : KeptNext z (execPerstDeasserted report s) :=
  keptNext_next (keeps_ite (keeps_runRecovery (keeps_fields h)) (keeps_continueBoot (keeps_fields h)))

theorem keeps_execIoRailFault {die : Nat} (h : Kept z s) : KeptNext z (execIoRailFault die s) := by
  unfold execIoRailFault
  dsimp only
  refine keptNext_next ?_
  split
  · exact h
  · exact keeps_ite (keeps_startRecovery (keeps_fields h)) (keeps_with (keeps_startRecovery (keeps_fields h)))

theorem keeps_execIoRailRestore {die : Nat} {restored : Bool} (h : Kept z s) : KeptNext z (execIoRailRestore die restored s) :=
  keptNext_next (keeps_ite h (keeps_ite (keeps_fields h) (keeps_ite (keeps_fields h) (keeps_fields h))))

theorem keeps_escalate {fn page ticks : Nat} (h : Kept z s) : Kept z (escalate s fn page ticks) := by
  unfold escalate
  dsimp only
  split
  · exact keeps_startRecovery (keeps_post (keeps_fields h))
  · exact keeps_ite (keeps_post (keeps_fields h)) (keeps_raise (keeps_post (keeps_fields h)))

theorem keeps_fireHall {q : State × List Nat} {v : HallView} {stalled : Nat} (h : Kept z q.1) : Kept z (fireHall q v stalled).1 := by
  have hpost : Kept z (post (bump q.1 .rel 0 0x11C 0 16 1) .rel 0 0x0800 [v.key / 4096 * 4096, v.kind, stalled * 25000]) :=
    keeps_post (keeps_fields h)
  unfold fireHall
  dsimp only
  split
  · exact keeps_ite hpost (keeps_escalate hpost)
  split
  · exact hpost
  split
  · exact keeps_escalate hpost
  · exact keeps_functionReset hpost

theorem keeps_execHallMonitorCheck (h : Kept z s) : KeptNext z (execHallMonitorCheck s) :=
  keptNext_next (keeps_ite h (kept_foldl_fst (fun _ _ hq1 => keeps_fireHall hq1) _ _ (keeps_fields h)))

theorem keeps_answerSubstitution {h0 : Hand} {v : Nat} (h : Kept z s) : KeptSome z (answerSubstitution s h0 v) := by
  unfold answerSubstitution
  dsimp only
  split
  · exact keptSome_none
  split
  · exact keptSome_some h
  split
  · exact keptSome_some (keeps_makeAbsent h)
  split
  · exact keptSome_some (keeps_seatSubstitute h)
  split
  · exact keptSome_some (keeps_seatSubstitute h)
  · exact keptSome_some (keeps_makeAbsent h)

theorem keeps_answerEscalation {h0 : Hand} {v : Nat} (h : Kept z s) : KeptSome z (answerEscalation s h0 v) := by
  unfold answerEscalation
  split
  · exact keptSome_some (keeps_startRecovery h)
  · exact keptSome_some (keeps_functionReset h)
  · exact keptSome_some (keeps_fields h)
  · exact keptSome_none

theorem keeps_answerRel {v : Nat} (h : Kept z s) : Kept z (answerRel s v) := by
  unfold answerRel
  refine keeps_answer (fun h1 t1 ht1 => ?_) h
  split
  · exact keeps_answerTwin ht1
  · exact keeps_answerSubstitution ht1
  · exact keeps_answerEscalation ht1

theorem keeps_execTwinRepairAnswer {fn : Nat} {value : W32} (h : Kept z s) : KeptNext z (execTwinRepairAnswer fn value s) :=
  keptNext_next (keeps_guardWrite (fun _ ht => keeps_answerRel ht) h)

theorem keeps_execSubstitutionAnswer {fn : Nat} {value : W32} (h : Kept z s) : KeptNext z (execSubstitutionAnswer fn value s) :=
  keptNext_next (keeps_guardWrite (fun _ ht => keeps_answerRel ht) h)

theorem keeps_execHangEscalationAnswer {fn : Nat} {value : W32} (h : Kept z s) :
    KeptNext z (execHangEscalationAnswer fn value s) := keptNext_next (keeps_guardWrite (fun _ ht => keeps_answerRel ht) h)

end Sys2Proof.Proofs
end

section
/-! What every command leaves alone (O5, O6): the transcript, power, links, memory channels and registers. -/

namespace Sys2Proof.Proofs

open Sys2Proof Sys2Proof.Machine Sys2Proof.Laws

set_option Elab.async false

variable {z s : State}

/-! ### Sweep -/

theorem keeps_sweepOne {r : Rings} {q : Sweeping} {it : SweepItem} (h : Kept z q.s) : Kept z (sweepOne r q it).s := by
  unfold sweepOne
  split
  · exact h
  split
  · exact h
  split
  · exact keeps_ite (keeps_requestItem (keeps_ite h (keeps_noteUE h))) (keeps_ite h (keeps_noteUE h))
  dsimp only
  generalize (if it.kind = 4 then _ else _) = bs
  split
  · exact h
  split
  · exact h
  · exact keeps_fields h

theorem keeps_sweepDesc {r : Rings} {q : Sweeping} {m : Nat × Nat} (h : Kept z q.s) : Kept z (sweepDesc r q m).s := by
  unfold sweepDesc
  split
  · exact h
  dsimp only
  split
  · exact keeps_fields h
  split
  · exact h
  · exact keeps_fields h

theorem keeps_endSweep {r : Rings} {q : Sweeping} {step : Nat} (h : Kept z q.s) : Kept z (endSweep r q step) := by
  unfold endSweep
  dsimp only
  split
  · exact keeps_fields h
  · exact keeps_ite (keeps_fields h) (keeps_fields h)

theorem keeps_runSweep {r : Rings} {budget : Nat} (h : Kept z s) : Kept z (runSweep s r budget) :=
  keeps_endSweep (keeps_foldl_sweep (fun _ _ => keeps_sweepDesc) _ _ (keeps_foldl_sweep (fun _ _ => keeps_sweepOne) _ ⟨s, _, _⟩ h))

theorem keeps_execTranscriptSweep {budget : Nat} (h : Kept z s) : KeptNext z (execTranscriptSweep budget s) := by
  unfold execTranscriptSweep
  refine keptNext_next ?_
  split
  · exact h
  split
  · exact h
  · exact keeps_runSweep h

/-! ### Power -/

theorem keeps_execHallPassGrant {die : Nat} (h : Kept z s) : KeptNext z (execHallPassGrant die s) := by
  unfold execHallPassGrant
  dsimp only
  refine keptNext_next ?_
  split
  · exact h
  · exact keeps_ite h (keeps_fields h)

theorem keeps_execHallPassRelease {physical : Nat} (h : Kept z s) : KeptNext z (execHallPassRelease physical s) :=
  keptNext_next (keeps_ite h (keeps_fields h))

theorem keeps_execDomainClockStop {domain : Nat} (h : Kept z s) : KeptNext z (execDomainClockStop domain s) :=
  keptNext_next (keeps_ite h (keeps_fields h))

theorem keeps_setWidened {n : Nat} (h : Kept z s) : Kept z (setWidened s n) := keeps_ite (keeps_fields h) (keeps_fields h)

theorem keeps_execPowerReading {watts : Nat} (h : Kept z s) : KeptNext z (execPowerReading watts s) := by
  unfold execPowerReading
  dsimp only
  refine keptNext_next ?_
  split
  · exact keeps_fields h
  split
  · split
    · exact keeps_post (keeps_setWidened (keeps_fields h))
    · exact keeps_ite (keeps_fields h) (keeps_raise (keeps_fields h))
  · exact keeps_ite (keeps_ite (keeps_fields h) (keeps_fields h)) (keeps_fields h)

theorem keeps_showTemps {temps : List Int} (h : Kept z s) : Kept z (showTemps s temps) := by
  unfold showTemps
  dsimp only
  split
  · exact kept_foldl (fun _ _ ht1 => keeps_ite (keeps_fields ht1) ht1) _ _ h
  · exact keeps_with (kept_foldl (fun _ _ ht1 => keeps_ite (keeps_fields ht1) ht1) _ _ h)

theorem keeps_trip (h : Kept z s) : Kept z (trip s) := keeps_with (keeps_with (keeps_ite h (keeps_post h)))

theorem keeps_raiseThermal {t : Int} (h : Kept z s) : Kept z (raiseThermal s t) := keeps_raise h

theorem keeps_coolReading {t : Int} (h : Kept z s) : Kept z (coolReading s t) := by
  unfold coolReading
  dsimp only
  split
  · exact keeps_fields h
  split
  · exact keeps_ite (keeps_fields h) (keeps_post (keeps_fields h))
  split
  · exact keeps_ite (keeps_raiseThermal (keeps_fields h)) (keeps_fields h)
  · exact keeps_ite (keeps_fields h) (keeps_raiseThermal (keeps_fields h))

theorem keeps_execThermalReading {temps : List Int} (h : Kept z s) : KeptNext z (execThermalReading temps s) := by
  unfold execThermalReading
  dsimp only
  refine keptNext_next ?_
  split
  · exact keeps_showTemps h
  split
  · exact keeps_showTemps h
  split
  · exact keeps_trip (keeps_showTemps h)
  split
  · exact keeps_post (keeps_with (keeps_with (keeps_showTemps h)))
  · exact keeps_ite (keeps_coolReading (keeps_showTemps h)) (keeps_with (keeps_showTemps h))

theorem keeps_answerStagger {h0 : Hand} {action v : Nat} (h : Kept z s) : KeptSome z (answerStagger s h0 action v) := by
  unfold answerStagger
  split
  · exact keptSome_some (keeps_setWidened h)
  · split
    · exact keptSome_some (keeps_setWidened h)
    · exact keptSome_none
  · exact keptSome_some h
  · exact keptSome_none

theorem keeps_answerThermal {action : Nat} (h : Kept z s) : KeptSome z (answerThermal s action) := by
  unfold answerThermal
  split
  · exact keptSome_some (keeps_fields h)
  · exact keptSome_some (keeps_fields h)
  · exact keptSome_none

theorem keeps_answerPwr {v : Nat} (h : Kept z s) : Kept z (answerPwr s v) := by
  unfold answerPwr
  refine keeps_answer (fun h1 t1 ht1 => ?_) h
  split
  · exact keeps_answerStagger ht1
  · exact keeps_answerThermal ht1

theorem keeps_execStaggeringAnswer {fn : Nat} {value : W32} (h : Kept z s) : KeptNext z (execStaggeringAnswer fn value s) :=
  keptNext_next (keeps_guardWrite (fun _ ht => keeps_answerPwr ht) h)

theorem keeps_execThermalStepAnswer {fn : Nat} {value : W32} (h : Kept z s) : KeptNext z (execThermalStepAnswer fn value s) :=
  keptNext_next (keeps_guardWrite (fun _ ht => keeps_answerPwr ht) h)

theorem keeps_execPwrbrkAsserted (h : Kept z s) : KeptNext z (execPwrbrkAsserted s) :=
  keptNext_next (keeps_ite h (keeps_ite (keeps_fields h) (keeps_post (keeps_fields h))))

theorem keeps_execPwrbrkReleased (h : Kept z s) : KeptNext z (execPwrbrkReleased s) :=
  keptNext_next (keeps_ite (keeps_fields h) (keeps_post (keeps_fields h)))

theorem keeps_execAssertionNotTaken {pin : Nat} (h : Kept z s) : KeptNext z (execAssertionNotTaken pin s) :=
  keptNext_next (keeps_ite h (keeps_ite (keeps_fields h) (keeps_fields h)))

theorem keeps_approachSleep {keep : Bool} (h : Kept z s) : Kept z (approachSleep s keep).1 := by
  unfold approachSleep
  dsimp only
  split
  · exact keeps_fields h
  split
  · dsimp only
    exact keeps_sendTwin (keeps_fields h)
  · exact keeps_fields h

theorem keeps_sleep (h : Kept z s) : Kept z (sleep s) :=
  keeps_ite (keeps_fields h) (keeps_ite (keeps_fields h) (keeps_fields h))

theorem keeps_execRecessEnter {c : HostCmd} (h : Kept z s) : KeptNext z (execRecessEnter c s) := by
  unfold execRecessEnter
  dsimp only
  refine keeps_runCmd (fun t ht => ?_) h
  split
  · exact keeps_refuse ht
  split
  · exact ht
  · exact keeps_ite (keeps_sleep (keeps_post (keeps_done (keeps_approachSleep ht)))) (keeps_approachSleep ht)

theorem keeps_execAutoRecess (h : Kept z s) : KeptNext z (execAutoRecess s) := by
  unfold execAutoRecess
  dsimp only
  refine keptNext_next ?_
  split
  · exact h
  split
  · exact keeps_ite (keeps_sendTwin (keeps_fields h)) (keeps_fields h)
  · exact keeps_ite (keeps_sleep (keeps_post (keeps_approachSleep h))) (keeps_approachSleep h)

theorem keeps_execWake (h : Kept z s) : KeptNext z (execWake s) :=
  keptNext_next (keeps_ite h (keeps_post (keeps_ite (keeps_sendTwin (keeps_fields h)) (keeps_fields h))))

theorem keeps_execRecessNotice {h0 : MsgHdr} (h : Kept z s) : KeptNext z (execRecessNotice h0 s) :=
  keptNext_next (keeps_receive (fun _ ht => keeps_fields ht) h)

theorem keeps_execWakeNotice {h0 : MsgHdr} (h : Kept z s) : KeptNext z (execWakeNotice h0 s) :=
  keptNext_next (keeps_receive (fun _ ht => keeps_fields ht) h)

theorem keeps_execReportCard (h : Kept z s) : KeptNext z (execReportCard s) := by
  unfold execReportCard
  refine keptNext_next ?_
  split
  · exact h
  · exact keeps_ite h (keeps_fields h)

/-! ### Links -/

theorem keeps_countReturned {n : Nat} (h : Kept z s) : Kept z (countReturned s n) := keeps_post (keeps_fields h)

theorem keeps_moveStreams (h : Kept z s) : Kept z (moveStreams s) := by
  unfold moveStreams
  dsimp only
  refine kept_foldl (fun t1 k1 ht1 => ?_) _ _ h
  split
  · exact ht1
  · exact keeps_ite (keeps_fields ht1) (keeps_ite ht1 (keeps_resend ht1))

theorem keeps_admitLink {n cls far : Nat} (h : Kept z s) : Kept z (admitLink s n cls far) :=
  keeps_ite (keeps_countReturned (keeps_fields h)) (keeps_fields h)

theorem keeps_holdMiswired {n cls far cause : Nat} (h : Kept z s) : Kept z (holdMiswired s n cls far cause) :=
  keeps_post (keeps_ite (keeps_fields h) (keeps_fields h))

theorem keeps_exchange {n cls far part : Nat} (h : Kept z s) : Kept z (exchange s n cls far part) := by
  unfold exchange
  dsimp only
  split
  · split
    · exact keeps_ite (keeps_holdMiswired h) (keeps_post (keeps_with (keeps_admitLink h)))
    · exact keeps_holdMiswired h
  · exact keeps_ite (keeps_holdMiswired h) (keeps_ite (keeps_holdMiswired h) (keeps_admitLink h))

theorem keeps_execIdentityExchange {link farClass farLink farPart : Nat} {farFormed : Bool} (h : Kept z s) :
    KeptNext z (execIdentityExchange link farClass farLink farPart farFormed s) :=
  keptNext_next (keeps_ite h (keeps_ite (keeps_moveStreams (keeps_exchange h)) h))

theorem keeps_execPeerLinkTrainingDone {link : Nat} {aligned : Bool} (h : Kept z s) :
    KeptNext z (execPeerLinkTrainingDone link aligned s) := by
  unfold execPeerLinkTrainingDone
  dsimp only
  refine keptNext_next ?_
  split
  · exact h
  · exact keeps_ite (keeps_fields h) (keeps_ite (keeps_moveStreams (keeps_fields h)) (keeps_fields h))

theorem keeps_attempt {n : Nat} (h : Kept z s) : Kept z (attempt s n) := keeps_ite (keeps_raise h) h

theorem keeps_beginRetrain {n cause : Nat} (h : Kept z s) : Kept z (beginRetrain s n cause) :=
  keeps_ite h (keeps_attempt (keeps_moveStreams (keeps_fields h)))

theorem keeps_execLinkBlockLockLoss {link : Nat} (h : Kept z s) : KeptNext z (execLinkBlockLockLoss link s) :=
  keptNext_next (keeps_ite (keeps_beginRetrain h) h)

theorem keeps_execLinkReplayRate {link frames : Nat} (h : Kept z s) : KeptNext z (execLinkReplayRate link frames s) :=
  keptNext_next (keeps_ite h (keeps_ite (keeps_beginRetrain (keeps_fields h)) (keeps_fields h)))

theorem keeps_requestRetrain {n : Nat} (h : Kept z s) : Kept z (requestRetrain s n) :=
  keeps_ite (keeps_with (keeps_beginRetrain h)) h

theorem keeps_execLinkRetrainRequest {fn link : Nat} (h : Kept z s) : KeptNext z (execLinkRetrainRequest fn link s) :=
  keptNext_next (keeps_guardWrite (fun _ ht => keeps_requestRetrain ht) h)

theorem keeps_execLinkRetrainDone {link : Nat} {ok : Bool} (h : Kept z s) : KeptNext z (execLinkRetrainDone link ok s) := by
  unfold execLinkRetrainDone
  dsimp only
  refine keptNext_next ?_
  split
  · exact h
  split
  · exact keeps_fields h
  · exact keeps_ite (keeps_moveStreams (keeps_post (keeps_fields h))) (keeps_attempt (keeps_fields h))

theorem keeps_answerLink {n v : Nat} (h : Kept z s) : Kept z (answerLink s n v) := by
  unfold answerLink
  dsimp only
  refine keeps_answer (fun x t1 ht1 => ?_) h
  split
  · exact keptSome_some ht1
  · exact keptSome_some (keeps_moveStreams (keeps_fields ht1))
  · exact keptSome_none

theorem keeps_execLinkRetrainAnswer {fn link : Nat} {value : W32} (h : Kept z s) :
    KeptNext z (execLinkRetrainAnswer fn link value s) := keptNext_next (keeps_guardWrite (fun _ ht => keeps_answerLink ht) h)

/-! ### Memory -/

theorem keeps_execCrcRetryExhausted {channel addr : Nat} (h : Kept z s) :
    KeptNext z (execCrcRetryExhausted channel addr s) := by
  unfold execCrcRetryExhausted
  dsimp only
  refine keptNext_next ?_
  split
  · exact h
  split
  · exact keeps_raise (keeps_with (keeps_with (keeps_with (keeps_with (keeps_ite (keeps_fields h) h)))))
  · exact keeps_with (keeps_with (keeps_with (keeps_with (keeps_ite (keeps_fields h) h))))

theorem keeps_returnChannel {c rate : Nat} (h : Kept z s) : Kept z (returnChannel s c rate) := by
  unfold returnChannel
  dsimp only
  split
  · split
    · split
      · split
        · exact keeps_post (keeps_with (keeps_post (keeps_fields h)))
        · exact keeps_with (keeps_post (keeps_with (keeps_post (keeps_fields h))))
      · exact keeps_ite (keeps_post (keeps_fields h)) (keeps_with (keeps_post (keeps_fields h)))
    split
    · split
      · exact keeps_post (keeps_with (keeps_post (keeps_fields h)))
      · exact keeps_with (keeps_post (keeps_with (keeps_post (keeps_fields h))))
    · exact keeps_ite (keeps_post (keeps_fields h)) (keeps_with (keeps_post (keeps_fields h)))
  · exact keeps_ite (keeps_post (keeps_with (keeps_post (keeps_fields h)))) (keeps_post (keeps_fields h))

theorem keeps_loseTwinned (h : Kept z s) : Kept z (loseTwinned s) := by
  unfold loseTwinned
  split
  · exact keeps_abandonRepairs (keeps_with (keeps_sendTwin h))
  · exact keeps_fields h
  · exact h

theorem keeps_loseChannel {c : Nat} (h : Kept z s) : Kept z (loseChannel s c) :=
  keeps_kickUpdates (keeps_loseTwinned (keeps_post (keeps_fields h)))

theorem keeps_resumeChannel {c : Nat} (h : Kept z s) : Kept z (resumeChannel s c) := keeps_post (keeps_fields h)

theorem keeps_execChannelRetrainDone {channel rate : Nat} (h : Kept z s) :
    KeptNext z (execChannelRetrainDone channel rate s) := by
  unfold execChannelRetrainDone
  dsimp only
  refine keptNext_next ?_
  split
  · exact h
  split
  · split
    · exact h
    split
    · exact keeps_drainRecovery (keeps_resumeChannel h)
    split
    · exact keeps_sleep (keeps_runHeld (keeps_kickUpdates (keeps_resumeChannel h)))
    · exact keeps_runHeld (keeps_kickUpdates (keeps_resumeChannel h))
  split
  · split
    · exact keeps_drainRecovery (keeps_returnChannel h)
    split
    · exact keeps_sleep (keeps_runHeld (keeps_kickUpdates (keeps_returnChannel h)))
    · exact keeps_runHeld (keeps_kickUpdates (keeps_returnChannel h))
  split
  · split
    · exact keeps_drainRecovery (keeps_loseChannel h)
    split
    · exact keeps_sleep (keeps_runHeld (keeps_kickUpdates (keeps_loseChannel h)))
    · exact keeps_runHeld (keeps_kickUpdates (keeps_loseChannel h))
  · exact keeps_fields h

theorem keeps_answerMem {m v : Nat} (h : Kept z s) : Kept z (answerMem s m v) := by
  unfold answerMem
  refine keeps_answer (fun h1 t1 ht1 => ?_) h
  split
  · exact keptSome_some ht1
  split
  · exact keptSome_some (keeps_fields ht1)
  · exact keptSome_none

theorem keeps_execMemRetrainAnswer {fn unit : Nat} {value : W32} (h : Kept z s) :
    KeptNext z (execMemRetrainAnswer fn unit value s) := keptNext_next (keeps_guardWrite (fun _ ht => keeps_answerMem ht) h)

theorem keeps_requestMemory {m : Nat} (h : Kept z s) : Kept z (requestMemory s m) :=
  keeps_ite h (kept_foldl (fun _ _ ht => keeps_fields ht) _ _ (keeps_fields h))

theorem keeps_execMemRetrainRequest {fn unit : Nat} (h : Kept z s) : KeptNext z (execMemRetrainRequest fn unit s) :=
  keptNext_next (keeps_guardWrite (fun _ ht => keeps_requestMemory ht) h)

theorem keeps_scrubBad {a : Nat} (h : Kept z s) : Kept z (scrubBad s a) := by
  unfold scrubBad
  dsimp only
  split
  · exact keeps_repairItem (keeps_with (keeps_noteUE h))
  · exact keeps_with (keeps_noteUE h)

theorem keeps_execPatrolScrub {addr : Nat} {read : ScrubRead} (h : Kept z s) : KeptNext z (execPatrolScrub addr read s) :=
  keptNext_next (keeps_ite h (keeps_ite (keeps_scrubBad (keeps_meetSector h)) (keeps_meetSector h)))

theorem keeps_execI3cDynamicAddress {address : Nat} (h : Kept z s) : KeptNext z (execI3cDynamicAddress address s) :=
  keptNext_next (keeps_ite (keeps_fields h) h)

theorem keeps_execI3cRegisterRead {address offset : Nat} (h : Kept z s) : KeptNext z (execI3cRegisterRead address offset s) :=
  keptNext_next (keeps_ite h (keeps_ite (keeps_fields h) (keeps_with (keeps_read32 h))))

theorem keeps_writeFields {b : Blk} {i off v : Nat} (h : Kept z s) : Kept z (writeFields s b i off v) :=
  keeps_ite (keeps_fields h) (keeps_ite h (keeps_fields h))

theorem keeps_execI3cRegisterWrite {address offset : Nat} {value : W32} (h : Kept z s) :
    KeptNext z (execI3cRegisterWrite address offset value s) := by
  unfold execI3cRegisterWrite
  refine keptNext_next ?_
  split
  · exact h
  split
  · exact keeps_fields h
  split
  · exact keeps_with (keeps_writeFields h)
  · exact keeps_ite (keeps_with (keeps_writeFields h)) (keeps_fields h)

theorem keeps_smbus {n v : Nat} (h : Kept z s) : KeptNext z (smbus s n v) := keptNext_next (keeps_ite (keeps_fields h) h)

theorem keeps_execSmbusReadPart (h : Kept z s) : KeptNext z (execSmbusReadPart s) := keeps_smbus h

theorem keeps_execSmbusReadSerial (h : Kept z s) : KeptNext z (execSmbusReadSerial s) := keeps_smbus h

theorem keeps_execSmbusReadJunction (h : Kept z s) : KeptNext z (execSmbusReadJunction s) := keeps_smbus h

theorem keeps_execSmbusReadPower (h : Kept z s) : KeptNext z (execSmbusReadPower s) := keeps_smbus h

theorem keeps_execSmbusReadState (h : Kept z s) : KeptNext z (execSmbusReadState s) := keeps_smbus h

theorem keeps_execSmbusReadTstStat (h : Kept z s) : KeptNext z (execSmbusReadTstStat s) := keeps_smbus h

/-! ### Registers -/

theorem keeps_writeAnswer {b : Blk} {i v : Nat} (h : Kept z s) : Kept z (writeAnswer s b i v) := by
  unfold writeAnswer
  split
  · exact keeps_answerMem h
  · exact keeps_answerLink h
  · exact keeps_answerRel h
  · exact keeps_ite (keeps_answerSwitch h) (keeps_fields h)
  · exact keeps_ite (keeps_answerMgt h) (keeps_fields h)
  · exact keeps_ite (keeps_answerPwr h) (keeps_fields h)
  · exact keeps_fields h

theorem keeps_writeReset {b : Blk} {i : Nat} (h : Kept z s) : Kept z (writeReset s b i) := by
  unfold writeReset
  split
  · exact keeps_startRecovery h
  · exact keeps_requestMemory h
  · exact keeps_requestRetrain h
  · exact keeps_requestReset h

theorem keeps_writeHif {off v : Nat} (h : Kept z s) : Kept z (writeHif s off v) := by
  unfold writeHif
  split
  · exact keeps_writeAdminCtl h
  · exact keeps_writeEventHead h
  · exact keeps_writeHandHead h
  · exact keeps_ite (keeps_writeGo h) h
  · exact keeps_writeFields h

theorem keeps_writeWord {b : Blk} {i off v : Nat} (h : Kept z s) : Kept z (writeWord s b i off v) := by
  unfold writeWord
  split
  · exact h
  split
  · exact keeps_ite (keeps_writeReset h) h
  · exact keeps_writeAnswer h
  · exact keeps_ite (keeps_writeHif h) (keeps_writeFields h)

theorem keeps_writePage {fn : Nat} {b : Blk} {i off v : Nat} (h : Kept z s) : Kept z (writePage s fn b i off v) :=
  keeps_guardWrite (fun _ ht => keeps_writeWord ht) h

theorem keeps_execRegisterWrite {fn offset width : Nat} {value : W64} (h : Kept z s) :
    KeptNext z (execRegisterWrite fn offset width value s) := by
  unfold execRegisterWrite
  dsimp only
  refine keptNext_next ?_
  split
  · exact h
  split
  · exact keeps_fields h
  · exact keeps_ite (keeps_fields h) (keeps_ite (keeps_writePage (keeps_writePage h)) (keeps_writePage h))

theorem keeps_readNarrow {offset width : Nat} (h : Kept z s) : Kept z (readNarrow s offset width).1 :=
  keeps_ite (keeps_fields h) h

theorem keeps_readAccess {offset width : Nat} (h : Kept z s) : Kept z (readAccess s offset width).1 := by
  unfold readAccess
  split
  · exact keeps_read32 h
  split
  · exact keeps_read64 h
  · exact keeps_readNarrow h

theorem keeps_execPairLowHalfRead {_fn : Nat} {read : ReadAt} (h : Kept z s) : KeptNext z (execPairLowHalfRead _fn read s) :=
  keptNext_next (keeps_ite h (keeps_with (keeps_readAccess h)))

end Sys2Proof.Proofs
end

section
/-! What every command and every step leaves alone (O5, O6). -/

namespace Sys2Proof.Proofs

open Sys2Proof Sys2Proof.Machine Sys2Proof.Laws

set_option Elab.async false

variable {z s : State}

/-- Every command answers a next state, and keeps what `Kept` names. -/
theorem keeps_exec (i : Instr) (h : Kept z s) : KeptNext z (exec i s) := by
  unfold exec
  cases i with
  | nop _ => exact keeps_execNop h
  | queueCreate _ => exact keeps_execQueueCreate h
  | queueDelete _ => exact keeps_execQueueDelete h
  | hostRingsSet _ => exact keeps_execHostRingsSet h
  | functionMap _ => exact keeps_execFunctionMap h
  | biasSet _ => exact keeps_execBiasSet h
  | classForm _ _ => exact keeps_execClassForm h
  | twinDetach _ => exact keeps_execTwinDetach h
  | twinAttach _ => exact keeps_execTwinAttach h
  | jobStart _ => exact keeps_execJobStart h
  | jobEnd _ => exact keeps_execJobEnd h
  | gradebookSet _ => exact keeps_execGradebookSet h
  | recessEnter _ => exact keeps_execRecessEnter h
  | secAttest _ => exact keeps_execSecAttest h
  | secIdentityRead _ => exact keeps_execSecIdentityRead h
  | secFirmwareStage _ _ => exact keeps_execSecFirmwareStage h
  | secRollbackCommit _ => exact keeps_execSecRollbackCommit h
  | secDebugChallenge _ => exact keeps_execSecDebugChallenge h
  | secDebugUnlock _ _ => exact keeps_execSecDebugUnlock h
  | secDebugLock _ => exact keeps_execSecDebugLock h
  | programRun _ _ _ => exact keeps_execProgramRun h
  | dmaCopy _ _ => exact keeps_execDmaCopy h
  | objectPlace _ _ => exact keeps_execObjectPlace h
  | objectFree _ => exact keeps_execObjectFree h
  | tableDefine _ => exact keeps_execTableDefine h
  | tableSwitch _ => exact keeps_execTableSwitch h
  | tableStage _ _ => exact keeps_execTableStage h
  | tableRoll _ _ => exact keeps_execTableRoll h
  | embLookup _ => exact keeps_execEmbLookup h
  | embBackward _ => exact keeps_execEmbBackward h
  | shardDefine _ => exact keeps_execShardDefine h
  | optimSet _ => exact keeps_execOptimSet h
  | scaleReset _ => exact keeps_execScaleReset h
  | outlierSet _ _ => exact keeps_execOutlierSet h
  | attRun _ _ => exact keeps_execAttRun h
  | attDecode _ => exact keeps_execAttDecode h
  | kvPoolDefine _ => exact keeps_execKvPoolDefine h
  | kvSeqOpen _ _ => exact keeps_execKvSeqOpen h
  | kvShare _ _ => exact keeps_execKvShare h
  | kvRelease _ _ => exact keeps_execKvRelease h
  | colRingDefine _ => exact keeps_execColRingDefine h
  | colRun _ _ => exact keeps_execColRun h
  | reshard _ _ => exact keeps_execReshard h
  | gradebookLift _ => exact keeps_execGradebookLift h
  | gradebookCompare _ _ => exact keeps_execGradebookCompare h
  | doorbell _ _ _ => exact keeps_execDoorbell h
  | slotRead _ _ _ => exact keeps_execSlotRead h
  | slotReRead _ _ _ => exact keeps_execSlotReRead h
  | completionPost _ _ => exact keeps_execCompletionPost h
  | classCommandRelay _ _ => exact keeps_execClassCommandRelay h
  | memberAnswer _ _ _ _ _ => exact keeps_execMemberAnswer h
  | adminQueueEnable _ _ => exact keeps_execAdminQueueEnable h
  | adminQueueDisable _ _ => exact keeps_execAdminQueueDisable h
  | resumeGo _ => exact keeps_execResumeGo h
  | eventHeadWrite _ _ => exact keeps_execEventHeadWrite h
  | handHeadWrite _ _ => exact keeps_execHandHeadWrite h
  | transcriptHeadWrite _ _ => exact keeps_execTranscriptHeadWrite h
  | twinRepairAnswer _ _ => exact keeps_execTwinRepairAnswer h
  | prescaleAnswer _ _ => exact keeps_execPrescaleAnswer h
  | outlierAnswer _ _ => exact keeps_execOutlierAnswer h
  | silentLayerAnswer _ _ => exact keeps_execSilentLayerAnswer h
  | tableSwitchAnswer _ _ => exact keeps_execTableSwitchAnswer h
  | memRetrainAnswer _ _ _ => exact keeps_execMemRetrainAnswer h
  | linkRetrainAnswer _ _ _ => exact keeps_execLinkRetrainAnswer h
  | substitutionAnswer _ _ => exact keeps_execSubstitutionAnswer h
  | hangEscalationAnswer _ _ => exact keeps_execHangEscalationAnswer h
  | staggeringAnswer _ _ => exact keeps_execStaggeringAnswer h
  | thermalStepAnswer _ _ => exact keeps_execThermalStepAnswer h
  | deviceRecoveryRequest _ => exact keeps_execDeviceRecoveryRequest h
  | functionResetRequest _ _ => exact keeps_execFunctionResetRequest h
  | memRetrainRequest _ _ => exact keeps_execMemRetrainRequest h
  | linkRetrainRequest _ _ => exact keeps_execLinkRetrainRequest h
  | registerWrite _ _ _ _ => exact keeps_execRegisterWrite h
  | pairLowHalfRead _ _ => exact keeps_execPairLowHalfRead h
  | i3cRegisterRead _ _ => exact keeps_execI3cRegisterRead h
  | i3cRegisterWrite _ _ _ => exact keeps_execI3cRegisterWrite h
  | smbusReadPart => exact keeps_execSmbusReadPart h
  | smbusReadSerial => exact keeps_execSmbusReadSerial h
  | smbusReadJunction => exact keeps_execSmbusReadJunction h
  | smbusReadPower => exact keeps_execSmbusReadPower h
  | smbusReadState => exact keeps_execSmbusReadState h
  | smbusReadTstStat => exact keeps_execSmbusReadTstStat h
  | cxlMemRead _ _ => exact keeps_execCxlMemRead h
  | cxlMemWrite _ _ => exact keeps_execCxlMemWrite h
  | cxlSnoop _ => exact keeps_execCxlSnoop h
  | hostLinkTrained _ _ => exact keeps_execHostLinkTrained h
  | hostLinkLoss => exact keeps_execHostLinkLoss h
  | selfReset => exact keeps_execSelfReset h
  | hostLinkReattach => exact keeps_execHostLinkReattach h
  | flrComputeFunction _ => exact keeps_execFlrComputeFunction h
  | flrPf0 => exact keeps_execFlrPf0 h
  | perstAsserted => exact keeps_execPerstAsserted h
  | perstDeasserted _ => exact keeps_execPerstDeasserted h
  | pwrbrkAsserted => exact keeps_execPwrbrkAsserted h
  | pwrbrkReleased => exact keeps_execPwrbrkReleased h
  | auxPowerGood => exact keeps_execAuxPowerGood h
  | mainPgAsserted _ => exact keeps_execMainPgAsserted h
  | mainPgLost => exact keeps_execMainPgLost h
  | ioRailFault _ => exact keeps_execIoRailFault h
  | ioRailRestore _ _ => exact keeps_execIoRailRestore h
  | peerLinkTrainingDone _ _ => exact keeps_execPeerLinkTrainingDone h
  | identityExchange _ _ _ _ _ => exact keeps_execIdentityExchange h
  | linkBlockLockLoss _ => exact keeps_execLinkBlockLockLoss h
  | linkReplayRate _ _ => exact keeps_execLinkReplayRate h
  | linkRetrainDone _ _ => exact keeps_execLinkRetrainDone h
  | reductionPartial _ _ => exact keeps_execReductionPartial h
  | gatherChunk _ _ => exact keeps_execGatherChunk h
  | allToAllBlock _ _ => exact keeps_execAllToAllBlock h
  | lookUpBatch _ _ => exact keeps_execLookUpBatch h
  | lookUpReply _ _ => exact keeps_execLookUpReply h
  | gradientRows _ _ => exact keeps_execGradientRows h
  | reducedGradientTile _ _ _ _ => exact keeps_execReducedGradientTile h
  | updateSecondWrite _ => exact keeps_execUpdateSecondWrite h
  | parcel _ _ _ => exact keeps_execParcel h
  | ringOpen _ _ => exact keeps_execRingOpen h
  | permuteMove _ _ _ => exact keeps_execPermuteMove h
  | lookUpMark _ => exact keeps_execLookUpMark h
  | stepCloseContribution _ _ => exact keeps_execStepCloseContribution h
  | acknowledgement _ _ _ _ => exact keeps_execAcknowledgement h
  | reject _ _ _ _ _ => exact keeps_execReject h
  | abortNotice _ _ _ => exact keeps_execAbortNotice h
  | removalNotice _ _ _ => exact keeps_execRemovalNotice h
  | reAdmissionNotice _ _ _ => exact keeps_execReAdmissionNotice h
  | reservedMessage _ => exact keeps_execReservedMessage h
  | twinHeartbeat _ => exact keeps_execTwinHeartbeat h
  | heartbeatSend => exact keeps_execHeartbeatSend h
  | twinLossTimeout => exact keeps_execTwinLossTimeout h
  | recoveryNotice _ _ _ => exact keeps_execRecoveryNotice h
  | digest _ _ _ => exact keeps_execDigest h
  | granuleHashes _ _ _ _ => exact keeps_execGranuleHashes h
  | repairStepProposal _ _ _ _ _ => exact keeps_execRepairStepProposal h
  | repairCopy _ _ _ _ => exact keeps_execRepairCopy h
  | twinServeRequest _ _ _ _ _ => exact keeps_execTwinServeRequest h
  | enrolmentStart => exact keeps_execEnrolmentStart h
  | jobState _ _ => exact keeps_execJobState h
  | enrolmentSegment _ _ _ _ => exact keeps_execEnrolmentSegment h
  | enrolmentCutOver => exact keeps_execEnrolmentCutOver h
  | recessNotice _ => exact keeps_execRecessNotice h
  | wakeNotice _ => exact keeps_execWakeNotice h
  | retryTimeout _ _ => exact keeps_execRetryTimeout h
  | matrixPass _ _ => exact keeps_execMatrixPass h
  | tileCopy _ => exact keeps_execTileCopy h
  | vectorOperation _ _ => exact keeps_execVectorOperation h
  | specialFunction _ _ _ _ _ _ _ => exact keeps_execSpecialFunction h
  | trayRelease _ => exact keeps_execTrayRelease h
  | streamIn _ _ => exact keeps_execStreamIn h
  | gather _ _ => exact keeps_execGather h
  | offload _ _ => exact keeps_execOffload h
  | fetch _ _ => exact keeps_execFetch h
  | send _ _ _ _ _ _ _ => exact keeps_execSend h
  | transferComplete _ _ => exact keeps_execTransferComplete h
  | boundary _ _ _ => exact keeps_execBoundary h
  | coreFault _ => exact keeps_execCoreFault h
  | substituteSeat _ => exact keeps_execSubstituteSeat h
  | coreSubstituted _ => exact keeps_execCoreSubstituted h
  | hallPassGrant _ => exact keeps_execHallPassGrant h
  | hallPassRelease _ => exact keeps_execHallPassRelease h
  | domainClockStop _ => exact keeps_execDomainClockStop h
  | powerReading _ => exact keeps_execPowerReading h
  | thermalReading _ => exact keeps_execThermalReading h
  | reportCard => exact keeps_execReportCard h
  | autoRecess => exact keeps_execAutoRecess h
  | wake => exact keeps_execWake h
  | hallMonitorCheck => exact keeps_execHallMonitorCheck h
  | functionReset _ _ => exact keeps_execFunctionReset h
  | deviceRecovery _ _ => exact keeps_execDeviceRecovery h
  | recoveryReturn => exact keeps_execRecoveryReturn h
  | crcRetryExhausted _ _ => exact keeps_execCrcRetryExhausted h
  | channelRetrainDone _ _ => exact keeps_execChannelRetrainDone h
  | patrolScrub _ _ => exact keeps_execPatrolScrub h
  | stepClose => exact keeps_execStepClose h
  | stepCloseExchangeDone _ => exact keeps_execStepCloseExchangeDone h
  | gradebookExchangeDone _ => exact keeps_execGradebookExchangeDone h
  | outlierSelection _ _ => exact keeps_execOutlierSelection h
  | stampRenewal _ _ => exact keeps_execStampRenewal h
  | reshardDrain => exact keeps_execReshardDrain h
  | reshardPermute => exact keeps_execReshardPermute h
  | reshardDone => exact keeps_execReshardDone h
  | transcriptSweep _ => exact keeps_execTranscriptSweep h
  | auxPowerLost => exact keeps_execAuxPowerLost h
  | assertionNotTaken _ => exact keeps_execAssertionNotTaken h
  | servedCopy _ _ _ => exact keeps_execServedCopy h
  | routedItem _ _ _ => exact keeps_execRoutedItem h
  | enrolmentAgree _ => exact keeps_execEnrolmentAgree h
  | i3cDynamicAddress _ => exact keeps_execI3cDynamicAddress h

/-! ### One step -/

theorem step_of_pending_nil (h : s.pending = []) : step s = .next (idle s) := by rw [step, h]

theorem step_of_pending_cons {c : Instr} {rest : List Instr} (h : s.pending = c :: rest) :
    step s = exec c { s with pending := rest } := by rw [step, h]

/-- A step answers a next state, which the state without its front command leads to. -/
theorem step_keeps (s : State) : KeptNext { s with pending := s.pending.tail } (step s) := by
  cases h : s.pending with
  | nil =>
    rw [step_of_pending_nil h]
    exact keptNext_next (keeps_idle ⟨h, rfl, id⟩)
  | cons c rest =>
    rw [step_of_pending_cons h]
    exact keeps_exec c (kept_refl _)

/-- Settles O6: every command keeps the queue of waiting commands and the part, and so a step takes the front command only. -/
theorem everyStepTakesTheFrontCommandOnly : Obligations.EveryStepTakesTheFrontCommandOnly := by
  refine ⟨fun i s => ?_, fun s => ?_⟩
  · obtain ⟨t, ht, hk⟩ := keeps_exec i (kept_refl s)
    exact ⟨t, ht, hk.pending, hk.part⟩
  · obtain ⟨t, ht, hk⟩ := step_keeps s
    exact ⟨t, ht, hk.pending, hk.part⟩

/-- Settles O5: a step keeps the canonical form of memory, since every command does. -/
theorem everyStepKeepsMemoryCanonical : Obligations.EveryStepKeepsMemoryCanonical := by
  intro s t hinv hstep
  obtain ⟨u, hu, hk⟩ := step_keeps s
  obtain rfl : u = t := by simpa [hu] using hstep
  exact hk.mem hinv

end Sys2Proof.Proofs
end

section
/-! The machine and its memory (O1 to O4, O7): a step, a tick, reset, and what a write of device memory leaves. -/

namespace Sys2Proof.Proofs

open Sys2Proof Sys2Proof.Machine Sys2Proof.Laws

/-- Settles O1: this is what a step is. -/
theorem stepRunsTheFrontCommand : Obligations.StepRunsTheFrontCommand := fun _ _ _ => step_of_pending_cons rfl

/-! ### A tick (R336, R349, R352) -/

/-- Registers counted one after another: nothing else changes, and no register but theirs. -/
theorem foldl_bump_only {α : Type} (b : Blk) (i : α → Nat) (off lo w n : Nat) (keys : List Nat) :
    ∀ (l : List α) (s : State), (∀ t x, x ∈ l → regKey t b (i x) off ∈ keys) →
      l.foldl (fun t x => bump t b (i x) off lo w n) s = { s with regs := (l.foldl (fun t x => bump t b (i x) off lo w n) s).regs } ∧
        SameRegs s (l.foldl (fun t x => bump t b (i x) off lo w n) s) keys
  | [], s, _ => ⟨rfl, SameRegs.refl s keys⟩
  | x :: l, s, h => by
    obtain ⟨honly, hregs⟩ := foldl_bump_only b i off lo w n keys l (bump s b (i x) off lo w n)
      fun t y hy => h t y (List.mem_cons_of_mem x hy)
    exact ⟨honly, (sameRegs_setReg (h s x List.mem_cons_self)).trans hregs⟩

theorem idle_of_no_aux {s : State} (h : s.pwr.auxGood = false) : idle s = s := by rw [idle, h]; rfl

/-- Settles O2: with nothing waiting a step is `idle`, whose counts are those of the dies with a waiting request. -/
theorem emptyQueueStepIsOneTick : Obligations.EmptyQueueStepIsOneTick := by
  intro s hs
  rw [step_of_pending_nil hs]
  refine ⟨fun haux => by rw [idle_of_no_aux haux], fun haux => ⟨_, rfl, ?_⟩⟩
  have hcount := foldl_bump_only .pwr (fun d => 1 + d) 0x108 0 32 1 ((List.range 8).map fun d => pageOf .pwr (1 + d) + 0x108)
    ((List.range 8).filter fun d => s.pwr.requests.any fun c => c.2 / 34 = d) { s with tick := s.tick + 1 }
    fun t d hd => List.mem_map_of_mem (f := fun d => pageOf .pwr (1 + d) + 0x108) (List.mem_of_mem_filter hd)
  obtain ⟨honly, hregs⟩ := hcount
  rw [idle, haux]
  have htick := congrArg State.tick honly
  exact ⟨htick, by rw [← htick] at honly; exact honly, hregs⟩

/-! ### Reset and memory -/

/-- Settles O3: the reset state is plain data, and its registers hold nothing yet. -/
theorem resetLeavesTheTablesResetValues : Obligations.ResetLeavesTheTablesResetValues := by
  refine ⟨rfl, rfl, rfl, rfl, rfl, rfl, ?_⟩
  decide

/-- Settles O4: reset memory lists nothing. -/
theorem resetMemoryIsCanonical : Obligations.ResetMemoryIsCanonical := rfl

/-- Settles O7: memory reads back by the rule on written bytes; the rest is what `devWrite` names. -/
theorem deviceWriteReadsBack : Obligations.DeviceWriteReadsBack :=
  fun _ a bs h => ⟨wf_devWrite a bs h, fun x => readByte_writeBytes h a x bs, rfl⟩

end Sys2Proof.Proofs
end

section
/-! Queues and completion records (O8 to O12): what a queue holds after a record is written into its ring, how held records drain,
doorbells, and slots with their identifiers (R292 to R295). -/

namespace Sys2Proof.Proofs

open Sys2Proof Sys2Proof.Machine Sys2Proof.Laws

variable {s : State} {fn qn : Nat} {q : Queue} {c : HostCmd}

/-! ### Commands that may run -/

theorem runCmd_of_ready {op : Nat} {body : State → State} (h : ready s op c = true) : runCmd s op c body = .next (body s) := by
  rw [runCmd, if_pos h]

/-! ### The queue under a number -/

theorem queueOf_setQueue_self {x : Queue} (h : queueOf s fn qn = some q) (hfn : x.fn = q.fn) (hqn : x.queue = q.queue) :
    queueOf (setQueue s x) fn qn = some x := by
  obtain ⟨rfl, rfl⟩ := queueOf_fn h
  have hkey : (fun y : Queue => decide (y.fn = q.fn) && decide (y.queue = q.queue)) ∘
      (fun y => if (decide (y.fn = x.fn) && decide (y.queue = x.queue)) = true then x else y) =
      fun y => decide (y.fn = q.fn) && decide (y.queue = q.queue) := by
    funext y
    simp only [Function.comp, hfn, hqn]
    split
    · rename_i hy
      rw [hy, hfn, hqn]
      simp
    · rfl
  have hfind : s.hif.queues.find? (fun y => decide (y.fn = q.fn) && decide (y.queue = q.queue)) = some q := h
  simp only [queueOf, setQueue, setHif, List.find?_map, hkey, hfind]
  simp [hfn, hqn]

/-- Two writes of one queue are the later one. -/
theorem setQueue_setQueue {x y : Queue} (hfn : y.fn = x.fn) (hqn : y.queue = x.queue) :
    setQueue (setQueue s x) y = setQueue s y := by
  simp only [setQueue, setHif, List.map_map, hfn, hqn]
  congr 2
  refine List.map_congr_left fun z _ => ?_
  simp only [Function.comp]
  by_cases hz : z.fn = x.fn ∧ z.queue = x.queue
  · simp [hz]
  · have hz' : (decide (z.fn = x.fn) && decide (z.queue = x.queue)) = false := by simpa using hz
    simp [hz']

/-! ### A record posted with room in its ring -/

/-- A queue with its next record written: the tail moves on, and PHASE turns where it passes the ring's end (R295). -/
def afterRecord (q : Queue) : Queue :=
  { q with cqTail := (q.cqTail + 1) % 2 ^ q.log2, phase := if (q.cqTail + 1) % 2 ^ q.log2 = 0 then !q.phase else q.phase }

theorem queueOf_writeCompletion {x : Queue} {base : Nat} {r : Completion} (h : queueOf s fn qn = some q) (hfn : x.fn = q.fn)
    (hqn : x.queue = q.queue) : queueOf (writeCompletion s x base r) fn qn = some (afterRecord x) :=
  queueOf_setQueue_self (s := hostWrite s _) (x := afterRecord x) h hfn hqn

theorem hostOut_writeCompletion (s : State) (q : Queue) (base : Nat) (r : Completion) :
    (writeCompletion s q base r).hostOut =
      s.hostOut ++ [.completion (base + 32 * q.cqTail) { r with phase := q.phase, sqHead := q.head }] := rfl

theorem postCompletion_of_room {base : Nat} {r : Completion} (h : queueOf s r.fn r.queue = some q) (hup : s.hif.detached = false)
    (hheld : q.held = []) (hroom : cqUnread q < 2 ^ q.log2 - 1) : postCompletion s base r = writeCompletion s q base r := by
  have hwait : ¬ ((!q.held.isEmpty || decide (cqUnread q ≥ 2 ^ q.log2 - 1)) = true) := by simp [hheld]; omega
  have haway : ¬ (hostAway s = true) := by simp [hostAway, hup]
  simp only [postCompletion, h]
  rw [if_neg haway, if_neg hwait]

theorem duplicates_postCompletion (s : State) (base : Nat) (r : Completion) :
    (postCompletion s base r).hif.duplicates = s.hif.duplicates := by
  unfold postCompletion
  split
  · rfl
  · split
    · rfl
    · split <;> rfl

@[simp] theorem hostOut_dropDuplicates (s : State) (ds : List HostCmd) : (dropDuplicates s ds).hostOut = s.hostOut := rfl

@[simp] theorem queueOf_dropDuplicates (s : State) (ds : List HostCmd) (fn qn : Nat) :
    queueOf (dropDuplicates s ds) fn qn = queueOf s fn qn := rfl

@[simp] theorem hostOut_setQueue (s : State) (q : Queue) : (setQueue s q).hostOut = s.hostOut := rfl

@[simp] theorem duplicatesOf_setQueue (s : State) (q : Queue) (c : HostCmd) : duplicatesOf (setQueue s q) c = duplicatesOf s c := rfl

@[simp] theorem duplicatesOf_unrun (s : State) (d c : HostCmd) : duplicatesOf (unrun s d) c = duplicatesOf s c := rfl

@[simp] theorem duplicatesOf_writeCompletion (s : State) (q : Queue) (base : Nat) (r : Completion) (c : HostCmd) :
    duplicatesOf (writeCompletion s q base r) c = duplicatesOf s c := rfl

/-! ### NOP -/

theorem exec_nop (h : ready s 0x0001 c = true) : exec (.nop c) s = .next (done s c) := by
  change execNop c s = _
  exact runCmd_of_ready h

theorem remember_done {d : Nat × Nat × Nat} (h : queueOf s c.fn c.queue = some q) :
    remember s c (some d) = setQueue s { q with history := histSet q.history c.slot.requestId (some d) } := by
  simp [remember, h]

theorem adminCheck_of_not_pending (h : s.hif.adminPending = false) : adminCheck s = s := by
  simp [adminCheck, h]

/-- The completion of a command with room in its ring and without duplicates is its record in the history and one record in the
ring. -/
theorem finish_of_room {d0 d1 st : Nat} (h : queueOf s c.fn c.queue = some q) (hup : s.hif.detached = false) (hheld : q.held = [])
    (hroom : cqUnread q < 2 ^ q.log2 - 1) (hdup : duplicatesOf s c = []) (hadmin : s.hif.adminPending = false) (hst : st ≠ 0x30) :
    finish s c st d0 d1 = dropDuplicates (writeCompletion
      (setQueue (unrun s c) { q with history := histSet q.history c.slot.requestId (some (st, d0, d1)) })
      { q with history := histSet q.history c.slot.requestId (some (st, d0, d1)) } c.cqBase (completionOf c st st d0 d1)) [] := by
  have hrec : recorded s c st d0 d1 = writeCompletion
      (setQueue (unrun s c) { q with history := histSet q.history c.slot.requestId (some (st, d0, d1)) })
      { q with history := histSet q.history c.slot.requestId (some (st, d0, d1)) } c.cqBase (completionOf c st st d0 d1) := by
    have hq : queueOf (unrun s c) c.fn c.queue = some q := h
    rw [recorded, remember_done hq]
    exact postCompletion_of_room (queueOf_setQueue_self hq rfl rfl) hup hheld hroom
  have hnone : duplicatesOf (recorded s c st d0 d1) c = [] := by
    rw [hrec, duplicatesOf_writeCompletion, duplicatesOf_setQueue, duplicatesOf_unrun, hdup]
  unfold finish
  dsimp only
  rw [hnone, if_neg hst, hrec, List.foldl_nil]
  exact adminCheck_of_not_pending hadmin

/-- What NOP leaves with room in its ring: one record at the tail. -/
theorem done_of_room (h : queueOf s c.fn c.queue = some q) (hup : s.hif.detached = false) (hheld : q.held = [])
    (hroom : cqUnread q < 2 ^ q.log2 - 1) (hdup : duplicatesOf s c = []) (hadmin : s.hif.adminPending = false) :
    (done s c).hostOut = s.hostOut ++ [.completion (c.cqBase + 32 * q.cqTail)
      ⟨c.fn, c.queue, c.slot.requestId, 0, 0, q.phase, q.head, c.index, 0, 0⟩] ∧
    queueOf (done s c) c.fn c.queue =
      some (afterRecord { q with history := histSet q.history c.slot.requestId (some (0, 0, 0)) }) := by
  have hrecord := queueOf_setQueue_self (s := unrun s c)
    (x := { q with history := histSet q.history c.slot.requestId (some (0, 0, 0)) }) h rfl rfl
  rw [done, finish_of_room h hup hheld hroom hdup hadmin (by decide)]
  constructor
  · rw [hostOut_dropDuplicates, hostOut_writeCompletion, hostOut_setQueue]
    rfl
  · rw [queueOf_dropDuplicates]
    exact queueOf_writeCompletion hrecord rfl rfl

/-- Settles O8: with room the one record of NOP stands at the ring's tail, and the tail moves on behind it. -/
theorem nopPostsOneCompletionRecord : Obligations.NopPostsOneCompletionRecord := by
  unfold Obligations.NopPostsOneCompletionRecord
  intro c s h
  refine ⟨endsIn_done (exec_nop h), fun q hq hup hheld hroom hdup hadmin => ⟨done s c, exec_nop h, ?_⟩⟩
  obtain ⟨hout, hqueue⟩ := done_of_room hq hup hheld hroom hdup hadmin
  exact ⟨hout, _, hqueue, rfl, rfl⟩

end Sys2Proof.Proofs
end

section
/-! Held records, ring heads and doorbells (O9, O10). -/

namespace Sys2Proof.Proofs

open Sys2Proof Sys2Proof.Machine Sys2Proof.Laws

variable {s t : State} {fn qn : Nat} {q : Queue}

/-! ### Held records drain (R295) -/

/-- From s to t records of a queue are written and nothing else: of the queue itself only what it holds, its tail and its PHASE. -/
structure Drains (s t : State) (fn qn : Nat) : Prop where
  queue : ∀ q, queueOf s fn qn = some q →
    ∃ q', queueOf t fn qn = some q' ∧ q' = { q with held := q'.held, cqTail := q'.cqTail, phase := q'.phase }
  regs : SameRegs s t (endRegs fn)
  rest : t = { s with hif := t.hif, regs := t.regs, hostOut := t.hostOut }
  hif : t.hif = { s.hif with queues := t.hif.queues }

theorem Drains.refl (s : State) (fn qn : Nat) : Drains s s fn qn := ⟨fun q h => ⟨q, h, rfl⟩, SameRegs.refl _ _, rfl, rfl⟩

theorem Drains.trans {a b c : State} (h : Drains a b fn qn) (g : Drains b c fn qn) : Drains a c fn qn := by
  refine ⟨fun q hq => ?_, h.regs.trans g.regs,
    g.rest.trans (congrArg (fun x => { x with hif := c.hif, regs := c.regs, hostOut := c.hostOut }) h.rest),
    g.hif.trans (congrArg (fun x => { x with queues := c.hif.queues }) h.hif)⟩
  obtain ⟨q1, hq1, h1⟩ := h.queue q hq
  obtain ⟨q2, hq2, h2⟩ := g.queue q1 hq1
  exact ⟨q2, hq2, by rw [h2, h1]⟩

theorem drains_writeCompletion {rest : List Completion} {base : Nat} {r : Completion} (h : queueOf s fn qn = some q) :
    Drains s (writeCompletion s { q with held := rest } base r) fn qn where
  queue q' hq' := by
    obtain rfl := Option.some.inj (h.symm.trans hq')
    exact ⟨_, queueOf_writeCompletion h rfl rfl, rfl⟩
  regs := (queueOf_fn h).1 ▸ (ends_writeCompletion s { q with held := rest } base r).regs
  rest := (ends_writeCompletion s { q with held := rest } base r).rest
  hif := rfl

theorem drains_drainCompletions (n : Nat) (s : State) : Drains s (drainCompletions n fn qn s) fn qn := by
  induction n generalizing s with
  | zero => exact Drains.refl s fn qn
  | succ n ih =>
    unfold drainCompletions
    split
    · exact Drains.refl s fn qn
    rename_i hq
    split
    · exact Drains.refl s fn qn
    split
    · exact Drains.refl s fn qn
    · exact (drains_writeCompletion hq).trans (ih _)

/-- Where a write leaves the unread count below the ring's size, it counts one more. -/
theorem cqUnread_afterRecord (hhead : q.cqHead < 2 ^ q.log2) (hroom : cqUnread q < 2 ^ q.log2 - 1) :
    cqUnread (afterRecord q) = cqUnread q + 1 := by
  change ((q.cqTail + 1) % 2 ^ q.log2 + 2 ^ q.log2 - q.cqHead) % 2 ^ q.log2 = (q.cqTail + 2 ^ q.log2 - q.cqHead) % 2 ^ q.log2 + 1
  have hu : (q.cqTail + 2 ^ q.log2 - q.cqHead) % 2 ^ q.log2 < 2 ^ q.log2 - 1 := hroom
  generalize 2 ^ q.log2 = n at *
  have hsum : ((q.cqTail + 1) % n + n - q.cqHead) % n = (q.cqTail + n - q.cqHead + 1) % n := by
    rw [Nat.add_sub_assoc hhead.le, Nat.mod_add_mod]
    congr 1
    omega
  rw [hsum, Nat.add_mod, Nat.mod_eq_of_lt (a := 1) (by omega), Nat.mod_eq_of_lt (by omega)]

/-- What draining writes: as many of the held records as there is room for, in order, each with the queue's head. -/
theorem drainCompletions_writes (h : queueOf s fn qn = some q) (hup : s.hif.detached = false) (hhead : q.cqHead < 2 ^ q.log2) :
    ∃ q' ws, queueOf (drainCompletions q.held.length fn qn s) fn qn = some q' ∧
      (drainCompletions q.held.length fn qn s).hostOut = s.hostOut ++ ws ∧
      q'.held = q.held.drop (2 ^ q.log2 - 1 - cqUnread q) ∧ ws.length = min q.held.length (2 ^ q.log2 - 1 - cqUnread q) ∧
      ∀ (i : Nat) (w : HostWrite) (c : Completion), ws[i]? = some w → q.held[i]? = some c →
        ∃ a p, w = HostWrite.completion a { c with phase := p, sqHead := q.head } := by
  generalize hl : q.held = l
  induction l generalizing s q with
  | nil => exact ⟨q, [], h, (List.append_nil _).symm, by simp [hl], rfl, nofun⟩
  | cons c rest ih =>
    simp only [List.length_cons, drainCompletions, h, hl, hostAway, hup, Bool.false_or, decide_eq_true_eq]
    split
    · rename_i hfull
      have hnone : 2 ^ q.log2 - 1 - cqUnread q = 0 := Nat.sub_eq_zero_of_le hfull
      exact ⟨q, [], h, (List.append_nil _).symm, by simp [hnone, hl], by simp [hnone], nofun⟩
    rename_i hroom
    have hcount := cqUnread_afterRecord (q := { q with held := rest }) hhead (not_le.mp hroom)
    have hwritten := queueOf_writeCompletion (x := { q with held := rest }) (base := q.cqBase) (r := c) h rfl rfl
    obtain ⟨q', ws, hq', hout, hheld, hlen, hall⟩ := ih hwritten hup hhead rfl
    have hleft : 2 ^ q.log2 - 1 - cqUnread q = 2 ^ q.log2 - 1 - (cqUnread q + 1) + 1 := by omega
    have hcount' : cqUnread (afterRecord { q with held := rest }) = cqUnread q + 1 := hcount
    rw [hcount'] at hheld hlen
    refine ⟨q', .completion (q.cqBase + 32 * q.cqTail) { c with phase := q.phase, sqHead := q.head } :: ws, hq', ?_, ?_, ?_, ?_⟩
    · rw [hout, hostOut_writeCompletion, List.append_assoc]
      rfl
    · rw [hheld, hleft]
      rfl
    · rw [List.length_cons, hlen, hleft]
      exact (Nat.add_min_add_right _ _ _).symm
    · intro i w x hw hx
      cases i with
      | zero =>
        obtain rfl := Option.some.inj hw
        obtain rfl := Option.some.inj hx
        exact ⟨_, _, rfl⟩
      | succ i => exact hall i w x hw hx

theorem exec_completionPost (h : queueOf s fn qn = some q) :
    exec (.completionPost fn qn) s = .next (drainCompletions q.held.length fn qn s) := by
  change execCompletionPost fn qn s = _
  simp [execCompletionPost, h]

/-! ### Ring heads (R304, R305, R307) -/

/-- PF0 may write every page that is there. -/
theorem guardWrite_pf0 {b : Blk} {i : Nat} {act : State → State} (haux : s.pwr.auxGood = true) (hb : blkPresent s.part b i = true) :
    guardWrite s 0 b i act = act s := by
  simp [guardWrite, haux, hb, mayWrite]

theorem exec_eventHeadWrite (v : W32) (haux : s.pwr.auxGood = true) :
    exec (.eventHeadWrite 0 v) s = .next (writeEventHead s v.toNat) := congrArg Host.Outcome.next (guardWrite_pf0 haux rfl)

theorem exec_handHeadWrite (v : W32) (haux : s.pwr.auxGood = true) :
    exec (.handHeadWrite 0 v) s = .next (writeHandHead s v.toNat) := congrArg Host.Outcome.next (guardWrite_pf0 haux rfl)

theorem exec_transcriptHeadWrite (w : W64) (haux : s.pwr.auxGood = true) :
    exec (.transcriptHeadWrite 0 w) s = .next (setPair64 s .hif 0 0x120 w.toNat) := congrArg Host.Outcome.next (guardWrite_pf0 haux rfl)

theorem kept_setReg_of_ne {b b' : Blk} {i i' off off' v : Nat} (h : regKey s b i off ≠ regKey s b' i' off') :
    kept (setReg s b i off v) b' i' off' = kept s b' i' off' := by
  have hkey : regKey (setReg s b i off v) b' i' off' = regKey s b' i' off' := rfl
  simp only [kept, hkey]
  rw [show mget (setReg s b i off v).regs (regKey s b' i' off') = mget s.regs (regKey s b' i' off') from mget_mput_ne h]

theorem kept_setReg_word (b : Blk) (i off : Nat) (v : W32) : kept (setReg s b i off v.toNat) b i off = v.toNat := by
  rw [kept_setReg, Nat.mod_eq_of_lt v.isLt]

theorem eventUnread_setReg (v : W32) :
    eventUnread (setReg s .hif 0 0x118 v.toNat) = s.hif.eventUnread.filter fun x => seqGe x v.toNat := by
  rw [eventUnread, kept_setReg_word]
  rfl

theorem handUnread_setReg (v : W32) :
    handUnread (setReg s .hif 0 0x11C v.toNat) = s.hif.handUnread.filter fun x => seqGe x v.toNat := by
  rw [handUnread, kept_setReg_word]
  rfl

theorem postLost_of_none_lost (h : s.hif.lostNow = 0) : postLost s = s := by
  unfold postLost
  split
  · rfl
  · rw [if_neg (by simp [h])]

/-- An event with room in its ring is one record at the ring's next place (R304). -/
theorem post_of_room {r : Rings} {b : Blk} {i code : Nat} {items : List Nat} (hr : s.hif.rings = some r)
    (hup : s.hif.detached = false) (hkey : regKey s b i 0x18 ≠ regKey s .hif 0 0x118) (hroom : (eventUnread s).length < 2 ^ r.eventLog2) :
    post s b i code items = writeEvent (setHif (bumpWrap s b i 0x18 1) fun h => { h with eventSeq := h.eventSeq + 1 }) r
      ⟨s.hif.eventSeq, code, blkType b, i % 256, s.tick % 2 ^ 32, s.job.openStep, items⟩ := by
  have hfull : ¬2 ^ r.eventLog2 ≤ (s.hif.eventUnread.filter fun x => seqGe x (kept (bumpWrap s b i 0x18 1) .hif 0 0x118)).length := by
    rw [bumpWrap, kept_setReg_of_ne hkey]
    exact not_le.mpr hroom
  have hrings : (setHif (bumpWrap s b i 0x18 1) fun h => { h with eventSeq := h.eventSeq + 1 }).hif.rings = some r := hr
  have haway : hostAway (setHif (bumpWrap s b i 0x18 1) fun h => { h with eventSeq := h.eventSeq + 1 }) = false := hup
  have hnot : eventFull (setHif (bumpWrap s b i 0x18 1) fun h => { h with eventSeq := h.eventSeq + 1 }) r = false :=
    decide_eq_false hfull
  rw [post, putEvent, hrings]
  dsimp only
  rw [haway, hnot]
  rfl

/-- A count of lost events is posted once there is room for it (R304). -/
theorem postLost_of_room {r : Rings} (hlost : s.hif.lostNow ≠ 0) (hr : s.hif.rings = some r) (hup : s.hif.detached = false)
    (hroom : (eventUnread s).length < 2 ^ r.eventLog2) :
    (postLost s).hif.lostNow = 0 ∧ ∃ e, (postLost s).hostOut = s.hostOut ++ [.event (r.eventBase + 64 * s.hif.eventPos) e] ∧
      e.code = 0x0002 ∧ e.items = [s.hif.lostNow] := by
  have hgo : (decide (s.hif.lostNow > 0) && !hostAway s && !eventFull s r) = true := by
    have hnot : eventFull s r = false := decide_eq_false (not_le.mpr hroom)
    simp [hostAway, hup, hnot, Nat.pos_of_ne_zero hlost]
  have hpost := post_of_room (s := setHif s fun h => { h with lostNow := 0 }) (b := .hif) (i := 0) (code := 0x0002)
    (items := [s.hif.lostNow]) hr hup (by simp [regKey]) hroom
  simp only [postLost, hr]
  rw [if_pos hgo, hpost]
  exact ⟨rfl, _, rfl, rfl, rfl⟩

theorem drainHands_of_room {r : Rings} {x : HandRec} {l : List HandRec} {n : Nat} (hr : s.hif.rings = some r)
    (hh : s.hif.handsHeld = x :: l) (hup : s.hif.detached = false) (hroom : (handUnread s).length < 2 ^ r.handLog2) :
    ∃ ws, (drainHands (n + 1) s).hostOut = s.hostOut ++ .hand (r.handBase + 64 * s.hif.handPos) x :: ws := by
  obtain ⟨ws, hws⟩ := (ringsOnly_drainHands n (setHif (hostWrite s (.hand (r.handBase + 64 * s.hif.handPos) x)) fun h =>
    { h with handPos := (h.handPos + 1) % 2 ^ r.handLog2, handUnread := h.handUnread ++ [x.seq], handsHeld := l })).out
  refine ⟨ws, ?_⟩
  simp only [drainHands, hr, hh, hostAway, hup, Bool.false_or, ge_iff_le, decide_eq_true_eq, if_neg (not_le.mpr hroom)]
  rw [hws]
  simp [setHif, hostWrite]

theorem ringsOnly_postLost (s : State) : RingsOnly s (postLost s) := by
  unfold postLost
  split
  · exact RingsOnly.refl s
  · split
    · exact RingsOnly.trans (b := setHif s fun h => { h with lostNow := 0 }) ⟨rfl, rfl, [], (List.append_nil _).symm⟩
        (ringsOnly_post _ _ _ _ _)
    · exact RingsOnly.refl s

theorem pair64_setPair64 (w : W64) : pair64 (setPair64 s .hif 0 0x120 w.toNat) .hif 0 0x120 = w.toNat := by
  have hlow : kept (setPair64 s .hif 0 0x120 w.toNat) .hif 0 0x120 = w.toNat % 2 ^ 32 % 2 ^ 32 := by
    rw [setPair64, kept_setReg_of_ne (by simp [regKey]), kept_setReg]
  have hhigh : kept (setPair64 s .hif 0 0x120 w.toNat) .hif 0 (0x120 + 4) = w.toNat / 2 ^ 32 % 2 ^ 32 := kept_setReg ..
  have := w.isLt
  rw [pair64, hlow, hhigh]
  omega

/-! ### What writes of the ring heads do -/

theorem writeEventHead_eq (s : State) (v : W32) : writeEventHead s v.toNat = postLost (setHif (setReg s .hif 0 0x118 v.toNat)
    fun h => { h with eventUnread := s.hif.eventUnread.filter fun x => seqGe x v.toNat }) := by
  rw [writeEventHead, eventUnread_setReg]

theorem writeHandHead_eq (s : State) (v : W32) : writeHandHead s v.toNat = drainAllHands (setHif (setReg s .hif 0 0x11C v.toNat)
    fun h => { h with handUnread := s.hif.handUnread.filter fun x => seqGe x v.toNat }) := by
  rw [writeHandHead, handUnread_setReg]

/-- With no lost event to count, a write of HIF_EVENT_HEAD frees the records before it and no more. -/
theorem eventHead_frees (v : W32) (h : s.hif.lostNow = 0) : kept (writeEventHead s v.toNat) .hif 0 0x118 = v.toNat ∧
    writeEventHead s v.toNat = { s with
      regs := (writeEventHead s v.toNat).regs
      hif := { s.hif with eventUnread := s.hif.eventUnread.filter fun q => seqGe q v.toNat } } ∧
    SameRegs s (writeEventHead s v.toNat) [pageOf .hif 0 + 0x118] := by
  have hnone : writeEventHead s v.toNat = setHif (setReg s .hif 0 0x118 v.toNat)
      fun g => { g with eventUnread := s.hif.eventUnread.filter fun x => seqGe x v.toNat } :=
    (writeEventHead_eq s v).trans (postLost_of_none_lost h)
  rw [hnone]
  exact ⟨kept_setReg_word .., rfl, sameRegs_setReg (List.mem_singleton.mpr rfl)⟩

theorem eventHead_postsLost {r : Rings} (v : W32) (hlost : s.hif.lostNow ≠ 0) (hr : s.hif.rings = some r)
    (hup : s.hif.detached = false) (hroom : (s.hif.eventUnread.filter fun q => seqGe q v.toNat).length < 2 ^ r.eventLog2) :
    (writeEventHead s v.toNat).hif.lostNow = 0 ∧ ∃ e, (writeEventHead s v.toNat).hostOut = s.hostOut ++
      [.event (r.eventBase + 64 * s.hif.eventPos) e] ∧ e.code = 0x0002 ∧ e.items = [s.hif.lostNow] := by
  rw [writeEventHead_eq]
  exact postLost_of_room (s := setHif _ _) hlost hr hup ((List.length_filter_le _ _).trans_lt hroom)

/-- With no hand record held, a write of HIF_HAND_HEAD frees the records before it and no more. -/
theorem handHead_frees (v : W32) (h : s.hif.handsHeld = []) : kept (writeHandHead s v.toNat) .hif 0 0x11C = v.toNat ∧
    writeHandHead s v.toNat = { s with
      regs := (writeHandHead s v.toNat).regs
      hif := { s.hif with handUnread := s.hif.handUnread.filter fun q => seqGe q v.toNat } } ∧
    SameRegs s (writeHandHead s v.toNat) [pageOf .hif 0 + 0x11C] := by
  have hnone : writeHandHead s v.toNat = setHif (setReg s .hif 0 0x11C v.toNat)
      fun g => { g with handUnread := s.hif.handUnread.filter fun x => seqGe x v.toNat } := by
    rw [writeHandHead_eq, drainAllHands]
    exact congrArg (fun l : List HandRec => drainHands l.length _) h
  rw [hnone]
  exact ⟨kept_setReg_word .., rfl, sameRegs_setReg (List.mem_singleton.mpr rfl)⟩

theorem handHead_writesHeld {r : Rings} {x : HandRec} {l : List HandRec} (v : W32) (hh : s.hif.handsHeld = x :: l)
    (hr : s.hif.rings = some r) (hup : s.hif.detached = false)
    (hroom : (s.hif.handUnread.filter fun q => seqGe q v.toNat).length < 2 ^ r.handLog2) :
    ∃ ws, (writeHandHead s v.toNat).hostOut = s.hostOut ++ .hand (r.handBase + 64 * s.hif.handPos) x :: ws := by
  rw [writeHandHead_eq, drainAllHands]
  have hlen : (setHif (setReg s .hif 0 0x11C v.toNat)
      fun h => { h with handUnread := s.hif.handUnread.filter fun x => seqGe x v.toNat }).hif.handsHeld.length = l.length + 1 :=
    congrArg List.length hh
  rw [hlen]
  exact drainHands_of_room (s := setHif _ _) hr hh hup ((List.length_filter_le _ _).trans_lt hroom)

/-- Settles O9: held records drain by `drainCompletions_writes` within the frame `Drains`; the head registers by the lemmas above. -/
theorem ringHeadsAndHeldRecordsDrain : Obligations.RingHeadsAndHeldRecordsDrain := by
  unfold Obligations.RingHeadsAndHeldRecordsDrain
  refine ⟨fun fn qn s q hq hup hhead => ⟨_, exec_completionPost hq, ?_⟩, fun v w s haux => ⟨fun h => ?_, fun r hlost hr hup hroom => ?_,
    fun h => ?_, fun r x l hh hr hup hroom => ?_, ?_⟩⟩
  · obtain ⟨q', ws, hq', hout, hheld, hlen, hall⟩ := drainCompletions_writes hq hup hhead
    have hframe := drains_drainCompletions (fn := fn) (qn := qn) q.held.length s
    exact ⟨q', ws, hq', hout, hheld, hlen, hall, hframe.regs, hframe.rest, hframe.hif⟩
  · exact ⟨_, exec_eventHeadWrite v haux, eventHead_frees v h⟩
  · exact ⟨_, exec_eventHeadWrite v haux, eventHead_postsLost v hlost hr hup hroom⟩
  · exact ⟨_, exec_handHeadWrite v haux, handHead_frees v h⟩
  · exact ⟨_, exec_handHeadWrite v haux, handHead_writesHeld v hh hr hup hroom⟩
  · exact ⟨_, exec_transcriptHeadWrite w haux, pair64_setPair64 w, rfl,
      (sameRegs_setReg (List.mem_cons_self ..)).trans (sameRegs_setReg (List.mem_cons_of_mem _ (List.mem_singleton.mpr rfl)))⟩

/-! ### Doorbells (R293) -/

theorem bitOf_kept_stick (s : State) (b : Blk) (i : Nat) {bit : Nat} (h : bit < 32) :
    bitOf (kept (stick s b i bit) b i 0x1C) bit = true := by
  have hbit : bitsOf (kept (stick s b i bit) b i 0x1C) bit 1 = 1 := by
    rw [stick, setField, kept_setReg, bitsOf_word h, bitsOf_setBits]
    rfl
  exact beq_iff_eq.mpr hbit

/-- The queue after its doorbell. -/
def rung (q : Queue) (v : Nat) : Queue :=
  { q with tail := bitsOf v 0 16, cqHead := bitsOf v 16 16, again := q.again || q.stopped, stopped := false }

/-- Work waits: a module in recess starts its wake, and the clock of the host interface runs. -/
def roused (s : State) : State := startDomain (if s.pwr.recess then beginWake s else s) domHif

theorem roused_eq (s : State) : roused s = { s with pwr := (roused s).pwr } := by
  unfold roused
  split <;> rfl

theorem recessing_roused (h : s.pwr.recess = true) : (roused s).pwr.recessing = true := by
  rw [roused, if_pos h]
  rfl

theorem exec_doorbell_within {v : W64} (h : queueOf s fn qn = some q) (ht : bitsOf v.toNat 0 16 < 2 ^ q.log2)
    (hh : bitsOf v.toNat 16 16 < 2 ^ q.log2) : exec (.doorbell fn qn v) s =
      .next (roused (drainCompletions q.held.length fn qn (setQueue s (rung q v.toNat)))) := by
  have hwithin : ¬((decide (bitsOf v.toNat 0 16 ≥ 2 ^ q.log2) || decide (bitsOf v.toNat 16 16 ≥ 2 ^ q.log2)) = true) := by
    simp only [Bool.or_eq_true, decide_eq_true_eq]
    omega
  change execDoorbell fn qn v s = _
  simp only [execDoorbell, h]
  rw [if_neg hwithin]
  rfl

theorem exec_doorbell_beyond {v : W64}
    (h : ∀ q, queueOf s fn qn = some q → 2 ^ q.log2 ≤ bitsOf v.toNat 0 16 ∨ 2 ^ q.log2 ≤ bitsOf v.toNat 16 16) :
    exec (.doorbell fn qn v) s = .next (stick s .hif 0 0) := by
  change execDoorbell fn qn v s = _
  unfold execDoorbell
  split
  · rfl
  · rename_i q hq
    dsimp only
    rw [if_pos (by simpa using h q hq)]

/-- Settles O10: within the ring the queue is `rung`, and what follows drains records and wakes the module; beyond it the
doorbell only sets its error bit. -/
theorem doorbellMovesTheQueueOrIsDiscarded : Obligations.DoorbellMovesTheQueueOrIsDiscarded := by
  unfold Obligations.DoorbellMovesTheQueueOrIsDiscarded
  refine fun fn qn v s => ⟨fun q hq ht hh => ⟨_, exec_doorbell_within hq ht hh, ?_⟩, fun h => ⟨_, exec_doorbell_beyond h, rfl,
    bitOf_kept_stick s .hif 0 (by decide)⟩⟩
  have hframe := drains_drainCompletions (fn := fn) (qn := qn) q.held.length (setQueue s (rung q v.toNat))
  generalize drainCompletions q.held.length fn qn (setQueue s (rung q v.toNat)) = t at hframe ⊢
  obtain ⟨q', hq', hkeeps⟩ := hframe.queue _ (queueOf_setQueue_self hq rfl rfl)
  have hpwr : t.pwr = s.pwr := (congrArg State.pwr hframe.rest).trans rfl
  rw [roused_eq]
  refine ⟨⟨q', hq', ?_⟩, fun hr => recessing_roused (hpwr ▸ hr), hframe.regs, ?_⟩
  · rw [hkeeps]
    exact ⟨rfl, rfl, rfl, rfl, rfl, rfl, rfl, rfl⟩
  · exact congrArg (fun x : State => { x with hif := t.hif, regs := t.regs, hostOut := t.hostOut, pwr := (roused t).pwr }) hframe.rest

end Sys2Proof.Proofs
end

section
/-! Slots and their identifiers (O11, O12). -/

namespace Sys2Proof.Proofs

open Sys2Proof Sys2Proof.Machine Sys2Proof.Laws

variable {s t : State} {fn qn : Nat} {q : Queue} {bs : List Byte} {c : HostCmd}

/-! ### What reading a slot does -/

theorem exec_slotRead (h : queueOf s fn qn = some q) (hmay : mayConsume s q (slotOf bs).opcode = true) (hfirst : q.reReads = 0) :
    exec (.slotRead fn qn bs) s = .next (if slotValid q bs then consume s q bs else setQueue s { q with reReads := 16 }) := by
  change execSlotRead fn qn bs s = _
  simp [execSlotRead, h, hmay, hfirst]

theorem exec_slotReRead (h : queueOf s fn qn = some q) (hmay : mayConsume s q (slotOf bs).opcode = true) (hagain : q.reReads ≠ 0) :
    exec (.slotReRead fn qn bs) s = .next (if slotValid q bs then consume s q bs
      else if q.reReads = 1 then exhausted s q bs else setQueue s { q with reReads := q.reReads - 1 }) := by
  change execSlotReRead fn qn bs s = _
  simp [execSlotReRead, h, hmay, hagain]

theorem held_of_mayConsume {op : Nat} (h : mayConsume s q op = true) : q.held = [] := by
  simp only [mayConsume, Bool.and_eq_true, List.isEmpty_iff] at h
  exact h.1.1.1.1.2

/-! ### Frames of the records and events of a slot -/

theorem running_post (s : State) (b : Blk) (i code : Nat) (items : List Nat) : (post s b i code items).hif.running = s.hif.running :=
  (congrArg Hif.running (ringsOnly_post s b i code items).hif).trans rfl

theorem queueOf_congr (h : t.hif.queues = s.hif.queues) (fn qn : Nat) : queueOf t fn qn = queueOf s fn qn := by
  rw [queueOf, h, queueOf]

theorem queueOf_post (s : State) (b : Blk) (i code : Nat) (items : List Nat) (fn qn : Nat) :
    queueOf (post s b i code items) fn qn = queueOf s fn qn :=
  queueOf_congr ((congrArg Hif.queues (ringsOnly_post s b i code items).hif).trans rfl) fn qn

theorem hif_bump (s : State) (b : Blk) (i off lo w n : Nat) : (bump s b i off lo w n).hif = s.hif := rfl

/-- After a posted record the queue is the same but for what it holds, its tail and its PHASE. -/
theorem queueOf_postCompletion {base : Nat} {r : Completion} (h : queueOf s fn qn = some q) (hfn : r.fn = fn) (hqn : r.queue = qn) :
    ∃ q', queueOf (postCompletion s base r) fn qn = some q' ∧
      q' = { q with held := q'.held, cqTail := q'.cqTail, phase := q'.phase } := by
  subst hfn hqn
  simp only [postCompletion, h]
  split
  · exact ⟨q, h, rfl⟩
  split
  · exact ⟨_, queueOf_setQueue_self h rfl rfl, rfl⟩
  · exact ⟨_, queueOf_writeCompletion h rfl rfl, rfl⟩

/-- A record that answers a slot at once: with room it is the one record written. -/
theorem answer_of_room {r : Completion} {base : Nat} (h : queueOf s fn qn = some q) (hfn : r.fn = fn) (hqn : r.queue = qn)
    (hheld : q.held = []) (hup : s.hif.detached = false) (hroom : cqUnread q < 2 ^ q.log2 - 1) :
    ∃ a p, (postCompletion s base r).hostOut = s.hostOut ++ [.completion a { r with phase := p, sqHead := q.head }] := by
  subst hfn hqn
  rw [postCompletion_of_room h hup hheld hroom]
  exact ⟨_, _, rfl⟩

theorem running_startCmd (h : headerFault s c = none) : (startCmd s c).hif.running = s.hif.running ++ [c] := by
  rw [startCmd_of_no_fault h]

/-! ### A slot whose identifier is new runs -/

/-- The queue once the identifier of its slot is accepted. -/
def accepting (q : Queue) (ident : Nat) : Queue := { advance q with highest := ident, history := histAdd q.history ident }

theorem consume_of_new (hnew : q.highest < (slotOf bs).requestId) (hfault : headerFault s (cmdOf q bs) = none) :
    consume s q bs = { setQueue s (accepting q (slotOf bs).requestId) with
      hif := { (setQueue s (accepting q (slotOf bs).requestId)).hif with running := s.hif.running ++ [cmdOf q bs] } } := by
  have hid : (cmdOf q bs).slot.requestId > (advance q).highest := hnew
  rw [consume, acceptId]
  dsimp only
  rw [if_pos hid]
  change startCmd (setQueue (setQueue s (advance q)) (accepting q (slotOf bs).requestId)) (cmdOf q bs) = _
  have htwice : setQueue (setQueue s (advance q)) (accepting q (slotOf bs).requestId) =
      setQueue s (accepting q (slotOf bs).requestId) := setQueue_setQueue rfl rfl
  rw [htwice, startCmd_of_no_fault]
  · rfl
  · exact hfault

/-- The entry of the history of the slot's identifier. -/
def entryOf (q : Queue) (bs : List Byte) : Option HistEntry := q.history.find? (·.ident = (slotOf bs).requestId)

section
variable (hold : (slotOf bs).requestId ≤ q.highest)
include hold

theorem not_above : ¬(cmdOf q bs).slot.requestId > (advance q).highest := not_lt.mpr hold

theorem consume_of_running {n : Nat} (hx : entryOf q bs = some ⟨n, none⟩) :
    consume s q bs = setHif (setQueue s (advance q)) fun h => { h with duplicates := h.duplicates ++ [cmdOf q bs] } := by
  have hentry : (advance q).history.find? (·.ident = (cmdOf q bs).slot.requestId) = some ⟨n, none⟩ := hx
  rw [consume, acceptId, if_neg (not_above hold), hentry]

theorem consume_of_completed {n st d0 d1 : Nat} (hx : entryOf q bs = some ⟨n, some (st, d0, d1)⟩) (hst : st ≠ 0x30) :
    consume s q bs =
      bump (postCompletion (setQueue s (advance q)) q.cqBase (completionOf (cmdOf q bs) 1 st d0 d1)) .hif 0 0x134 0 16 1 := by
  have hentry : (advance q).history.find? (·.ident = (cmdOf q bs).slot.requestId) = some ⟨n, some (st, d0, d1)⟩ := hx
  rw [consume, acceptId, if_neg (not_above hold), hentry]
  exact if_neg hst

theorem consume_of_aborted {n d0 d1 : Nat} (hx : entryOf q bs = some ⟨n, some (0x30, d0, d1)⟩) :
    consume s q bs = startCmd (setQueue (setQueue s (advance q))
      { advance q with history := histAdd q.history (slotOf bs).requestId }) (cmdOf q bs) := by
  have hentry : (advance q).history.find? (·.ident = (cmdOf q bs).slot.requestId) = some ⟨n, some (0x30, d0, d1)⟩ := hx
  rw [consume, acceptId, if_neg (not_above hold), hentry]
  rfl

theorem consume_of_unknown (hx : entryOf q bs = none) :
    consume s q bs = bump (postCompletion (setQueue s (advance q)) q.cqBase (completionOf (cmdOf q bs) 0x13 0x13 q.highest 0))
      .hif 0 0x134 16 16 1 := by
  have hentry : (advance q).history.find? (·.ident = (cmdOf q bs).slot.requestId) = none := hx
  rw [consume, acceptId, if_neg (not_above hold), hentry]
  rfl

end

/-- What a slot that is answered at once leaves: nothing starts or waits, and with room its record is written. -/
theorem answered {st orig d0 d1 off lo w : Nat} (h : queueOf s fn qn = some q) (hheld : q.held = []) :
    ((bump (postCompletion (setQueue s (advance q)) q.cqBase (completionOf (cmdOf q bs) st orig d0 d1)) .hif 0 off lo w 1).hif.running =
        s.hif.running) ∧
      (bump (postCompletion (setQueue s (advance q)) q.cqBase (completionOf (cmdOf q bs) st orig d0 d1)) .hif 0 off lo w 1).hif.duplicates
        = s.hif.duplicates ∧
      (s.hif.detached = false → cqUnread q < 2 ^ q.log2 - 1 → ∃ a p,
        (bump (postCompletion (setQueue s (advance q)) q.cqBase (completionOf (cmdOf q bs) st orig d0 d1)) .hif 0 off lo w 1).hostOut =
          s.hostOut ++ [.completion a
            ⟨q.fn, q.queue, (slotOf bs).requestId, st, orig, p, (q.head + 1) % 2 ^ q.log2, q.head, d0, d1⟩]) := by
  obtain ⟨hfn, hqn⟩ := queueOf_fn h
  refine ⟨?_, ?_, fun hup hroom => ?_⟩
  · rw [hif_bump, running_postCompletion]
    rfl
  · rw [hif_bump, duplicates_postCompletion]
    rfl
  · exact answer_of_room (queueOf_setQueue_self (x := advance q) h rfl rfl) hfn hqn hheld hup hroom

/-- Settles O12: one case for each kind of entry of the history. -/
theorem noIdentifierRunsTwice : Obligations.NoIdentifierRunsTwice := by
  unfold Obligations.NoIdentifierRunsTwice
  intro fn qn bs s q hq hmay hvalid hfirst hold
  refine ⟨_, exec_slotRead hq hmay hfirst, ?_⟩
  rw [if_pos hvalid]
  have hheld := held_of_mayConsume hmay
  change match entryOf q bs with | some ⟨_, none⟩ => _ | some ⟨_, some (st, d0, d1)⟩ => _ | none => _
  rcases hx : entryOf q bs with _ | ⟨n, _ | ⟨st, d0, d1⟩⟩
  · rw [consume_of_unknown hold hx]
    exact answered hq hheld
  · rw [consume_of_running hold hx]
    exact ⟨rfl, rfl⟩
  · dsimp only
    split
    · rename_i hst
      subst hst
      rw [consume_of_aborted hold hx]
      exact fun hfault => running_startCmd hfault
    · rename_i hst
      rw [consume_of_completed hold hx hst]
      exact answered hq hheld

/-! ### Re-reads -/

theorem exhausted_stale (h : q.again = false ∨ (slotOf bs).sequence ≠ q.expected) : exhausted s q bs = stale s q := by
  have hnot : ¬((q.again && decide ((slotOf bs).sequence = q.expected)) = true) := by
    rcases h with h | h <;> simp [h]
  rw [exhausted, if_neg hnot]

theorem exhausted_again (ha : q.again = true) (hs : (slotOf bs).sequence = q.expected) : exhausted s q bs =
    bump (postCompletion (setQueue s (advance q)) q.cqBase (completionOf (cmdOf q bs) 0x10 0x10 0 0)) .hif 0 0x130 16 16 1 := by
  rw [exhausted, if_pos (by simp [ha, hs])]

/-- Settles O11: a valid slot by `consume_of_new`; an invalid one by `exec_slotRead`, `exec_slotReRead` and the two ends of its
re-reads. -/
theorem slotsStartCommandsOrStopTheQueue : Obligations.SlotsStartCommandsOrStopTheQueue := by
  unfold Obligations.SlotsStartCommandsOrStopTheQueue
  refine ⟨fun fn qn bs s q hq hmay hvalid hnew hfault i hi => ⟨consume s q bs, ?_, ?_⟩, fun fn qn bs s q hq hmay hinvalid => ?_⟩
  · rcases hi with ⟨rfl, hr⟩ | ⟨rfl, hr⟩
    · rw [exec_slotRead hq hmay hr, if_pos hvalid]
    · rw [exec_slotReRead hq hmay hr, if_pos hvalid]
  · rw [consume_of_new hnew hfault]
    exact ⟨rfl, queueOf_setQueue_self (x := accepting q (slotOf bs).requestId) hq rfl rfl, rfl⟩
  have hbad : ¬(slotValid q bs = true) := by simp [hinvalid]
  have hre : q.reReads = 1 → exec (.slotReRead fn qn bs) s = .next (exhausted s q bs) := fun h => by
    rw [exec_slotReRead hq hmay (by omega), if_neg hbad, if_pos h]
  refine ⟨fun h => ?_, fun h => ?_, fun h hstale => ?_, fun h ha hs => ?_⟩
  · rw [exec_slotRead hq hmay h, if_neg hbad]
  · rw [exec_slotReRead hq hmay (by omega), if_neg hbad, if_neg (by omega)]
  · refine ⟨_, hre h, ?_⟩
    obtain ⟨rfl, rfl⟩ := queueOf_fn hq
    rw [exhausted_stale hstale]
    refine ⟨rfl, running_post .., ?_⟩
    rw [stale, queueOf_post]
    exact queueOf_setQueue_self hq rfl rfl
  · refine ⟨_, hre h, ?_⟩
    rw [exhausted_again ha hs]
    obtain ⟨hrun, _, hout⟩ := answered (bs := bs) (st := 0x10) (orig := 0x10) (d0 := 0) (d1 := 0) (off := 0x130) (lo := 16)
      (w := 16) hq (held_of_mayConsume hmay)
    obtain ⟨hfn, hqn⟩ := queueOf_fn hq
    obtain ⟨q', hq', hkeeps⟩ := queueOf_postCompletion (base := q.cqBase) (r := completionOf (cmdOf q bs) 0x10 0x10 0 0)
      (queueOf_setQueue_self (x := advance q) hq rfl rfl) hfn hqn
    refine ⟨hrun, ⟨q', hq', ?_⟩, hout⟩
    rw [hkeeps]
    exact ⟨rfl, rfl, rfl⟩

end Sys2Proof.Proofs
end

section
/-! The host link (O17). -/

namespace Sys2Proof.Proofs

open Sys2Proof Sys2Proof.Machine Sys2Proof.Laws

variable {s t : State}

/-- The state in which GO writes the resume area: attached, its event wait over. -/
def attached (s : State) : State := setHif s fun h => { h with detached := false, waitGo := false, eventsHeld := [] }

theorem ringsOnly_foldl_putEvent (l : List EventRec) (s : State) : RingsOnly s (l.foldl putEvent s) := by
  induction l generalizing s with
  | nil => exact RingsOnly.refl s
  | cons e l ih => exact RingsOnly.trans (ringsOnly_putEvent s e) (ih _)

theorem eventUnread_writeResume (s : State) (cause : Nat) : eventUnread (writeResume s cause) = eventUnread s := by
  unfold writeResume
  split <;> rfl

/-- GO of PF0 while the module waits for it writes the resume area, then RESUME, then what was held (R309). -/
theorem resumeHost_writes {r : Rings} (hr : s.hif.rings = some r) (hroom : (eventUnread s).length < 2 ^ r.eventLog2) :
    (resumeHost s).hif.detached = false ∧ (resumeHost s).hif.waitGo = false ∧ ∃ x e ws,
      (resumeHost s).hostOut = s.hostOut ++ .resume r.resume x :: .event (r.eventBase + 64 * s.hif.eventPos) e :: ws ∧
      x.seq = s.hif.resumeSeq ∧ x.cause = s.hif.cause ∧ x.dropped = s.hif.dropped ∧ e.code = 0x0003 ∧ e.items = [s.hif.cause] := by
  obtain ⟨es, hresume⟩ : ∃ es, writeResume (attached s) s.hif.cause =
      setHif (hostWrite (attached s) (.resume r.resume ⟨s.hif.resumeSeq, s.hif.cause, s.hif.dropped, es⟩)) fun h =>
        { h with resumeSeq := h.resumeSeq + 1, dropped := 0 } := by
    have hrings : (attached s).hif.rings = some r := hr
    unfold writeResume
    rw [hrings]
    exact ⟨_, rfl⟩
  have hpost := post_of_room (s := writeResume (attached s) s.hif.cause) (b := .hif) (i := 0) (code := 0x0003)
    (items := [s.hif.cause]) (r := r) (by rw [hresume]; exact hr) (by rw [hresume]; rfl) (by simp [regKey])
    (by rw [eventUnread_writeResume]; exact hroom)
  have hrest : RingsOnly (post (writeResume (attached s) s.hif.cause) .hif 0 0x0003 [s.hif.cause]) (resumeHost s) :=
    (ringsOnly_foldl_putEvent _ _).trans ((ringsOnly_drainHands _ _).trans (ringsOnly_postLost _))
  rw [hpost, hresume] at hrest
  obtain ⟨ws, hws⟩ := hrest.out
  refine ⟨(congrArg Hif.detached hrest.hif).trans rfl, (congrArg Hif.waitGo hrest.hif).trans rfl,
    ⟨s.hif.resumeSeq, s.hif.cause, s.hif.dropped, es⟩,
    ⟨s.hif.eventSeq, 0x0003, blkType .hif, 0 % 256, s.tick % 2 ^ 32, s.job.openStep, [s.hif.cause]⟩, ws, ?_, rfl, rfl, rfl, rfl, rfl⟩
  rw [hws]
  simp [writeEvent, setHif, hostWrite, attached, bumpWrap, setReg]

theorem exec_resumeGo (haux : s.pwr.auxGood = true) : exec (.resumeGo 0) s = .next (writeGo s) :=
  congrArg Host.Outcome.next (guardWrite_pf0 haux rfl)

theorem exec_hostLinkTrained {rate width : Nat} (hrate : rate = 32 ∨ rate = 64 ∨ rate = 128) (hwidth : width = 8 ∨ width = 16) :
    ∃ u, u = startDomain (setReg s .hif 0 0x100
        (width * 2 ^ 11 + (if rate = 128 then 5 else if rate = 64 then 4 else 3) * 2 ^ 8 + 15)) domHif ∧
      exec (.hostLinkTrained rate width) s = .next (if rate = 128 ∧ width = 16 then u else post u .hif 0 0x0004 [rate, width]) := by
  refine ⟨_, rfl, ?_⟩
  change execHostLinkTrained rate width s = _
  unfold execHostLinkTrained
  rcases hrate with rfl | rfl | rfl <;> rcases hwidth with rfl | rfl <;> rfl

/-- A module that loses its link while attached detaches and changes nothing else but HIF_LINK_STAT and what it counts (R309). -/
theorem detachHost_attached (cause : Nat) (h : s.hif.detached = false) : detachHost s cause =
    bump (setHif (drawFree s).1 fun x =>
      { x with detached := true, waitGo := false, cause := cause, dropped := x.dropped + (drawFree s).2 }) .hif 0 0x13C 0 32 (drawFree s).2 := by
  rw [detachHost, if_neg (by simp [h])]

/-- Settles O17: loss by `detachHost_attached`, GO by `resumeHost_writes`, training by `exec_hostLinkTrained`. -/
theorem linkLossWaitsForGo : Obligations.LinkLossWaitsForGo := by
  unfold Obligations.LinkLossWaitsForGo
  intro s
  refine ⟨fun hup => ⟨detachHost (setReg s .hif 0 0x100 0) 1, rfl, ?_⟩, fun hdet hrec => ⟨_, ?_, rfl⟩, fun r hwait haux hr hroom => ?_,
    fun hwait haux => ⟨_, exec_resumeGo haux, if_neg (by simp [hwait])⟩, fun rate width hrate hwidth => ?_⟩
  · rw [detachHost_attached 1 (s := setReg s .hif 0 0x100 0) hup]
    refine ⟨rfl, rfl, rfl, rfl, rfl, rfl, ?_, rfl, rfl, rfl, rfl⟩
    rw [bump, setField, kept_setReg_of_ne (by simp [regKey])]
    exact kept_setReg s .hif 0 0x100 0
  · change execHostLinkReattach s = _
    rw [execHostLinkReattach, if_pos (by simp [hdet, hrec])]
    rfl
  · refine ⟨_, exec_resumeGo haux, ?_⟩
    rw [writeGo, if_pos hwait]
    exact resumeHost_writes hr hroom
  · obtain ⟨u, hu, hexec⟩ := exec_hostLinkTrained (s := s) hrate hwidth
    exact ⟨_, hexec, u, hu, rfl⟩

end Sys2Proof.Proofs
end

section
/-! Register accesses (O20). -/

namespace Sys2Proof.Proofs

open Sys2Proof Sys2Proof.Machine Sys2Proof.Laws

variable {s : State} {b : Blk} {fn i o off width : Nat} {v : W64}

/-! ### Fields of a register (R13, R15, R16) -/

theorem bitOf_eq_testBit (n k : Nat) : bitOf n k = n.testBit k := by
  rw [bitOf, Nat.testBit_eq_decide_div_mod_eq]
  rfl

/-- A write of fields that its encoding check takes: RW bits as written, W1C bits cleared by a 1, every other bit as before. -/
theorem bitOf_writeFields {v k : Nat} (hok : (writable b i off v).ok = true)
    (hsome : ¬((writable b i off v).rw = 0 ∧ (writable b i off v).w1c = 0)) (hrw : (writable b i off v).rw < 2 ^ 32)
    (hw1c : (writable b i off v).w1c < 2 ^ 32) (hk : k < 32) :
    bitOf (kept (writeFields s b i off v) b i off) k = if bitOf (writable b i off v).rw k then bitOf v k
      else bitOf (kept s b i off) k && !(bitOf (writable b i off v).w1c k && bitOf v k) := by
  unfold writeFields
  generalize writable b i off v = w at *
  obtain ⟨rw, w1c, ok⟩ := w
  subst hok
  have hboth : ¬((decide (rw = 0) && decide (w1c = 0)) = true) := by simpa using hsome
  have hclear : v &&& w1c < 2 ^ 32 := Nat.and_lt_two_pow v hw1c
  have hkeep : (2 ^ 32 - 1 - rw).testBit k = !rw.testBit k := by
    rw [Nat.sub_sub, Nat.add_comm, Nat.testBit_two_pow_sub_succ hrw]
    simp [hk]
  have hset : (2 ^ 32 - 1 - (v &&& w1c)).testBit k = !(v.testBit k && w1c.testBit k) := by
    rw [Nat.sub_sub, Nat.add_comm, Nat.testBit_two_pow_sub_succ hclear, Nat.testBit_and]
    simp [hk]
  simp only [Bool.not_true, Bool.false_eq_true, if_false]
  rw [if_neg hboth, kept_setReg]
  simp only [bitOf_eq_testBit, Nat.testBit_mod_two_pow, hk, decide_true, Bool.true_and, Nat.testBit_or, Nat.testBit_and, hkeep, hset]
  cases rw.testBit k <;> cases w1c.testBit k <;> simp

theorem writeFields_regs (s : State) (b : Blk) (i off v : Nat) :
    writeFields s b i off v = { s with regs := (writeFields s b i off v).regs } := by
  unfold writeFields
  dsimp only
  split
  · rfl
  · split <;> rfl

theorem writeFields_of_reserved {v : Nat} (h : (writable b i off v).ok = false) : writeFields s b i off v = stick s b i 2 := by
  simp [writeFields, h]

theorem sameRegs_writeFields {v : Nat} (h : (writable b i off v).ok = true) :
    SameRegs s (writeFields s b i off v) [regKey s b i off] := by
  simp only [writeFields, h, Bool.not_true, Bool.false_eq_true, if_false]
  split
  · exact SameRegs.refl _ _
  · exact sameRegs_setReg (List.mem_singleton_self _)

/-! ### A write of a word -/

theorem present_of_locate {p : Part} (h : locate p off = some (b, i, o)) : blkPresent p b i = true := by
  obtain ⟨b', _, hb'⟩ := Option.bind_eq_some_iff.mp h
  dsimp only at hb'
  split at hb'
  · rename_i hpresent
    simp only [Option.some.injEq, Prod.mk.injEq] at hb'
    obtain ⟨rfl, rfl, _⟩ := hb'
    exact hpresent
  · cases hb'

theorem exec_registerWrite_word (haux : s.pwr.auxGood = true) (hl : locate s.part off = some (b, i, o)) (ha : off % 4 = 0) :
    exec (.registerWrite fn off 4 v) s = .next (writePage s fn b i o (v.toNat % 2 ^ 32)) := by
  change execRegisterWrite fn off 4 v s = _
  simp [execRegisterWrite, haux, hl, ha]

theorem writePage_pf0 {x : Nat} (haux : s.pwr.auxGood = true) (hb : blkPresent s.part b i = true) :
    writePage s 0 b i o x = writeWord s b i o x := guardWrite_pf0 haux hb

theorem guardWrite_of_forbidden {act : State → State} (haux : s.pwr.auxGood = true) (hb : blkPresent s.part b i = true)
    (hmay : mayWrite s fn b i = false) : guardWrite s fn b i act = stick s b i 0 := by
  simp [guardWrite, haux, hb, hmay]

/-- A register of fields only: a write of its word changes those fields and does nothing else. -/
structure FieldsAt (b : Blk) (o rw w1c : Nat) : Prop where
  place : ∀ p, locate p (pageOf b 0 + o) = some (b, 0, o)
  key : ∀ s, regKey s b 0 o = pageOf b 0 + o
  word : ∀ s x, writeWord s b 0 o x = writeFields s b 0 o x
  aligned : (pageOf b 0 + o) % 4 = 0
  masks : ∀ x, (writable b 0 o x).rw = rw ∧ (writable b 0 o x).w1c = w1c
  some : ¬(rw = 0 ∧ w1c = 0)
  bounds : rw < 2 ^ 32 ∧ w1c < 2 ^ 32

/-- The registers that O20 names have fields only. -/
theorem fieldsAt_listed : ∀ r ∈ ([(.rel, 0x100, 0xFF03, 0), (.rel, 0x10C, 0xFFFFFF, 0), (.col, 0x104, 0xFFFF, 0), (.emb, 0x104, 7, 0),
    (.mem, 0x11C, 0xFFFF, 0), (.mgt, 0x214, 0xFFFF, 0), (.pwr, 0x104, 0xFFFF0F1F, 0), (.pwr, 0x108, 0xFFFF, 0),
    (.tst, 0x104, 7, 0), (.mem, 0x010, 1, 0), (.rel, 0x010, 7, 0), (.dev, 0x01C, 0, 7), (.hif, 0x01C, 0, 7)] :
    List (Blk × Nat × Nat × Nat)), FieldsAt r.1 r.2.1 r.2.2.1 r.2.2.2 := by
  simp only [List.forall_mem_cons]
  refine ⟨?_, ?_, ?_, ?_, ?_, ?_, ?_, ?_, ?_, ?_, ?_, ?_, ?_, nofun⟩ <;>
    exact ⟨fun p => by cases p <;> rfl, fun _ => rfl, fun _ _ => rfl, by decide, fun _ => ⟨rfl, rfl⟩, by decide, by decide⟩

/-- What a write of PF0 to such a register does. -/
theorem write_of_fieldsAt {rw w1c : Nat} (hf : FieldsAt b o rw w1c) (haux : s.pwr.auxGood = true) :
    Leads (.registerWrite 0 (pageOf b 0 + o) 4 v) s fun t =>
      ((writable b 0 o (v.toNat % 2 ^ 32)).ok = true →
        (∀ k < 32, bitOf (kept t b 0 o) k =
          if bitOf rw k then bitOf v.toNat k else bitOf (kept s b 0 o) k && !(bitOf w1c k && bitOf v.toNat k)) ∧
        t = { s with regs := t.regs } ∧ SameRegs s t [pageOf b 0 + o]) ∧
      ((writable b 0 o (v.toNat % 2 ^ 32)).ok = false → t = stick s b 0 2) := by
  obtain ⟨hrw, hw1c⟩ := hf.masks (v.toNat % 2 ^ 32)
  refine ⟨_, exec_registerWrite_word haux (hf.place s.part) hf.aligned, ?_⟩
  rw [writePage_pf0 haux (present_of_locate (hf.place s.part)), hf.word]
  refine ⟨fun hok => ⟨fun k hk => ?_, writeFields_regs .., hf.key s ▸ sameRegs_writeFields hok⟩, writeFields_of_reserved⟩
  have hbit : bitOf (v.toNat % 2 ^ 32) k = bitOf v.toNat k := by
    rw [bitOf_eq_testBit, bitOf_eq_testBit, Nat.testBit_mod_two_pow]
    simp [hk]
  rw [bitOf_writeFields hok (by rw [hrw, hw1c]; exact hf.some) (hrw ▸ hf.bounds.1) (hw1c ▸ hf.bounds.2) hk, hrw, hw1c, hbit]

/-! ### Reads (R17, R18) -/

theorem exec_read (haux : s.pwr.auxGood = true) : exec (.pairLowHalfRead fn ⟨off, width⟩) s =
    .next (reply (readAccess s off width).1 (.value (readAccess s off width).2 width)) := by
  change execPairLowHalfRead fn ⟨off, width⟩ s = _
  simp [execPairLowHalfRead, haux]

theorem readAccess_word (h : off % 4 = 0) : readAccess s off 4 = read32 s off := by
  simp [readAccess, h]

theorem readAccess_pair (h : off % 8 = 0) : readAccess s off 8 = read64 s off := by
  simp [readAccess, h]

theorem readAccess_narrow (hword : ¬(width = 4 ∧ off % 4 = 0)) (hpair : ¬(width = 8 ∧ off % 8 = 0)) :
    readAccess s off width = readNarrow s off width := by
  rw [readAccess, if_neg (by simpa using hword), if_neg (by simpa using hpair)]

/-- Settles O20: writes by `write_of_fieldsAt` and the guards of the page; reads by the three kinds of access. -/
theorem registerAccessesFollowTheirCodes : Obligations.RegisterAccessesFollowTheirCodes := by
  unfold Obligations.RegisterAccessesFollowTheirCodes
  refine ⟨fun v s haux => ⟨fun r hr => write_of_fieldsAt (fieldsAt_listed r hr) haux, fun fn off width b i o hl hbad => ⟨_, ?_, rfl⟩,
    fun fn off b i o hl ha hmay => ⟨_, exec_registerWrite_word haux hl ha, guardWrite_of_forbidden haux (present_of_locate hl) hmay⟩,
    fun fn off width hl => ⟨_, ?_, rfl⟩⟩,
    fun fn off width s b i o haux hl => ⟨fun ha hpair hfree => ⟨_, exec_read haux, ?_⟩, fun x ha hlatch => ⟨_, exec_read haux, ?_⟩,
      fun ha => ⟨_, exec_read haux, ?_⟩, fun hword hpair => ⟨_, exec_read haux, ?_⟩⟩⟩
  · have hcheck : (!(decide (width = 4) || decide (width = 8)) || off % width != 0) = true := by
      rcases hbad with ⟨h4, h8⟩ | h
      · simp [h4, h8]
      · simp [h]
    change execRegisterWrite fn off width v s = _
    simp only [execRegisterWrite, haux, hl, hcheck]
    rfl
  · change execRegisterWrite fn off width v s = _
    simp only [execRegisterWrite, haux, hl]
    rfl
  · simp only [readAccess_word ha, read32, hl, hfree, hpair, if_true]
    rfl
  · simp only [readAccess_word ha, read32, hl, hlatch]
    rfl
  · simp only [readAccess_pair ha, read64, hl, Nat.mul_comm]
    rfl
  · simp only [readAccess_narrow hword hpair, readNarrow, hl]
    rfl

end Sys2Proof.Proofs
end

section
/-! Messages: what sending leaves unchanged, and what is sent (R238 to R244). -/

namespace Sys2Proof.Proofs

open Sys2Proof Sys2Proof.Machine Sys2Proof.Laws

variable {s t u : State}

/-! ### The frame of sending -/

/-- From s to t messages were sent and nothing else: only the numbers, ways, blocks and lists of messages change, and counters. -/
structure Sent (s t : State) : Prop where
  rest : t = { s with col := t.col, regs := t.regs }
  col : t.col = { s.col with nextSeq := t.col.nextSeq, idents := t.col.idents, ways := t.col.ways, outbox := t.col.outbox,
                             retry := t.col.retry, unsent := t.col.unsent }

theorem Sent.refl (s : State) : Sent s s := ⟨rfl, rfl⟩

theorem Sent.trans {a b c : State} (h : Sent a b) (g : Sent b c) : Sent a c :=
  ⟨g.rest.trans (congrArg (fun x : State => { x with col := c.col, regs := c.regs }) h.rest),
    g.col.trans (congrArg (fun x : Col => { x with
      nextSeq := c.col.nextSeq, idents := c.col.idents, ways := c.col.ways
      outbox := c.col.outbox, retry := c.col.retry, unsent := c.col.unsent }) h.col)⟩

theorem sent_foldl {α : Type} {f : State → α → State} (hf : ∀ s x, Sent s (f s x)) (l : List α) (s : State) :
    Sent s (l.foldl f s) := by
  induction l generalizing s with
  | nil => exact Sent.refl s
  | cons x l ih => exact (hf s x).trans (ih _)

theorem sent_setReg (s : State) (b : Blk) (i off v : Nat) : Sent s (setReg s b i off v) := ⟨rfl, rfl⟩

theorem sent_bump (s : State) (b : Blk) (i off lo w n : Nat) : Sent s (bump s b i off lo w n) := sent_setReg ..

theorem sent_bump64 (s : State) (b : Blk) (i off n : Nat) : Sent s (bump64 s b i off n) := (sent_setReg ..).trans (sent_setReg ..)

theorem sent_takeNumbers (s : State) (key : StreamKey) (n : Nat) : Sent s (takeNumbers s key n).1 := ⟨rfl, rfl⟩

theorem sent_reserve (s : State) (op ring tensor step : Nat) (key : StreamKey) (n : Nat) :
    Sent s (reserve s op ring tensor step key n).1 := by
  unfold reserve
  split
  · exact Sent.refl s
  · exact ⟨rfl, rfl⟩

theorem sent_route (s : State) (m : Msg) : Sent s (route s m).1 := by
  unfold route
  dsimp only
  split <;> exact ⟨rfl, rfl⟩

theorem sent_issue (s : State) (m : Msg) : Sent s (issue s m) := by
  have hput : Sent (route s m).1 (setCol (route s m).1 fun c =>
      { c with outbox := c.outbox ++ [(route s m).2], retry := c.retry ++ [(route s m).2] }) := ⟨rfl, rfl⟩
  have hone := ((sent_route s m).trans hput).trans (sent_bump64 _ .col (channelSlice s m.hdr.srcChannel) 0x108 1)
  unfold issue
  dsimp only
  split
  · exact hone.trans (sent_bump ..)
  · exact hone

theorem sent_launch (s : State) (m : Msg) : Sent s (launch s m) := by
  unfold launch
  dsimp only
  split
  · exact ⟨rfl, rfl⟩
  · exact sent_issue s m

theorem sent_sendHdr (s : State) (dst : Nat) (h : MsgHdr) (b : Body) : Sent s (sendHdr s dst h b) := by
  unfold sendHdr
  exact (sent_takeNumbers ..).trans (sent_launch ..)

theorem sent_send (s : State) (dst kind channel point step : Nat) (b : Body) : Sent s (send s dst kind channel point step b) :=
  sent_sendHdr ..

theorem sent_sendBlock (s : State) (op ring tensor step : Nat) (ms : List (List Nat × MsgHdr × Body)) :
    Sent s (sendBlock s op ring tensor step ms) :=
  sent_foldl (fun _ _ => (sent_reserve ..).trans (sent_foldl (fun _ _ => sent_launch ..) _ _)) _ s

theorem sent_reserveBlock (s : State) (op ring tensor step : Nat) (hs : List MsgHdr) :
    Sent s (reserveBlock s op ring tensor step hs) := sent_foldl (fun _ _ => sent_reserve ..) hs s

section Fields
variable (h : Sent s t)
include h

theorem Sent.hif_eq : t.hif = s.hif := (congrArg State.hif h.rest).trans rfl
theorem Sent.part_eq : t.part = s.part := (congrArg State.part h.rest).trans rfl
theorem Sent.mem_eq : t.mem = s.mem := (congrArg State.mem h.rest).trans rfl
theorem Sent.twin_eq : t.twin = s.twin := (congrArg State.twin h.rest).trans rfl
theorem Sent.job_eq : t.job = s.job := (congrArg State.job h.rest).trans rfl
theorem Sent.tables_eq : t.tables = s.tables := (congrArg State.tables h.rest).trans rfl
theorem Sent.scaling_eq : t.scaling = s.scaling := (congrArg State.scaling h.rest).trans rfl
theorem Sent.gddr_eq : t.gddr = s.gddr := (congrArg State.gddr h.rest).trans rfl
theorem Sent.relays_eq : t.col.relays = s.col.relays := (congrArg Col.relays h.col).trans rfl

end Fields

/-! ### One message -/

/-- Whether the messages of a slice are held back: its retry store has no room, or others wait there (R242). -/
def holdsBack (s : State) (i : Nat) : Bool := retryFull s i || s.col.unsent.any fun x => channelSlice s x.hdr.srcChannel = i

theorem route_keeps (s : State) (m : Msg) :
    (route s m).2.dst = m.dst ∧ (route s m).2.hdr = m.hdr ∧ (route s m).2.body = m.body := by
  unfold route
  dsimp only
  split <;> exact ⟨rfl, rfl, rfl⟩

theorem launch_of_holdsBack {m : Msg} (h : holdsBack s (channelSlice s m.hdr.srcChannel) = true) :
    launch s m = setCol s fun c => { c with unsent := c.unsent ++ [m] } := by
  unfold launch
  exact if_pos h

theorem launch_of_room {m : Msg} (h : holdsBack s (channelSlice s m.hdr.srcChannel) = false) : launch s m = issue s m := by
  unfold launch
  exact if_neg (ne_true_of_eq_false h)

theorem col_bump (s : State) (b : Blk) (i off lo w n : Nat) : (bump s b i off lo w n).col = s.col := rfl

theorem col_bump64 (s : State) (b : Blk) (i off n : Nat) : (bump64 s b i off n).col = s.col := rfl

theorem col_issue (s : State) (m : Msg) : (issue s m).col = { (route s m).1.col with
    outbox := (route s m).1.col.outbox ++ [(route s m).2], retry := (route s m).1.col.retry ++ [(route s m).2] } := by
  unfold issue
  dsimp only
  split
  · rw [col_bump, col_bump64]
    rfl
  · rw [col_bump64]
    rfl

theorem col_route (s : State) (m : Msg) : (route s m).1.col = { s.col with ways := (route s m).1.col.ways } := by
  unfold route
  dsimp only
  split <;> rfl

/-- A message issued stands at the ends of the outbox and of the retry store. -/
theorem issue_puts (s : State) (m : Msg) : ∃ r : Msg, r.dst = m.dst ∧ r.hdr = m.hdr ∧ r.body = m.body ∧
    (issue s m).col.outbox = s.col.outbox ++ [r] ∧ (issue s m).col.retry = s.col.retry ++ [r] ∧ (issue s m).col.unsent = s.col.unsent ∧
    (issue s m).col.nextSeq = s.col.nextSeq := by
  obtain ⟨hdst, hhdr, hbody⟩ := route_keeps s m
  rw [col_issue, col_route]
  exact ⟨_, hdst, hhdr, hbody, rfl, rfl, rfl, rfl⟩

/-! ### Several messages through one slice -/

/-- Messages of a kind sent in order through one slice: issued until one is held back, and held back from then on. -/
def SendsVia (i : Nat) (s t : State) (kind : Nat) (xs : List (Nat × Body)) : Prop :=
  ∃ out held : List Msg, t.col.outbox = s.col.outbox ++ out ∧ t.col.unsent = s.col.unsent ++ held ∧
    ((out ++ held).map fun m => (m.dst, m.body)) = xs ∧ (∀ m ∈ out ++ held, m.hdr.kind = kind) ∧
    (∀ m ∈ held, channelSlice s m.hdr.srcChannel = i) ∧ ((∃ m ∈ s.col.unsent, channelSlice s m.hdr.srcChannel = i) → out = [])

theorem SendsVia.sendsEach {i kind : Nat} {xs : List (Nat × Body)} (h : SendsVia i s t kind xs) : SendsEach s t kind xs := by
  obtain ⟨out, held, ho, hu, hx, hk, _, _⟩ := h
  exact ⟨out, held, ho, hu, hx, hk⟩

theorem SendsVia.nil (i : Nat) (s : State) (kind : Nat) : SendsVia i s s kind [] :=
  ⟨[], [], (List.append_nil _).symm, (List.append_nil _).symm, rfl, by simp, by simp, fun _ => rfl⟩

theorem channelSlice_congr (h : t.part = s.part) (ch : Nat) : channelSlice t ch = channelSlice s ch := by
  rw [channelSlice, h, channelSlice]

theorem SendsVia.append {i kind : Nat} {xs ys : List (Nat × Body)} (hpart : t.part = s.part) (h : SendsVia i s t kind xs)
    (g : SendsVia i t u kind ys) : SendsVia i s u kind (xs ++ ys) := by
  obtain ⟨out, held, ho, hu, hx, hk, hh, hb⟩ := h
  obtain ⟨out', held', ho', hu', hx', hk', hh', hb'⟩ := g
  simp only [channelSlice_congr hpart] at hh' hb'
  have hpast : held ≠ [] → out' = [] := fun hne => by
    obtain ⟨m, hm⟩ := List.exists_mem_of_ne_nil held hne
    exact hb' ⟨m, hu ▸ List.mem_append_right _ hm, hh m hm⟩
  have horder : (out ++ out') ++ (held ++ held') = (out ++ held) ++ (out' ++ held') := by
    by_cases hne : held = []
    · simp [hne]
    · simp [hpast hne]
  refine ⟨out ++ out', held ++ held', by rw [ho', ho, List.append_assoc], by rw [hu', hu, List.append_assoc], ?_, ?_, ?_, ?_⟩
  · rw [horder, List.map_append, hx, hx']
  · rw [horder]
    exact List.forall_mem_append.mpr ⟨hk, hk'⟩
  · exact List.forall_mem_append.mpr ⟨hh, hh'⟩
  · rintro ⟨m, hm, hi⟩
    rw [hb ⟨m, hm, hi⟩, hb' ⟨m, hu ▸ List.mem_append_left _ hm, hi⟩]
    rfl

theorem sendsVia_launch (s : State) (m : Msg) :
    SendsVia (channelSlice s m.hdr.srcChannel) s (launch s m) m.hdr.kind [(m.dst, m.body)] := by
  cases hb : holdsBack s (channelSlice s m.hdr.srcChannel) with
  | true =>
    rw [launch_of_holdsBack hb]
    exact ⟨[], [m], (List.append_nil _).symm, rfl, rfl, by simp, by simp, fun _ => rfl⟩
  | false =>
    obtain ⟨r, hdst, hhdr, hbody, hout, _, hunsent, _⟩ := issue_puts s m
    rw [launch_of_room hb]
    refine ⟨[r], [], hout, by rw [hunsent, List.append_nil], by simp [hdst, hbody], by simp [hhdr], by simp, ?_⟩
    rintro ⟨x, hx, hi⟩
    have hwaits : holdsBack s (channelSlice s m.hdr.srcChannel) = true := by
      rw [holdsBack, Bool.or_eq_true, List.any_eq_true]
      exact .inr ⟨x, hx, by simpa using hi⟩
    rw [hb] at hwaits
    cases hwaits

/-- What is sent counts from the lists of messages and the part alone. -/
theorem SendsVia.congr {i kind : Nat} {xs : List (Nat × Body)} (h : SendsVia i s t kind xs) (ho : s.col.outbox = u.col.outbox)
    (hu : s.col.unsent = u.col.unsent) (hp : s.part = u.part) : SendsVia i u t kind xs := by
  obtain ⟨out, held, hout, hunsent, hx, hk, hh, hb⟩ := h
  rw [ho] at hout
  rw [hu] at hunsent hb
  simp only [channelSlice_congr hp] at hh hb
  exact ⟨out, held, hout, hunsent, hx, hk, hh, hb⟩

theorem sendsVia_sendHdr (s : State) (dst : Nat) (h : MsgHdr) (b : Body) :
    SendsVia (channelSlice s h.srcChannel) s (sendHdr s dst h b) h.kind [(dst, b)] := by
  have hpart : (takeNumbers s (streamOf h) 1).1.part = s.part := rfl
  have hone := sendsVia_launch (takeNumbers s (streamOf h) 1).1
    { dst := dst, hdr := { h with sequence := (takeNumbers s (streamOf h) 1).2 }, body := b }
  rw [channelSlice_congr hpart] at hone
  unfold sendHdr
  exact hone.congr rfl rfl rfl

theorem sendsVia_send (s : State) (dst kind channel point step : Nat) (b : Body) :
    SendsVia (channelSlice s channel) s (send s dst kind channel point step b) kind [(dst, b)] :=
  sendsVia_sendHdr s dst (header s kind channel point dst step) b

/-- Messages of one kind from one channel: one to each place, in order. -/
theorem sendsVia_foldl {α : Type} {f : State → α → State} {g : α → Nat × Body} {kind channel : Nat}
    (hf : ∀ t x, Sent t (f t x) ∧ SendsVia (channelSlice t channel) t (f t x) kind [g x]) (l : List α) (s : State) :
    SendsVia (channelSlice s channel) s (l.foldl f s) kind (l.map g) := by
  induction l generalizing s with
  | nil => exact SendsVia.nil _ s kind
  | cons x l ih =>
    have hpart := (hf s x).1.part_eq
    have hrest := ih (f s x)
    rw [channelSlice_congr hpart] at hrest
    exact SendsVia.append hpart (hf s x).2 hrest

end Sys2Proof.Proofs
end

section
/-! Class commands (O22). -/

namespace Sys2Proof.Proofs

open Sys2Proof Sys2Proof.Machine Sys2Proof.Laws

variable {s u : State} {i : Instr} {c : HostCmd} {inst : Install} {data : List Byte}

/-- A class command that is ready is started, whatever its kind (R298, R299). -/
theorem exec_of_classReady (h : ClassReady s i c inst data) : exec i s = .next (startClass s c data inst) := by
  obtain ⟨_, ⟨op, hmem, hready, rfl, hend⟩ | ⟨raw, n, rfl, rfl, hready, rfl, hout, hfault, rfl⟩ |
    ⟨raw, n, rfl, rfl, hready, rfl, hout, hfault, rfl⟩⟩ := h
  · simp only [slotClassCommands, List.mem_cons, List.not_mem_nil, or_false, Prod.mk.injEq] at hmem
    rcases hmem with ⟨rfl, rfl, rfl⟩ | ⟨rfl, rfl, rfl⟩ | ⟨rfl, rfl, rfl⟩ | ⟨rfl, rfl, rfl⟩ | ⟨rfl, rfl, rfl⟩ | ⟨rfl, rfl, rfl⟩ |
      ⟨rfl, rfl, rfl⟩ | ⟨rfl, rfl, rfl⟩
    case inr.inl =>
      change execJobEnd c s = _
      rw [execJobEnd, runCmd_of_ready hready, hend rfl]
      rfl
    all_goals exact (Eq.refl (exec _ s)).trans (runCmd_of_ready (body := fun s => startClass s c [] _) hready)
  · change execOutlierSet c raw s = _
    rw [execOutlierSet, runCmd_of_ready hready]
    dsimp only
    rw [hout, hfault]
    rfl
  · change execReshard c raw s = _
    rw [execReshard, runCmd_of_ready hready]
    dsimp only
    rw [hout, hfault]
    rfl

theorem not_relayed (h : ∀ r ∈ s.col.relays, r.cmd ≠ c) : s.col.relays.any (·.cmd = c) = false := by
  simpa using h

/-- The image of the state before a class command that is being installed stands last among the images. -/
def imaged (s u : State) (cc : ClassCmd) : State := { u with undo := u.undo ++ [undoImage s cc] }

theorem startClass_alone (hnew : ∀ r ∈ s.col.relays, r.cmd ≠ c) (halone : otherMembers s = [])
    (hok : inst (classCmdOf s s.col.nextTag c data) s = .ok u) : startClass s c data inst =
      done (dropUndo (imaged s u (classCmdOf s s.col.nextTag c data)) s.twin.number s.col.nextTag) c := by
  have hothers : ((members s).filter (· != s.twin.number)).isEmpty = true := List.isEmpty_iff.mpr halone
  rw [startClass, not_relayed hnew]
  simp only [installHere, hok, hothers, if_true, Bool.false_eq_true, if_false]
  rfl

theorem startClass_refused {r : Refused} (hnew : ∀ r ∈ s.col.relays, r.cmd ≠ c) (halone : otherMembers s = [])
    (herr : inst (classCmdOf s s.col.nextTag c data) s = .error r) (hr : r.1 ≠ 0) :
    startClass s c data inst = finish s c r.1 r.2.1 r.2.2 := by
  have hothers : ((members s).filter (· != s.twin.number)).isEmpty = true := List.isEmpty_iff.mpr halone
  rw [startClass, not_relayed hnew]
  simp only [installHere, herr, hothers, if_true, Bool.false_eq_true, if_false, hr]

/-- The state in which a class command is relayed: its change installed here, and the answers it waits for noted. -/
def relaying (s u : State) (c : HostCmd) (data : List Byte) : State :=
  setCol (imaged s u (classCmdOf s s.col.nextTag c data)) fun x =>
    { x with nextTag := s.col.nextTag + 1, relays := x.relays ++ [⟨s.col.nextTag, c, otherMembers s, none⟩] }

theorem startClass_relayed (hnew : ∀ r ∈ s.col.relays, r.cmd ≠ c) (hothers : otherMembers s ≠ [])
    (hok : inst (classCmdOf s s.col.nextTag c data) s = .ok u) : startClass s c data inst =
      (otherMembers s).foldl (fun t m => sendRelay t m (classCmdOf s s.col.nextTag c data)) (relaying s u c data) := by
  have hsome : ((members s).filter (· != s.twin.number)).isEmpty = false := by
    simpa only [otherMembers, ← List.isEmpty_eq_false_iff] using hothers
  rw [startClass, not_relayed hnew]
  simp only [installHere, hok, hsome, if_true, Bool.false_eq_true, if_false]
  rfl

theorem sent_sendRelays (cc : ClassCmd) (l : List Nat) (s : State) : Sent s (l.foldl (fun t m => sendRelay t m cc) s) :=
  sent_foldl (fun _ _ => sent_send ..) l s

theorem sends_sendRelays (cc : ClassCmd) (l : List Nat) (s : State) :
    Sends s (l.foldl (fun t m => sendRelay t m cc) s) l 0x10 (.relay cc) :=
  (sendsVia_foldl (g := fun d => (d, .relay cc)) (channel := 8) (fun _ _ => ⟨sent_send .., sendsVia_send ..⟩) l s).sendsEach

/-- Settles O22: the outcomes of `startClass`, alone, relayed and refused. -/
theorem classCommandsInstallAndRelay : Obligations.ClassCommandsInstallAndRelay := by
  unfold Obligations.ClassCommandsInstallAndRelay
  intro i c inst data s h
  have hexec := exec_of_classReady h
  obtain ⟨hnew, _⟩ := h
  refine ⟨fun u hok => ⟨fun halone => ⟨_, endsIn_done (hexec.trans (congrArg Host.Outcome.next (startClass_alone hnew halone hok)))⟩,
    fun hothers => ⟨_, hexec, ?_⟩⟩, fun r herr hr0 hr30 halone =>
      endsIn_finish (hexec.trans (congrArg Host.Outcome.next (startClass_refused hnew halone herr hr0))) hr30⟩
  rw [startClass_relayed hnew hothers hok]
  have hsent := sent_sendRelays (classCmdOf s s.col.nextTag c data) (otherMembers s) (relaying s u c data)
  exact ⟨hsent.hif_eq, hsent.tables_eq, hsent.scaling_eq, hsent.job_eq, hsent.relays_eq, sends_sendRelays _ _ (relaying s u c data)⟩

end Sys2Proof.Proofs
end

section
/-! What class commands install (O23). -/

namespace Sys2Proof.Proofs

open Sys2Proof Sys2Proof.Machine Sys2Proof.Laws

variable {sl : Slot} {s t u : State} {i : Instr} {c : HostCmd} {k : ClassCmd} {inst : Install} {data : List Byte} {op : Nat}

/-! ### A class command of a module alone -/

/-- The images that remain after a class command of a module alone. -/
def undoLeft (s u : State) (c : HostCmd) (data : List Byte) : List UndoImage :=
  (dropUndo (imaged s u (classCmdOf s s.col.nextTag c data)) s.twin.number s.col.nextTag).undo

theorem endsIn_classReady (h : ClassReady s i c inst data) (halone : otherMembers s = [])
    (hok : inst (classCmdOf s s.col.nextTag c data) s = .ok u) : EndsIn i s c 0 0 0 { u with undo := undoLeft s u c [] } :=
  endsIn_done ((exec_of_classReady h).trans (congrArg Host.Outcome.next (startClass_alone h.1 halone hok)))

theorem endsIn_alone (hmem : (i, op, inst) ∈ slotClassCommands c) (h : Alone s op c) (hend : op = 0x001C → jobBusy s c = false)
    (hok : inst (classCmdOf s s.col.nextTag c []) s = .ok u) : EndsIn i s c 0 0 0 { u with undo := undoLeft s u c [] } := by
  obtain ⟨hready, halone, hnew⟩ := h
  exact endsIn_classReady ⟨hnew, .inl ⟨op, hmem, hready, rfl, hend⟩⟩ halone hok

/-! ### Finite maps -/

theorem mem_mput {α : Type} {m : List (Nat × α)} {a : Nat} {x : α} {e : Nat × α} (h : e ∈ mput m a x) : e = (a, x) ∨ e ∈ m := by
  induction m with
  | nil => exact .inl (by simpa [mput] using h)
  | cons p m ih =>
    obtain ⟨k, v⟩ := p
    unfold mput at h
    split at h
    · exact List.mem_cons.mp h
    · split at h
      · exact (List.mem_cons.mp h).imp_right (List.mem_cons_of_mem _)
      · rcases List.mem_cons.mp h with rfl | h
        · exact .inr (List.mem_cons_self ..)
        · exact (ih h).imp_right (List.mem_cons_of_mem _)

theorem mget_mmod {α : Type} {m : List (Nat × α)} {a : Nat} {x : α} {f : α → α} (h : mget m a = some x) :
    mget (mmod m a f) a = some (f x) := by
  rw [mmod, h]
  exact mget_mput_self ..

/-! ### Histories and tables -/

theorem mem_restartHist (s : State) (n first : Nat) : (restartHist s n first).mem = s.mem ∧ (restartHist s n first).job = s.job := by
  unfold restartHist putP
  split
  · exact ⟨rfl, rfl⟩
  · have hrest := fun u => (ringsOnly_post u .mgt 0 0x0500 [n, first]).rest
    dsimp only
    split <;> rw [hrest] <;> exact ⟨rfl, rfl⟩

theorem foldl_restartHist (l : List (Nat × ScaleRec)) (step : Nat) (s : State) :
    (l.foldl (fun t e => restartHist t e.1 step) s).mem = s.mem ∧ (l.foldl (fun t e => restartHist t e.1 step) s).job = s.job := by
  induction l generalizing s with
  | nil => exact ⟨rfl, rfl⟩
  | cons e l ih =>
    obtain ⟨hm, hj⟩ := mem_restartHist s e.1 step
    exact ⟨(ih _).1.trans hm, (ih _).2.trans hj⟩

theorem restartAsked_keeps (s : State) : (restartAsked s).mem = s.mem ∧ (restartAsked s).job = s.job := foldl_restartHist _ _ _

theorem restartAsked_of_none (h : ∀ e ∈ s.scaling, e.2.resetAsked = false) : restartAsked s = s := by
  have hnone : (s.scaling.filter fun e => e.2.resetAsked) = [] := by
    simpa [List.filter_eq_nil_iff] using h
  rw [restartAsked, hnone]
  rfl

theorem track_only (s : State) (n : Nat) : track s n = { s with scaling := (track s n).scaling, gddr := (track s n).gddr } := by
  unfold track
  split <;> rfl

theorem track_asks_none (n : Nat) (h : ∀ e ∈ s.scaling, e.2.resetAsked = false) :
    ∀ e ∈ (track s n).scaling, e.2.resetAsked = false := by
  unfold track
  split
  · exact h
  · intro e he
    rcases mem_mput he with rfl | he
    · rfl
    · exact h e he

/-- What one new descriptor that comes into force does. -/
def forceTable (closed : Nat) (t : State) (e : Nat × TableDesc) : State :=
  track (markDesc (setTables t fun x => { x with descs := mput x.descs e.1 e.2, applied := mput x.applied e.1 closed }) e.1 (closed + 1))
    e.2.tensor

theorem forceTable_only (closed : Nat) (t : State) (e : Nat × TableDesc) : forceTable closed t e =
    { t with tables := (forceTable closed t e).tables, scaling := (forceTable closed t e).scaling, gddr := (forceTable closed t e).gddr } := by
  unfold forceTable
  rw [track_only]
  rfl

/-- From s to t tables came into force: their descriptors, their tensors' records, and the marks of both. -/
structure Forced (s t : State) : Prop where
  rest : t = { s with tables := t.tables, scaling := t.scaling, gddr := t.gddr }
  asks : (∀ e ∈ s.scaling, e.2.resetAsked = false) → ∀ e ∈ t.scaling, e.2.resetAsked = false

theorem forced_foldl (closed : Nat) (l : List (Nat × TableDesc)) (s : State) : Forced s (l.foldl (forceTable closed) s) := by
  induction l generalizing s with
  | nil => exact ⟨rfl, id⟩
  | cons e l ih =>
    obtain ⟨hrest, hasks⟩ := ih (forceTable closed s e)
    refine ⟨hrest.trans (congrArg (fun x : State => { x with
      tables := (l.foldl (forceTable closed) (forceTable closed s e)).tables
      scaling := (l.foldl (forceTable closed) (forceTable closed s e)).scaling
      gddr := (l.foldl (forceTable closed) (forceTable closed s e)).gddr }) (forceTable_only closed s e)), fun h => hasks ?_⟩
    exact track_asks_none _ h

theorem takeForce_keeps (s : State) (closed : Nat) (now : Nat → Bool) :
    takeForce s closed now = { s with
      tables := (takeForce s closed now).tables, scaling := (takeForce s closed now).scaling
      gddr := (takeForce s closed now).gddr, col := (takeForce s closed now).col } ∧
    ((∀ e ∈ s.scaling, e.2.resetAsked = false) → ∀ e ∈ (takeForce s closed now).scaling, e.2.resetAsked = false) := by
  obtain ⟨hrest, hasks⟩ := forced_foldl closed (s.tables.newDescs.filter fun e => now e.1) s
  refine ⟨?_, hasks⟩
  exact congrArg (fun x : State => { x with tables := (takeForce s closed now).tables, col := (takeForce s closed now).col }) hrest

/-! ### JOB_START -/

/-- A job of another layout epoch starts with no marks and no numbers (R241). -/
def freshEpoch (s : State) (ep : Nat) : State :=
  if ep = s.job.layoutEpoch then s else setCol s fun x => { x with marks := [], nextSeq := [], idents := [] }

theorem freshEpoch_only (s : State) (ep : Nat) : freshEpoch s ep = { s with col := (freshEpoch s ep).col } := by
  unfold freshEpoch
  split <;> rfl

/-- The state of a job that starts before its switch hands are raised. -/
def opened (s : State) (sl : Slot) : State :=
  let s1 := setCol (freshEpoch s (bitsOf sl.param0 16 16)) fun x => { x with maxima := [] }
  let s2 := setTables s1 fun t => { t with applied := [], lookupsDone := [], backwardsDone := [], markSent := [], endSent := [], decls := []
                                           tilesDone := [], stats := [] }
  advanceLists { setJob s2 (fun j => ⟨true, bitsOf sl.param0 0 16, bitsOf sl.param0 16 16, sl.step, j.closedStep, [], sl.step⟩) with
    grade := { s2.grade with recs := [], closings := [] } }

theorem installJobStart_ok (hk : k.slot = sl) (hn : bitsOf sl.param0 0 16 ≠ 0) (hr : s.job.running = false) :
    installJobStart k s = .ok (raiseSwitches (opened s sl)) := by
  subst hk
  unfold installJobStart
  dsimp only
  rw [if_neg hn, hr]
  rfl

/-- One descriptor of `raiseSwitches`. -/
def raiseSwitch (t : State) (e : Nat × TableDesc) : State :=
  if e.2.switchStep = t.job.openStep && field t .emb 0 0x010 0 1 = 1 then
    raise (setTables t fun x => { x with frozenSwitch := x.frozenSwitch ++ [e.2.table] }) .emb 0 0
      [e.2.table, epochOfSlot e.2 e.2.active, epochOfSlot e.2 (1 - e.2.active)]
  else t

theorem raiseSwitches_eq (s : State) : raiseSwitches s = s.tables.descs.foldl raiseSwitch s := rfl

theorem raiseSwitch_only (t : State) (e : Nat × TableDesc) : raiseSwitch t e = { t with
    regs := (raiseSwitch t e).regs, hif := (raiseSwitch t e).hif, hostOut := (raiseSwitch t e).hostOut
    tables := (raiseSwitch t e).tables } := by
  unfold raiseSwitch
  split
  · rw [(ringsOnly_raise ..).rest]
    rfl
  · rfl

theorem foldl_raiseSwitch_only (l : List (Nat × TableDesc)) (s : State) : l.foldl raiseSwitch s = { s with
    regs := (l.foldl raiseSwitch s).regs, hif := (l.foldl raiseSwitch s).hif, hostOut := (l.foldl raiseSwitch s).hostOut
    tables := (l.foldl raiseSwitch s).tables } := by
  induction l generalizing s with
  | nil => rfl
  | cons e l ih =>
    refine (ih (raiseSwitch s e)).trans ?_
    exact congrArg (fun x : State => { x with
      regs := (l.foldl raiseSwitch (raiseSwitch s e)).regs, hif := (l.foldl raiseSwitch (raiseSwitch s e)).hif
      hostOut := (l.foldl raiseSwitch (raiseSwitch s e)).hostOut
      tables := (l.foldl raiseSwitch (raiseSwitch s e)).tables }) (raiseSwitch_only s e)

theorem raiseSwitches_only (s : State) : raiseSwitches s = { s with
    regs := (raiseSwitches s).regs, hif := (raiseSwitches s).hif, hostOut := (raiseSwitches s).hostOut
    tables := (raiseSwitches s).tables } := by
  rw [raiseSwitches_eq]
  exact foldl_raiseSwitch_only s.tables.descs s

theorem raiseSwitches_of_none (h : ∀ e ∈ s.tables.descs, e.2.switchStep ≠ s.job.openStep) : raiseSwitches s = s := by
  suffices ∀ l : List (Nat × TableDesc), (∀ e ∈ l, e.2.switchStep ≠ s.job.openStep) → l.foldl raiseSwitch s = s from this _ h
  intro l hl
  induction l with
  | nil => rfl
  | cons e l ih =>
    obtain ⟨he, hrest⟩ := List.forall_mem_cons.mp hl
    have hnot : raiseSwitch s e = s := if_neg (by simp [he])
    rw [List.foldl_cons, hnot, ih hrest]

theorem opened_keeps (s : State) (sl : Slot) : (opened s sl).mem = s.mem ∧ (opened s sl).twin = s.twin ∧ (opened s sl).hif = s.hif ∧
    (opened s sl).tables.descs = s.tables.descs ∧
    (opened s sl).job = { running := true, number := bitsOf sl.param0 0 16, layoutEpoch := bitsOf sl.param0 16 16, openStep := sl.step,
                          closedStep := s.job.closedStep, exchangesDue := [], firstStep := sl.step } := by
  unfold opened
  rw [freshEpoch_only]
  simp only [advanceLists, setJob, setTables, setCol, and_self]

theorem opened_marks (s : State) (sl : Slot) :
    (bitsOf sl.param0 16 16 ≠ s.job.layoutEpoch → (opened s sl).col.marks = [] ∧ (opened s sl).col.nextSeq = []) ∧
    (bitsOf sl.param0 16 16 = s.job.layoutEpoch →
      (opened s sl).col.marks = s.col.marks ∧ (opened s sl).col.nextSeq = s.col.nextSeq) := by
  refine ⟨fun h => ?_, fun h => ?_⟩ <;> unfold opened freshEpoch
  · rw [if_neg h]
    exact ⟨rfl, rfl⟩
  · rw [if_pos h]
    exact ⟨rfl, rfl⟩

/-! ### The other installers -/

theorem installJobEnd_ok (hk : k.slot = sl) (hr : s.job.running = true) (hn : sl.param0 = s.job.number) : installJobEnd k s =
    .ok (setJob (restartAsked (takeForce (takeGradebook s) s.job.openStep fun _ => true)) fun j => { j with running := false }) := by
  subst hk
  simp [installJobEnd, hr, hn]

theorem takeGradebook_only (s : State) : takeGradebook s = { s with grade := (takeGradebook s).grade } := by
  unfold takeGradebook
  split <;> rfl

/-- What a job's end keeps. -/
theorem jobEnd_keeps (s : State) :
    (restartAsked (takeForce (takeGradebook s) s.job.openStep fun _ => true)).job = s.job ∧
    (restartAsked (takeForce (takeGradebook s) s.job.openStep fun _ => true)).mem = s.mem ∧
    ((∀ e ∈ s.scaling, e.2.resetAsked = false) →
      (restartAsked (takeForce (takeGradebook s) s.job.openStep fun _ => true)).hif = s.hif) := by
  obtain ⟨hforce, hasks⟩ := takeForce_keeps (takeGradebook s) s.job.openStep fun _ => true
  obtain ⟨hmem, hjob⟩ := restartAsked_keeps (takeForce (takeGradebook s) s.job.openStep fun _ => true)
  have hgrade := takeGradebook_only s
  refine ⟨hjob.trans ?_, hmem.trans ?_, fun hnone => ?_⟩
  · rw [hforce, hgrade]
  · rw [hforce, hgrade]
  · rw [restartAsked_of_none (hasks (by rw [hgrade]; exact hnone)), hforce, hgrade]

/-- TABLE_DEFINE: with a job the descriptor waits for the step boundary, without one it is in force. -/
def defined (s : State) (d : TableDesc) : State :=
  if s.job.running then setTables s fun t => { t with newDescs := mput t.newDescs d.table d }
  else track (markDesc (setTables s fun t => { t with descs := mput t.descs d.table d }) d.table s.job.openStep) d.tensor

theorem installTableDefine_ok (hk : k.slot = sl) (hfault : tableFault s (inlineOf sl 128) = none)
    (hpaired : tableUnpaired s (tableDescOf (inlineOf sl 128)) = false)
    (hnew : s.job.running = true → tableAt s (tableDescOf (inlineOf sl 128)).table = none) :
    installTableDefine k s = .ok (defined s (tableDescOf (inlineOf sl 128))) := by
  subst hk
  unfold installTableDefine defined
  simp only [hfault, hpaired]
  cases hr : s.job.running
  · rfl
  · rw [hnew hr]
    rfl

theorem defined_running (h : s.job.running = true) (d : TableDesc) :
    defined s d = { s with tables := { s.tables with newDescs := mput s.tables.newDescs d.table d } } := by
  rw [defined, if_pos h]
  rfl

theorem defined_alone (h : s.job.running = false) (d : TableDesc) : mget (defined s d).tables.descs d.table = some d := by
  rw [defined, if_neg (by simp [h]), track_only]
  exact mget_mput_self ..

theorem mem_defined (s : State) (d : TableDesc) : (defined s d).mem = s.mem := by
  unfold defined
  split
  · rfl
  · rw [track_only]
    rfl

/-- A table with its switch set: the switch step, and the epoch of the slot that becomes active. -/
def switchSet (d : TableDesc) (step ep : Nat) : TableDesc :=
  { d with switchStep := step, epoch0 := if d.active = 0 then d.epoch0 else ep, epoch1 := if d.active = 0 then ep else d.epoch1 }

theorem epochOfSlot_switchSet (d : TableDesc) (step ep : Nat) : epochOfSlot (switchSet d step ep) (1 - d.active) = ep := by
  by_cases h : d.active = 0
  · simp [epochOfSlot, switchSet, h]
  · simp [epochOfSlot, switchSet, h, show 1 - d.active = 0 by omega]

theorem installTableSwitch_ok {d : TableDesc} (hk : k.slot = sl) (hd : tableAt s (bitsOf sl.param0 0 12) = some d)
    (hmode : d.replaceMode = 1)
    (hep : bitsOf sl.param0 16 16 ≠ epochOfSlot d d.active) (hstep : s.job.openStep + 2 ≤ sl.param1)
    (hnone : d.switchStep = noSwitch) : installTableSwitch k s =
      .ok (markDesc (setTables s fun x => { x with
        descs := mput x.descs (bitsOf sl.param0 0 12) (switchSet d sl.param1 (bitsOf sl.param0 16 16))
        staged := mdel x.staged (bitsOf sl.param0 0 12) }) (bitsOf sl.param0 0 12) s.job.openStep) := by
  subst hk
  simp only [installTableSwitch, hd]
  rw [if_neg (by simpa [hmode] using hep), if_neg (by omega), if_neg (by simp [hnone])]
  rfl

theorem installOptimSet_ok (hk : k.slot = sl) (h : paramFault s (inlineOf sl 64) = none) : installOptimSet k s =
    .ok { s with tables := { s.tables with
      params := s.tables.params ++ [((paramsOf (inlineOf sl 64)).tensor, paramsOf (inlineOf sl 64))] } } := by
  subst hk
  simp only [installOptimSet, h]
  rfl

/-- SCALE_RESET: at the next step boundary of a job, or at once. -/
def scaleRestarted (s : State) (n : Nat) : State :=
  if s.job.running then setScale (kickUpdates (withdrawHands s n)) n fun x => { x with resetAsked := true }
  else restartHist (kickUpdates (withdrawHands s n)) n s.job.openStep

theorem installScaleReset_ok (hk : k.slot = sl) (h : (mget s.scaling (bitsOf sl.param0 0 16)).isSome = true) :
    installScaleReset k s = .ok (scaleRestarted s (bitsOf sl.param0 0 16)) := by
  subst hk
  unfold installScaleReset scaleRestarted
  dsimp only
  rw [if_neg (by simpa [Option.isSome_iff_ne_none] using h)]
  split <;> rfl

/-- The outlier record of a tensor with the host's list. -/
def hostListed (s : State) (n : Nat) (l : List Nat) : Outliers := { (mget s.outliers n).getD noOutliers with host := some l }

/-- The state with the host's outlier list of a tensor. -/
def hostListing (s : State) (n : Nat) (l : List Nat) : State := { s with outliers := mput s.outliers n (hostListed s n l) }

theorem installOutlierSet_ok (hk : k.slot = sl) (hrise : strictlyRising (outlierList k) = true)
    (hblock : ((outlierList k).all fun j => ((outlierList k).filter fun x => x / 128 = j / 128).length ≤ perBlock s) = true) :
    installOutlierSet k s = .ok (hostListing s (bitsOf sl.param0 0 16) (outlierList k)) := by
  subst hk
  have hnone : ((outlierList k).any fun j => ((outlierList k).filter fun x => x / 128 = j / 128).length > perBlock s) = false := by
    simpa using hblock
  unfold installOutlierSet
  dsimp only
  rw [hrise, hnone]
  rfl

/-- The state with a re-shard pending (R260). -/
def reshardPending (s : State) (sl : Slot) (plan : List Byte) : State :=
  { s with col := { s.col with reshard := some ⟨bitsOf sl.param0 0 16, sl.param1, plan, false, false, false, []⟩ } }

theorem installReshard_ok (hk : k.slot = sl) (hstep : sl.param1 ≥ s.job.openStep + 2) (hrun : s.job.running = true)
    (hfree : s.col.reshard = none)
    (hep : bitsOf sl.param0 0 16 = (s.job.layoutEpoch + 1) % 65536) (hcrc : leAt k.data 0x3C 4 = planCrc k.data)
    (hfault : planFault s k.data (bitsOf sl.param0 0 16) = none) (hpaired : planUnpaired s k.data = false) :
    installReshard k s = .ok (reshardPending s sl k.data) := by
  subst hk
  unfold installReshard
  dsimp only
  rw [if_neg (not_lt.mpr hstep), hrun, hfree, if_neg (by simp), if_neg (by simpa using hep), if_neg (by simpa using hcrc), hfault, hpaired]
  rfl

theorem installGradebookLift_ok {x : ScaleRec} (hk : k.slot = sl) (hx : mget s.scaling (bitsOf sl.param0 0 16) = some x)
    (hl : bitsOf sl.param0 16 3 ≤ 4) (hstep : s.job.openStep + 2 ≤ sl.param1) : installGradebookLift k s =
      .ok (setScale s (bitsOf sl.param0 0 16) fun x => { x with liftDue := some (bitsOf sl.param0 16 3, sl.param1) }) := by
  subst hk
  unfold installGradebookLift
  dsimp only
  rw [hx, if_neg (by simpa using hl), if_neg (by omega)]

theorem mget_setScale {n : Nat} {x : ScaleRec} {f : ScaleRec → ScaleRec} (hx : mget s.scaling n = some x)
    (hsound : badSector s (scaleAddr s.part n) 32 = none) : mget (setScale s n f).scaling n = some (f x) := by
  unfold setScale
  rw [hsound]
  exact mget_mmod hx

/-- COL_RING_DEFINE: with a job the ring waits for the step boundary, without one it is in force. -/
def ringSet (s : State) (n : Nat) (r : Ring) : State :=
  if s.job.running then setCol s fun x => { x with newRings := mput x.newRings n r }
  else setCol s fun x => { x with rings := mput x.rings n r }

/-- The members that a ring's record lists. -/
def ringMembers (bs : List Byte) : List Nat := (List.range (leAt bs 3 1)).map fun j => leAt bs (4 + j) 1

theorem installRing_ok {bs : List Byte} (hk : k.slot = sl) (hbs : inlineOf sl 68 = bs) (h1 : 1 ≤ leAt bs 0 2) (h2 : leAt bs 0 2 ≤ 1023)
    (hset : leAt bs 2 1 ≤ 3) (hn1 : 1 ≤ leAt bs 3 1) (hn2 : leAt bs 3 1 ≤ 64) (hnd : (ringMembers bs).Nodup)
    (hin : ∀ m ∈ ringMembers bs, m < s.twin.size)
    (huse : ringInUse s (leAt bs 0 2) = false ∨ ∃ r, mget s.col.rings (leAt bs 0 2) = some r ∧ r.broken = true)
    (hhops : ringHops s (leAt bs 2 1) (ringMembers bs) = true) :
    installRing k s = .ok (ringSet s (leAt bs 0 2) ⟨ringMembers bs, leAt bs 2 1, false⟩) := by
  subst hk
  have hsound : (ringMembers bs).findIdx? (fun m => m ≥ classSize s || ((ringMembers bs).filter (· = m)).length > 1) = none := by
    refine List.findIdx?_eq_none_iff.mpr fun m hm => ?_
    have hone : ((ringMembers bs).filter (· = m)).length ≤ 1 := by
      rw [← List.countP_eq_length_filter]
      exact List.nodup_iff_count_le_one.mp hnd m
    have hlt : ¬m ≥ classSize s := not_le.mpr (hin m hm)
    simp [hlt, hone]
  have hfree : (ringInUse s (leAt bs 0 2) && !(mget s.col.rings (leAt bs 0 2)).any (·.broken)) = false := by
    rcases huse with h | ⟨r, hr, hb⟩
    · simp [h]
    · simp [hr, hb]
  unfold installRing
  rw [hbs]
  dsimp only
  rw [← ringMembers, hsound, hfree, hhops, if_neg (by simp; omega), if_neg (by omega), if_neg (by simp; omega)]
  unfold ringSet
  cases s.job.running <;> rfl

end Sys2Proof.Proofs
end

section
/-! What class commands install: the obligation (O23). -/

namespace Sys2Proof.Proofs

open Sys2Proof Sys2Proof.Machine Sys2Proof.Laws

variable {s : State} {c : HostCmd} {k : ClassCmd} {raw : List Byte}

/-- The state after JOB_START: the job is open, and the hands of the tables that switch in its first step stand. -/
theorem jobStarted_keeps (s : State) (sl : Slot) :
    (raiseSwitches (opened s sl)).job =
      { running := true, number := bitsOf sl.param0 0 16, layoutEpoch := bitsOf sl.param0 16 16, openStep := sl.step,
        closedStep := s.job.closedStep, exchangesDue := [], firstStep := sl.step } ∧
    (raiseSwitches (opened s sl)).col = (opened s sl).col ∧ (raiseSwitches (opened s sl)).mem = s.mem ∧
    (raiseSwitches (opened s sl)).twin = s.twin ∧
    ((∀ e ∈ s.tables.descs, e.2.switchStep ≠ sl.step) → (raiseSwitches (opened s sl)).hif = s.hif) := by
  obtain ⟨hmem, htwin, hhif, hdescs, hjob⟩ := opened_keeps s sl
  have honly := raiseSwitches_only (opened s sl)
  refine ⟨(congrArg State.job honly).trans hjob, (congrArg State.col honly).trans rfl, (congrArg State.mem honly).trans hmem,
    (congrArg State.twin honly).trans htwin, fun h => ?_⟩
  have hnone : ∀ e ∈ (opened s sl).tables.descs, e.2.switchStep ≠ (opened s sl).job.openStep := by
    rw [hdescs, hjob]
    exact h
  rw [raiseSwitches_of_none hnone, hhif]

theorem endsIn_outlierSet {u : State} (h : Alone s 0x011B c) (hout : operandOut s c (4 * bitsOf c.slot.param0 16 16) = false)
    (hfault : operandFault s c (4 * bitsOf c.slot.param0 16 16) = none)
    (hok : installOutlierSet (classCmdOf s s.col.nextTag c (operandBytes s c raw (4 * bitsOf c.slot.param0 16 16))) s = .ok u) :
    EndsIn (.outlierSet c raw) s c 0 0 0 { u with undo := undoLeft s u c [] } := by
  obtain ⟨hready, halone, hnew⟩ := h
  exact endsIn_classReady ⟨hnew, .inr (.inl ⟨raw, _, rfl, rfl, hready, rfl, hout, hfault, rfl⟩)⟩ halone hok

theorem endsIn_reshard {u : State} {n : Nat} (hn : n = planBytes (operandBytes s c raw 64)) (h : Alone s 0x0132 c)
    (hout : operandOut s c n = false) (hfault : operandFault s c n = none)
    (hok : installReshard (classCmdOf s s.col.nextTag c (operandBytes s c raw n)) s = .ok u) :
    EndsIn (.reshard c raw) s c 0 0 0 { u with undo := undoLeft s u c [] } := by
  obtain ⟨hready, halone, hnew⟩ := h
  exact endsIn_classReady ⟨hnew, .inr (.inr ⟨raw, n, rfl, rfl, hready, hn, hout, hfault, rfl⟩)⟩ halone hok

/-- Settles O23: each clause by the equation of its installer, once for the member's command and once for the module alone. -/
theorem classCommandsInstallTheirChange : Obligations.ClassCommandsInstallTheirChange := by
  unfold Obligations.ClassCommandsInstallTheirChange
  intro c k s raw hk
  refine ⟨fun hn hr => ?_, fun hr hn => ?_, fun d hd hfault hpaired hnew => ?_, fun d hd hmode hep hstep hnone => ?_, fun hfault => ?_,
    fun n hn hsome => ?_, fun hrise hblock => ?_, fun hstep hrun hfree hep hcrc hfault hpaired => ?_, fun x hx hl hstep hsound => ?_,
    fun bs n ms hbs hn hms h1 h2 hset hn1 hn2 hnd hin huse hhops => ?_⟩
  · obtain ⟨hjob, hcol, hmem, htwin, hhif⟩ := jobStarted_keeps s c.slot
    obtain ⟨hother, hsame⟩ := opened_marks s c.slot
    rw [← hcol] at hother hsame
    exact ⟨_, undoLeft s _ c [], installJobStart_ok hk hn hr,
      fun h => endsIn_alone (by simp [slotClassCommands]) h (absurd · (by decide)) (installJobStart_ok rfl hn hr),
      hjob, hother, hsame, hmem, htwin, hhif⟩
  · obtain ⟨hjob, hmem, hhif⟩ := jobEnd_keeps s
    exact ⟨_, undoLeft s _ c [], installJobEnd_ok hk hr hn,
      fun h hfree => endsIn_alone (by simp [slotClassCommands]) h (fun _ => hfree) (installJobEnd_ok rfl hr hn),
      congrArg (fun j : Job => { j with running := false }) hjob, hmem, hhif⟩
  · subst hd
    exact ⟨_, undoLeft s _ c [], installTableDefine_ok hk hfault hpaired hnew,
      fun h => endsIn_alone (by simp [slotClassCommands]) h (absurd · (by decide)) (installTableDefine_ok rfl hfault hpaired hnew),
      mem_defined .., fun hr => defined_running hr _, fun hr => defined_alone hr _⟩
  · exact ⟨_, undoLeft s _ c [], switchSet d c.slot.param1 (bitsOf c.slot.param0 16 16), installTableSwitch_ok hk hd hmode hep hstep hnone,
      fun h => endsIn_alone (by simp [slotClassCommands]) h (absurd · (by decide)) (installTableSwitch_ok rfl hd hmode hep hstep hnone),
      mget_mput_self .., rfl, epochOfSlot_switchSet .., rfl⟩
  · exact ⟨_, undoLeft s _ c [], installOptimSet_ok hk hfault,
      fun h => endsIn_alone (by simp [slotClassCommands]) h (absurd · (by decide)) (installOptimSet_ok rfl hfault), rfl⟩
  · subst hn
    exact ⟨_, undoLeft s _ c [], _, installScaleReset_ok hk hsome,
      fun h => endsIn_alone (by simp [slotClassCommands]) h (absurd · (by decide)) (installScaleReset_ok rfl hsome), rfl,
      fun hr => if_pos hr, fun hr => if_neg (by simp [hr])⟩
  · refine ⟨_, undoLeft s (hostListing s (bitsOf c.slot.param0 0 16) (outlierList k)) c [], _, installOutlierSet_ok hk hrise hblock, fun h hout hfault hdata => ?_, mget_mput_self .., rfl, rfl⟩
    have hlist : outlierList k = outlierList (classCmdOf s s.col.nextTag c (operandBytes s c raw (4 * bitsOf c.slot.param0 16 16))) := by
      simp only [outlierList, hk, hdata, classCmdOf]
    rw [hlist] at hrise hblock ⊢
    exact endsIn_outlierSet h hout hfault (installOutlierSet_ok rfl hrise hblock)
  · refine ⟨_, undoLeft s (reshardPending s c.slot k.data) c [], installReshard_ok hk hstep hrun hfree hep hcrc hfault hpaired, fun n hn h hout hof hdata => ?_, rfl⟩
    rw [hdata] at hcrc hfault hpaired ⊢
    exact endsIn_reshard hn h hout hof (installReshard_ok rfl hstep hrun hfree hep hcrc hfault hpaired)
  · exact ⟨_, undoLeft s _ c [], installGradebookLift_ok hk hx hl hstep,
      fun h => endsIn_alone (by simp [slotClassCommands]) h (absurd · (by decide)) (installGradebookLift_ok rfl hx hl hstep), mget_setScale hx hsound⟩
  · subst hn hms
    refine ⟨_, undoLeft s (ringSet s (leAt bs 0 2) ⟨ringMembers bs, leAt bs 2 1, false⟩) c [],
      installRing_ok hk hbs.symm h1 h2 hset hn1 hn2 hnd hin huse hhops, fun h => ?_, fun hr => ?_, fun hr => ?_⟩
    · exact endsIn_alone (by simp [slotClassCommands]) h (absurd · (by decide)) (installRing_ok rfl hbs.symm h1 h2 hset hn1 hn2 hnd hin huse hhops)
    · rw [ringSet, if_neg (by simp [hr])]
      exact mget_mput_self ..
    · rw [ringSet, if_pos hr]
      exact ⟨mget_mput_self .., rfl⟩

end Sys2Proof.Proofs
end

section
/-! Messages at their receive points (O25): what an accepted message finds, and what every other arrival changes (R193, R240 to R244). -/

namespace Sys2Proof.Proofs

open Sys2Proof Sys2Proof.Machine Sys2Proof.Laws

variable {s t : State} {h : MsgHdr}

/-! ### Sectors that a read meets (R125 to R128) -/

/-- From s to t sectors were met: only counters, bad sectors, and what a miscorrection stores change. -/
structure Met (s t : State) : Prop where
  rest : t = { s with
    regs := t.regs, mem := t.mem, freeCtr := t.freeCtr, gddr := { s.gddr with badSectors := t.gddr.badSectors } }

theorem Met.refl (s : State) : Met s s := ⟨rfl⟩

theorem Met.trans {a b c : State} (h : Met a b) (g : Met b c) : Met a c :=
  ⟨g.rest.trans (congrArg (fun x : State => { x with
    regs := c.regs, mem := c.mem, freeCtr := c.freeCtr, gddr := { x.gddr with badSectors := c.gddr.badSectors } }) h.rest)⟩

theorem met_bump (s : State) (b : Blk) (i off lo w n : Nat) : Met s (bump s b i off lo w n) := ⟨rfl⟩

theorem met_spoil (s : State) (a : Nat) : Met s (spoil s a) := ⟨rfl⟩

theorem met_drawFree (s : State) : Met s (drawFree s).1 := ⟨rfl⟩

theorem met_miscorrect (s : State) (a : Nat) : Met s (miscorrect s a) := by
  unfold miscorrect
  dsimp only
  split <;> exact ⟨rfl⟩

theorem met_meetSector (s : State) (r : SectorRead) : Met s (meetSector s r) := by
  unfold meetSector
  dsimp only
  split
  · exact Met.refl s
  refine Met.trans (met_bump s .mem (memOf s.part (sectorOf r.addr)) 0x118 0 16 (min r.retries 3)) ?_
  split
  · exact Met.refl _
  · exact met_bump ..
  · exact met_spoil ..
  · refine (met_drawFree _).trans ?_
    split
    · exact met_spoil ..
    · exact met_miscorrect ..

theorem met_meet (rs : List SectorRead) (s : State) : Met s (meet s rs) := by
  induction rs generalizing s with
  | nil => exact Met.refl s
  | cons r rs ih => exact (met_meetSector s r).trans (ih _)

/-! ### The state in which an accepted message has its effect -/

/-- An accepted message before its sectors are met: its mark, the clock of its slice, and the slice's progress. -/
def marked (s : State) (h : MsgHdr) : State :=
  progress (setMark (startDomain s (domCol (pointSlice s.part h))) (streamOf h) h.sequence) .col (pointSlice s.part h) 1

theorem noted_met (s : State) (h : MsgHdr) : Met (marked s h) (noted s h) := met_meet h.met _

theorem noted_of_none_met (hm : h.met = []) : noted s h = marked s h := by
  rw [noted, hm]
  rfl

theorem col_noted (s : State) (h : MsgHdr) : (noted s h).col = (setMark s (streamOf h) h.sequence).col :=
  (congrArg State.col (noted_met s h).rest).trans rfl

theorem markOf_congr (h : t.col.marks = s.col.marks) (k : StreamKey) : markOf t k = markOf s k := by
  rw [markOf, h, markOf]

theorem markOf_setMark_self (s : State) (k : StreamKey) (n : Nat) : markOf (setMark s k n) k = n := by
  simp [markOf, setMark, setCol]

theorem markOf_setMark_ne {k k' : StreamKey} (s : State) (n : Nat) (hne : k' ≠ k) : markOf (setMark s k n) k' = markOf s k' := by
  simp only [markOf, setMark, setCol]
  rw [List.find?_cons_of_neg (by simpa using hne.symm), List.find?_filter]
  congr 3
  funext x
  by_cases hx : x.1 = k'
  · simp [hx, hne]
  · simp [hx]

theorem noted_only (s : State) (h : MsgHdr) : noted s h = { s with
    col := { s.col with marks := (noted s h).col.marks }, regs := (noted s h).regs, mem := (noted s h).mem
    gddr := { s.gddr with badSectors := (noted s h).gddr.badSectors }, freeCtr := (noted s h).freeCtr
    pwr := { s.pwr with running := (noted s h).pwr.running } } := by
  have hcol := col_noted s h
  have hpwr : (noted s h).pwr = (marked s h).pwr := (congrArg State.pwr (noted_met s h).rest).trans rfl
  refine (noted_met s h).rest.trans ?_
  rw [hcol, hpwr]
  rfl

/-! ### Every other arrival -/

theorem receive_of_broken {accept : State → State} (hb : h.crcOk = false ∨ deaf s = true) : receive s h accept = s := by
  refine if_pos ?_
  rcases hb with hb | hb <;> simp [hb]

section Heard
variable {accept : State → State} (hcrc : h.crcOk = true) (hup : deaf s = false)
include hcrc hup

theorem receive_nowhere (hpoint : 0x1C < h.dstPoint) : receive s h accept = bump s .col 0 0x11C 0 32 1 := by
  simp [receive, receiveWith, hcrc, hup, hpoint]

variable (hpoint : h.dstPoint ≤ 0x1C)
include hpoint

theorem receive_in_recess (hrec : s.pwr.recess = true) : receive s h accept = beginWake s := by
  simp [receive, receiveWith, hcrc, hup, hpoint, hrec]

variable (hrec : s.pwr.recess = false) (hjob : s.job.running = true)
include hrec hjob

theorem receive_other_job (hne : h.job ≠ s.job.number) :
    receive s h accept = bump s .upd (countUnit s.part h.dstPoint) 0x118 16 16 1 := by
  simp [receive, receiveWith, hcrc, hup, hpoint, hrec, hjob, hne]

variable (hnum : h.job = s.job.number)
include hnum

theorem receive_other_epoch (hne : h.layoutEpoch ≠ s.job.layoutEpoch) (hnone : s.col.reshard = none) :
    receive s h accept = sendReject (bump s .upd (countUnit s.part h.dstPoint) 0x118 0 16 1) h := by
  simp [receive, receiveWith, hcrc, hup, hpoint, hrec, hjob, hnum, hne, hnone]

variable (hep : h.layoutEpoch = s.job.layoutEpoch)
include hep

theorem receive_repeat (hold : h.sequence ≤ markOf s (streamOf h)) : receive s h accept = sendAck (countRepeat s h) h := by
  simp [receive, receiveWith, hcrc, hup, hpoint, hrec, hjob, hnum, hep, hold]

theorem receive_gap (hgap : markOf s (streamOf h) + 1 < h.sequence) :
    receive s h accept = bump s .upd (countUnit s.part h.dstPoint) 0x114 0 16 1 := by
  have hnew : ¬h.sequence ≤ markOf s (streamOf h) := by omega
  have hnext : ¬h.sequence = markOf s (streamOf h) + 1 := by omega
  simp [receive, receiveWith, hcrc, hup, hpoint, hrec, hjob, hnum, hep, hnew, hnext]

end Heard

theorem countRepeat_only (s : State) (h : MsgHdr) : countRepeat s h = { s with regs := (countRepeat s h).regs } := by
  unfold countRepeat
  split <;> rfl

/-- Settles O25: the accepted message by `receive_accepted` and the frame of `noted`, every other arrival by its own equation. -/
theorem messagesTakeEffectOnceAndInOrder : Obligations.MessagesTakeEffectOnceAndInOrder := by
  unfold Obligations.MessagesTakeEffectOnceAndInOrder
  intro h s accept
  refine ⟨fun ha => ⟨receive_accepted ha accept, ?_, fun k hk => ?_, noted_only s h, fun hm => ?_⟩, receive_of_broken,
    receive_nowhere, fun hcrc hup hp hrec => ?_, fun hcrc hup hp hrec hjob => ⟨receive_other_job hcrc hup hp hrec hjob,
      fun hnum hne hnone => ?_, fun hnum hep => ⟨fun hold => ?_, receive_gap hcrc hup hp hrec hjob hnum hep⟩⟩⟩
  · rw [markOf_congr (congrArg Col.marks (col_noted s h))]
    exact markOf_setMark_self ..
  · rw [markOf_congr (congrArg Col.marks (col_noted s h))]
    exact markOf_setMark_ne s _ hk
  · rw [noted_of_none_met hm]
    exact ⟨rfl, rfl, rfl⟩
  · rw [receive_in_recess hcrc hup hp hrec]
    rfl
  · rw [receive_other_epoch hcrc hup hp hrec hjob hnum hne hnone]
    exact ⟨_, rfl, rfl, rfl, rfl⟩
  · rw [receive_repeat hcrc hup hp hrec hjob hnum hep hold, countRepeat_only]
    exact ⟨_, rfl, rfl, rfl, rfl⟩

end Sys2Proof.Proofs
end

section
/-! Sent messages and the retry store (O26, R241 to R244). -/

namespace Sys2Proof.Proofs

open Sys2Proof Sys2Proof.Machine Sys2Proof.Laws

variable {s t : State}

/-! ### A message with the next number of its stream -/

/-- The message that `sendHdr` launches. -/
def numbered (s : State) (dst : Nat) (h : MsgHdr) (b : Body) : Msg :=
  { dst := dst, hdr := { h with sequence := (takeNumbers s (streamOf h) 1).2 }, body := b }

theorem holdsBack_takeNumbers (s : State) (key : StreamKey) (n i : Nat) : holdsBack (takeNumbers s key n).1 i = holdsBack s i := rfl

theorem nextNumber_takeNumbers (s : State) (key : StreamKey) (n : Nat) :
    ((takeNumbers s key n).1.col.nextSeq.find? (·.1 = key)).map (·.2) = some ((takeNumbers s key n).2 + n) := by
  simp [takeNumbers, setCol]

theorem holdsBack_iff (s : State) (i : Nat) :
    holdsBack s i = true ↔ retryFull s i = true ∨ ∃ x ∈ s.col.unsent, channelSlice s x.hdr.srcChannel = i := by
  simp [holdsBack]

/-- A message that is sent: its number, and where it stands. -/
theorem sendHdr_puts (s : State) (dst : Nat) (h : MsgHdr) (b : Body) :
    ∃ m : Msg, m.dst = dst ∧ m.body = b ∧ m.hdr = { h with sequence := (takeNumbers s (streamOf h) 1).2 } ∧
      ((sendHdr s dst h b).col.nextSeq.find? (·.1 = streamOf h)).map (·.2) = some ((takeNumbers s (streamOf h) 1).2 + 1) ∧
      (holdsBack s (channelSlice s h.srcChannel) = false → (sendHdr s dst h b).col.outbox = s.col.outbox ++ [m] ∧
        (sendHdr s dst h b).col.retry = s.col.retry ++ [m] ∧ (sendHdr s dst h b).col.unsent = s.col.unsent) ∧
      (holdsBack s (channelSlice s h.srcChannel) = true → (sendHdr s dst h b).col.outbox = s.col.outbox ∧
        (sendHdr s dst h b).col.retry = s.col.retry ∧ (sendHdr s dst h b).col.unsent = s.col.unsent ++ [m]) := by
  have hnext := nextNumber_takeNumbers s (streamOf h) 1
  have hsend : sendHdr s dst h b = launch (takeNumbers s (streamOf h) 1).1 (numbered s dst h b) := rfl
  have hslice : channelSlice (takeNumbers s (streamOf h) 1).1 (numbered s dst h b).hdr.srcChannel = channelSlice s h.srcChannel := rfl
  rw [hsend]
  cases hb : holdsBack s (channelSlice s h.srcChannel) with
  | true =>
    rw [launch_of_holdsBack (by rw [hslice, holdsBack_takeNumbers, hb])]
    exact ⟨numbered s dst h b, rfl, rfl, rfl, hnext, by simp, fun _ => ⟨rfl, rfl, rfl⟩⟩
  | false =>
    rw [launch_of_room (by rw [hslice, holdsBack_takeNumbers, hb])]
    obtain ⟨r, hdst, hhdr, hbody, hout, hretry, hunsent, hseq⟩ := issue_puts (takeNumbers s (streamOf h) 1).1 (numbered s dst h b)
    exact ⟨r, hdst, hbody, hhdr, by rw [hseq]; exact hnext, fun _ => ⟨hout, hretry, hunsent⟩, by simp⟩

/-! ### Messages sent again -/

theorem perm_insertBy {α : Type} (f : α → Nat) (x : α) (l : List α) : (insertBy f x l).Perm (x :: l) := by
  induction l with
  | nil => exact List.Perm.refl _
  | cons y l ih =>
    unfold insertBy
    split
    · exact List.Perm.refl _
    · exact (ih.cons y).trans (List.Perm.swap x y l)

theorem rising_insertBy {α : Type} (f : α → Nat) (x : α) {l : List α} (h : l.Pairwise fun a b => f a ≤ f b) :
    (insertBy f x l).Pairwise fun a b => f a ≤ f b := by
  induction l with
  | nil => exact List.pairwise_singleton _ _
  | cons y l ih =>
    obtain ⟨hy, hl⟩ := List.pairwise_cons.mp h
    unfold insertBy
    split
    · rename_i hlt
      exact List.pairwise_cons.mpr ⟨fun z hz => (List.mem_cons.mp hz).elim (fun e => e ▸ hlt.le) fun hz => hlt.le.trans (hy z hz), h⟩
    · rename_i hge
      refine List.pairwise_cons.mpr ⟨fun z hz => ?_, ih hl⟩
      exact (List.mem_cons.mp ((perm_insertBy f x l).mem_iff.mp hz)).elim (fun e => e ▸ not_lt.mp hge) (hy z)

theorem sortBy_foldl {α : Type} (f : α → Nat) (l acc : List α) (h : acc.Pairwise fun a b => f a ≤ f b) :
    (l.foldl (fun acc x => insertBy f x acc) acc).Perm (acc ++ l) ∧
      (l.foldl (fun acc x => insertBy f x acc) acc).Pairwise fun a b => f a ≤ f b := by
  induction l generalizing acc with
  | nil => exact ⟨by simp, h⟩
  | cons x l ih =>
    obtain ⟨hperm, hrise⟩ := ih _ (rising_insertBy f x h)
    exact ⟨hperm.trans (((perm_insertBy f x acc).append_right l).trans List.perm_middle.symm), hrise⟩

theorem perm_sortBy {α : Type} (f : α → Nat) (l : List α) : (sortBy f l).Perm l := (sortBy_foldl f l [] List.Pairwise.nil).1

theorem rising_sortBy {α : Type} (f : α → Nat) (l : List α) : (sortBy f l).Pairwise fun a b => f a ≤ f b :=
  (sortBy_foldl f l [] List.Pairwise.nil).2

/-- One message sent again (R242). -/
def again (t : State) (m : Msg) : State :=
  bump (setCol (route t m).1 fun c => { c with outbox := c.outbox ++ [(route t m).2] }) .col (channelSlice t m.hdr.srcChannel) 0x110 0 32 1

theorem again_only (t : State) (m : Msg) :
    again t m = { t with regs := (again t m).regs, col := { t.col with outbox := (again t m).col.outbox, ways := (again t m).col.ways } } := by
  unfold again route
  dsimp only
  split <;> rfl

theorem outbox_again (t : State) (m : Msg) : (again t m).col.outbox = t.col.outbox ++ [(route t m).2] := by
  have hcol : (again t m).col.outbox = (route t m).1.col.outbox ++ [(route t m).2] := rfl
  rw [hcol, col_route]

/-- What sending again puts out: the messages in their order, and nothing else. -/
theorem foldl_again (l : List Msg) (s : State) : ∃ out : List Msg, (l.foldl again s).col.outbox = s.col.outbox ++ out ∧
    (out.map fun m => (m.dst, m.hdr, m.body)) = (l.map fun m => (m.dst, m.hdr, m.body)) ∧
    l.foldl again s = { s with
      regs := (l.foldl again s).regs
      col := { s.col with outbox := (l.foldl again s).col.outbox, ways := (l.foldl again s).col.ways } } := by
  induction l generalizing s with
  | nil => exact ⟨[], (List.append_nil _).symm, rfl, rfl⟩
  | cons m l ih =>
    obtain ⟨out, hout, hmap, honly⟩ := ih (again s m)
    obtain ⟨hdst, hhdr, hbody⟩ := route_keeps s m
    refine ⟨(route s m).2 :: out, ?_, ?_, ?_⟩
    · rw [List.foldl_cons, hout, outbox_again, List.append_assoc]
      rfl
    · rw [List.map_cons, List.map_cons, hmap, hdst, hhdr, hbody]
    · refine honly.trans ?_
      exact congrArg (fun x : State => { x with
        regs := (l.foldl again (again s m)).regs
        col := { x.col with outbox := (l.foldl again (again s m)).col.outbox, ways := (l.foldl again (again s m)).col.ways } }) (again_only s m)

theorem resend_puts (s : State) (ms : List Msg) : ∃ out : List Msg, (resend s ms).col.outbox = s.col.outbox ++ out ∧
    (out.map fun m => (m.dst, m.hdr, m.body)).Perm (ms.map fun m => (m.dst, m.hdr, m.body)) ∧
    out.Pairwise (fun a b => a.hdr.sequence ≤ b.hdr.sequence) ∧
    resend s ms = { s with
      regs := (resend s ms).regs, col := { s.col with outbox := (resend s ms).col.outbox, ways := (resend s ms).col.ways } } := by
  obtain ⟨out, hout, hmap, honly⟩ := foldl_again (sortBy (fun (m : Msg) => m.hdr.sequence) ms) s
  refine ⟨out, hout, hmap ▸ (perm_sortBy _ ms).map _, ?_, honly⟩
  have hrise := rising_sortBy (fun (m : Msg) => m.hdr.sequence) ms
  have hseq : (out.map fun m => m.hdr.sequence) = (sortBy (fun (m : Msg) => m.hdr.sequence) ms).map fun m => m.hdr.sequence := by
    simpa [Function.comp_def] using congrArg (List.map fun x : Nat × MsgHdr × Body => x.2.1.sequence) hmap
  rw [← List.pairwise_map (f := fun m : Msg => m.hdr.sequence) (R := (· ≤ ·)), hseq, List.pairwise_map]
  exact hrise

/-! ### The commands of the streams -/

theorem exec_acknowledgement {h : MsgHdr} {stream : StreamKey} {dst upTo : Nat} (hcrc : h.crcOk = true) (hup : deaf s = false) :
    exec (.acknowledgement h stream dst upTo) s = .next (settleAll (takeAck s stream dst upTo)) := by
  change execAcknowledgement h stream dst upTo s = _
  simp [execAcknowledgement, hcrc, hup]

/-- The messages that a reject names. -/
def rejected (stream : StreamKey) (dst sequence : Nat) (m : Msg) : Bool :=
  streamOf m.hdr = stream && m.dst = dst && m.hdr.sequence = sequence

theorem exec_reject {h : MsgHdr} {stream : StreamKey} {dst sequence held : Nat} {m : Msg} (hcrc : h.crcOk = true) (hup : deaf s = false)
    (hm : s.col.retry.find? (rejected stream dst sequence) = some m) : exec (.reject h stream dst sequence held) s =
      .next (settleAll (failOwner (issueUnsent (setCol s fun c =>
        { c with retry := c.retry.filter fun x => !rejected stream dst sequence x })) m held)) := by
  have hfind : s.col.retry.find? (fun x => streamOf x.hdr = stream && x.dst = dst && x.hdr.sequence = sequence) = some m := hm
  change execReject h stream dst sequence held s = _
  simp only [execReject, hcrc, hup, hfind]
  rfl

theorem exec_reservedMessage {h : MsgHdr} (hcrc : h.crcOk = true) (hup : deaf s = false) :
    exec (.reservedMessage h) s = .next (bump s .col 0 0x11C 0 32 1) := by
  change execReservedMessage h s = _
  simp [execReservedMessage, hcrc, hup]

/-- A counter of a whole register counts up to its largest value (R13). -/
theorem kept_bump_word (s : State) (b : Blk) (i off n : Nat) :
    kept (bump s b i off 0 32 n) b i off = min (kept s b i off % 2 ^ 32 + n) (2 ^ 32 - 1) := by
  have hf := field_bump s b i off n (lo := 0) (w := 32) (by decide)
  have hlt : kept (bump s b i off 0 32 n) b i off < 2 ^ 32 := by
    rw [bump, setField, kept_setReg]
    exact Nat.mod_lt _ (Nat.two_pow_pos 32)
  simp only [field, bitsOf, pow_zero, Nat.div_one] at hf
  rwa [Nat.mod_eq_of_lt hlt] at hf

theorem kept_lt {b : Blk} {i off : Nat} (h : resetReg b i off < 2 ^ 32) : kept s b i off < 2 ^ 32 := by
  unfold kept
  split
  · exact BitVec.isLt _
  · exact h

/-- Settles O26: sending by `sendHdr_puts`, sending again by `resend_puts`, the others by the equations of their commands. -/
theorem sentMessagesStayUntilAcknowledged : Obligations.SentMessagesStayUntilAcknowledged := by
  unfold Obligations.SentMessagesStayUntilAcknowledged
  intro s
  refine ⟨fun dst kind channel point step body i t hi ht => ?_, fun h stream dst upTo hcrc hup => ?_, fun stream dst => ?_,
    fun h stream dst sequence held m hcrc hup hm => ?_, fun h hcrc hup => ?_⟩
  · have hsend : send s dst kind channel point step body = sendHdr s dst (header s kind channel point dst step) body := rfl
    subst hi
    rw [hsend] at ht
    rw [ht]
    obtain ⟨m, hdst, hbody, hhdr, hnext, hroom, hheld⟩ := sendHdr_puts s dst (header s kind channel point dst step) body
    have hslice : channelSlice s (header s kind channel point dst step).srcChannel = channelSlice s channel := rfl
    have hstream : streamOf m.hdr = streamOf (header s kind channel point dst step) := (congrArg streamOf hhdr).trans rfl
    rw [hslice] at hroom hheld
    refine ⟨m, hdst, hbody, ?_, ?_, ?_, ?_, ?_, ?_, (sent_sendHdr ..).rest, fun hfull hnone => hroom ?_, fun h => ?_⟩
    · exact congrArg MsgHdr.kind hhdr
    · exact congrArg MsgHdr.step hhdr
    · exact congrArg MsgHdr.srcClass hhdr
    · exact congrArg MsgHdr.layoutEpoch hhdr
    · rw [hstream]
      exact congrArg MsgHdr.sequence hhdr
    · rw [hstream, hnext]
      exact congrArg (fun x : MsgHdr => some (x.sequence + 1)) hhdr.symm
    · refine Bool.eq_false_iff.mpr fun hb => ?_
      rcases (holdsBack_iff s _).mp hb with h | ⟨x, hx, hi⟩
      · rw [hfull] at h
        cases h
      · exact hnone x hx hi
    · exact hheld ((holdsBack_iff s _).mpr h)
  · exact ⟨_, exec_acknowledgement hcrc hup, _, rfl, rfl, rfl⟩
  · obtain ⟨out, hout, hperm, hrise, honly⟩ := resend_puts s (s.col.retry.filter fun m => streamOf m.hdr = stream && m.dst = dst)
    exact ⟨_, rfl, out, hout, hperm, hrise, honly⟩
  · refine ⟨_, exec_reject hcrc hup hm, _, rfl, fun hmem => ?_, rfl⟩
    have hnot := (List.mem_filter.mp hmem).2
    rw [List.find?_some (p := rejected stream dst sequence) hm] at hnot
    cases hnot
  · refine ⟨_, exec_reservedMessage hcrc hup, rfl, ?_, sameRegs_bump s .col 0 0x11C 0 32 1⟩
    rw [kept_bump_word, Nat.mod_eq_of_lt (kept_lt (by decide))]

end Sys2Proof.Proofs
end

section
/-! Losses, notices and removals (O28). -/

namespace Sys2Proof.Proofs

open Sys2Proof Sys2Proof.Machine Sys2Proof.Laws

variable {s t : State} {h : MsgHdr} {i : Instr}

/-! ### What an accepted message finds -/

section Noted
variable (s h)

theorem twin_noted : (noted s h).twin = s.twin := (congrArg State.twin (noted_only s h)).trans rfl
theorem job_noted : (noted s h).job = s.job := (congrArg State.job (noted_only s h)).trans rfl
theorem tables_noted : (noted s h).tables = s.tables := (congrArg State.tables (noted_only s h)).trans rfl
theorem part_noted : (noted s h).part = s.part := (congrArg State.part (noted_only s h)).trans rfl
theorem members_noted : (noted s h).col.members = s.col.members :=
  (congrArg (fun x : State => x.col.members) (noted_only s h)).trans rfl

end Noted

theorem takes_eq {f : State → State} {e : State} (ha : Accepted s h) (hi : exec i s = .next (receive s h f)) (he : f (noted s h) = e) :
    Takes i s h fun x => x = e := takes_of_receive ha hi he

/-! ### Single notices -/

theorem exec_recoveryNotice (h : MsgHdr) (st : PairState) (lost : Bool) (hrec : s.rel.recovery = 0) :
    exec (.recoveryNotice h st lost) s = .next (receive s h fun s => declareLost s 2) := by
  change execRecoveryNotice h st lost s = _
  rw [execRecoveryNotice, hrec]
  rfl

theorem exec_removalNotice {lost : Nat} (step : Nat) (hrec : s.rel.recovery = 0) (hother : lost ≠ h.srcClass) :
    exec (.removalNotice h lost step) s = .next (receive s h fun s => takeRemoval s lost step h.srcClass) := by
  change execRemovalNotice h lost step s = _
  simp [execRemovalNotice, hrec, hother]

theorem takeRemoval_other {lost step sender : Nat} (hme : lost ≠ s.twin.number) (hsender : lost ≠ sender)
    (hpart : partitioned s lost sender = false) :
    takeRemoval s lost step sender = removeMember (noteRemoval s lost step sender) lost step := by
  unfold takeRemoval
  dsimp only
  rw [if_neg hme, hpart, if_neg (by decide), if_neg (by simp [hsender])]

theorem takeRemoval_self {lost step sender : Nat} (hme : lost = s.twin.number) (hj : senior s = false ∨ sender ≠ twinOf s) :
    takeRemoval s lost step sender = leaveClass (noteRemoval s lost step sender) step := by
  have hnot : ¬((senior s && decide (sender = twinOf s) && !s.twin.noticeSent) = true) := by
    rcases hj with hj | hj <;> simp [hj]
  unfold takeRemoval
  dsimp only
  rw [if_pos hme, if_neg hnot]

/-- What a re-admission notice does (R44, R263). -/
def readmitting (h : MsgHdr) (target step : Nat) (s : State) : State :=
  if target != s.twin.number then
    (if s.job.running && s.job.openStep < step then holdNotice s h (.readmission target step) else takeReadmission s target step)
  else if s.twin.pair = .enrollingTarget && !(s.twin.endMark.any fun k => step ≤ k + 1) then
    holdNotice s h (.readmission target step)
  else kickUpdates (takeReadmission s target step)

theorem exec_reAdmissionNotice (h : MsgHdr) (target step : Nat) (s : State) :
    exec (.reAdmissionNotice h target step) s = .next (receive s h (readmitting h target step)) := rfl

theorem readmitting_other {target step : Nat} (hother : target ≠ s.twin.number) (hnow : s.job.running = false ∨ step ≤ s.job.openStep) :
    readmitting h target step s = takeReadmission s target step := by
  have hpast : ¬((s.job.running && decide (s.job.openStep < step)) = true) := by
    rcases hnow with hr | hr
    · simp [hr]
    · simp [not_lt.mpr hr]
  rw [readmitting, if_pos (by simpa using hother), if_neg hpast]

theorem readmitting_self {target step : Nat} (hme : target = s.twin.number)
    (hnow : s.twin.pair ≠ .enrollingTarget ∨ ∃ k, s.twin.endMark = some k ∧ step ≤ k + 1) :
    readmitting h target step s = kickUpdates (takeReadmission s target step) := by
  have hready : ¬((decide (s.twin.pair = .enrollingTarget) && !s.twin.endMark.any fun k => decide (step ≤ k + 1)) = true) := by
    rcases hnow with hp | ⟨k, hk, hle⟩
    · simp [hp]
    · simp [hk, hle]
  rw [readmitting, if_neg (by simp [hme]), if_neg hready]

/-! ### Membership -/

theorem isMember_set (m : W64) {c target : Nat} (hc : c < 64) :
    (m ||| ((1 : W64) <<< target)).getLsbD c = (m.getLsbD c || decide (c = target)) := by
  rw [BitVec.getLsbD_or, getLsbD_oneMember target hc]

theorem isMember_clear (m : W64) {c lost : Nat} (hc : c < 64) :
    (m &&& ~~~((1 : W64) <<< lost)).getLsbD c = (m.getLsbD c && !decide (c = lost)) := by
  rw [BitVec.getLsbD_and, BitVec.getLsbD_not, getLsbD_oneMember lost hc]
  simp [hc]

theorem col_post (s : State) (b : Blk) (i code : Nat) (items : List Nat) : (post s b i code items).col = s.col :=
  (congrArg State.col (ringsOnly_post s b i code items).rest).trans rfl

theorem twin_post (s : State) (b : Blk) (i code : Nat) (items : List Nat) : (post s b i code items).twin = s.twin :=
  (congrArg State.twin (ringsOnly_post s b i code items).rest).trans rfl

/-- Re-admission sets the bit of the target alone; the target itself is PAIRED. -/
theorem takeReadmission_members {target : Nat} (step : Nat) (ht : target < 64) :
    isMember (takeReadmission s target step) target = true ∧
      (∀ m < 64, m ≠ target → isMember (takeReadmission s target step) m = isMember s m) ∧
      (target = s.twin.number → (takeReadmission s target step).twin.pair = .paired) := by
  have hcol : (takeReadmission s target step).col.members = s.col.members ||| ((1 : W64) <<< target) := by
    rw [takeReadmission, col_post]
    rfl
  refine ⟨?_, fun m hm hne => ?_, fun hme => ?_⟩
  · rw [isMember, hcol, isMember_set _ ht]
    simp
  · rw [isMember, hcol, isMember_set _ hm, isMember]
    simp [hne]
  · rw [takeReadmission, twin_post]
    exact if_pos hme

/-! ### A member lost with nothing that waits on it (R254) -/

/-- The state after the removal of a member that nothing waits on, but for its event. -/
def without (s : State) (lost : Nat) : State :=
  setCol s fun c => { c with
    members := c.members &&& ~~~((1 : W64) <<< lost), rings := breakRings lost c.rings, newRings := breakRings lost c.newRings
    retry := c.retry.filter fun m => m.dst != lost || isNotice m lost || leftAfter s lost m.hdr.step }

theorem issueUnsent_of_none (hu : s.col.unsent = []) : issueUnsent s = s := by
  have hcol : (setCol s fun c => { c with unsent := [] }) = s := by
    rw [setCol, ← hu]
  rw [issueUnsent, hu, hcol]
  rfl

theorem endRouted_of_none (lost step : Nat) (hr : s.tables.routed = []) : endRouted s lost step = s := by
  rw [endRouted, hr]
  rfl

theorem endWaiters_of_none (hit : List Nat → Bool) (lost step : Nat) (hj : s.col.jobs = []) (ha : s.att = []) (hd : s.decodes = []) :
    endWaiters s hit lost step = s := by
  simp [endWaiters, hj, ha, hd]

theorem serveBatches_of_none (hb : s.tables.batches = []) : serveBatches s = s := by
  have htables : (setTables s fun t => { t with batches := [] }) = s := by
    rw [setTables, ← hb]
  rw [serveBatches, hb, htables]
  rfl

/-- Nothing waits that the loss of a member could end or let go on. -/
structure Idle (s : State) : Prop where
  relays : s.col.relays = []
  jobs : s.col.jobs = []
  reshard : s.col.reshard = none
  lookups : s.tables.lookups = []
  backwards : s.tables.backwards = []
  descs : s.tables.descs = []
  batches : s.tables.batches = []

/-- What follows the event of a removal: relays, collectives, look-ups and tables go on (R254). -/
def followUp (s : State) (lost : Nat) : State :=
  advanceTables (retryLookups (settleAll ((s.col.relays.filter fun r => r.waiting.contains lost).foldl
    (fun t r => settle t { r with waiting := r.waiting.filter (· != lost) }) s)) lost)

theorem followUp_of_idle (lost : Nat) (hi : Idle s) : followUp s lost = s := by
  have hback : settleBackwards s = s := by simp [settleBackwards, hi.backwards]
  have hcol : settleCollectives s = s := by simp [settleCollectives, hi.jobs]
  have hlook : retryLookups s lost = s := by simp [retryLookups, hi.lookups]
  rw [followUp, hi.relays, List.filter_nil, List.foldl_nil, settleAll, hback, hcol, settlePermute, hi.reshard]
  dsimp only
  rw [hlook, advanceTables, hi.descs, List.foldl_nil, serveBatches_of_none hi.batches]

/-- The state without a member in COL_MEMBERS and the rings (R254). -/
def parted (s : State) (lost : Nat) : State :=
  setCol s fun c =>
    { c with members := c.members &&& ~~~((1 : W64) <<< lost), rings := breakRings lost c.rings, newRings := breakRings lost c.newRings }

/-- What `removeMember` does with a member that is not this module's twin and not its next one. -/
theorem removeMember_eq {lost : Nat} (step : Nat) (hmem : isMember s lost = true) (hnext : nextMember s ≠ some lost)
    (htwin : lost ≠ twinOf s) {u : State} (hu : u = endWaiters (parted (endRouted s lost step) lost) (·.contains lost) lost step) :
    removeMember s lost step = followUp (post (issueUnsent (setCol u fun c => { c with
      retry := c.retry.filter fun m => m.dst != lost || isNotice m lost || leftAfter u lost m.hdr.step
      unsent := c.unsent.filter fun m => m.dst != lost || isNotice m lost || leftAfter u lost m.hdr.step })) .col 0 0x0108 [lost, step])
      lost := by
  subst hu
  unfold removeMember
  dsimp only
  rw [if_neg (by simp [hmem]), if_neg htwin, if_neg hnext]
  rfl

theorem removeMember_of_idle {lost : Nat} (step : Nat) (hmem : isMember s lost = true) (hnext : nextMember s ≠ some lost)
    (htwin : lost ≠ twinOf s) (hi : Idle s) (hatt : s.att = []) (hdec : s.decodes = []) (hrouted : s.tables.routed = [])
    (hun : s.col.unsent = []) : removeMember s lost step = post (without s lost) .col 0 0x0108 [lost, step] := by
  have hwait : parted s lost = endWaiters (parted (endRouted s lost step) lost) (·.contains lost) lost step := by
    rw [endRouted_of_none lost step hrouted, endWaiters_of_none (s := parted s lost) _ lost step hi.jobs hatt hdec]
  have hdrop : (setCol (parted s lost) fun c => { c with
      retry := c.retry.filter fun m => m.dst != lost || isNotice m lost || leftAfter (parted s lost) lost m.hdr.step
      unsent := c.unsent.filter fun m => m.dst != lost || isNotice m lost || leftAfter (parted s lost) lost m.hdr.step }) =
      without s lost := by
    have hnone : (parted s lost).col.unsent = [] := hun
    rw [setCol, hnone, List.filter_nil, ← hun]
    rfl
  have hev := (ringsOnly_post (without s lost) .col 0 0x0108 [lost, step]).rest
  have hidle : Idle (post (without s lost) .col 0 0x0108 [lost, step]) := by
    constructor <;> rw [hev]
    exacts [hi.relays, hi.jobs, hi.reshard, hi.lookups, hi.backwards, hi.descs, hi.batches]
  rw [removeMember_eq step hmem hnext htwin hwait, hdrop, issueUnsent_of_none (s := without s lost) hun, followUp_of_idle lost hidle]

theorem isMember_congr (hm : t.col.members = s.col.members) (c : Nat) : isMember t c = isMember s c := by
  rw [isMember, hm, isMember]

theorem without_members {lost : Nat} (hl : lost < 64) : isMember (without s lost) lost = false ∧
    ∀ m < 64, m ≠ lost → isMember (without s lost) m = isMember s m := by
  refine ⟨(isMember_clear s.col.members hl).trans (by simp), fun m hm hne => (isMember_clear s.col.members hm).trans ?_⟩
  simp [isMember, hne]

theorem breakRings_breaks {lost : Nat} {rs : List (Nat × Ring)} :
    ∀ r ∈ breakRings lost rs, r.2.members.contains lost = true → r.2.broken = true := by
  intro r hr
  obtain ⟨x, _, rfl⟩ := List.mem_map.mp hr
  dsimp only
  split
  · exact fun _ => rfl
  · rename_i hnot
    exact fun h => absurd h hnot

/-! ### The twin not heard (R41) -/

/-- The state of a PAIRED module that declares its twin lost, before the event. -/
def soled (s : State) : State :=
  setTwin s fun t =>
    { t with twinRecess := false, pair := .sole, noticeSent := false, waits := t.waits.map fun w => { w with refused := true }
             held := t.held.filter fun m => match m.body with
               | .digests _ _ => false
               | _ => true }

theorem abandonRepairs_of_none (h : s.twin.repairs = []) : abandonRepairs s = s := by
  have htwin : (setTwin s fun t => { t with repairs := [] }) = s := by
    rw [setTwin, ← h]
  rw [abandonRepairs, h, htwin]
  rfl

theorem declareLost_of_paired (cause : Nat) (hp : s.twin.pair = .paired) (hr : s.twin.repairs = []) {x : State}
    (hx : x = post (soled s) .rel 0 0x0102 [twinOf s, cause, s.job.openStep]) :
    declareLost s cause = kickUpdates (if isMember s (twinOf s) then sendRemoval x (twinOf s) else x) := by
  have hpair : (setTwin s fun t => { t with twinRecess := false }).twin.pair = .paired := hp
  have hnone : x.twin.repairs = [] := by
    rw [hx, twin_post]
    exact hr
  have hmem : isMember x (twinOf s) = isMember s (twinOf s) := by
    rw [hx]
    exact isMember_congr (congrArg Col.members (col_post ..)) _
  unfold declareLost
  dsimp only
  rw [hpair]
  dsimp only
  change kickUpdates (if isMember (abandonRepairs (post (soled s) .rel 0 0x0102 [twinOf s, cause, s.job.openStep])) (twinOf s) = true
    then sendRemoval (abandonRepairs (post (soled s) .rel 0 0x0102 [twinOf s, cause, s.job.openStep])) (twinOf s)
    else abandonRepairs (post (soled s) .rel 0 0x0102 [twinOf s, cause, s.job.openStep])) = _
  rw [← hx, abandonRepairs_of_none hnone, hmem]

theorem exec_heartbeatSend (hup : deaf s = false) (hclass : inClass s = true) (hrec : s.pwr.recess = false)
    (hnote : s.twin.twinRecess = false) : exec .heartbeatSend s = .next (sendTwin s .heartbeat) := by
  change execHeartbeatSend s = _
  simp [execHeartbeatSend, hup, hclass, hrec, hnote]

theorem exec_twinLossTimeout (hup : deaf s = false) (hnote : s.twin.twinRecess = false) :
    exec .twinLossTimeout s = .next (declareLost s 1) := by
  change execTwinLossTimeout s = _
  simp [execTwinLossTimeout, hup, hnote]

theorem exec_recoveryNotice_held {st : PairState} (hcrc : h.crcOk = true) (hrec : s.rel.recovery ≠ 0) :
    exec (.recoveryNotice h st false) s = .next (setTwin s fun t => { t with notedRecovery := some st }) := by
  change execRecoveryNotice h st false s = _
  simp [execRecoveryNotice, hcrc, hrec]

/-- Settles O28: losses by `declareLost_of_paired`, notices by the equations of their effects, removal by `removeMember_of_idle`. -/
theorem lossesAndRemovalsChangeMembership : Obligations.LossesAndRemovalsChangeMembership := by
  unfold Obligations.LossesAndRemovalsChangeMembership
  refine ⟨fun s => ⟨fun hup hclass hrec hnote => ?_, fun hup hnote hp hr => ?_, fun h st lc hcrc hrec hlc => ?_, fun h ha =>
    ⟨fun st lc hrec => takes_eq ha (exec_recoveryNotice h st lc hrec) rfl, takes_eq ha (f := id) rfl rfl,
      takes_eq ha (f := fun s => setTwin s fun t => { t with twinRecess := true }) rfl ?_,
      takes_eq ha (f := fun s => setTwin s fun t => { t with twinRecess := false }) rfl ?_, fun lost step hrec hme hsrc hpart => ?_,
      fun lost step hrec hme hsrc hj => ?_, fun target step x ht hx => ?_, fun cls addr j hj => ?_⟩⟩,
    fun s lost step hl hmem hnext htwin hjobs hatt hdec hrel hrouted hlook hback hdesc hbatch hresh hun => ?_⟩
  · exact ⟨_, exec_heartbeatSend hup hclass hrec hnote, (sendsVia_send s (twinOf s) 0x0C 8 0x1C s.job.openStep .heartbeat).sendsEach,
      (sent_send s (twinOf s) 0x0C 8 0x1C s.job.openStep .heartbeat).rest⟩
  · refine ⟨_, exec_twinLossTimeout hup hnote, soled s, _, rfl, fun w hw => ?_, rfl, declareLost_of_paired 1 hp hr rfl⟩
    obtain ⟨x, _, rfl⟩ := List.mem_map.mp hw
    rfl
  · subst hlc
    exact ⟨_, exec_recoveryNotice_held hcrc hrec, rfl⟩
  · rw [setTwin, twin_noted]
  · rw [setTwin, twin_noted]
  · refine takes_eq ha (exec_removalNotice step hrec hsrc) (takeRemoval_other ?_ hsrc ?_)
    · rwa [twin_noted]
    · rwa [partitioned, twin_noted]
  · refine takes_eq ha (exec_removalNotice step hrec hsrc) (takeRemoval_self ?_ ?_)
    · rwa [twin_noted]
    · rwa [senior, inClass, twinOf, twin_noted]
  · subst hx
    obtain ⟨hin, hrest, hpair⟩ := takeReadmission_members (s := noted s h) step ht
    refine ⟨hin, fun m hm hne => (hrest m hm hne).trans (isMember_congr (members_noted s h) m), fun hme => hpair ?_,
      fun hme hnow => takes_eq ha (exec_reAdmissionNotice h target step s) (readmitting_other ?_ ?_),
      fun hme hnow => takes_eq ha (exec_reAdmissionNotice h target step s) (readmitting_self ?_ ?_)⟩
    · rwa [twin_noted]
    · rwa [twin_noted]
    · rwa [job_noted]
    · rwa [twin_noted]
    · rwa [twin_noted]
  · refine takes_eq ha (f := fun s => match attFor s h with
      | none => s
      | some j => failAtt s j 0x23 addr (0xFFFF + cls * 2 ^ 16)) rfl ?_
    rw [hj]
  · refine ⟨without s lost, removeMember_of_idle step hmem hnext htwin ⟨hrel, hjobs, hresh, hlook, hback, hdesc, hbatch⟩ hatt hdec hrouted
      hun, (without_members hl).1, (without_members hl).2, breakRings_breaks, fun m hm hdst => ?_, rfl⟩
    have hkept := (List.mem_filter.mp hm).2
    simpa [hdst] using hkept

end Sys2Proof.Proofs
end

section
/-! Digests, repairs and served copies (O29, O30). -/

namespace Sys2Proof.Proofs

open Sys2Proof Sys2Proof.Machine Sys2Proof.Laws

variable {s t : State} {h : MsgHdr}

/-! ### Digests (R35) -/

/-- The state without the snapshots that a digest makes old. -/
def trimmed (s : State) (step : Nat) : State := setTwin s fun t => { t with snapshots := t.snapshots.filter fun e => e.1 > step }

theorem trimmed_noted (s : State) (h : MsgHdr) (step : Nat) : trimmed (noted s h) step =
    { noted s h with twin := { s.twin with snapshots := s.twin.snapshots.filter fun x => x.1 > step } } := by
  rw [trimmed, setTwin, twin_noted]

/-- What one digest of a segment does: it opens a repair where it differs from the snapshot and none is open. -/
def digestOne (snap : List (Nat × Nat)) (step : Nat) (t : State) (e : Nat × Nat) : State :=
  match mget snap (e.1 / 2 ^ 20) with
  | none => t
  | some own => if own = e.2 || (repairOf t e.1).isSome then t else openRepair t (e.1 / 2 ^ 20) step true

theorem compareDigests_eq {step : Nat} {snap : List (Nat × Nat)} (hs : mget s.twin.snapshots step = some snap) (ds : List (Nat × Nat)) :
    compareDigests s step ds = ds.foldl (digestOne snap step) (trimmed s step) := by
  rw [compareDigests, hs]
  rfl

theorem digestOne_same {snap : List (Nat × Nat)} {e : Nat × Nat} (step : Nat) (he : mget snap (e.1 / 2 ^ 20) = some e.2) :
    digestOne snap step s e = s := by
  rw [digestOne, he]
  exact if_pos (by simp)

theorem digestOne_differs {snap : List (Nat × Nat)} {base d own : Nat} (step : Nat) (ho : mget snap (base / 2 ^ 20) = some own)
    (hne : own ≠ d) (hr : repairOf s base = none) : digestOne snap step s (base, d) = openRepair s (base / 2 ^ 20) step true := by
  rw [digestOne, ho]
  exact if_neg (by simp [hne, hr])

theorem foldl_digestOne_same {snap : List (Nat × Nat)} (step : Nat) (ds : List (Nat × Nat))
    (hall : ∀ d ∈ ds, mget snap (d.1 / 2 ^ 20) = some d.2) (s : State) : ds.foldl (digestOne snap step) s = s := by
  induction ds with
  | nil => rfl
  | cons d ds ih =>
    obtain ⟨hd, hrest⟩ := List.forall_mem_cons.mp hall
    rw [List.foldl_cons, digestOne_same step hd, ih hrest]

/-- What a digest message does. -/
def digested (h : MsgHdr) (step : Nat) (ds : List (Nat × Nat)) (s : State) : State :=
  if !digesting s then s
  else if step ≥ s.job.openStep then setTwin s fun t => { t with held := t.held ++ [{ dst := t.number, hdr := h, body := .digests step ds }] }
  else compareDigests s step ds

theorem exec_digest (h : MsgHdr) (step : Nat) (ds : List (Nat × Nat)) (s : State) :
    exec (.digest h step ds) s = .next (receive s h (digested h step ds)) := rfl

section Digesting
variable {step : Nat} {ds : List (Nat × Nat)} (hp : s.twin.pair = .paired) (hon : s.twin.digestsOff = false)
include hp hon

theorem digested_past (hstep : step < s.job.openStep) : digested h step ds s = compareDigests s step ds := by
  rw [digested, if_neg (by simp [digesting, paired, hp, hon]), if_neg (not_le.mpr hstep)]

theorem digested_open (hstep : s.job.openStep ≤ step) : digested h step ds s =
    setTwin s fun t => { t with held := t.held ++ [{ dst := t.number, hdr := h, body := .digests step ds }] } := by
  rw [digested, if_neg (by simp [digesting, paired, hp, hon]), if_pos hstep]

end Digesting

/-! ### Repairs (R36 to R38) -/

theorem repairOf_noted (s : State) (h : MsgHdr) (key : Nat) : repairOf (noted s h) key = repairOf s key := by
  rw [repairOf, twin_noted, repairOf]

theorem paired_noted (h : MsgHdr) (hp : s.twin.pair = .paired) : paired (noted s h) = true := by
  rw [paired, twin_noted, hp]
  rfl

/-- What granule hashes do. -/
def hashed (segment step : Nat) (hashes : List Nat) (s : State) : State :=
  if !paired s then s
  else
    let t := if (repairOf s segment).isSome then s else openRepair s (segment / 2 ^ 20) step false
    match repairOf t segment with
    | none => t
    | some r => if r.got.isSome then t else matchHashes t r hashes

theorem exec_granuleHashes (h : MsgHdr) (segment step : Nat) (hashes : List Nat) (s : State) :
    exec (.granuleHashes h segment step hashes) s = .next (receive s h (hashed segment step hashes)) := rfl

theorem hashed_of_open {segment : Nat} (step : Nat) (hashes : List Nat) {r : Repair} (hp : paired s = true)
    (hr : repairOf s segment = some r) (hnone : r.got = none) : hashed segment step hashes s = matchHashes s r hashes := by
  unfold hashed
  simp only [hp, hr, hnone, Option.isSome_some, Option.isSome_none, if_true, Bool.not_true, Bool.false_eq_true, if_false]

/-- What a proposal of a repair step does. -/
def proposed (addr u : Nat) (isAnswer : Bool) (act : Nat) (s : State) : State :=
  if !paired s then s
  else if act = 3 then dropRepair s addr
  else
    let s1 := if (repairOf s addr).isSome || isAnswer then s else
      setTwin s fun t => { t with repairs := t.repairs ++ [{ newRepair addr s.job.openStep false [] with items := [addr], got := some [] }] }
    match repairOf s1 addr with
    | none => s1
    | some r =>
      let v := if isAnswer then max r.u u else max (max r.u u) (s1.job.openStep + 2)
      let s2 := setRepair s1 { r with u := v, agreed := true, act := max r.act act }
      if isAnswer then s2 else sendTwin s2 (.repairStep addr v true act)

theorem exec_repairStepProposal (h : MsgHdr) (addr u : Nat) (isAnswer : Bool) (act : Nat) (s : State) :
    exec (.repairStepProposal h addr u isAnswer act) s = .next (receive s h (proposed addr u isAnswer act)) := rfl

theorem proposed_of_open {addr : Nat} (u : Nat) {r : Repair} (hp : paired s = true) (hr : repairOf s addr = some r) :
    proposed addr u false 0 s = sendTwin (setRepair s { r with u := max (max r.u u) (s.job.openStep + 2), agreed := true, act := max r.act 0 })
      (.repairStep addr (max (max r.u u) (s.job.openStep + 2)) true 0) := by
  simp [proposed, hp, hr]

theorem answered_of_open {addr : Nat} (u : Nat) {r : Repair} (hp : paired s = true) (hr : repairOf s addr = some r) :
    proposed addr u true 0 s = setRepair s { r with u := max r.u u, agreed := true, act := max r.act 0 } := by
  simp [proposed, hp, hr]

/-- What a repair copy does. -/
def copied (h : MsgHdr) (x : StoredItem) (ok offered : Bool) (s : State) : State :=
  match repairFor s x.addr with
  | some r => kickUpdates (compareCopy s r x ok offered)
  | none => if paired s then setTwin s fun t => { t with held := t.held ++ [{ dst := t.number, hdr := h, body := .repairCopy x ok offered }] } else s

theorem exec_repairCopy (h : MsgHdr) (x : StoredItem) (ok offered : Bool) (s : State) :
    exec (.repairCopy h x ok offered) s = .next (receive s h (copied h x ok offered)) := rfl

section Copy
variable {r : Repair} {x : StoredItem} {it : TwinItem} {ok offered : Bool} (hi : findItem s x.addr = some it)
include hi

/-- The repair without the item whose copy has come. -/
def satisfied (r : Repair) (x : StoredItem) : Repair := { r with waiting := r.waiting.filter (· != x.addr) }

theorem compareCopy_repairs (hown : itemOk s it = false) :
    compareCopy s r x true offered =
      endRepair (bump (post (putItem s x) .rel 0 0x0103 [x.addr, r.u]) .rel 0 0x108 0 16 1) (satisfied r x) := by
  simp only [compareCopy, hi, hown]
  rfl

theorem compareCopy_loses (hown : itemOk s it = false) :
    compareCopy s r x false offered = endRepair (post (loseItem s it) .rel 0 0x0104 [x.addr, r.u]) (satisfied r x) := by
  simp only [compareCopy, hi, hown]
  rfl

theorem compareCopy_stays (hown : itemOk s it = true) (hsame : ok = false ∨ itemBytes s it = x.bytes) :
    compareCopy s r x ok offered = endRepair s (satisfied r x) := by
  simp only [compareCopy, hi, hown]
  rcases hsame with rfl | hsame
  · rfl
  · cases ok
    · rfl
    · simp [hsame, satisfied]

theorem compareCopy_divergent (hown : itemOk s it = true) (hne : itemBytes s it ≠ x.bytes) (hact : r.act = 0) :
    compareCopy s r x true true = endRepair (bump (post (putItem s x) .rel 0 0x0105
      [x.addr, (bitDiff (itemBytes s it) x.bytes).1, (bitDiff (itemBytes s it) x.bytes).2, r.u]) .rel 0 0x108 16 16 1) (satisfied r x) := by
  simp [compareCopy, hi, hown, hne, hact, satisfied, postDivergent]

end Copy

/-- Settles O29: digests by `compareDigests_eq`, hashes and proposals by their equations, copies by the outcomes of `compareCopy`. -/
theorem digestsOpenAndCopiesEndRepairs : Obligations.DigestsOpenAndCopiesEndRepairs := by
  unfold Obligations.DigestsOpenAndCopiesEndRepairs
  refine ⟨fun h s ha hp hon => ?_, fun h s x ok offered r it ha hr hi => ?_⟩
  · have hp' : (noted s h).twin.pair = .paired := by rw [twin_noted, hp]
    have hon' : (noted s h).twin.digestsOff = false := by rw [twin_noted, hon]
    refine ⟨fun step ds snap hstep hsnap hall => takes_eq ha (exec_digest ..) ?_,
      fun step base d own snap hstep hsnap howned hne hnone => takes_eq ha (exec_digest ..) ?_,
      fun step ds hstep => takes_eq ha (exec_digest ..) ?_, fun segment step hashes r hr hgot => takes_eq ha (exec_granuleHashes ..) ?_,
      fun addr u r hr => takes_of_receive ha (exec_repairStepProposal ..) ⟨_, rfl, ?_⟩,
      fun addr u r hr => takes_eq ha (exec_repairStepProposal ..) ?_⟩
    · rw [digested_past hp' hon' (by rwa [job_noted]), compareDigests_eq (by rwa [twin_noted]), foldl_digestOne_same step ds hall,
        trimmed_noted]
    · have hnone' : repairOf (trimmed (noted s h) step) base = none := (repairOf_noted s h base).trans hnone
      rw [digested_past hp' hon' (by rwa [job_noted]), compareDigests_eq (by rwa [twin_noted]), List.foldl_cons,
        digestOne_differs step howned hne hnone', List.foldl_nil, trimmed_noted]
    · rw [digested_open hp' hon' (by rwa [job_noted]), setTwin, twin_noted]
    · exact hashed_of_open step hashes (paired_noted h hp) ((repairOf_noted s h segment).trans hr) hgot
    · rw [proposed_of_open u (paired_noted h hp) ((repairOf_noted s h addr).trans hr), job_noted]
    · exact answered_of_open u (paired_noted h hp) ((repairOf_noted s h addr).trans hr)
  · have hr' : repairFor (noted s h) x.addr = some r := by rwa [repairFor, twin_noted]
    have hcopied : copied h x ok offered (noted s h) = kickUpdates (compareCopy (noted s h) r x ok offered) := by
      rw [copied, hr']
    refine takes_of_receive ha (exec_repairCopy ..) ⟨noted s h, _, rfl, rfl, fun hown hok => ?_, fun hown hok => ?_, fun hown hsame => ?_,
      fun hown hok hne hoff hact => ?_⟩ <;> rw [hcopied]
    · rw [hok, compareCopy_repairs hi hown]
      rfl
    · rw [hok, compareCopy_loses hi hown]
      rfl
    · rw [compareCopy_stays hi hown hsame]
      rfl
    · rw [hok, hoff, compareCopy_divergent hi hown hne hact]
      rfl

end Sys2Proof.Proofs
end

section
/-! Items served to the twin, and copies that come (O30). -/

namespace Sys2Proof.Proofs

open Sys2Proof Sys2Proof.Machine Sys2Proof.Laws

variable {s : State} {h : MsgHdr}

/-! ### Finishing an open update keeps the pair state -/

theorem pair_unitWrite (s : State) (a : Nat) (bs : List Byte) : (unitWrite s a bs).twin.pair = s.twin.pair := by
  unfold unitWrite
  split
  · exact (congrArg (fun x : State => x.twin.pair) (ringsOnly_noteUE s _).rest).trans rfl
  · rfl

theorem pair_sendForward (s : State) (stepEnd : Option Nat) : (sendForward s stepEnd).twin.pair = s.twin.pair := by
  have hsend : ∀ (t : State) (b : Body), (sendTwin t b).twin = t.twin := fun t b =>
    (sent_send t (twinOf t) 0x0C 8 0x1C t.job.openStep b).twin_eq
  unfold sendForward
  dsimp only
  split
  · rfl
  · split
    · rfl
    · rw [hsend]
      rfl

theorem twin_bump (s : State) (b : Blk) (i off lo w n : Nat) : (bump s b i off lo w n).twin = s.twin := rfl

theorem twin_bump64 (s : State) (b : Blk) (i off n : Nat) : (bump64 s b i off n).twin = s.twin := rfl

theorem twin_progress (s : State) (b : Blk) (i n : Nat) : (progress s b i n).twin = s.twin := rfl

theorem twin_setTables (s : State) (f : Tables → Tables) : (setTables s f).twin = s.twin := rfl

theorem pair_secondWrite (s : State) (o : Open2) : (secondWrite s o).twin.pair = s.twin.pair := by
  have hcheck : (if o.checkBytes.isEmpty then unitWrite s o.weightsAt o.weights
      else unitWrite (unitWrite s o.weightsAt o.weights) o.checkAddr o.checkBytes).twin.pair = s.twin.pair := by
    split
    · exact pair_unitWrite ..
    · exact (pair_unitWrite ..).trans (pair_unitWrite ..)
  unfold secondWrite
  dsimp only
  split
  · rw [pair_sendForward, twin_progress, twin_setTables, hcheck]
  split
  · rw [twin_bump, pair_sendForward, twin_progress, twin_setTables, hcheck]
  · rw [twin_bump64, pair_sendForward, twin_progress, twin_setTables, hcheck]

theorem pair_finishOpen (s : State) (a : Nat) : (finishOpen s a).twin.pair = s.twin.pair := by
  unfold finishOpen
  split
  · rfl
  · split
    · rfl
    · exact pair_secondWrite ..

/-! ### Serving (R130, R191) -/

/-- What a request does once the update that is open on its item is finished. -/
def serving (addr bytes step : Nat) (byUpdate : Bool) (s : State) : State :=
  let it := (findItem s addr).getD ⟨addr, bytes, .none⟩
  let no := sendTwin s (.servedCopy ⟨addr, [], 0, 0⟩ false)
  if !paired s || itemTorn s addr || !itemOk s it then no
  else
    match itemStep s it with
    | none => sendTwin s (.servedCopy (storedOf s it) false)
    | some st =>
      if st < step then sendTwin s (.servedCopy (storedOf s it) false)
      else if st = step && byUpdate then sendTwin s (.servedCopy (storedOf s it) true)
      else no

theorem exec_twinServeRequest (h : MsgHdr) (addr bytes step : Nat) (byUpdate : Bool) (s : State) :
    exec (.twinServeRequest h addr bytes step byUpdate) s =
      .next (receive s h fun s => serving addr bytes step byUpdate (finishOpen s (openAddr s addr))) := rfl

theorem serving_unpaired {addr bytes step : Nat} {byUpdate : Bool} (hp : s.twin.pair ≠ .paired) :
    serving addr bytes step byUpdate s = sendTwin s (.servedCopy ⟨addr, [], 0, 0⟩ false) := by
  simp [serving, paired, hp]

section Sound
variable {addr bytes step : Nat} {byUpdate : Bool} {it : TwinItem} (hp : s.twin.pair = .paired) (hi : findItem s addr = some it)
  (htorn : itemTorn s addr = false) (hok : itemOk s it = true)
include hp hi htorn hok

theorem serving_before (hst : ∀ st, itemStep s it = some st → st < step) :
    serving addr bytes step byUpdate s = sendTwin s (.servedCopy (storedOf s it) false) := by
  cases hx : itemStep s it with
  | none => simp [serving, paired, hp, hi, htorn, hok, hx]
  | some st => simp [serving, paired, hp, hi, htorn, hok, hx, hst st hx]

theorem serving_own (hst : itemStep s it = some step) (hby : byUpdate = true) :
    serving addr bytes step byUpdate s = sendTwin s (.servedCopy (storedOf s it) true) := by
  simp [serving, paired, hp, hi, htorn, hok, hst, hby]

end Sound

/-! ### A copy that comes (R129, R130) -/

/-- A wait marked refused. -/
def refusedWait (s : State) (w : ServeWait) : State :=
  setTwin s fun t => { t with waits := t.waits.map fun x => if x.addr = w.addr then { x with refused := true } else x }

/-- What a served copy does. -/
def served (item : StoredItem) (ownResult : Bool) (s : State) : State :=
  match s.twin.waits.find? (·.addr = item.addr) with
  | none => s
  | some w =>
    if item.bytes.isEmpty then kickUpdates (offerItems (if w.torn then refusedWait s w else repairItem (refusedWait s w) w.addr))
    else
      let sector := (badSector s w.addr w.bytes).getD (sectorOf w.addr)
      let u := memOf s.part w.addr
      let s1 := setTwin (putItem s item) fun t => { t with waits := t.waits.filter (·.addr != w.addr) }
      let s2 := if w.torn then post (bump s1 .upd u 0x11C 10 10 1) .upd u 0x0300 [w.addr, 2]
        else post s1 .mem (memOf s.part sector) 0x0201 [sector]
      kickUpdates (offerItems (if ownResult then settleOwn s2 w.addr else s2))

theorem exec_servedCopy (h : MsgHdr) (item : StoredItem) (ownResult : Bool) (s : State) :
    exec (.servedCopy h item ownResult) s = .next (receive s h (served item ownResult)) := rfl

theorem putItem_of_record {x : StoredItem} (hs : scaleAt s x.addr = none) (hc : x.checkAddr = 0) :
    putItem s x = setTables (devWrite s x.addr x.bytes) fun t => { t with torn := t.torn.filter (· != x.addr) } := by
  simp only [putItem, hs, hc, if_true]

theorem served_copy {item : StoredItem} {w : ServeWait} (hw : s.twin.waits.find? (·.addr = item.addr) = some w) (hb : item.bytes ≠ [])
    (ht : w.torn = false) : ∃ sector, served item false s = kickUpdates (offerItems (post
      (setTwin (putItem s item) fun t => { t with waits := t.waits.filter (·.addr != w.addr) }) .mem (memOf s.part sector) 0x0201 [sector])) := by
  refine ⟨(badSector s w.addr w.bytes).getD (sectorOf w.addr), ?_⟩
  have hsome : item.bytes.isEmpty = false := List.isEmpty_eq_false_iff.mpr hb
  simp only [served, hw, hsome, ht]
  rfl

theorem served_refused {item : StoredItem} {w : ServeWait} (hw : s.twin.waits.find? (·.addr = item.addr) = some w) (hb : item.bytes = [])
    (ht : w.torn = true) : served item false s = kickUpdates (offerItems (refusedWait s w)) := by
  simp [served, hw, hb, ht]

/-- Settles O30: requests by the outcomes of `serving`, copies by those of `served`. -/
theorem twinsServeItems : Obligations.TwinsServeItems := by
  unfold Obligations.TwinsServeItems
  intro h s ha
  refine ⟨fun addr bytes step byUpdate it n hn hp hi htorn hok => ?_, fun addr bytes step byUpdate hp => ?_,
    fun item w hw hb ht hs hc => ?_, fun item w hw hb ht => ?_⟩
  · subst hn
    have hp' : (finishOpen (noted s h) (openAddr (noted s h) addr)).twin.pair = .paired := by rw [pair_finishOpen, twin_noted, hp]
    exact ⟨fun hst => takes_eq ha (exec_twinServeRequest ..) (serving_before hp' hi htorn hok hst),
      fun hst hby => takes_eq ha (exec_twinServeRequest ..) (serving_own hp' hi htorn hok hst hby)⟩
  · refine takes_eq ha (exec_twinServeRequest ..) (serving_unpaired ?_)
    rwa [pair_finishOpen, twin_noted]
  · have hw' : (noted s h).twin.waits.find? (·.addr = item.addr) = some w := by rwa [twin_noted]
    have hs' : scaleAt (noted s h) item.addr = none := by
      have hscale : (noted s h).scaling = s.scaling := (congrArg State.scaling (noted_only s h)).trans rfl
      rwa [scaleAt, hscale, part_noted]
    obtain ⟨sector, hserved⟩ := served_copy hw' hb ht
    refine takes_of_receive ha (exec_servedCopy ..) ⟨_, sector, hserved.trans (by rw [part_noted]), ?_, ?_⟩ <;>
      rw [putItem_of_record hs' hc]
    · rfl
    · exact congrArg (fun t : Twin => t.waits.filter (·.addr != w.addr)) (twin_noted s h)
  · have hw' : (noted s h).twin.waits.find? (·.addr = item.addr) = some w := by rwa [twin_noted]
    refine takes_of_receive ha (exec_servedCopy ..) ⟨_, served_refused hw' hb ht, rfl, fun y hy hya => ?_⟩
    obtain ⟨x, _, rfl⟩ := List.mem_map.mp hy
    split
    · rfl
    · rename_i hne
      rw [if_neg hne] at hya
      exact absurd hya hne

end Sys2Proof.Proofs
end

section
/-! Small states in which commands and messages are taken, for refutations. -/

namespace Sys2Proof.Proofs

open Sys2Proof Sys2Proof.Machine

/-- A module whose power-on has ended (R382). -/
def working : State := setField (setPwr State.reset fun p => { p with auxGood := true, mainPg := true }) .tst 0 0x100 24 4 9

/-- A message that a working module takes: the first of its stream, of a kind that needs no job (R193). -/
def firstMessage : MsgHdr := { kind := 0x0C, sequence := 1 }

theorem accepted_of_quiet {s : State} {h : MsgHdr} (hcrc : h.crcOk = true) (hpoint : h.dstPoint ≤ 0x1C) (hup : deaf s = false)
    (hrec : s.pwr.recess = false) (hjob : s.job.running = false) (hfree : jobFree h.kind = true) (hmarks : s.col.marks = [])
    (hfirst : h.sequence = 1) : Accepted s h := by
  refine ⟨hcrc, hpoint, hup, hrec, fun _ => hfree, fun hr => ?_, ?_⟩
  · rw [hjob] at hr
    cases hr
  · rw [hfirst, markOf, hmarks]
    rfl

end Sys2Proof.Proofs
end

section
/-! Batches of look-ups at their owner (O33): a descriptor whose stride is shorter than its records. -/

namespace Sys2Proof.Proofs

open Sys2Proof Sys2Proof.Machine

/-- A table whose records are longer than its stride: TABLE_DEFINE refuses it, but a state may hold it. -/
def shortStride : TableDesc := { tableDescOf [] with table := 7, tag := 1, elements := 1000, stride := 8 }

/-- A module that owns the table. -/
def shortOwner : State := setTables working fun t => { t with descs := [(7, shortStride)] }

/-- The same module with the head of a sound record at address 0, and an uncorrectable sector behind the stride. -/
def spoiltBehind : State :=
  setGddr { shortOwner with mem := writeBytes [] 0 (recordHead 0 0 1) } fun g => { g with badSectors := [64] }

/-- The read of a record's weights leaves its stride and meets the bad sector. -/
theorem readKey_spoiltBehind :
    (match readKey spoiltBehind shortStride 0 0 ⟨0, 0⟩ with
      | .entry _ e => e.fail.isNone
      | .wait _ => false) = false := by decide +kernel

/-- The stride itself reads sound. -/
theorem stride_sound : memWaits spoiltBehind 0 8 = false ∧ badSector spoiltBehind 0 8 = none ∧ headOk (devRead spoiltBehind 0 8) = true ∧
    momentStamp (devRead spoiltBehind 0 8) = weightStamp shortStride (devRead spoiltBehind 0 8) ∧
    recordTag (devRead spoiltBehind 0 8) = shortStride.tag := by decide +kernel

theorem accepted_shortOwner : Accepted shortOwner { firstMessage with tensorId := 7 } :=
  accepted_of_quiet rfl (by decide) (by decide +kernel) rfl rfl rfl rfl rfl

/-- Refutes O33: the last clause asks that the stride is sound, but a look-up reads the head and the whole weights (R149). Where a
descriptor's stride is shorter than its records, the read of `spoiltBehind` meets a bad sector behind the stride, and the key is
answered with MEMORY_UNCORRECTABLE. -/
theorem not_ownersServeBatches : ¬ Obligations.OwnersServeBatches := by
  unfold Obligations.OwnersServeBatches
  intro hall
  obtain ⟨_, hknown⟩ := hall { firstMessage with tensorId := 7 } [] shortOwner accepted_shortOwner
  obtain ⟨_, hslot⟩ := hknown shortStride rfl
  obtain ⟨_, _, hread⟩ := hslot 0 (by decide)
  obtain ⟨hwait, hbad, hhead, hstamp, htag⟩ := stride_sound
  obtain ⟨t, hentry, _⟩ := (hread spoiltBehind ⟨0, 0⟩ _ 0 0 rfl rfl (by decide) (by decide) (by decide) hwait hbad hhead hstamp).1 htag
  have hfail := readKey_spoiltBehind
  rw [hentry] at hfail
  cases hfail

end Sys2Proof.Proofs
end

section
/-! Look-up replies (O34). -/

namespace Sys2Proof.Proofs

open Sys2Proof Sys2Proof.Machine Sys2Proof.Laws

variable {s t : State} {h : MsgHdr} {i : Instr} {d : TableDesc} {lk : Lookup} {es : List ReplyEntry}

/-! ### Registers that the arrival of a message leaves -/

theorem foldBits_lt (k n x : Nat) : foldBits k n x < 2 ^ k := by
  induction n generalizing x with
  | zero => exact Nat.two_pow_pos k
  | succ n ih => exact Nat.xor_lt_two_pow (Nat.mod_lt _ (Nat.two_pow_pos k)) (ih _)

theorem memOf_lt (p : Part) (a : Nat) : memOf p a < 16 := by
  have h6 := foldBits_lt 6 6 (a / 256)
  have h5 := foldBits_lt 5 7 (a / 256)
  have h4 := foldBits_lt 4 9 (a / 256)
  have h3 := foldBits_lt 4 9 (a / 256 / 3)
  unfold memOf channelOf
  cases p <;> dsimp only <;> omega

theorem pointSlice_lt (p : Part) (h : MsgHdr) : pointSlice p h < 4 := by
  unfold pointSlice countUnit
  cases p <;> simp only [Config.ioDies, Config.memDevices] <;> split_ifs <;> omega

/-- A register outside the pages of the memory controllers and of the collective slices. -/
def Aside (k : Nat) : Prop := k < 0x50000 ∨ (0x60000 ≤ k ∧ k < 0x80000) ∨ 0x90000 ≤ k

/-- The registers aside are the same. -/
def SameAside (s t : State) : Prop := ∀ k, Aside k → mget t.regs k = mget s.regs k

theorem SameAside.trans {a b c : State} (h : SameAside a b) (g : SameAside b c) : SameAside a c := fun k hk => (g k hk).trans (h k hk)

theorem sameAside_mem (s : State) (a : Nat) {off : Nat} (lo w n : Nat) (hoff : off < 0x1000) :
    SameAside s (bump s .mem (memOf s.part a) off lo w n) := by
  have hm := memOf_lt s.part a
  refine fun k hk => mget_mput_ne ?_
  change 0x50000 + memOf s.part a * 0x1000 + off ≠ k
  unfold Aside at hk
  omega

theorem sameAside_meetSector (s : State) (r : SectorRead) : SameAside s (meetSector s r) := by
  unfold meetSector
  dsimp only
  split
  · exact fun _ _ => rfl
  refine SameAside.trans (sameAside_mem s (sectorOf r.addr) 0 16 (min r.retries 3) (off := 0x118) (by decide)) ?_
  split
  · exact fun _ _ => rfl
  · exact sameAside_mem (bump s .mem (memOf s.part (sectorOf r.addr)) 0x118 0 16 (min r.retries 3)) _ 0 32 1 (off := 0x104) (by decide)
  · exact fun _ _ => rfl
  · split
    · exact fun _ _ => rfl
    · unfold miscorrect
      dsimp only
      split <;> exact fun k hk => sameAside_mem (drawFree (bump s .mem (memOf s.part (sectorOf r.addr)) 0x118 0 16 (min r.retries 3))).1
        (sectorOf r.addr) 0 32 1 (off := 0x104) (by decide) k hk

theorem sameAside_meet (s : State) (rs : List SectorRead) : SameAside s (meet s rs) := by
  induction rs generalizing s with
  | nil => exact fun _ _ => rfl
  | cons r rs ih => exact (sameAside_meetSector s r).trans (ih _)

theorem sameAside_noted (s : State) (h : MsgHdr) : SameAside s (noted s h) := by
  refine SameAside.trans (b := marked s h) (fun k hk => mget_mput_ne ?_) (sameAside_meet _ h.met)
  have hp := pointSlice_lt s.part h
  change 0x80000 + pointSlice s.part h * 0x1000 + 0x28 ≠ k
  unfold Aside at hk
  omega

/-- The register of an engine page. -/
theorem kept_noted_emb (s : State) (h : MsgHdr) {j off : Nat} (hj : j < 16) (hoff : off < 0x1000) :
    kept (noted s h) .emb j off = kept s .emb j off := by
  have hkey : mget (noted s h).regs (pageOf .emb j + off) = mget s.regs (pageOf .emb j + off) :=
    sameAside_noted s h _ (.inl (by change 0x30000 + j * 0x1000 + off < 0x50000; omega))
  change (match mget (noted s h).regs (pageOf .emb j + off) with | some v => v.toNat | none => resetReg .emb j off) = _
  rw [hkey]
  rfl

theorem embPage_lt (s : State) (e : Nat) : embPage s e < 16 := by
  unfold embPage Config.embEngines
  cases s.part <;> simp only [Config.ioDies] <;> omega

/-- The look-up that waits for a reply is found by its keys, which the arrival leaves. -/
theorem lookupFor_noted (s : State) (h : MsgHdr) (es : List ReplyEntry) : lookupFor (noted s h) h es = lookupFor s h es := by
  have hb (d : TableDesc) (lk : Lookup) (ks : List RowKey) (o e : Nat) : batchKeys (noted s h) d lk ks o e = batchKeys s d lk ks o e := by
    have hpage : embPage (noted s h) e = embPage s e := by rw [embPage, part_noted, embPage]
    have hf : field (noted s h) .emb (embPage s e) 0x104 0 1 = field s .emb (embPage s e) 0x104 0 1 :=
      congrArg (fun v => bitsOf v 0 1) (kept_noted_emb s h (embPage_lt s e) (by decide))
    unfold batchKeys
    rw [hpage, hf]
  unfold lookupFor tableAt
  simp only [tables_noted, hb]

/-! ### What a reply does -/

/-- What a reply does to the look-up that waits for it. -/
def replied (h : MsgHdr) (es : List ReplyEntry) (s : State) : State :=
  match lookupFor s h es, tableAt s h.tensorId with
  | some lk, some d => takeReply (progress s .emb (embPage s h.dstPoint) 1) d lk es
  | _, _ => s

theorem exec_lookUpReply (h : MsgHdr) (es : List ReplyEntry) (s : State) :
    exec (.lookUpReply h es) s = .next (receive s h (replied h es)) := rfl

theorem replied_of_lookup (hl : lookupFor s h es = some lk) (hd : tableAt s h.tensorId = some d) :
    replied h es (noted s h) = takeReply (progress (noted s h) .emb (embPage s h.dstPoint) 1) d lk es := by
  have hd' : tableAt (noted s h) h.tensorId = some d := by rw [tableAt, tables_noted]; exact hd
  have hpage : embPage (noted s h) h.dstPoint = embPage s h.dstPoint := by rw [embPage, part_noted, embPage]
  rw [replied, lookupFor_noted, hl, hd', hpage]

/-- The entries of a reply that its look-up does not hold yet. -/
def fresh (lk : Lookup) (es : List ReplyEntry) : List ReplyEntry := es.filter fun r => !(lk.replies.any fun x => x.key = r.key)

/-- A look-up with the entries of a reply. -/
def withReply (lk : Lookup) (es : List ReplyEntry) : Lookup := { lk with replies := lk.replies ++ fresh lk es }

theorem takeReply_failed {f : Nat × Nat × Nat} (hf : es.findSome? (·.fail) = some f) :
    takeReply s d lk es = finish (dropLookup s lk) lk.cmd f.1 f.2.1 f.2.2 := by
  unfold takeReply
  rw [hf]

theorem takeReply_stored {u : State} (hf : es.findSome? (·.fail) = none) (hs : storeEntries s d lk (fresh lk es) = .ok u) :
    takeReply s d lk es =
      if (lk.todo.headD []).any fun k => !((withReply lk es).replies.any fun x => x.key = k) then setLookup u (withReply lk es)
      else if lk.todo.length > 1 then
        sendPass (countSpill (setLookup u { withReply lk es with pass := lk.pass + 1, todo := lk.todo.drop 1 })
          ((lk.todo.drop 1).headD [])) d { withReply lk es with pass := lk.pass + 1, todo := lk.todo.drop 1 }
      else poolLookup u d (withReply lk es) := by
  unfold takeReply
  rw [hf]
  dsimp only
  change (match storeEntries s d lk (fresh lk es) with | .error a => _ | .ok s1 => _) = _
  rw [hs]
  rfl

theorem not_any_of_all {α : Type} {l : List α} {p : α → Bool} (h : l.all p = true) : (l.any fun x => !p x) = false := by
  simpa using h

/-! ### The pooling of a look-up -/

theorem tables_tryWrite {a : Nat} {bs : List Byte} (h : tryWrite s a bs = .ok t) : t.tables = s.tables := by
  unfold tryWrite at h
  split at h
  · cases h
  · cases h
    rfl

/-- A chain of writes that stops at the first failure keeps what each write keeps. -/
theorem foldl_ok_keeps {α β : Type} {f : Except Nat State → α → Except Nat State} {g : State → β}
    (herror : ∀ a x, f (.error a) x = .error a) (hok : ∀ s x t, f (.ok s) x = .ok t → g t = g s) {l : List α} {s t : State}
    (h : l.foldl f (.ok s) = .ok t) : g t = g s := by
  have hstop (a : Nat) (l : List α) : l.foldl f (.error a) = .error a := by
    induction l with
    | nil => rfl
    | cons x l ih => rw [List.foldl_cons, herror, ih]
  induction l generalizing s with
  | nil => cases h; rfl
  | cons x l ih =>
    rw [List.foldl_cons] at h
    cases hx : f (.ok s) x with
    | error a =>
      rw [hx, hstop] at h
      cases h
    | ok u =>
      rw [hx] at h
      exact (ih h).trans (hok s x u hx)

theorem tables_storeEntries (h : storeEntries s d lk es = .ok t) : t.tables = s.tables :=
  foldl_ok_keeps (g := State.tables) (fun _ _ => rfl) (fun _ _ _ hw => tables_tryWrite hw) h

theorem gradeTaken_frame (s : State) (tensor : Nat) :
    (gradeTaken s tensor).1.mem = s.mem ∧ (gradeTaken s tensor).1.tables = s.tables := by
  unfold gradeTaken
  split_ifs <;> exact ⟨rfl, rfl⟩

theorem noteGradeWith_frame (s : State) (src tensor : Nat) (f : GradeRec → GradeRec) :
    (noteGradeWith s src tensor f).mem = s.mem ∧ (noteGradeWith s src tensor f).tables = s.tables := by
  unfold noteGradeWith
  dsimp only
  split_ifs <;> exact gradeTaken_frame s tensor

theorem lookupsDone_count (s : State) (x lk : Lookup) :
    (setTables (setLookup s x) fun t => { t with lookupsDone := raiseCount t.lookupsDone lk.table lk.step }).tables.lookupsDone =
      raiseCount s.tables.lookupsDone lk.table lk.step := rfl

theorem poolLookup_ok {tiles : List (List Byte × List Exc × List (Val × Val))} {spans : List (Nat × Nat)} {u1 u2 : State}
    (hres : (lk.replies.any fun r => weightsReserved d.tag d.elements r.weights) = false)
    (ht : tiles = outputTiles s d lk ((poolLines d lk (bagSpans lk.bags)).map fun l => l.map (·.1))) (hsp : spans = bagSpans lk.bags)
    (h1 : tryWrite s lk.output (tiles.flatMap (·.1)) = .ok u1)
    (h2 : tryWrite u1 lk.report ((spans.map fun sp => (bagKeys lk sp).map fun k =>
      ((lk.replies.find? (·.key = k)).map (·.version)).getD 0).flatMap bagReport) = .ok u2) :
    ∃ u3, poolLookup s d lk = declareMarks (done u3 lk.cmd) ∧ u3.mem = u2.mem ∧
      u3.tables.lookupsDone = raiseCount u2.tables.lookupsDone lk.table lk.step := by
  subst ht
  subst hsp
  unfold poolLookup
  dsimp only
  rw [hres, if_neg Bool.false_ne_true, h1]
  dsimp only
  rw [h2]
  dsimp only
  refine ⟨_, rfl, ?_, ?_⟩
  · exact (noteGradeWith_frame ..).1
  · rw [lookupsDone_count, (noteGradeWith_frame ..).2]
    rfl

/-- Settles O34: a reply by `takeReply_failed` and `takeReply_stored`, the last stage by `poolLookup_ok`. -/
theorem repliesEndLookUps : Obligations.RepliesEndLookUps := by
  unfold Obligations.RepliesEndLookUps
  intro h es s d lk ha hl hd
  have hr := replied_of_lookup hl hd
  refine ⟨fun f hf => takes_of_receive ha (exec_lookUpReply h es s)
    ⟨progress (noted s h) .emb (embPage s h.dstPoint) 1, hr.trans (takeReply_failed hf), rfl⟩, fun n u lk1 hf hn hs hlk => ?_⟩
  subst hn
  change lk1 = withReply lk es at hlk
  subst hlk
  have hrun := hr.trans (takeReply_stored hf hs)
  refine ⟨fun hw => takes_eq ha (exec_lookUpReply h es s) (hrun.trans (if_pos hw)), fun hall hlong =>
    takes_of_receive ha (exec_lookUpReply h es s)
      ⟨_, rfl, hrun.trans ((if_neg (by rw [not_any_of_all hall]; decide)).trans (if_pos hlong))⟩,
    fun hall hlong hres tiles spans u1 u2 ht hsp h1 h2 => ?_⟩
  obtain ⟨u3, hpool, hmem, hcount⟩ := poolLookup_ok hres ht hsp h1 h2
  refine takes_of_receive ha (exec_lookUpReply h es s) ⟨u3, hrun.trans ((if_neg (by rw [not_any_of_all hall]; decide)).trans
    ((if_neg (Nat.not_lt.mpr hlong)).trans hpool)), hmem, hcount.trans ?_⟩
  rw [tables_tryWrite h2, tables_tryWrite h1, tables_storeEntries hs]
  exact congrArg (fun t : Tables => raiseCount t.lookupsDone lk.table lk.step) (tables_noted s h)

end Sys2Proof.Proofs
end

section
/-! What a module sends, message by message. -/

namespace Sys2Proof.Proofs

open Sys2Proof Sys2Proof.Machine Sys2Proof.Laws

variable {s t u : State} {P Q : Msg → Prop}

/-- Where nothing is sent. -/
theorem sendsOf_none (ho : t.col.outbox = s.col.outbox) (hu : t.col.unsent = s.col.unsent) : SendsOf s t P :=
  ⟨[], [], by simp [ho], by simp [hu], by simp⟩

theorem sendsOf_of_col (h : t.col = s.col) : SendsOf s t P := sendsOf_none (by rw [h]) (by rw [h])

theorem sendsOf_trans (h : SendsOf s t P) (g : SendsOf t u P) : SendsOf s u P := by
  obtain ⟨out, held, ho, hu, hp⟩ := h
  obtain ⟨out', held', ho', hu', hp'⟩ := g
  refine ⟨out ++ out', held ++ held', by rw [ho', ho, List.append_assoc], by rw [hu', hu, List.append_assoc], fun m hm => ?_⟩
  simp only [List.mem_append] at hm hp hp'
  rcases hm with (hm | hm) | hm | hm
  · exact hp m (.inl hm)
  · exact hp' m (.inl hm)
  · exact hp m (.inr hm)
  · exact hp' m (.inr hm)

theorem sendsOf_foldl {α : Type} {f : State → α → State} (l : List α) (hf : ∀ t, ∀ x ∈ l, SendsOf t (f t x) P) (s : State) :
    SendsOf s (l.foldl f s) P := by
  induction l generalizing s with
  | nil => exact sendsOf_of_col rfl
  | cons x l ih => exact sendsOf_trans (hf s x (List.mem_cons_self ..)) (ih (fun t y hy => hf t y (List.mem_cons_of_mem _ hy)) _)

theorem sendsOf_launch (s : State) (m : Msg) (hP : ∀ r : Msg, r.dst = m.dst → r.hdr = m.hdr → r.body = m.body → P r) :
    SendsOf s (launch s m) P := by
  cases hb : holdsBack s (channelSlice s m.hdr.srcChannel) with
  | true =>
    rw [launch_of_holdsBack hb]
    exact ⟨[], [m], (List.append_nil _).symm, rfl, by simpa using hP m rfl rfl rfl⟩
  | false =>
    obtain ⟨r, hdst, hhdr, hbody, hout, _, hunsent, _⟩ := issue_puts s m
    rw [launch_of_room hb]
    exact ⟨[r], [], hout, by rw [hunsent, List.append_nil], by simpa using hP r hdst hhdr hbody⟩

theorem sendsOf_reserve (s : State) (op ring tensor step : Nat) (key : StreamKey) (n : Nat) :
    SendsOf s (reserve s op ring tensor step key n).1 P := by
  unfold reserve
  dsimp only
  split
  · exact sendsOf_of_col rfl
  · exact sendsOf_none rfl rfl

/-- The messages of a block. -/
theorem sendsOf_sendBlock (s : State) (op ring tensor step : Nat) (ms : List (List Nat × MsgHdr × Body))
    (hP : ∀ q ∈ ms, ∀ r : Msg, r.dst ∈ q.1 → (∃ n, r.hdr = { q.2.1 with sequence := n }) → r.body = q.2.2 → P r) :
    SendsOf s (sendBlock s op ring tensor step ms) P := by
  unfold sendBlock
  refine sendsOf_foldl _ (fun t q hq => sendsOf_trans (sendsOf_reserve ..) (sendsOf_foldl _ (fun u d hd => sendsOf_launch _ _ ?_) _)) s
  intro r hdst hhdr hbody
  have hmem : q.1 ∈ ms := by
    have := List.mem_zipIdx' hq
    rw [this.2]
    exact List.getElem_mem _
  exact hP q.1 hmem r (hdst ▸ hd) ⟨_, hhdr⟩ hbody

theorem sendsOf_sendIdent (s : State) (op ring : Nat) (dsts : List Nat) (h : MsgHdr) (b : Body)
    (hP : ∀ r : Msg, r.dst ∈ dsts → (∃ n, r.hdr = { h with multicast := dsts.length = 2, sequence := n }) → r.body = b → P r) :
    SendsOf s (sendIdent s op ring dsts h b) P :=
  sendsOf_sendBlock s _ _ _ _ _ (by simpa using hP)

theorem sent_sendIdent (s : State) (op ring : Nat) (dsts : List Nat) (h : MsgHdr) (b : Body) : Sent s (sendIdent s op ring dsts h b) :=
  sent_sendBlock ..

end Sys2Proof.Proofs
end

section
/-! Gradient rows: EMB_BACKWARD, its rows and the look-up marks (O35). -/

namespace Sys2Proof.Proofs

open Sys2Proof Sys2Proof.Machine Sys2Proof.Laws

variable {s t : State} {h : MsgHdr} {d : TableDesc} {lk : Lookup} {c : HostCmd}

/-! ### EMB_BACKWARD -/

theorem col_finish (s : State) (c : HostCmd) (st d0 d1 : Nat) : (finish s c st d0 d1).col = s.col :=
  (congrArg State.col (ends_finish s c st d0 d1).rest).trans rfl

theorem mem_finish (s : State) (c : HostCmd) (st d0 d1 : Nat) : (finish s c st d0 d1).mem = s.mem :=
  (congrArg State.mem (ends_finish s c st d0 d1).rest).trans rfl

theorem foldl_keeps {α β : Type} {f : State → α → State} {g : State → β} (hf : ∀ s x, g (f s x) = g s) (l : List α) (s : State) :
    g (l.foldl f s) = g s := by
  induction l generalizing s with
  | nil => rfl
  | cons x l ih => exact (ih (f s x)).trans (hf s x)

/-- A backward pass whose rows are acknowledged, completed. -/
def settleOne (t : State) (b : Nat × Nat × HostCmd) : State :=
  done (setTables t fun x => { x with backwards := x.backwards.filter (· != b) }) b.2.2

theorem settleBackwards_frame (s : State) : (settleBackwards s).col = s.col ∧ (settleBackwards s).mem = s.mem := by
  have hcol (t : State) (b : Nat × Nat × HostCmd) : (settleOne t b).col = t.col := col_finish ..
  have hmem (t : State) (b : Nat × Nat × HostCmd) : (settleOne t b).mem = t.mem := mem_finish ..
  have hfold : settleBackwards s = (s.tables.backwards.filter fun b => !rowsUnacked s b.1 b.2.1).foldl settleOne s := rfl
  rw [hfold]
  exact ⟨foldl_keeps (g := State.col) hcol _ s, foldl_keeps (g := State.mem) hmem _ s⟩

theorem gradeTaken_col (s : State) (tensor : Nat) : (gradeTaken s tensor).1.col = s.col := by
  unfold gradeTaken
  split_ifs <;> rfl

theorem noteGradeWith_col (s : State) (src tensor : Nat) (f : GradeRec → GradeRec) : (noteGradeWith s src tensor f).col = s.col := by
  unfold noteGradeWith
  dsimp only
  split_ifs <;> exact gradeTaken_col s tensor

/-- A message of gradient rows of a table at a step. -/
def RowsOf (table step : Nat) (m : Msg) : Prop := m.hdr.kind = 0x06 ∧ m.hdr.tensorId = table ∧ m.hdr.step = step

theorem sendRows_sends (s : State) (d : TableDesc) (step ring o e : Nat) (rows : List GradRow) (last : Bool) :
    SendsOf s (sendRows s d step ring o e rows last) (RowsOf d.table step) := by
  unfold sendRows
  split_ifs
  · exact sendsOf_of_col rfl
  · refine sendsOf_sendIdent _ _ _ _ _ _ fun r _ ⟨n, hhdr⟩ _ => ?_
    rw [RowsOf, hhdr]
    exact ⟨rfl, rfl, rfl⟩

theorem sent_sendRows (s : State) (d : TableDesc) (step ring o e : Nat) (rows : List GradRow) (last : Bool) :
    Sent s (sendRows s d step ring o e rows last) := by
  unfold sendRows
  split_ifs
  · exact Sent.refl s
  · exact sent_sendIdent ..

/-- A backward pass sends rows of its table and step, and writes no memory. -/
theorem sendBackward_sends (s : State) (d : TableDesc) (lk : Lookup) (c : HostCmd) (xs : List (RowKey × List (Val × Exc))) :
    (sendBackward s d lk c xs).mem = s.mem ∧ SendsOf s (sendBackward s d lk c xs) (RowsOf d.table lk.step) := by
  unfold sendBackward
  extract_lets ctl rows s1 s2 last s3
  have hcol : s2.col = s.col := noteGradeWith_col ..
  have hmem : s2.mem = s.mem := (noteGradeWith_frame ..).1
  have hsends : SendsOf s2 s3 (RowsOf d.table lk.step) :=
    sendsOf_foldl _ (fun _ _ _ => sendsOf_foldl _ (fun _ _ _ => sendRows_sends ..) _) _
  have hsent : Sent s2 s3 := sent_foldl (fun _ _ => sent_foldl (fun _ _ => sent_sendRows ..) _ _) _ _
  have hstart : SendsOf s s2 (RowsOf d.table lk.step) := sendsOf_of_col hcol
  refine ⟨(settleBackwards_frame _).2.trans ?_, sendsOf_trans hstart (sendsOf_trans hsends (sendsOf_of_col
    ((settleBackwards_frame _).1.trans ?_)))⟩
  · split_ifs <;> exact hsent.mem_eq.trans hmem
  · split_ifs <;> rfl

/-- The look-up whose gradients a backward pass brings. -/
def lookedUp (s : State) (d : TableDesc) (c : HostCmd) : Option Lookup :=
  s.tables.lookups.find? fun x => x.done && x.scratch = c.slot.param1 && x.table = d.table && x.step = c.slot.step

/-- Lines of the gradients of a look-up. -/
def gradLines (lk : Lookup) : Nat := if lk.pooling = 2 then lk.occurrences.length else lk.bags.length - 1

/-- A backward pass from its sound first header on. -/
def gradsGiven (s : State) (d : TableDesc) (lk : Lookup) (c : HostCmd) (tag : Nat) : State :=
  if tag != 1 && tag != 3 then finish s c 0x20 tag 1
  else if rangeBad s c.slot.param2 ((gradLines lk + 127) / 128 * ((d.elements + 127) / 128) *
      granules (64 + 128 * tileLineBytes (fmtOfTag tag).1)) then refuse s c 0x30
  else
    match readGrads s c.slot.param2 tag d.elements (gradLines lk) with
    | .wait => s
    | .bad a => failUE s c a
    | .fail st d0 d1 => finish s c st d0 d1
    | .ok lines => sendBackward s d lk c (expandGrads ⟨modeOf c.slot.ctl, roundingOf c.slot.ctl, .fp32⟩ lk lines)

section Started
variable (hc : ready s 0x0115 c = true) (hb : ∀ b ∈ s.tables.backwards, b.2.2 ≠ c)
  (hd : tableAt s (bitsOf c.slot.param0 0 12) = some d)
include hc hb hd

theorem exec_embBackward_frozen (ho : d.optimiser = 0) : exec (.embBackward c) s = .next (refuse s c condition) := by
  change execEmbBackward c s = _
  have hany : (s.tables.backwards.any fun b => b.2.2 = c) = false := by simpa using hb
  rw [execEmbBackward, runCmd_of_ready hc, hany]
  simp [hd, ho]

theorem exec_embBackward_noLookup (ho : d.optimiser ≠ 0) (hp : (paramsFor s d.tensor c.slot.step).isSome = true)
    (hn : lookedUp s d c = none) : exec (.embBackward c) s = .next (refuse s c 0x28) := by
  change execEmbBackward c s = _
  have hany : (s.tables.backwards.any fun b => b.2.2 = c) = false := by simpa using hb
  unfold lookedUp at hn
  rw [execEmbBackward, runCmd_of_ready hc, hany]
  simp [hd, ho, Option.isSome_iff_ne_none.mp hp, hn]

theorem exec_embBackward_tiles (ho : d.optimiser ≠ 0) (hp : (paramsFor s d.tensor c.slot.step).isSome = true)
    (hl : lookedUp s d c = some lk) (hbase : c.slot.param2 % 256 = 0) (hr : rangeBad s c.slot.param2 64 = false)
    (hw : memWaits s c.slot.param2 64 = false) (hready : pReady s d.tensor = true) (hbad : badSector s c.slot.param2 64 = none)
    (hcrc : leAt (devRead s c.slot.param2 64) 0x3C 4 = crc32c (devRead s c.slot.param2 60)) :
    exec (.embBackward c) s = .next (gradsGiven s d lk c (leAt (devRead s c.slot.param2 64) 0 1)) := by
  change execEmbBackward c s = _
  have hany : (s.tables.backwards.any fun b => b.2.2 = c) = false := by simpa using hb
  have hnone : (paramsFor s d.tensor c.slot.step).isNone = false := by simpa using hp
  unfold lookedUp at hl
  rw [execEmbBackward, runCmd_of_ready hc, hany, if_neg Bool.false_ne_true, hd]
  dsimp only
  rw [hl, if_neg (by simp [ho, hnone])]
  dsimp only
  rw [if_neg (by simp [hbase, hr]), if_neg (by simp [hw, hready]), hbad]
  dsimp only
  rw [if_neg (by simp [hcrc])]
  rfl

end Started

/-! ### Rows and marks at their owner -/

/-- What gradient rows do at their owner. -/
def rowsTaken (h : MsgHdr) (rows : List GradRow) (s : State) : State :=
  match tableAt s h.tensorId with
  | none => bump s .emb (embPage s h.dstPoint) 0x124 0 16 rows.length
  | some d =>
    if (slotOfEpoch d h.tableEpoch).isSome then advanceTables (addGrads (startDomain s (domEmb (embPage s h.dstPoint))) h rows)
    else advanceTables (addGrads (bump (startDomain s (domEmb (embPage s h.dstPoint))) .emb
      (embPage (startDomain s (domEmb (embPage s h.dstPoint))) h.dstPoint) 0x124 0 16 rows.length) h [])

theorem exec_gradientRows (h : MsgHdr) (rows : List GradRow) (s : State) :
    exec (.gradientRows h rows) s = .next (receive s h (rowsTaken h rows)) := rfl

theorem embPage_noted (s : State) (h : MsgHdr) (e : Nat) : embPage (noted s h) e = embPage s e := by
  rw [embPage, part_noted, embPage]

theorem tableAt_noted (s : State) (h : MsgHdr) (n : Nat) : tableAt (noted s h) n = tableAt s n := by
  rw [tableAt, tables_noted, tableAt]

/-- What a look-up mark does. -/
def markTaken (h : MsgHdr) (s : State) : State :=
  if Machine.marked s h.tensorId h.step h.srcClass then s
  else advanceTables (setTables s fun t => { t with marks := t.marks ++ [(h.tensorId, h.step, h.srcClass)] })

theorem exec_lookUpMark (h : MsgHdr) (s : State) : exec (.lookUpMark h) s = .next (receive s h (markTaken h)) := rfl

theorem marked_noted (s : State) (h : MsgHdr) (n step src : Nat) : Machine.marked (noted s h) n step src = Machine.marked s n step src := by
  rw [Machine.marked, tables_noted, Machine.marked]

/-- Settles O35: EMB_BACKWARD by `exec_embBackward` and `sendBackward_sends`, the messages by what they do where they are taken. -/
theorem gradientRowsAreSentAndKept : Obligations.GradientRowsAreSentAndKept := by
  unfold Obligations.GradientRowsAreSentAndKept
  intro s
  refine ⟨fun c d hc hb hd => ?_, fun h ha => ⟨fun rows d hd hv => ?_, fun rows d hd hv => ?_, fun rows hd => ?_, fun hm => ?_, fun hm => ?_⟩⟩
  · refine ⟨fun ho => endsIn_finish (exec_embBackward_frozen hc hb hd ho) (by decide), fun ho hp hno =>
      endsIn_finish (exec_embBackward_noLookup hc hb hd ho hp ?_) (by decide),
      fun lk base n size tag lines ho hp hl hbase hal hr hw hready hbad htag hcrc => ?_⟩
    · simpa [lookedUp, List.find?_eq_none, and_assoc] using hno
    subst hbase
    have hrun := exec_embBackward_tiles hc hb hd ho hp hl hal hr hw hready hbad hcrc
    rw [← htag] at hrun
    refine ⟨fun h1 h3 => endsIn_finish (hrun.trans (congrArg _ (if_pos (by simp [h1, h3])))) (by decide), fun h13 hn hsize hrange hread => ?_⟩
    change n = gradLines lk at hn
    subst hn
    subst hsize
    have hsent : gradsGiven s d lk c tag =
        sendBackward s d lk c (expandGrads ⟨modeOf c.slot.ctl, roundingOf c.slot.ctl, .fp32⟩ lk lines) := by
      unfold gradsGiven
      rw [if_neg (by rcases h13 with h | h <;> simp [h]), hrange, if_neg Bool.false_ne_true, hread]
    have hstep : lk.step = c.slot.step := by
      have hfound := List.find?_some hl
      simp only [Bool.and_eq_true, decide_eq_true_eq] at hfound
      exact hfound.2
    obtain ⟨hmem, hsends⟩ := sendBackward_sends s d lk c (expandGrads ⟨modeOf c.slot.ctl, roundingOf c.slot.ctl, .fp32⟩ lk lines)
    rw [hstep] at hsends
    exact ⟨_, hrun.trans (congrArg _ hsent), rfl, hmem, hsends⟩
  · refine takes_eq ha (exec_gradientRows h rows s) ?_
    rw [rowsTaken, tableAt_noted, hd, embPage_noted]
    exact if_pos hv
  · refine takes_eq ha (exec_gradientRows h rows s) ?_
    have hpage : embPage (startDomain (noted s h) (domEmb (embPage s h.dstPoint))) h.dstPoint = embPage s h.dstPoint := embPage_noted s h _
    rw [rowsTaken, tableAt_noted, hd, embPage_noted, hpage]
    exact if_neg (by simp [hv])
  · refine takes_of_receive ha (exec_gradientRows h rows s) ?_
    rw [rowsTaken, tableAt_noted, hd]
    rfl
  · refine takes_eq ha (exec_lookUpMark h s) ?_
    rw [markTaken, marked_noted, hm, if_neg Bool.false_ne_true, setTables, tables_noted]
  · refine takes_eq ha (exec_lookUpMark h s) ?_
    rw [markTaken, marked_noted, hm, if_pos rfl]

end Sys2Proof.Proofs
end

section
/-! Staged and rolled contents of a table (O36). -/

namespace Sys2Proof.Proofs

open Sys2Proof Sys2Proof.Machine Sys2Proof.Laws

variable {s t : State} {h : MsgHdr} {d : TableDesc} {c : HostCmd} {data : List Byte} {key : RowKey}

/-! ### Routed commands -/

theorem exec_tableStage_mode (hc : ready s 0x0112 c = true) (hd : tableAt s (bitsOf c.slot.param0 0 12) = some d)
    (hn0 : 0 < c.slot.param1) (hn : c.slot.param1 ≤ 65536) (hm : d.replaceMode ≠ 1 ∨ d.switchStep = noSwitch) :
    exec (.tableStage c data) s = .next (refuse s c condition) := by
  change execTableStage c data s = _
  rw [execTableStage, runCmd_of_ready hc]
  dsimp only
  rw [hd]
  dsimp only
  rw [if_neg (by simp; omega), if_pos (by simpa using hm)]

theorem exec_tableRoll_mode (hc : ready s 0x0113 c = true) (hd : tableAt s (bitsOf c.slot.param0 0 12) = some d)
    (hn0 : 0 < c.slot.param1) (hn : c.slot.param1 ≤ 65536) (hm : d.replaceMode ≠ 2) :
    exec (.tableRoll c data) s = .next (refuse s c condition) := by
  change execTableRoll c data s = _
  rw [execTableRoll, runCmd_of_ready hc]
  dsimp only
  rw [hd]
  dsimp only
  rw [if_neg (by simp; omega), if_pos (by simpa using hm)]

/-- The items that TABLE_STAGE sends for its entries. -/
def stageItems (s : State) (d : TableDesc) (table : Nat) (last : Bool) (es : List (List Byte)) : List (Nat × RoutedItem) :=
  (es.flatMap fun e => match keyOf d (leAt e 0 8) with
    | none => []
    | some key => (rowHolders s d (ownerOf d key.shard)).map fun m => (m, RoutedItem.stage table (leAt e 0 8) (e.drop 8) false)) ++
  (if last then (allHolders s d).map fun m => (m, RoutedItem.stage table 0 [] true) else [])

theorem exec_tableStage (hc : ready s 0x0112 c = true) (hd : tableAt s (bitsOf c.slot.param0 0 12) = some d)
    (hn0 : 0 < c.slot.param1) (hn : c.slot.param1 ≤ 65536) (hm : d.replaceMode = 1) (hsw : d.switchStep ≠ noSwitch)
    (hout : operandOut s c (c.slot.param1 * (8 + recordLength d)) = false)
    (hbad : operandFault s c (c.slot.param1 * (8 + recordLength d)) = none) {es : List (List Byte)}
    (hes : es = entriesOf (operandBytes s c data (c.slot.param1 * (8 + recordLength d))) (8 + recordLength d) c.slot.param1)
    (hkeys : ∀ e ∈ es, (keyOf d (leAt e 0 8)).isSome = true) :
    exec (.tableStage c data) s =
      .next (startRouted s c (stageItems s d (bitsOf c.slot.param0 0 12) (bitOf c.slot.param0 31) es)) := by
  change execTableStage c data s = _
  have hnone : ((es.map fun e => (keyOf d (leAt e 0 8), e)).any fun p => p.1.isNone) = false := by
    simpa [Option.isSome_iff_ne_none] using hkeys
  rw [execTableStage, runCmd_of_ready hc]
  dsimp only
  rw [hd]
  dsimp only
  rw [if_neg (by simp; omega), if_neg (by simp [hm, hsw]), hout, if_neg Bool.false_ne_true, hbad]
  dsimp only
  rw [← hes, hnone, if_neg Bool.false_ne_true, List.flatMap_map]
  rfl

/-- The items that TABLE_ROLL sends for its entries. -/
def rollItems (s : State) (d : TableDesc) (table : Nat) (es : List (List Byte)) : List (Nat × RoutedItem) :=
  es.filterMap fun e => (keyOf d (leAt e 0 8)).bind fun key => (rowHolders s d (ownerOf d key.shard)).head?.map fun m =>
    (m, RoutedItem.roll table (leAt e 0 8) (leAt e 8 2) (leAt e 10 1 = 1) (e.drop 16) none)

theorem exec_tableRoll (hc : ready s 0x0113 c = true) (hd : tableAt s (bitsOf c.slot.param0 0 12) = some d)
    (hn0 : 0 < c.slot.param1) (hn : c.slot.param1 ≤ 65536) (hm : d.replaceMode = 2)
    (hout : operandOut s c (c.slot.param1 * (16 + weightBytes d.tag d.elements)) = false)
    (hbad : operandFault s c (c.slot.param1 * (16 + weightBytes d.tag d.elements)) = none) {es : List (List Byte)}
    (hes : es = entriesOf (operandBytes s c data (c.slot.param1 * (16 + weightBytes d.tag d.elements))) (16 + weightBytes d.tag d.elements)
      c.slot.param1)
    (hkeys : ∀ e ∈ es, (keyOf d (leAt e 0 8)).isSome = true ∧ leAt e 10 1 ≤ 1) :
    exec (.tableRoll c data) s = .next (startRouted s c (rollItems s d (bitsOf c.slot.param0 0 12) es)) := by
  change execTableRoll c data s = _
  have hnone : (es.any fun e => (keyOf d (leAt e 0 8)).isNone || leAt e 10 1 > 1) = false := by
    simpa [Option.isSome_iff_ne_none] using hkeys
  rw [execTableRoll, runCmd_of_ready hc]
  dsimp only
  rw [hd]
  dsimp only
  rw [if_neg (by simp; omega), if_neg (by simp [hm]), hout, if_neg Bool.false_ne_true, hbad]
  dsimp only
  rw [← hes, hnone, if_neg Bool.false_ne_true]
  rfl

/-- A routed command without an item completes at once; otherwise it sends its items and waits for their answers. -/
theorem startRouted_sends {items : List (Nat × RoutedItem)} (hr : ∀ r ∈ s.tables.routed, r.cmd ≠ c) :
    (items = [] → startRouted s c items = done (setCol s fun x => { x with nextTag := s.col.nextTag + 1 }) c) ∧
    (items ≠ [] → (startRouted s c items).mem = s.mem ∧ (startRouted s c items).hif = s.hif ∧
      (startRouted s c items).tables.routed = s.tables.routed ++ [⟨s.col.nextTag, c, items.map (·.1), 0, 0, none⟩] ∧
      SendsEach s (startRouted s c items) 0x10 (items.map fun i => (i.1, .routed i.2 s.col.nextTag))) := by
  have hany : (s.tables.routed.any (·.cmd = c)) = false := by simpa using hr
  unfold startRouted
  rw [hany, if_neg Bool.false_ne_true]
  dsimp only
  refine ⟨fun he => by rw [he]; rfl, fun hne => ?_⟩
  rw [if_neg (by simpa using hne)]
  have hsent := sent_foldl (f := fun t (it : Nat × RoutedItem) => send t it.1 0x10 8 0x18 s.job.openStep (.routed it.2 s.col.nextTag))
    (fun t it => sent_send t it.1 ..) items (setTables (setCol s fun x => { x with nextTag := s.col.nextTag + 1 })
      fun t => { t with routed := t.routed ++ [⟨s.col.nextTag, c, items.map (·.1), 0, 0, none⟩] })
  have hvia := sendsVia_foldl (f := fun t (it : Nat × RoutedItem) => send t it.1 0x10 8 0x18 s.job.openStep (.routed it.2 s.col.nextTag))
    (g := fun it => (it.1, .routed it.2 s.col.nextTag)) (fun t it => ⟨sent_send t it.1 .., sendsVia_send t it.1 ..⟩) items
    (setTables (setCol s fun x => { x with nextTag := s.col.nextTag + 1 })
      fun t => { t with routed := t.routed ++ [⟨s.col.nextTag, c, items.map (·.1), 0, 0, none⟩] })
  exact ⟨hsent.mem_eq, hsent.hif_eq, congrArg Tables.routed hsent.tables_eq, (hvia.congr (u := s) rfl rfl rfl).sendsEach⟩

/-! ### Items at their owner -/

/-- What a routed item does at its owner. -/
def itemTaken (h : MsgHdr) (item : RoutedItem) (tag : Nat) (s : State) : State :=
  let answer := fun (r : State × Refused) => sendAnswer r.1 h.srcClass tag r.2.1 r.2.2.1 r.2.2.2
  match item with
  | .roll t i v z w none => answer (takeRoll s t i v z w none tag)
  | .roll t i v z w (some r) => (takeRoll s t i v z w (some r) tag).1
  | .stage t i rec' last => answer (takeStage s t i rec' last)
  | .detach _ =>
    if s.twin.pair != .paired then answer (s, twinUnavailable (twinOf s) s.twin.pair)
    else if s.twin.detachAt.isSome then answer (s, rangeOf condition)
    else setTwin s fun t => { t with detachAt := some (s.job.openStep, h.srcClass, tag) }
  | .attach joiner part size seed reports =>
    if joiner != twinOf s || s.twin.pair != .sole then answer (s, twinUnavailable s.twin.number s.twin.pair)
    else if !reports || part != Config.partNumber s.part || size != s.twin.size || seed != s.twin.seed then
      answer (s, rangeOf condition)
    else startSource s (some (h.srcClass, tag))

theorem exec_routedItem (h : MsgHdr) (item : RoutedItem) (tag : Nat) (s : State) :
    exec (.routedItem h item tag) s = .next (receive s h (itemTaken h item tag)) := rfl

theorem badSector_of_quiet (hb : s.gddr.badSectors = []) (hd : deadChannels s = []) (a n : Nat) : badSector s a n = none := by
  unfold badSector
  simp [hb, hd]

theorem badWrite_of_quiet (hb : s.gddr.badSectors = []) (hd : deadChannels s = []) (a n : Nat) : badWrite s a n = none :=
  badSector_of_quiet (s := { s with gddr := { s.gddr with badSectors := healed s.gddr.badSectors a n } })
    (by simp [hb, healed]) hd a n

/-- A record written whole with its check word. -/
theorem mem_writeRecord (hq : Quiet s) (d : TableDesc) (v : Nat) (key : RowKey) (bs : List Byte) :
    (writeRecord s d v key bs).mem = writeBytes (writeBytes s.mem (recordAddr d v key) (padTo d.stride (bs.take (recordLength d))))
      (checkAddr d v key) (leBytes 4 (crc32c (bs.take (recordLength d)))) := by
  obtain ⟨-, hbad, hdead⟩ := hq
  have hnone : badWrite (devWrite s (recordAddr d v key) (padTo d.stride (bs.take (recordLength d)))) (checkAddr d v key)
      (leBytes 4 (crc32c (bs.take (recordLength d)))).length = none :=
    badWrite_of_quiet (s := devWrite s (recordAddr d v key) (padTo d.stride (bs.take (recordLength d))))
      (by simp [devWrite, hbad, healed]) hdead _ _
  unfold writeRecord unitWrite
  dsimp only
  rw [hnone]
  rfl

theorem takeStage_record {table index : Nat} {record : List Byte} (hd : tableAt s table = some d) (hkey : keyOf d index = some key)
    (hm : d.replaceMode = 1) (hsw : d.switchStep ≠ noSwitch) :
    takeStage s table index record false = (writeRecord s d (1 - d.active) key
      (stampRecord d (padTo (recordLength d) (record.take (recordLength d))) ((d.switchStep - 1) % 2 ^ 24)), (0, 0, 0)) := by
  unfold takeStage
  rw [hd]
  dsimp only
  rw [if_neg (by simp [hm, hsw]), if_neg Bool.false_ne_true, hkey]

/-- A rolled row at its owner is fixed at the step after the open one, and told to the other holders of the row. -/
theorem takeRoll_owner {table index version tag : Nat} {zero : Bool} {w : List Byte} (hd : tableAt s table = some d)
    (hkey : keyOf d index = some key) (hm : d.replaceMode = 2) (hfault : rollFault s d d.active key zero = none) :
    ∃ u, takeRoll s table index version zero w none tag = (runRolls u d, (0, nextStep s.job.openStep, nextStep s.job.openStep)) ∧
      u.tables.rolls = s.tables.rolls ++ [⟨table, key, version, zero, w, nextStep s.job.openStep⟩] := by
  unfold takeRoll
  rw [hd]
  dsimp only
  rw [hkey]
  dsimp only
  rw [if_neg (by simp [hm]), if_neg (by simp), hfault]
  refine ⟨_, rfl, ?_⟩
  rw [(sent_foldl (fun u m => sent_send u m ..) _ _).tables_eq]
  rfl

/-- Settles O36: the commands by `startRouted_sends`, a staged record by `mem_writeRecord`, a rolled row by `takeRoll_owner`. -/
theorem tableContentsAreStagedAndRolled : Obligations.TableContentsAreStagedAndRolled := by
  unfold Obligations.TableContentsAreStagedAndRolled
  intro s
  refine ⟨fun c data t n k d hr ht hn hn0 hn1 hd hout hbad es hes => ?_, fun h t index tag d key ha hd hkey => ⟨?_, ?_⟩⟩
  · subst ht
    subst hn
    have hends {i : Instr} {items : List (Nat × RoutedItem)} (hi : exec i s = .next (startRouted s c items)) :
        (items = [] → ∃ e, EndsIn i s c 0 0 0 e) ∧ (items ≠ [] → Leads i s fun u => u.mem = s.mem ∧ u.hif = s.hif ∧
          u.tables.routed = s.tables.routed ++ [⟨s.col.nextTag, c, items.map (·.1), 0, 0, none⟩] ∧
          SendsEach s u 0x10 (items.map fun i => (i.1, .routed i.2 s.col.nextTag))) := by
      obtain ⟨hnone, hsome⟩ := startRouted_sends (items := items) hr
      exact ⟨fun he => ⟨_, endsIn_done (hi.trans (congrArg _ (hnone he)))⟩, fun hne => ⟨_, hi, hsome hne⟩⟩
    refine ⟨fun items hc hk hm hsw hkeys hitems => ?_, fun items hc hk hm hkeys hitems => ?_, fun hc hk hm => ?_, fun hc hk hm => ?_⟩
    · subst hk
      have hrun := exec_tableStage hc hd hn0 hn1 hm hsw hout hbad hes hkeys
      change items = stageItems s d (bitsOf c.slot.param0 0 12) (bitOf c.slot.param0 31) es at hitems
      rw [← hitems] at hrun
      exact hends hrun
    · subst hk
      have hrun := exec_tableRoll hc hd hn0 hn1 hm hout hbad hes hkeys
      change items = rollItems s d (bitsOf c.slot.param0 0 12) es at hitems
      rw [← hitems] at hrun
      exact hends hrun
    · exact endsIn_finish (exec_tableStage_mode hc hd hn0 hn1 hm) (by decide)
    · exact endsIn_finish (exec_tableRoll_mode hc hd hn0 hn1 hm) (by decide)
  · intro record rec' hq hm hsw hrec
    refine takes_of_receive ha (exec_routedItem h _ tag s) ⟨_, ?_, (mem_writeRecord hq d (1 - d.active) key rec')⟩
    have htaken := takeStage_record (record := record) ((tableAt_noted s h t).trans hd) hkey hm hsw
    rw [← hrec] at htaken
    change sendAnswer (takeStage (noted s h) t index record false).1 _ _ _ _ _ = _
    rw [htaken]
  · intro version zero w r hm hfault hr
    obtain ⟨u, htaken, hrolls⟩ := takeRoll_owner (version := version) (tag := tag) (w := w) ((tableAt_noted s h t).trans hd) hkey hm hfault
    have hnext : nextStep (noted s h).job.openStep = r := by rw [job_noted, hr, nextStep]
    rw [hnext] at htaken hrolls
    rw [tables_noted] at hrolls
    refine takes_of_receive ha (exec_routedItem h _ tag s) ⟨u, ?_, hrolls⟩
    change sendAnswer (takeRoll (noted s h) t index version zero w none tag).1 _ _ _ _ _ = _
    rw [htaken]

end Sys2Proof.Proofs
end

section
/-! The two writes of an update, and the renewal pass (O37). -/

namespace Sys2Proof.Proofs

open Sys2Proof Sys2Proof.Machine Sys2Proof.Laws

variable {s t : State} {d : TableDesc} {key : RowKey} {o : Open2}

/-! ### Measurements -/

theorem gradeTaken_only (s : State) (tensor : Nat) : (gradeTaken s tensor).1 = { s with regs := (gradeTaken s tensor).1.regs } := by
  unfold gradeTaken
  split_ifs <;> rfl

theorem sameRegs_gradeTaken (s : State) (tensor : Nat) : SameRegs s (gradeTaken s tensor).1 [pageOf .mgt 0 + 0x224] := by
  unfold gradeTaken
  split_ifs
  · exact SameRegs.refl _ _
  · exact SameRegs.refl _ _
  · exact sameRegs_bump s .mgt 0 0x224 0 32 1

theorem setStat_only (s : State) (key : Nat) (f : UpdStat → UpdStat) :
    setStat s key f = { s with regs := (setStat s key f).regs, tables := { s.tables with stats := (setStat s key f).tables.stats } } := by
  have h := gradeTaken_only s (key / 2 ^ 44)
  unfold setStat
  rw [h]
  rfl

theorem mem_setStat (s : State) (key : Nat) (f : UpdStat → UpdStat) : (setStat s key f).mem = s.mem :=
  (congrArg State.mem (setStat_only s key f)).trans rfl

theorem open2_setStat (s : State) (key : Nat) (f : UpdStat → UpdStat) : (setStat s key f).tables.open2 = s.tables.open2 :=
  (congrArg (fun x : State => x.tables.open2) (setStat_only s key f)).trans rfl

theorem sameRegs_setStat (s : State) (key : Nat) (f : UpdStat → UpdStat) : SameRegs s (setStat s key f) [pageOf .mgt 0 + 0x224] :=
  sameRegs_gradeTaken s (key / 2 ^ 44)

/-- The update of a record with a result that is not finite: it counts, and writes nothing. -/
def skippedRecord (s : State) (unit key : Nat) (f : UpdStat → UpdStat) : State := setStat (bump s .upd unit 0x120 16 16 1) key f

theorem sameRegs_skippedRecord (s : State) (unit key : Nat) (f : UpdStat → UpdStat) :
    SameRegs s (skippedRecord s unit key f) [pageOf .upd unit + 0x120, pageOf .mgt 0 + 0x224] := by
  intro k hk
  simp only [List.mem_cons, List.not_mem_nil, or_false, not_or] at hk
  obtain ⟨hupd, hmgt⟩ := hk
  exact (sameRegs_setStat _ key f k (by simpa using hmgt)).trans (sameRegs_bump s .upd unit 0x120 16 16 1 k (by simpa [regKey] using hupd))

theorem field_skippedRecord (s : State) (unit key : Nat) (f : UpdStat → UpdStat) :
    field (skippedRecord s unit key f) .upd unit 0x120 16 16 = min (field s .upd unit 0x120 16 16 + 1) 65535 := by
  have hreg : mget (skippedRecord s unit key f).regs (pageOf .upd unit + 0x120) =
      mget (bump s .upd unit 0x120 16 16 1).regs (pageOf .upd unit + 0x120) := by
    refine sameRegs_setStat (bump s .upd unit 0x120 16 16 1) key f _ ?_
    change ¬(0x40000 + unit * 0x1000 + 0x120 ∈ [0xC0000 + 0 * 0x1000 + 0x224])
    simp only [List.mem_singleton]
    omega
  have hkept : kept (skippedRecord s unit key f) .upd unit 0x120 = kept (bump s .upd unit 0x120 16 16 1) .upd unit 0x120 := by
    change (match mget (skippedRecord s unit key f).regs (pageOf .upd unit + 0x120) with
      | some v => v.toNat | none => resetReg .upd unit 0x120) = _
    rw [hreg]
    rfl
  exact (congrArg (fun v => bitsOf v 16 16) hkept).trans (field_bump s .upd unit 0x120 1 (by decide))

/-! ### First writes -/

theorem mem_devWrite (s : State) (a : Nat) (bs : List Byte) : (devWrite s a bs).mem = writeBytes s.mem a bs := rfl

theorem tables_devWrite (s : State) (a : Nat) (bs : List Byte) : (devWrite s a bs).tables = s.tables := rfl

theorem mem_mark (s : State) (a n : Nat) : (mark s a n).mem = s.mem := rfl

theorem tables_mark (s : State) (a n : Nat) : (mark s a n).tables = s.tables := rfl

theorem mem_setTables (s : State) (f : Tables → Tables) : (setTables s f).mem = s.mem := rfl

theorem tables_setTables (s : State) (f : Tables → Tables) : (setTables s f).tables = f s.tables := rfl

theorem firstWrite_writes (s : State) (d : TableDesc) (v : Nat) (key : RowKey) (old state weights : List Byte) (stamp : Nat)
    (renewal : Bool) : ∃ o : Open2,
    (firstWrite s d v key old state weights stamp renewal).mem =
      writeBytes s.mem (recordAddr d v key) (recordHead stamp (recordVersion old) (recordTag old) ++ state) ∧
    (firstWrite s d v key old state weights stamp renewal).tables.open2 = s.tables.open2 ++ [o] ∧ o.addr = recordAddr d v key ∧
    o.weightsAt = recordAddr d v key + weightsAt d ∧ o.checkAddr = checkAddr d v key ∧ o.renewal = renewal := by
  unfold firstWrite
  extract_lets a hd tail s1 o
  refine ⟨o, ?_, ?_, rfl, rfl, rfl, rfl⟩
  · rw [mem_setTables, mem_mark, mem_devWrite]
  · rw [tables_setTables, tables_mark, tables_devWrite]

/-- An update of a record: not finite, or its first write. -/
theorem updateRecord_cases (s : State) (d : TableDesc) (pr : PendRow) (p : Params) (bs : List Byte) :
    (∃ key f, updateRecord s d pr p bs = skippedRecord s (memOf s.part (recordAddr d pr.slot pr.key)) key f) ∨
    ∃ state weights key f, updateRecord s d pr p bs =
      setStat (firstWrite s d pr.slot pr.key bs state weights (pr.step % 2 ^ 24) false) key f := by
  unfold updateRecord
  extract_lets unit k e gs oldVals delta cf r key ev fa sw s1
  split
  · exact .inl ⟨key, fun t => t.skip ev, by rw [skippedRecord]⟩
  · exact .inr ⟨_, _, _, _, rfl⟩

/-- An update of a tile: not finite, or its first write. -/
theorem updateTile_cases (s : State) (d : ShardDesc) (i : Nat) (pt : PendTile) (p : Params) :
    (∃ key f, updateTile s d i pt p = skippedRecord s (memOf s.part (d.weightBase + i * d.weightStride)) key f) ∨
    ∃ bytes o u key f depth ws, u.mem = writeBytes s.mem (d.stateBase + i * d.stateStride) bytes ∧
      u.tables.open2 = s.tables.open2 ++ [o] ∧ o.addr = d.weightBase + i * d.weightStride ∧ o.isTile = true ∧
      updateTile s d i pt p = raiseChannels (setStat u key f) d.tensor depth ws := by
  unfold updateTile
  extract_lets wa sa unit wt stt step k lines depth sides body p0 new relaid entered oldVals gs ws out sub key valid ev record vals b
    stored vStored excs ups stamp stBody s1 wBytes s2 s3
  split
  · exact .inl ⟨key, fun x => x.skip ev, by rw [skippedRecord]⟩
  · refine .inr ⟨padTo (granules (64 + stBody.length)) (sealHeader (stt.take 64) stBody stamp [] ++ stBody), ⟨wa, unit, true, wa, wBytes, 0, [], false⟩,
      mark s2 wa wBytes.length, key, _, pt.depth, vStored, ?_, ?_, rfl, rfl, rfl⟩
    · rw [mem_mark, mem_setTables, mem_mark, mem_devWrite]
    · rw [tables_mark, tables_setTables, tables_mark, tables_devWrite]

theorem mem_raiseChannels (s : State) (tensor depth : Nat) (ws : List (List Val)) : (raiseChannels s tensor depth ws).mem = s.mem := rfl

theorem tables_raiseChannels (s : State) (tensor depth : Nat) (ws : List (List Val)) :
    (raiseChannels s tensor depth ws).tables = s.tables := rfl

theorem updateTile_writes (s : State) (d : ShardDesc) (i : Nat) (pt : PendTile) (p : Params) :
    ((updateTile s d i pt p).mem = s.mem ∧ (updateTile s d i pt p).tables.open2 = s.tables.open2) ∨
    ∃ (bytes : List Byte) (o : Open2), (updateTile s d i pt p).mem = writeBytes s.mem (d.stateBase + i * d.stateStride) bytes ∧
      (updateTile s d i pt p).tables.open2 = s.tables.open2 ++ [o] ∧ o.addr = d.weightBase + i * d.weightStride ∧ o.isTile = true := by
  rcases updateTile_cases s d i pt p with ⟨key, f, he⟩ | ⟨bytes, o, u, key, f, depth, ws, hmem, hopen, haddr, htile, he⟩
  · rw [he, skippedRecord, mem_setStat, open2_setStat]
    exact .inl ⟨rfl, rfl⟩
  · rw [he, mem_raiseChannels, tables_raiseChannels, mem_setStat, open2_setStat]
    exact .inr ⟨bytes, o, hmem, hopen, haddr, htile⟩

/-! ### Second writes -/

theorem writeHeld_of_quiet (hq : s.gddr.retraining = []) (o : Open2) : writeHeld s o = false := by
  simp [writeHeld, memWaits, hq]

theorem unitWrite_of_quiet (hb : s.gddr.badSectors = []) (hd : deadChannels s = []) (a : Nat) (bs : List Byte) :
    unitWrite s a bs = devWrite s a bs := by
  rw [unitWrite, badWrite_of_quiet hb hd]

/-- The bytes of a second write in memory. -/
def secondBytes (s : State) (o : Open2) : State :=
  let s1 := unitWrite s o.weightsAt o.weights
  if o.checkBytes.isEmpty then s1 else unitWrite s1 o.checkAddr o.checkBytes

theorem secondBytes_of_quiet (hq : Quiet s) (o : Open2) : (secondBytes s o).mem =
    (if o.checkBytes = [] then writeBytes s.mem o.weightsAt o.weights
      else writeBytes (writeBytes s.mem o.weightsAt o.weights) o.checkAddr o.checkBytes) ∧
    (secondBytes s o).tables = s.tables ∧ (secondBytes s o).hif = s.hif ∧ (secondBytes s o).col = s.col ∧
    (secondBytes s o).twin.pair = s.twin.pair := by
  obtain ⟨-, hbad, hdead⟩ := hq
  have hsecond : unitWrite (devWrite s o.weightsAt o.weights) o.checkAddr o.checkBytes =
      devWrite (devWrite s o.weightsAt o.weights) o.checkAddr o.checkBytes :=
    unitWrite_of_quiet (s := devWrite s o.weightsAt o.weights) (by simp [devWrite, hbad, healed]) hdead _ _
  unfold secondBytes
  dsimp only
  rw [unitWrite_of_quiet hbad hdead, hsecond]
  by_cases hc : o.checkBytes = []
  · rw [if_pos hc, if_pos (by simp [hc])]
    exact ⟨rfl, rfl, rfl, rfl, rfl⟩
  · rw [if_neg hc, if_neg (by simp [hc])]
    exact ⟨rfl, rfl, rfl, rfl, rfl⟩

/-- Forwarding the writes of an enrolment leaves memory, tables and the host interface; a module that is no source sends nothing. -/
theorem sendForward_frame (s : State) (stepEnd : Option Nat) : (sendForward s stepEnd).mem = s.mem ∧
    (sendForward s stepEnd).tables = s.tables ∧ (sendForward s stepEnd).hif = s.hif ∧
    (s.twin.pair ≠ .enrollingSource → (sendForward s stepEnd).col = s.col) := by
  by_cases hp : s.twin.pair = .enrollingSource
  · unfold sendForward sendTwin
    rw [if_neg (by simp [hp])]
    dsimp only
    split_ifs
    · exact ⟨rfl, rfl, rfl, fun hne => absurd hp hne⟩
    · have hsent := sent_send (setTwin s fun t => { t with forward := [] }) (twinOf (setTwin s fun t => { t with forward := [] })) 0x0C 8
        0x1C (setTwin s fun t => { t with forward := [] }).job.openStep (.segment 0 0 [] (s.twin.forward.filter fun x =>
          (twinSegments s).any fun g => overlaps x.addr x.bytes.length (g * 2 ^ 20) (2 ^ 20)) stepEnd)
      exact ⟨hsent.mem_eq, hsent.tables_eq, hsent.hif_eq, fun hne => absurd hp hne⟩
  · unfold sendForward
    rw [if_pos (by simp [hp])]
    exact ⟨rfl, rfl, rfl, fun _ => rfl⟩

theorem secondWrite_of_quiet (hq : Quiet s) (o : Open2) : (secondWrite s o).mem = (secondBytes s o).mem ∧
    (secondWrite s o).tables = { s.tables with open2 := s.tables.open2.filter (· != o) } ∧ (secondWrite s o).hif = s.hif ∧
    (s.twin.pair ≠ .enrollingSource → (secondWrite s o).col = s.col) := by
  obtain ⟨-, htab, hhif, hcol, hpair⟩ := secondBytes_of_quiet hq o
  have hwrite : secondWrite s o =
      if o.renewal then sendForward (progress (setTables (secondBytes s o) fun t => { t with open2 := t.open2.filter (· != o) }) .upd o.unit 1) none
      else if o.isTile then bump (sendForward (progress (setTables (secondBytes s o) fun t =>
        { t with open2 := t.open2.filter (· != o) }) .upd o.unit 1) none) .upd o.unit 0x110 0 32 1
      else bump64 (sendForward (progress (setTables (secondBytes s o) fun t =>
        { t with open2 := t.open2.filter (· != o) }) .upd o.unit 1) none) .upd o.unit 0x108 1 := rfl
  obtain ⟨fmem, ftab, fhif, fcol⟩ := sendForward_frame (progress (setTables (secondBytes s o) fun t =>
    { t with open2 := t.open2.filter (· != o) }) .upd o.unit 1) none
  have htab' : ({ (secondBytes s o).tables with open2 := (secondBytes s o).tables.open2.filter (· != o) } : Tables) =
      { s.tables with open2 := s.tables.open2.filter (· != o) } := by rw [htab]
  have hcol' (hne : s.twin.pair ≠ .enrollingSource) : (sendForward (progress (setTables (secondBytes s o) fun t =>
      { t with open2 := t.open2.filter (· != o) }) .upd o.unit 1) none).col = s.col := (fcol (hpair ▸ hne)).trans hcol
  rw [hwrite]
  split_ifs <;> exact ⟨fmem, ftab.trans htab', fhif.trans hhif, hcol'⟩

theorem finishOpen_found {a : Nat} (ho : s.tables.open2.find? (·.addr = a) = some o) :
    finishOpen s a = if writeHeld s o then s else secondWrite s o := by
  rw [finishOpen, ho]

theorem finishOpen_of_none {a : Nat} (ho : ∀ o ∈ s.tables.open2, o.addr ≠ a) : finishOpen s a = s := by
  have hnone : s.tables.open2.find? (·.addr = a) = none := by simpa using ho
  rw [finishOpen, hnone]

theorem exec_updateSecondWrite (s : State) (a : Nat) : exec (.updateSecondWrite a) s = .next (finishOpen s a) := rfl

/-! ### The renewal pass -/

/-- A renewal pass that has come to an address, or to its end. -/
def renewalAt (u : State) (unit step : Nat) (a : Option Nat) : State :=
  setTables u fun t =>
    { t with renewal := match a with
        | some a => t.renewal.map fun r => if r.1 = unit then (unit, step, a) else r
        | none => t.renewal.filter fun r => r.1 != unit }

theorem exec_stampRenewal {unit step pos : Nat} (hr : s.tables.renewal.find? (fun r => r.1 = unit) = some (unit, step, pos)) (count : Nat) :
    exec (.stampRenewal unit count) s =
      .next (renewalAt (renewRecords s step ((unitRecords s unit).filter fun r => pos ≤ r.1) count).1 unit step
        (renewRecords s step ((unitRecords s unit).filter fun r => pos ≤ r.1) count).2) := by
  change execStampRenewal unit count s = _
  rw [execStampRenewal, hr]
  rfl

theorem exec_stampRenewal_of_none {unit : Nat} (hr : ∀ r ∈ s.tables.renewal, r.1 ≠ unit) (count : Nat) :
    exec (.stampRenewal unit count) s = .next s := by
  change execStampRenewal unit count s = _
  have hnone : (s.tables.renewal.find? fun r => r.1 = unit) = none := by simpa using hr
  rw [execStampRenewal, hnone]

section Records
variable {step a v n : Nat} {rest : List (Nat × TableDesc × Nat × RowKey)}

theorem renewRecords_ok {u : State} {bs : List Byte} (hc : copyless s d.twinned step = false)
    (hr : readyRecord s d v key step true = .ok u bs) :
    renewRecords s step ((a, d, v, key) :: rest) (n + 1) = renewRecords (renewRecord u d v key bs step) step rest n := by
  simp [renewRecords, hc, hr]

theorem renewRecords_wait {u : State} (hc : copyless s d.twinned step = false) (hr : readyRecord s d v key step true = .wait u) :
    renewRecords s step ((a, d, v, key) :: rest) (n + 1) = (u, some a) := by
  simp [renewRecords, hc, hr]

theorem renewRecords_zero : renewRecords s step rest 0 = (s, rest.head?.map (·.1)) := by
  cases rest <;> rfl

end Records

theorem renewRecord_renewable {u : State} {v step : Nat} {bs : List Byte} (hr : renewable d bs step = true) : ∃ state weights,
    renewRecord u d v key bs step = firstWrite u d v key (renewedBytes u d bs step) state weights (step % 2 ^ 24) true := by
  unfold renewRecord
  rw [if_neg (by simp [hr])]
  exact ⟨_, _, rfl⟩

/-- Settles O37: the first writes by `updateRecord_cases` and `updateTile_writes`, the second by `secondWrite_of_quiet`, the renewal
pass by the equations of `renewRecords`. -/
theorem updatesTakeTwoWrites : Obligations.UpdatesTakeTwoWrites := by
  unfold Obligations.UpdatesTakeTwoWrites
  intro s
  refine ⟨fun d pr p bs t unit ht hu => ?_, fun d i pt p t ht => ?_, fun addr o ho => ⟨fun hq => ?_, fun hh => ?_⟩, fun addr ho => ?_,
    fun unit count hr => ?_, fun unit step pos left hr hl => ⟨fun he count => ?_, fun a d v key rest he hc => ⟨fun u bs x hready hx => ?_,
      fun u count hready => ?_⟩⟩⟩
  · subst hu
    rcases updateRecord_cases s d pr p bs with ⟨key, f, he⟩ | ⟨state, weights, key, f, he⟩
    · rw [ht, he]
      exact .inl ⟨mem_setStat .., open2_setStat .., (setStat_only ..).trans rfl, sameRegs_skippedRecord _ _ _ _, field_skippedRecord ..⟩
    · obtain ⟨o, hmem, hopen, haddr, hw, hck, -⟩ := firstWrite_writes s d pr.slot pr.key bs state weights (pr.step % 2 ^ 24) false
      rw [ht, he]
      exact .inr ⟨state, o, (mem_setStat ..).trans hmem, (open2_setStat ..).trans hopen, haddr, hw, hck⟩
  · rw [ht]
    exact updateTile_writes s d i pt p
  · obtain ⟨hmem, htab, hhif, hcol⟩ := secondWrite_of_quiet hq o
    refine ⟨_, exec_updateSecondWrite s addr, ?_⟩
    rw [finishOpen_found ho, writeHeld_of_quiet hq.1, if_neg Bool.false_ne_true]
    exact ⟨hmem.trans (secondBytes_of_quiet hq o).1, htab, hhif, hcol⟩
  · exact ⟨_, exec_updateSecondWrite s addr, (finishOpen_found ho).trans (if_pos hh)⟩
  · exact ⟨_, exec_updateSecondWrite s addr, finishOpen_of_none ho⟩
  · exact ⟨_, exec_stampRenewal_of_none hr count, rfl⟩
  · refine ⟨_, exec_stampRenewal hr count, ?_⟩
    rw [← hl, he]
    rfl
  · have hrun := exec_stampRenewal hr 1
    rw [← hl, he, renewRecords_ok hc hready, renewRecords_zero, ← hx] at hrun
    refine ⟨_, hrun, ?_, fun hn => ?_, fun hn => ?_⟩
    · cases rest <;> rfl
    · rw [hx, renewRecord, if_pos (by simp [hn])]
    · obtain ⟨state, weights, hw⟩ := renewRecord_renewable (u := u) (v := v) (key := key) hn
      obtain ⟨o, hmem, hopen, haddr, -, -, hren⟩ := firstWrite_writes u d v key (renewedBytes u d bs step) state weights (step % 2 ^ 24) true
      rw [hx, hw]
      exact ⟨state, o, _, rfl, hmem, hopen, haddr, hren⟩
  · have hrun := exec_stampRenewal hr (count + 1)
    rw [← hl, he, renewRecords_wait hc hready] at hrun
    exact ⟨_, hrun, rfl⟩

end Sys2Proof.Proofs
end

section
/-! Reduced gradient tiles (O38). -/

namespace Sys2Proof.Proofs

open Sys2Proof Sys2Proof.Machine Sys2Proof.Laws

variable {s u : State} {h : MsgHdr} {d : ShardDesc} {pt : PendTile} {i : Nat}

theorem exec_reducedGradientTile (h : MsgHdr) (line depth : Nat) (elems : List Nat) (s : State) :
    exec (.reducedGradientTile h line depth elems) s =
      .next (receive s h fun s => applyTile s { hdr := h, line := line, depth := depth, elems := elems }) := rfl

theorem readItem_of_quiet (hq : Quiet s) (hw : s.twin.waits = []) (a n step : Nat) (twinned byUpdate : Bool) :
    readItem s a n step twinned byUpdate false = .ok (devRead s a n) := by
  obtain ⟨hret, hbad, hdead⟩ := hq
  simp [readItem, readParts, hw, memWaits, hret, badSector_of_quiet hbad hdead]

theorem scaleRead_of_quiet (hq : Quiet s) (hw : s.twin.waits = []) (tensor step : Nat) : ∃ bs, scaleRead s tensor step = .ok bs := by
  unfold scaleRead
  split_ifs
  · exact ⟨_, rfl⟩
  · exact ⟨_, readItem_of_quiet hq hw ..⟩

theorem applyTile_noShard (hd : mget s.tables.shards pt.hdr.tensorId = none) : applyTile s pt = countTile s pt.hdr.step := by
  unfold applyTile
  rw [hd]

section Local
variable (hd : mget s.tables.shards pt.hdr.tensorId = some d)
include hd

theorem applyTile_noTile (hf : findTile s d pt.line pt.depth = none) : applyTile s pt = countTile s pt.hdr.step := by
  unfold applyTile
  dsimp only
  rw [hd]
  dsimp only
  rw [hf]

variable (hf : findTile s d pt.line pt.depth = some i) (hopen : ∀ o ∈ s.tables.open2, o.addr ≠ d.weightBase + i * d.weightStride)
  (hu : u = startDomain s (domUpd (memOf s.part (d.weightBase + i * d.weightStride))))
include hf hopen hu

theorem applyTile_idle (hidle : d.optimiser = 0 ∨ copyless u d.twinned pt.hdr.step = true) : applyTile s pt = countTile u pt.hdr.step := by
  unfold applyTile
  dsimp only
  rw [hd]
  dsimp only
  rw [hf]
  dsimp only
  rw [finishOpen_of_none (s := startDomain s _) hopen, ← hu, if_pos (by rcases hidle with h | h <;> simp [h])]

variable (hopt : d.optimiser ≠ 0) (hcopy : copyless u d.twinned pt.hdr.step = false)
include hopt hcopy

theorem applyTile_torn (ht : d.weightBase + i * d.weightStride ∈ s.tables.torn) :
    applyTile s pt = countTile (bump u .upd (memOf s.part (d.weightBase + i * d.weightStride)) 0x120 0 16 1) pt.hdr.step := by
  have ht' : u.tables.torn.contains (d.weightBase + i * d.weightStride) = true := by
    rw [hu]
    exact List.contains_iff_mem.mpr ht
  unfold applyTile
  dsimp only
  rw [hd]
  dsimp only
  rw [hf]
  dsimp only
  rw [finishOpen_of_none (s := startDomain s _) hopen, ← hu, if_neg (by simp [hopt, hcopy]), if_pos ht']

variable (ht : d.weightBase + i * d.weightStride ∉ s.tables.torn)
include ht

theorem applyTile_held (hheld : tileHeld u pt = true) : applyTile s pt = setTables u fun x =>
    { x with pendTiles := x.pendTiles ++ [{ pt with unit := memOf s.part (d.weightBase + i * d.weightStride) }] } := by
  have ht' : u.tables.torn.contains (d.weightBase + i * d.weightStride) = false := by
    rw [hu]
    exact Bool.eq_false_iff.mpr fun h => ht (List.contains_iff_mem.mp h)
  unfold applyTile
  dsimp only
  rw [hd]
  dsimp only
  rw [hf]
  dsimp only
  rw [finishOpen_of_none (s := startDomain s _) hopen, ← hu, if_neg (by simp [hopt, hcopy]), ht', if_neg Bool.false_ne_true,
    if_pos (by simp [hheld])]

theorem applyTile_sound (hheld : tileHeld u pt = false) (hrep : s.twin.repairs = []) (hw : s.twin.waits = []) (hq : Quiet u)
    (hp : ¬(d.twinned = true ∧ s.twin.pair = .enrollingTarget)) (htorn : pairTorn u d i = false) :
    applyTile s pt = countTile (rewriteTile u d i pt) pt.hdr.step := by
  have ht' : u.tables.torn.contains (d.weightBase + i * d.weightStride) = false := by
    rw [hu]
    exact Bool.eq_false_iff.mpr fun h => ht (List.contains_iff_mem.mp h)
  have htwin : u.twin = s.twin := by rw [hu, startDomain]
  have hstill : stillOpen u (d.weightBase + i * d.weightStride) = false := by
    rw [hu, stillOpen]
    simpa [startDomain] using hopen
  have hrepair (a n : Nat) : repairHolds u a n = false := by simp [repairHolds, htwin, hrep]
  have hwaits : u.twin.waits = [] := htwin ▸ hw
  obtain ⟨x, hscale⟩ := scaleRead_of_quiet hq hwaits pt.hdr.tensorId pt.hdr.step
  unfold applyTile
  dsimp only
  rw [hd]
  dsimp only
  rw [hf]
  dsimp only
  rw [finishOpen_of_none (s := startDomain s _) hopen, ← hu, if_neg (by simp [hopt, hcopy]), ht', if_neg Bool.false_ne_true,
    if_neg (by simpa [hstill, hrepair, hheld, htwin] using hp), hscale]
  dsimp only
  rw [readItem_of_quiet hq hwaits, readItem_of_quiet hq hwaits]
  dsimp only
  rw [if_pos (by simp [htorn])]

end Local

/-- Settles O38: each case of `applyTile` on the state in which the tile is taken. -/
theorem reducedTilesAreAppliedOnce : Obligations.ReducedTilesAreAppliedOnce := by
  unfold Obligations.ReducedTilesAreAppliedOnce
  intro h line depth elems s n ha hn
  subst hn
  have htab := tables_noted s h
  have hrun {e : State} (he : applyTile (noted s h) { hdr := h, line := line, depth := depth, elems := elems } = e) :
      Takes (.reducedGradientTile h line depth elems) s h fun x => x = e := takes_eq ha (exec_reducedGradientTile ..) he
  refine ⟨fun hd => hrun (applyTile_noShard (htab ▸ hd)), fun d hd => ?_⟩
  have hd' : mget (noted s h).tables.shards h.tensorId = some d := htab ▸ hd
  refine ⟨fun hf => hrun (applyTile_noTile hd' hf), fun i wa unit u pt hf hwa hunit hopen hu hpt => ?_⟩
  subst hwa
  have hpart : unit = memOf (noted s h).part (d.weightBase + i * d.weightStride) := hunit.trans (by rw [part_noted])
  have hopen' : ∀ o ∈ (noted s h).tables.open2, o.addr ≠ d.weightBase + i * d.weightStride := htab ▸ hopen
  rw [hpart] at hu ⊢
  have hut : u.tables = s.tables := by rw [hu]; exact htab
  refine ⟨fun hidle => hrun (applyTile_idle hd' hf hopen' hu hidle), fun hopt hcopy => ⟨fun ht => ?_, fun ht hheld => ?_,
    fun ht hheld hrep hw hq hp htorn => ?_⟩⟩
  · exact hrun (applyTile_torn hd' hf hopen' hu hopt hcopy (htab ▸ ht))
  · subst hpt
    exact hrun (applyTile_held hd' hf hopen' hu hopt hcopy (htab ▸ ht) hheld)
  · subst hpt
    have hsound := applyTile_sound hd' hf hopen' hu hopt hcopy (htab ▸ ht) hheld ((twin_noted s h).symm ▸ hrep)
      ((twin_noted s h).symm ▸ hw) hq ((twin_noted s h).symm ▸ hp) htorn
    refine ⟨fun hst => hrun (hsound.trans ?_), fun hst p hpar => hrun (hsound.trans ?_)⟩
    · have hpartu : u.part = (noted s h).part := by rw [hu, startDomain]
      unfold rewriteTile
      rw [if_pos hst, skipStep, hpartu]
    · have hpar' : paramsFor u d.tensor h.step = some p := by rw [paramsFor, hut]; exact hpar
      unfold rewriteTile
      rw [if_neg hst]
      dsimp only
      rw [hpar']

end Sys2Proof.Proofs
end

section
/-! Shards, outlier lists and the answers of the rules (O39): a map of staged tables that lists one table twice. -/

namespace Sys2Proof.Proofs

open Sys2Proof Sys2Proof.Machine Sys2Proof.Laws

variable {s t u : State} {d : TableDesc} {key : RowKey}

/-! ### What reading a record changes of the tables -/

/-- Of the tables, only what a read of a record may change differs. -/
def TablesRead (s t : State) : Prop :=
  t.tables = { s.tables with open2 := t.tables.open2, torn := t.tables.torn, batches := t.tables.batches }

theorem TablesRead.trans {a b c : State} (h : TablesRead a b) (g : TablesRead b c) : TablesRead a c := by
  unfold TablesRead at *
  rw [g, h]

theorem tablesRead_of_eq (h : t.tables = s.tables) : TablesRead s t := by
  unfold TablesRead
  rw [h]

theorem tablesRead_sent (h : Sent s t) : TablesRead s t := tablesRead_of_eq h.tables_eq

theorem tablesRead_rings (h : RingsOnly s t) : TablesRead s t := tablesRead_of_eq ((congrArg State.tables h.rest).trans rfl)

theorem tablesRead_unitWrite (s : State) (a : Nat) (bs : List Byte) : TablesRead s (unitWrite s a bs) := by
  unfold unitWrite
  split
  · exact tablesRead_rings (ringsOnly_noteUE s _)
  · exact tablesRead_of_eq rfl

theorem tablesRead_secondBytes (s : State) (o : Open2) : TablesRead s (secondBytes s o) := by
  unfold secondBytes
  dsimp only
  split
  · exact tablesRead_unitWrite ..
  · exact (tablesRead_unitWrite ..).trans (tablesRead_unitWrite ..)

theorem tablesRead_secondWrite (s : State) (o : Open2) : TablesRead s (secondWrite s o) := by
  have hforward (x : State) : TablesRead x (sendForward (progress (setTables x fun t =>
      { t with open2 := t.open2.filter (· != o) }) .upd o.unit 1) none) :=
    TablesRead.trans (b := progress (setTables x fun t => { t with open2 := t.open2.filter (· != o) }) .upd o.unit 1) rfl
      (tablesRead_of_eq (sendForward_frame _ none).2.1)
  have hwrite : secondWrite s o =
      if o.renewal then sendForward (progress (setTables (secondBytes s o) fun t => { t with open2 := t.open2.filter (· != o) }) .upd o.unit 1) none
      else if o.isTile then bump (sendForward (progress (setTables (secondBytes s o) fun t =>
        { t with open2 := t.open2.filter (· != o) }) .upd o.unit 1) none) .upd o.unit 0x110 0 32 1
      else bump64 (sendForward (progress (setTables (secondBytes s o) fun t =>
        { t with open2 := t.open2.filter (· != o) }) .upd o.unit 1) none) .upd o.unit 0x108 1 := rfl
  have hall := (tablesRead_secondBytes s o).trans (hforward _)
  rw [hwrite]
  split_ifs <;> exact hall

theorem tablesRead_finishOpen (s : State) (a : Nat) : TablesRead s (finishOpen s a) := by
  unfold finishOpen
  split
  · exact tablesRead_of_eq rfl
  · split
    · exact tablesRead_of_eq rfl
    · exact tablesRead_secondWrite ..

theorem tablesRead_requestItem (s : State) (addr n step : Nat) (byUpdate torn : Bool) :
    TablesRead s (requestItem s addr n step byUpdate torn) := by
  unfold requestItem sendTwin
  split
  · exact tablesRead_of_eq rfl
  · exact TablesRead.trans (b := setTwin s fun t => { t with waits := t.waits ++ [⟨addr, n, byUpdate, torn, false⟩] })
      (tablesRead_of_eq rfl) (tablesRead_sent (sent_send ..))

/-- The state that a read leaves. -/
def afterRead (s : State) : ItemRead → State
  | .ok _ => s
  | .wait t => t
  | .fail t _ => t

theorem tablesRead_readParts (s : State) (addr n step : Nat) (parts : List (Nat × Nat)) (twinned byUpdate corrupt : Bool) :
    TablesRead s (afterRead s (readParts s addr n step parts twinned byUpdate corrupt)) := by
  have hnote (a : Nat) : TablesRead s (noteUE s a) := tablesRead_rings (ringsOnly_noteUE s a)
  have hfetch (x : Nat) : TablesRead s (afterRead s (if s.twin.waits.any (·.addr = addr) then ItemRead.wait s
      else .wait (requestItem (noteUE s x) addr n step byUpdate false))) := by
    split
    · exact tablesRead_of_eq rfl
    · exact (hnote x).trans (tablesRead_requestItem ..)
  unfold readParts
  dsimp only
  split
  · exact tablesRead_of_eq rfl
  split
  · exact tablesRead_of_eq rfl
  split
  · split
    · exact hfetch _
    · exact hnote _
  · split
    · exact tablesRead_of_eq rfl
    · split
      · exact hfetch _
      · exact hnote _

/-- The state in which a record is made ready. -/
def afterReady : Ready → State
  | .ok t _ => t
  | .wait t => t
  | .gone t _ => t

theorem tablesRead_writeRecord (s : State) (d : TableDesc) (v : Nat) (key : RowKey) (bs : List Byte) :
    TablesRead s (writeRecord s d v key bs) := by
  unfold writeRecord
  dsimp only
  exact TablesRead.trans (b := unitWrite (devWrite s (recordAddr d v key) (padTo d.stride (bs.take (recordLength d)))) (checkAddr d v key)
    (leBytes 4 (crc32c (bs.take (recordLength d))))) (TablesRead.trans (tablesRead_of_eq rfl) (tablesRead_unitWrite ..)) rfl

theorem tablesRead_post (s : State) (b : Blk) (i code : Nat) (items : List Nat) : TablesRead s (post s b i code items) :=
  tablesRead_rings (ringsOnly_post ..)

theorem tablesRead_reportTorn (s : State) (unit addr : Nat) : TablesRead s (reportTorn s unit addr) := by
  unfold reportTorn
  split
  · exact tablesRead_of_eq rfl
  · exact TablesRead.trans (b := bump (setTables s fun t => { t with torn := t.torn ++ [addr] }) .upd unit 0x11C 20 10 1) rfl
      (tablesRead_post ..)

theorem tablesRead_mended (s : State) (unit a : Nat) :
    TablesRead s (progress (post (bump s .upd unit 0x11C 0 10 1) .upd unit 0x0300 [a, 3]) .upd unit 1) := by
  have hbump : TablesRead s (bump s .upd unit 0x11C 0 10 1) := tablesRead_of_eq rfl
  have hpost := hbump.trans (tablesRead_post (bump s .upd unit 0x11C 0 10 1) .upd unit 0x0300 [a, 3])
  exact hpost

theorem tablesRead_repairTorn (s : State) (d : TableDesc) (v : Nat) (key : RowKey) (bs : List Byte) :
    TablesRead s (afterReady (repairTorn s d v key bs)) := by
  unfold repairTorn
  extract_lets a unit asked refused s' step k ws
  have hs' : TablesRead s s' := tablesRead_of_eq rfl
  split
  · exact tablesRead_of_eq rfl
  split
  · split
    · exact tablesRead_of_eq rfl
    · exact tablesRead_requestItem ..
  split
  · exact hs'.trans (tablesRead_reportTorn ..)
  · extract_lets new fa r rec' s1 s2
    have hwrite : TablesRead s' s1 := tablesRead_writeRecord ..
    exact (hs'.trans hwrite).trans (tablesRead_mended s1 unit a)

theorem tablesRead_mendRecord (s : State) (d : TableDesc) (v : Nat) (key : RowKey) (step : Nat) :
    TablesRead s (afterReady (mendRecord s d v key step)) := by
  have hread := tablesRead_readParts s (recordAddr d v key) d.stride step [(recordAddr d v key, d.stride)] d.twinned true false
  unfold mendRecord readItem
  dsimp only
  cases hr : readParts s (recordAddr d v key) d.stride step [(recordAddr d v key, d.stride)] d.twinned true false <;> rw [hr] at hread
  · exact tablesRead_repairTorn ..
  · exact hread
  · exact hread

theorem tablesRead_readyRecord (s : State) (d : TableDesc) (v : Nat) (key : RowKey) (step : Nat) (byUpdate : Bool) :
    TablesRead s (afterReady (readyRecord s d v key step byUpdate)) := by
  unfold readyRecord
  extract_lets a s' read
  have hs' : TablesRead s s' := tablesRead_finishOpen s a
  have hread (corrupt : Bool) : TablesRead s (afterRead s' (read corrupt)) := hs'.trans (tablesRead_readParts ..)
  split
  · exact hs'
  split
  · exact hs'
  split
  · exact (‹read false = _› ▸ hread false :)
  · exact (‹read false = _› ▸ hread false :)
  split
  · split
    · exact (‹read true = _› ▸ hread true :)
    · exact (‹read true = _› ▸ hread true :)
    · exact hs'
  split
  · exact hs'
  split
  · exact hs'.trans (tablesRead_mendRecord ..)
  · exact hs'

/-- The state that the read of a key leaves. -/
def afterKey : KeyRead → State
  | .entry t _ => t
  | .wait t => t

theorem tablesRead_readKey (s : State) (d : TableDesc) (v step : Nat) (key : RowKey) : TablesRead s (afterKey (readKey s d v step key)) := by
  have hready := tablesRead_readyRecord s d v key step false
  unfold readKey
  dsimp only
  cases hr : readyRecord s d v key step false <;> rw [hr] at hready
  · dsimp only
    split
    · exact hready
    · exact hready.trans (tablesRead_of_eq rfl)
  · exact hready
  · exact hready

/-- A key read after others, unless one of them waits. -/
def keyNext (d : TableDesc) (v step : Nat) (acc : State × Option (List ReplyEntry)) (k : RowKey) : State × Option (List ReplyEntry) :=
  match acc.2 with
  | none => acc
  | some es =>
    match readKey acc.1 d v step k with
    | .wait t => (t, none)
    | .entry t e => (t, some (es ++ [e]))

theorem tablesRead_keyNext (d : TableDesc) (v step : Nat) (acc : State × Option (List ReplyEntry)) (k : RowKey) :
    TablesRead acc.1 (keyNext d v step acc k).1 := by
  have hkey := tablesRead_readKey acc.1 d v step k
  unfold keyNext
  split
  · exact tablesRead_of_eq rfl
  · split <;> simpa only [afterKey, *] using hkey

theorem tablesRead_readKeys (s : State) (d : TableDesc) (v step : Nat) (keys : List RowKey) :
    TablesRead s (readKeys s d v step keys).1 := by
  have hfold : readKeys s d v step keys = keys.foldl (keyNext d v step) (s, some []) := rfl
  have hall : ∀ acc : State × Option (List ReplyEntry), TablesRead acc.1 (keys.foldl (keyNext d v step) acc).1 := by
    induction keys with
    | nil => exact fun _ => tablesRead_of_eq rfl
    | cons k keys ih => exact fun acc => (tablesRead_keyNext d v step acc k).trans (ih rfl _)
  rw [hfold]
  exact hall (s, some [])

theorem tablesRead_replyTo (s : State) (h : MsgHdr) (es : List ReplyEntry) : TablesRead s (replyTo s h es) :=
  tablesRead_sent (sent_sendHdr ..)

theorem tablesRead_serveBatch (s : State) (b : HeldBatch) : TablesRead s (serveBatch s b) := by
  unfold serveBatch
  dsimp only
  split
  · exact tablesRead_replyTo ..
  split
  · exact tablesRead_replyTo ..
  split
  · exact rfl
  have hread := fun d v => TablesRead.trans (a := s) (tablesRead_of_eq rfl)
    (tablesRead_readKeys (startDomain s (domEmb (embPage s b.hdr.dstPoint))) d v b.hdr.step b.keys)
  have hreply (t : State) (j : Nat) (es : List ReplyEntry) : TablesRead t (replyTo (progress t .emb j 1) b.hdr es) :=
    TablesRead.trans (b := progress t .emb j 1) (tablesRead_of_eq rfl) (tablesRead_replyTo ..)
  split
  · exact (hread _ _).trans rfl
  · exact (hread _ _).trans (hreply ..)

/-- Serving the held batches leaves the staged tables. -/
theorem staged_serveBatches (s : State) : (serveBatches s).tables.staged = s.tables.staged := by
  have hall (l : List HeldBatch) (s : State) : TablesRead s (l.foldl serveBatch s) := by
    induction l generalizing s with
    | nil => exact tablesRead_of_eq rfl
    | cons b l ih => exact (tablesRead_serveBatch s b).trans (ih _)
  have hserve : serveBatches s = s.tables.batches.foldl serveBatch (setTables s fun t => { t with batches := [] }) := rfl
  have h := hall s.tables.batches (setTables s fun t => { t with batches := [] })
  unfold TablesRead at h
  rw [hserve, h]
  rfl

/-! ### A table staged twice -/

/-- A switch hand of table 7. -/
def switchHand : Hand := ⟨0, pageOf .emb 0, 0, [7]⟩

/-- A module with a switch hand for a table whose map of staged tables lists it twice. -/
def stagedTwice : State :=
  setHif (setTables working fun t => { t with descs := [(7, tableDescOf [])], staged := [(7, 1), (7, 1)] })
    fun h => { h with hands := [switchHand] }

/-- The table after its switch is abandoned: one entry of the map stays. -/
def abandoned : State :=
  markDesc (setTables (setTables (lower stagedTwice switchHand) fun x =>
    { x with frozenSwitch := x.frozenSwitch.filter (· != 7) }) fun x =>
    { x with descs := mmod x.descs 7 fun d => { d with switchStep := noSwitch }, staged := mdel x.staged 7 }) 7 stagedTwice.job.openStep

theorem exec_abandon : exec (.tableSwitchAnswer 0 1) stagedTwice = .next (serveBatches abandoned) := rfl

theorem staged_abandoned : mget abandoned.tables.staged 7 = some 1 := rfl

/-- Refutes O39: answer 0x1 to a table-switch hand deletes the first entry of the staged table, and where a state lists the table twice,
as `stagedTwice` does, the second entry stays, which serving the held batches cannot change. -/
theorem not_shardsListsAndAnswersAreTaken : ¬ Obligations.ShardsListsAndAnswersAreTaken := by
  unfold Obligations.ShardsListsAndAnswersAreTaken
  intro hall
  obtain ⟨-, hanswers⟩ := hall
  obtain ⟨-, hswitch⟩ := hanswers stagedTwice 0 1 _ _ rfl rfl
  obtain ⟨-, habandon, -⟩ := hswitch rfl rfl switchHand 7 rfl rfl
  obtain ⟨t, hrun, u, ht, -, hstaged, -⟩ := habandon rfl (tableDescOf []) rfl
  have hsame : serveBatches abandoned = serveBatches u := (Host.Outcome.next.inj (exec_abandon.symm.trans hrun)).trans ht
  have hkept : abandoned.tables.staged = u.tables.staged := by
    rw [← staged_serveBatches abandoned, hsame, staged_serveBatches]
  rw [← hkept, staged_abandoned] at hstaged
  cases hstaged

end Sys2Proof.Proofs
end

section
/-! Supplies and power-on (O46). -/

namespace Sys2Proof.Proofs

open Sys2Proof Sys2Proof.Machine Sys2Proof.Laws

variable {s t : State} {r : TestReport}

/-! ### Registers that an event writes -/

theorem sameRegs_putEvent (s : State) (e : EventRec) : SameRegs s (putEvent s e) [pageOf .hif 0 + 0x140] := by
  have hlose : SameRegs s (loseEvent s) [pageOf .hif 0 + 0x140] :=
    sameRegs_bump (setHif s fun h => { h with lostNow := h.lostNow + 1 }) .hif 0 0x140 0 32 1
  have hnone {t : State} (h : t.regs = s.regs) : SameRegs s t [pageOf .hif 0 + 0x140] := SameRegs.of_regs h
  unfold putEvent
  split
  · split
    · exact hnone rfl
    · exact hlose
  · split
    · split
      · exact hnone rfl
      · exact hlose
    · split
      · exact hlose
      · exact hnone rfl

/-- An event changes the registers of its count and of the lost events alone. -/
theorem sameRegs_post (s : State) (b : Blk) (i code : Nat) (items : List Nat) :
    SameRegs s (post s b i code items) [regKey s b i 0x18, pageOf .hif 0 + 0x140] := by
  intro k hk
  simp only [List.mem_cons, List.not_mem_nil, or_false, not_or] at hk
  obtain ⟨hpage, hlost⟩ := hk
  have hput := sameRegs_putEvent (setHif (bumpWrap s b i 0x18 1) fun h => { h with eventSeq := h.eventSeq + 1 })
    ⟨s.hif.eventSeq, code, blkType b, i % 256, s.tick % 2 ^ 32, s.job.openStep, items⟩ k (by simpa using hlost)
  exact hput.trans (mget_mput_ne fun e => hpage e.symm)

/-! ### What power-on leaves -/

section Frames

theorem pwr_post (s : State) (b : Blk) (i code : Nat) (items : List Nat) : (post s b i code items).pwr = s.pwr :=
  (congrArg State.pwr (ringsOnly_post s b i code items).rest).trans rfl

theorem boot_post (s : State) (b : Blk) (i code : Nat) (items : List Nat) : (post s b i code items).boot = s.boot :=
  (congrArg State.boot (ringsOnly_post s b i code items).rest).trans rfl

theorem mem_post (s : State) (b : Blk) (i code : Nat) (items : List Nat) : (post s b i code items).mem = s.mem :=
  (congrArg State.mem (ringsOnly_post s b i code items).rest).trans rfl

theorem links_post (s : State) (b : Blk) (i code : Nat) (items : List Nat) : (post s b i code items).links = s.links :=
  (congrArg State.links (ringsOnly_post s b i code items).rest).trans rfl

theorem pwr_bootKind (s : State) (kind : Nat) : (bootKind s kind).1.pwr = s.pwr := by
  have hpost (f : Nat) (x : State) : (post x .sec 0 0x0A00 [kind, b2n (currentSlot s kind), f]).pwr = x.pwr := pwr_post ..
  unfold bootKind
  dsimp only
  split
  · rfl
  · split
    · exact hpost _ (setField (bump s .sec 0 0x10C 0 16 1) .sec 0 0x100 2 1 1)
    · exact hpost _ (setField (bump s .sec 0 0x10C 0 16 1) .sec 0 0x100 2 1 1)

theorem pwr_checkIdentity (s : State) : (checkIdentity s).pwr = s.pwr := by
  unfold checkIdentity
  split_ifs
  · rfl
  · rfl
  · exact pwr_post ..

theorem pwr_bootManagement (s : State) : (bootManagement s).1.pwr = s.pwr := by
  have hboot : (bootKind (setField s .sec 0 0x100 2 1 0) 1).1.pwr = s.pwr := pwr_bootKind ..
  unfold bootManagement
  dsimp only
  split
  · exact (pwr_checkIdentity _).trans hboot
  · exact hboot

theorem pwr_lbistFail (s : State) (ty i sig : Nat) : (lbistFail s ty i sig).pwr = s.pwr := by
  have hpost : (post s .tst 0 0x0902 [ty, i, sig % 2 ^ 32]).pwr = s.pwr := pwr_post ..
  unfold lbistFail
  dsimp only
  split
  · exact hpost
  · exact hpost

theorem pwr_latchRow (s : State) (c : Nat) : (latchRow s c).pwr = s.pwr := by
  unfold latchRow
  dsimp only
  split <;> rfl

theorem pwr_showTested (s : State) : (showTested s).pwr = s.pwr := by
  unfold showTested
  extract_lets s1
  have h1 : s1.pwr = s.pwr := foldl_keeps (g := State.pwr) (fun _ _ => by rfl) _ s
  exact (foldl_keeps (g := State.pwr) (fun _ _ => by rfl) _ s1).trans h1

/-- The unit that fails its roll call or its test. -/
def failUnit (r : TestReport) (t : State) (u : Nat × Nat) : State :=
  let d := drawFree (if (brokenUnits r).contains u then post t .tst 0 0x0901 [u.1, u.2] else t)
  lbistFail d.1 u.1 u.2 d.2

theorem pwr_failUnit (r : TestReport) (t : State) (u : Nat × Nat) : (failUnit r t u).pwr = t.pwr := by
  unfold failUnit
  dsimp only
  rw [pwr_lbistFail]
  change (if (brokenUnits r).contains u then post t .tst 0 0x0901 [u.1, u.2] else t).pwr = _
  split
  · exact pwr_post ..
  · rfl

/-- A row repaired from the spare rows. -/
def softRepair (t : State) (e : Nat × Nat) : State :=
  setBoot (post (latchRow t e.1) .tst 0 0x0903 [e.2]) fun b =>
    { b with softRepairs := mput b.softRepairs e.1 ((mget b.softRepairs e.1).getD 0 + e.2) }

theorem pwr_softRepair (t : State) (e : Nat × Nat) : (softRepair t e).pwr = t.pwr :=
  (pwr_post (latchRow t e.1) .tst 0 0x0903 [e.2]).trans (pwr_latchRow t e.1)

theorem pwr_selfTest (s : State) (r : TestReport) : (selfTest s r).pwr = s.pwr := by
  unfold selfTest
  extract_lets s1 s2 s3 s4
  have h1 : s1.pwr = s.pwr := (foldl_keeps (g := State.pwr) (pwr_failUnit r) r.unitFail _).trans (pwr_showTested s)
  have h2 : s2.pwr = s1.pwr := foldl_keeps (g := State.pwr) (fun _ _ => pwr_lbistFail ..) _ _
  have h3 : s3.pwr = s2.pwr := foldl_keeps (g := State.pwr)
    (fun t c => (pwr_post (latchRow t c) .tst 0 0x0904 []).trans (pwr_latchRow t c)) _ _
  have h4 : s4.pwr = s3.pwr := foldl_keeps (g := State.pwr) (pwr_softRepair) r.softRepairs s3
  have h5 (l : List Nat) : (l.foldl showRepairs s4).pwr = s4.pwr := foldl_keeps (g := State.pwr) (fun _ _ => by rfl) l s4
  rw [h5, h4, h3, h2, h1]

theorem announceAbsent_frame (s : State) (n failed : Nat) :
    (announceAbsent s n failed).pwr = s.pwr ∧ (announceAbsent s n failed).boot = s.boot :=
  ⟨pwr_post s .rel 0 0x0807 [n, failed], boot_post s .rel 0 0x0807 [n, failed]⟩

theorem pwr_buildChart (s : State) (r : TestReport) : (buildChart s r).pwr = s.pwr := by
  unfold buildChart
  extract_lets s1
  exact foldl_keeps (g := State.pwr) (fun _ _ => (announceAbsent_frame ..).1) _ s1

/-- A core that does not take its firmware. -/
def unload (q : State × List (Nat × Nat)) (p : Nat) : State × List (Nat × Nat) :=
  match mget q.1.cores.seats p with
  | some (.seated n) => (post (setSeat q.1 p .outOfService) .tst 0 0x090A [], q.2 ++ [(n, p)])
  | some .reserve => (post (setSeat q.1 p .outOfService) .tst 0 0x090A [], q.2)
  | _ => q

theorem unload_frame (q : State × List (Nat × Nat)) (p : Nat) : (unload q p).1.pwr = q.1.pwr ∧ (unload q p).1.boot = q.1.boot := by
  have hpost : (post (setSeat q.1 p .outOfService) .tst 0 0x090A []).pwr = q.1.pwr ∧
      (post (setSeat q.1 p .outOfService) .tst 0 0x090A []).boot = q.1.boot := ⟨pwr_post .., boot_post ..⟩
  unfold unload
  split
  · exact hpost
  · exact hpost
  · exact ⟨rfl, rfl⟩

theorem dropUnloaded_frame (s : State) (r : TestReport) :
    (dropUnloaded s r).1.pwr = s.pwr ∧ (dropUnloaded s r).1.boot = s.boot := by
  have hall (l : List Nat) (q : State × List (Nat × Nat)) : (l.foldl unload q).1.pwr = q.1.pwr ∧ (l.foldl unload q).1.boot = q.1.boot := by
    induction l generalizing q with
    | nil => exact ⟨rfl, rfl⟩
    | cons p l ih => exact ⟨(ih _).1.trans (unload_frame q p).1, (ih _).2.trans (unload_frame q p).2⟩
  exact hall (sortBy id r.firmwareFail) (s, [])

/-- A number whose core did not load. -/
def reseat (t : State) (e : Nat × Nat) : State :=
  match substituteFor t e.1 with
  | some p => setSeat t p (.seated e.1)
  | none => announceAbsent t e.1 e.2

theorem reseat_frame (t : State) (e : Nat × Nat) : (reseat t e).pwr = t.pwr ∧ (reseat t e).boot = t.boot := by
  unfold reseat
  split
  · exact ⟨rfl, rfl⟩
  · exact announceAbsent_frame ..

theorem loadCores_frame (s : State) (r : TestReport) : (loadCores s r).pwr = s.pwr ∧ (loadCores s r).boot = s.boot := by
  have hload : loadCores s r = (dropUnloaded s r).2.foldl reseat (dropUnloaded s r).1 := rfl
  rw [hload]
  exact ⟨(foldl_keeps (g := State.pwr) (fun t e => (reseat_frame t e).1) _ _).trans (dropUnloaded_frame s r).1,
    (foldl_keeps (g := State.boot) (fun t e => (reseat_frame t e).2) _ _).trans (dropUnloaded_frame s r).2⟩

theorem trainMemory_frame (s : State) (r : TestReport) :
    (trainMemory s r).pwr = s.pwr ∧ (trainMemory s r).boot = s.boot ∧ (trainMemory s r).links = s.links := by
  unfold trainMemory
  extract_lets rates
  exact ⟨foldl_keeps (g := State.pwr) (fun _ _ => pwr_post ..) _ _, foldl_keeps (g := State.boot) (fun _ _ => boot_post ..) _ _,
    foldl_keeps (g := State.links) (fun _ _ => links_post ..) _ _⟩

/-- A sector that its zero-fill does not read back. -/
def sweepFail (t : State) (a : Nat) : State :=
  let t1 := if kept t .tst 0 0x114 = 0 then setPair64 t .tst 0 0x118 a else t
  post (bump t1 .tst 0 0x114 0 32 1) .tst 0 0x0905 [a]

theorem ringsOnly_sweepFail (t : State) (a : Nat) : RingsOnly t (sweepFail t a) := by
  have hlatch : RingsOnly t (if kept t .tst 0 0x114 = 0 then setPair64 t .tst 0 0x118 a else t) := by
    split
    · exact (ringsOnly_setReg ..).trans (ringsOnly_setReg ..)
    · exact .refl t
  exact (hlatch.trans (ringsOnly_setReg ..)).trans (ringsOnly_post ..)

theorem zeroFill_frame (s : State) (r : TestReport) : (zeroFill s r).pwr = s.pwr ∧ (zeroFill s r).boot = s.boot ∧
    (zeroFill s r).links = s.links ∧ (zeroFill s r).mem = [] := by
  have hrings (l : List Nat) (t : State) : RingsOnly t (l.foldl sweepFail t) := by
    induction l generalizing t with
    | nil => exact .refl t
    | cons a l ih => exact (ringsOnly_sweepFail t a).trans (ih _)
  have h := hrings r.sweepFail (setGddr { s with mem := [] } fun g => { g with badSectors := r.sweepFail.foldl insertNat [], marks := [] })
  unfold zeroFill
  dsimp only
  split
  · exact ⟨rfl, rfl, rfl, rfl⟩
  · exact ⟨(congrArg State.pwr h.rest).trans rfl, (congrArg State.boot h.rest).trans rfl, (congrArg State.links h.rest).trans rfl,
      (congrArg State.mem h.rest).trans rfl⟩

end Frames

/-! ### The end of power-on -/

/-- TST_STAT of a power-on that has ended. -/
def endedStat (s : State) (r : TestReport) : State :=
  setReg (setReg s .tst 0 0x100 (9 * 2 ^ 24 + b2n s.boot.failed * 4 + 1)) .tst 0 0x110 (satN 32 (r.durationTicks / 25000))

theorem bootStep_endedStat (s : State) (r : TestReport) : bootStep (endedStat s r) = 9 := by
  have hkept : kept (endedStat s r) .tst 0 0x100 = 9 * 2 ^ 24 + b2n s.boot.failed * 4 + 1 := by
    unfold endedStat
    rw [kept_setReg_of_ne (by simp [regKey]), kept_setReg]
    cases s.boot.failed <;> rfl
  unfold bootStep field
  rw [hkept]
  cases s.boot.failed <;> rfl

theorem bootStep_congr (h : mget t.regs (pageOf .tst 0 + 0x100) = mget s.regs (pageOf .tst 0 + 0x100)) : bootStep t = bootStep s := by
  have hkept : kept t .tst 0 0x100 = kept s .tst 0 0x100 := by
    change (match mget t.regs (pageOf .tst 0 + 0x100) with | some v => v.toNat | none => resetReg .tst 0 0x100) = _
    rw [h]
    rfl
  unfold bootStep field
  rw [hkept]

theorem finishPowerOn_frame (s : State) (r : TestReport) : bootStep (finishPowerOn s r) = 9 ∧ (finishPowerOn s r).boot = s.boot ∧
    (finishPowerOn s r).mem = s.mem ∧ (finishPowerOn s r).links = s.links ∧ (finishPowerOn s r).pwr.mainPg = s.pwr.mainPg := by
  unfold finishPowerOn
  extract_lets seated subs s1 s2 hif s3
  refine ⟨?_, boot_post .., mem_post .., links_post .., ?_⟩
  · rw [bootStep_congr (sameRegs_post s3 .tst 0 0x0900 [r.durationTicks, seated, subs] _ (by simp [regKey, pageOf, blkBase]))]
    exact bootStep_endedStat s r
  · rw [pwr_post]
    rfl

/-! ### The inputs of the supplies -/

theorem bootStep_setReg (s : State) (v : Nat) : bootStep (setReg s .tst 0 0x100 v) = v % 2 ^ 32 / 2 ^ 24 % 2 ^ 4 := by
  unfold bootStep field
  rw [kept_setReg]
  rfl

theorem exec_mainPgAsserted (ha : s.pwr.auxGood = true) (hm : s.pwr.mainPg = false) (r : TestReport) :
    exec (.mainPgAsserted r) s = .next (continueBoot (setPwr s fun p => { p with mainPg := true }) r) := by
  change execMainPgAsserted r s = _
  simp [execMainPgAsserted, ha, hm]

/-- The state in which MAIN_PG starts power-on. -/
def starting (s : State) : State := { s with pwr := { s.pwr with mainPg := true, braked := s.pwr.pwrbrk } }

theorem continueBoot_runs (hb : bootStep s = 2) (hp : s.pwr.perst = false) (hs : s.boot.stopped = false) (ht : s.pwr.tripped = false)
    (r : TestReport) : continueBoot (setPwr s fun p => { p with mainPg := true }) r =
      if !(bootManagement (starting s)).2 then stopBoot (bootManagement (starting s)).1
      else
        let s1 := selfTest (bootManagement (starting s)).1 r
        if !(brokenUnits r).isEmpty then finishPowerOn (enterFailed s1) r
        else
          let k := bootKind (buildChart s1 r) 2
          if !k.2 then finishPowerOn (enterFailed k.1) r
          else finishPowerOn (zeroFill (trainMemory (trainLinks (loadCores k.1 r) r) r) r) r := by
  have hb' : bootStep (setPwr s fun p => { p with mainPg := true }) = 2 := hb
  unfold continueBoot
  rw [hb', if_pos (by simp [setPwr, hp, hs, ht])]
  rfl

theorem continueBoot_waits (h : bootStep s ≠ 2 ∨ s.pwr.perst = true ∨ s.boot.stopped = true ∨ s.pwr.tripped = true) (r : TestReport) :
    continueBoot (setPwr s fun p => { p with mainPg := true }) r = { s with pwr := { s.pwr with mainPg := true } } := by
  have hb : bootStep (setPwr s fun p => { p with mainPg := true }) = bootStep s := rfl
  unfold continueBoot
  rw [hb, if_neg (by rcases h with h | h | h | h <;> simp [setPwr, h])]
  rfl

/-- The module with its main supply gone. -/
def mainLost (s : State) : State :=
  { powerCut s with
    tick := s.tick
    regs := s.regs.filter fun e => e.1 = pageOf .tst 0 + 0x104 || e.1 = pageOf .pwr 0 + 0x118
    pwr := { (powerCut s).pwr with auxGood := true, perst := s.pwr.perst, pwrbrk := s.pwr.pwrbrk, releasing := s.pwr.releasing }
    boot := { (powerCut s).boot with softRepairs := s.boot.softRepairs, i3cAddress := s.boot.i3cAddress } }

theorem exec_mainPgLost (hm : s.pwr.mainPg = true) : exec .mainPgLost s = .next (if bootStep s = 1
    then stopBoot (setReg (mainLost s) .tst 0 0x100 (2 ^ 24)) else setReg (mainLost s) .tst 0 0x100 (2 * 2 ^ 24)) := by
  change execMainPgLost s = _
  unfold execMainPgLost
  rw [hm]
  rfl

theorem part_booted {u w : State} {b ok : Bool} (hu : bootManagement (starting s) = (u, b))
    (hk : bootKind (buildChart (selfTest u r) r) 2 = (w, ok)) : w.part = s.part := by
  have hmgmt := (keeps_bootManagement (kept_refl (starting s))).part
  have htest := (keeps_bootKind (kind := 2) (keeps_buildChart (r := r) (keeps_selfTest (r := r) (kept_refl u)))).part
  rw [hu] at hmgmt
  rw [hk] at htest
  exact htest.trans hmgmt

theorem links_trainLinks (s : State) (r : TestReport) : (trainLinks s r).links.map (·.1) = List.range (Config.peerLinks s.part) := by
  simp [trainLinks, List.map_map, Function.comp_def]

/-- Settles O46: power-on by `continueBoot_runs` and the frames of its steps, the losses of power by what they leave. -/
theorem suppliesAndPowerOn : Obligations.SuppliesAndPowerOn := by
  unfold Obligations.SuppliesAndPowerOn
  intro s
  refine ⟨fun ha hf => ?_, fun ha hf => ?_, fun ha => ?_, fun r ha hm => ⟨fun hw => ⟨_, exec_mainPgAsserted ha hm r, continueBoot_waits hw r⟩,
    fun hb hp hs ht u b hu => ?_⟩, fun hm => ?_, fun hm => ?_, fun ha => ?_, fun ha => ?_⟩
  · refine ⟨setReg (setPwr s fun p => { p with auxGood := true }) .tst 0 0x100 (2 * 2 ^ 24), ?_, rfl, bootStep_setReg .., rfl, rfl⟩
    change execAuxPowerGood s = _
    have hf' : fusesOk (setPwr s fun p => { p with auxGood := true }) = true := hf
    simp [execAuxPowerGood, ha, hf']
  · refine ⟨stopBoot (setReg (setPwr s fun p => { p with auxGood := true }) .tst 0 0x100 (2 ^ 24)), ?_, rfl, rfl⟩
    change execAuxPowerGood s = _
    have hf' : fusesOk (setPwr s fun p => { p with auxGood := true }) = false := hf
    simp [execAuxPowerGood, ha, hf']
  · refine ⟨s, ?_, rfl⟩
    change execAuxPowerGood s = _
    simp [execAuxPowerGood, ha]
  · have hrun := (exec_mainPgAsserted ha hm r).trans (congrArg _ (continueBoot_runs hb hp hs ht r))
    change bootManagement (starting s) = (u, b) at hu
    have hpower : u.pwr.mainPg = true := by
      have h := pwr_bootManagement (starting s)
      rw [hu] at h
      rw [h]
      rfl
    rw [hu] at hrun
    refine ⟨fun he => ?_, fun he w ok hbr hk => ?_, fun he hbr => ?_⟩
    · subst he
      exact ⟨_, hrun, rfl⟩
    · subst he
      have hwpower : w.pwr.mainPg = true := by
        have h := pwr_bootKind (buildChart (selfTest u r) r) 2
        rw [hk, pwr_buildChart, pwr_selfTest] at h
        rw [h, hpower]
      dsimp only at hrun
      rw [if_neg (by decide), if_neg (by simp [hbr]), hk] at hrun
      dsimp only at hrun
      cases ok with
      | false =>
        rw [if_pos (by decide)] at hrun
        obtain ⟨hstep, hboot, -, -, hmain⟩ := finishPowerOn_frame (enterFailed w) r
        exact ⟨_, hrun, hstep, congrArg Boot.failed hboot, fun h => Bool.noConfusion h, fun h => Bool.noConfusion h, hmain.trans hwpower⟩
      | true =>
        rw [if_neg (by decide)] at hrun
        obtain ⟨hstep, hboot, hmem, hlinks, hmain⟩ := finishPowerOn_frame (zeroFill (trainMemory (trainLinks (loadCores w r) r) r) r) r
        obtain ⟨zpwr, zboot, zlinks, zmem⟩ := zeroFill_frame (trainMemory (trainLinks (loadCores w r) r) r) r
        obtain ⟨tpwr, tboot, tlinks⟩ := trainMemory_frame (trainLinks (loadCores w r) r) r
        obtain ⟨lpwr, lboot⟩ := loadCores_frame w r
        have hpart := (keeps_loadCores (r := r) (kept_refl w)).part.trans (part_booted hu hk)
        refine ⟨_, hrun, hstep, ?_, fun _ => hmem.trans zmem, fun _ => ?_, ?_⟩
        · rw [hboot, zboot, tboot]
          exact congrArg Boot.failed lboot
        · rw [hlinks, zlinks, tlinks, ← hpart]
          exact links_trainLinks ..
        · rw [hmain, zpwr, tpwr]
          exact (congrArg Pwr.mainPg lpwr).trans hwpower
    · subst he
      dsimp only at hrun
      rw [if_neg (by decide), if_pos (by simpa using hbr)] at hrun
      obtain ⟨hstep, hboot, -⟩ := finishPowerOn_frame (enterFailed (selfTest u r)) r
      exact ⟨_, hrun, hstep, congrArg Boot.failed hboot⟩
  · refine ⟨_, exec_mainPgLost hm, ?_⟩
    split
    · exact ⟨rfl, rfl, rfl, rfl, rfl, rfl, rfl, rfl, rfl, rfl, rfl, rfl, rfl, rfl, rfl⟩
    · exact ⟨rfl, rfl, rfl, rfl, rfl, rfl, rfl, rfl, rfl, rfl, rfl, rfl, rfl, rfl, rfl⟩
  · refine ⟨s, ?_, rfl⟩
    change execMainPgLost s = _
    simp [execMainPgLost, hm]
  · refine ⟨powerCut s, ?_, rfl, rfl, rfl, rfl, rfl, rfl, rfl, rfl, rfl⟩
    change execAuxPowerLost s = _
    simp [execAuxPowerLost, ha]
  · refine ⟨s, ?_, rfl⟩
    change execAuxPowerLost s = _
    simp [execAuxPowerLost, ha]

end Sys2Proof.Proofs
end

section
/-! Copies and objects (O53). -/

namespace Sys2Proof.Proofs

open Sys2Proof Sys2Proof.Machine Sys2Proof.Laws

variable {s t : State} {c : HostCmd} {data bs : List Byte} {n : Nat} {src dst : Place}

/-! ### Copies -/

/-- The source of a DMA_COPY. -/
def copySource (c : HostCmd) : Place := if bitOf c.slot.ctl 6 then .device c.slot.operand else .host c.slot.operand

/-- The destination of a DMA_COPY. -/
def copyTarget (c : HostCmd) : Place :=
  if bitOf c.slot.param2 1 then .sram (bitsOf c.slot.param2 16 16) c.slot.param0
  else if bitOf c.slot.param2 0 then .device c.slot.param0 else .host c.slot.param0

/-- A copy carried out, its command ended by what moving the bytes meets. -/
def copyEnded (c : HostCmd) (r : Moved State) : State :=
  match r with
  | .wait t => t
  | .fail t st d0 d1 => finish t c st d0 d1
  | .ok t => done t c

/-- A place in SRAM that a function may name lies inside SRAM. -/
theorem sramOk_of_placeOk (hto : bitOf c.slot.param2 1 = true) (hd : placeOk s c.fn (copyTarget c) n = true) :
    sramOk c.slot.param0 n = true := by
  simp only [copyTarget, hto, if_true, placeOk, Bool.and_eq_true] at hd
  exact hd.2

section Copy
variable (hc : ready s 0x0101 c = true)
include hc

theorem exec_dmaCopy : exec (.dmaCopy c data) s = .next (
    if !placeOk s c.fn (copySource c) c.slot.param1 then refuse s c 0x18
    else if bitOf c.slot.param2 1 && !sramOk c.slot.param0 c.slot.param1 then refuse s c 0x20
    else if !bitOf c.slot.param2 1 && !placeOk s c.fn (copyTarget c) c.slot.param1 then refuse s c 0x20
    else if c.slot.param1 % 64 != 0 then refuse s c 0x28
    else if (bitOf c.slot.param2 1 && bitOf c.slot.param2 0) || !placeOk s c.fn (copyTarget c) c.slot.param1 then refuse s c 0x30
    else copyEnded c (copyBytes s (copySource c) (copyTarget c) c.slot.param1 data)) := by
  change execDmaCopy c data s = _
  rw [execDmaCopy, runCmd_of_ready hc]
  rfl

variable (hs : placeOk s c.fn (copySource c) c.slot.param1 = true)
include hs

theorem exec_dmaCopy_outside (hd : placeOk s c.fn (copyTarget c) c.slot.param1 = false)
    (hsram : bitOf c.slot.param2 1 = true → sramOk c.slot.param0 c.slot.param1 = false) :
    exec (.dmaCopy c data) s = .next (refuse s c 0x20) := by
  rw [exec_dmaCopy hc, hs]
  cases hto : bitOf c.slot.param2 1 with
  | true => simp [hsram hto]
  | false => simp [hd]

variable (hd : placeOk s c.fn (copyTarget c) c.slot.param1 = true)
include hd

theorem exec_dmaCopy_size (hn : c.slot.param1 % 64 ≠ 0) : exec (.dmaCopy c data) s = .next (refuse s c 0x28) := by
  rw [exec_dmaCopy hc, hs, hd]
  cases hto : bitOf c.slot.param2 1 with
  | true => simp [sramOk_of_placeOk hto hd, hn]
  | false => simp [hn]

theorem exec_dmaCopy_both (hn : c.slot.param1 % 64 = 0) (hto : bitOf c.slot.param2 1 = true) (hdev : bitOf c.slot.param2 0 = true) :
    exec (.dmaCopy c data) s = .next (refuse s c 0x30) := by
  rw [exec_dmaCopy hc, hs, hd]
  simp [sramOk_of_placeOk hto hd, hn, hto, hdev]

theorem exec_dmaCopy_copies (hn : c.slot.param1 % 64 = 0) (hone : (bitOf c.slot.param2 1 && bitOf c.slot.param2 0) = false) :
    exec (.dmaCopy c data) s = .next (copyEnded c (copyBytes s (copySource c) (copyTarget c) c.slot.param1 data)) := by
  rw [exec_dmaCopy hc, hs, hd, hone]
  cases hto : bitOf c.slot.param2 1 with
  | true => simp [sramOk_of_placeOk hto hd, hn]
  | false => simp [hn]

end Copy

theorem takeFrom_uncorrectable {a x : Nat} (hw : memWaits s a n = false) (hb : badSector s a n = some x)
    (ht : ((twinItems s).find? fun it => overlaps it.addr it.len x 64) = none) :
    takeFrom s (.device a) n data = .fail (noteUE s x) 0x23 x (ueDetail s) := by
  unfold takeFrom
  dsimp only
  rw [hw, if_neg Bool.false_ne_true, hb]
  dsimp only
  rw [ht]

theorem takeFrom_host {a : Nat} (hup : s.hif.detached = false) : takeFrom s (.host a) n data = .ok (padTo n (data.take n)) := by
  simp [takeFrom, hostAway, hup]

theorem takeFrom_device {a : Nat} (hw : memWaits s a n = false) (hb : badSector s a n = none) (ht : tornIn s a n = none) :
    takeFrom s (.device a) n data = .ok (devRead s a n) := by
  simp [takeFrom, hw, hb, ht]

theorem copyBytes_of_taken (h : takeFrom s src n data = .ok bs) : copyBytes s src dst n data = putAt s dst bs := by
  rw [copyBytes, h]

/-- The bytes that a DMA_COPY moves, from host memory or from device memory. -/
theorem takeFrom_source (hhost : ∀ a, copySource c = .host a → s.hif.detached = false ∧ bs = padTo n (data.take n))
    (hdev : ∀ a, copySource c = .device a → memWaits s a n = false ∧ badSector s a n = none ∧ tornIn s a n = none ∧ bs = devRead s a n) :
    takeFrom s (copySource c) n data = .ok bs := by
  unfold copySource at *
  cases hbit : bitOf c.slot.ctl 6 with
  | true =>
    obtain ⟨hw, hb, ht, he⟩ := hdev c.slot.operand (by rw [hbit]; rfl)
    rw [he]
    exact takeFrom_device hw hb ht
  | false =>
    obtain ⟨hup, he⟩ := hhost c.slot.operand (by rw [hbit]; rfl)
    rw [he]
    exact takeFrom_host hup

/-! ### Objects -/

section Place
variable (hc : ready s 0x0102 c = true) (data)
include hc

/-- A state with an object's entry in its function's table. -/
def withObject (s : State) (c : HostCmd) : State :=
  setGddr s fun g => { g with objects := mput g.objects (objectKey c.fn (leAt (inlineOf c.slot 32) 0 4)) (objectEntry (inlineOf c.slot 32)) }

theorem exec_objectPlace_bad {d0 : Nat} (hf : objectFault s c.fn (inlineOf c.slot 32) = some d0) :
    exec (.objectPlace c data) s = .next (refuse s c d0) := by
  change execObjectPlace c data s = _
  rw [execObjectPlace, runCmd_of_ready hc]
  dsimp only
  rw [hf]

variable (hf : objectFault s c.fn (inlineOf c.slot 32) = none)
include hf

theorem exec_objectPlace_new (hnew : mget s.gddr.objects (objectKey c.fn (leAt (inlineOf c.slot 32) 0 4)) = none) :
    exec (.objectPlace c data) s = .next (if (s.gddr.objects.filter fun e => e.1 / 2 ^ 32 = c.fn).length ≥ 2 ^ 20 then refuse s c condition
      else done (withObject s c) c) := by
  change execObjectPlace c data s = _
  rw [execObjectPlace, runCmd_of_ready hc]
  dsimp only
  rw [hf]
  dsimp only
  rw [hnew]
  rfl

variable {old : List Byte} (hold : mget s.gddr.objects (objectKey c.fn (leAt (inlineOf c.slot 32) 0 4)) = some old)
include hold

theorem exec_objectPlace_stays (hp : placeOf old = placeOf (inlineOf c.slot 32)) :
    exec (.objectPlace c data) s = .next (done (withObject s c) c) := by
  change execObjectPlace c data s = _
  rw [execObjectPlace, runCmd_of_ready hc]
  dsimp only
  rw [hf]
  dsimp only
  rw [hold]
  dsimp only
  rw [if_pos hp]
  rfl

theorem exec_objectPlace_moves (hp : placeOf old ≠ placeOf (inlineOf c.slot 32)) : exec (.objectPlace c data) s =
    .next (match copyBytes s (placeOf old) (placeOf (inlineOf c.slot 32)) (min (leAt old 0x10 8) (leAt (inlineOf c.slot 32) 0x10 8)) data with
      | .wait t => t
      | .fail t st d0 d1 => finish t c st d0 d1
      | .ok t => done (withObject t c) c) := by
  change execObjectPlace c data s = _
  rw [execObjectPlace, runCmd_of_ready hc]
  dsimp only
  rw [hf]
  dsimp only
  rw [hold]
  dsimp only
  rw [if_neg hp]
  rfl

end Place

theorem exec_objectFree (hc : ready s 0x0103 c = true) : exec (.objectFree c) s = .next (
    if (mget s.gddr.objects (objectKey c.fn (c.slot.param0 % 2 ^ 32))).isNone || c.slot.param0 ≥ 2 ^ 32 then refuse s c 0x20
    else done (setGddr s fun g => { g with objects := mdel g.objects (objectKey c.fn (c.slot.param0 % 2 ^ 32)) }) c) := by
  change execObjectFree c s = _
  rw [execObjectFree, runCmd_of_ready hc]

/-- Settles O53: DMA_COPY by its refusals and by `takeFrom_source`, the object commands by the equations of their cases. -/
theorem copiesAndObjectsComplete : Obligations.CopiesAndObjectsComplete := by
  unfold Obligations.CopiesAndObjectsComplete
  refine ⟨fun c data s src dst n core toSram hc hn hcore hto hsrc hdst => ?_, fun c data s bs key hc hbs hkey => ?_, fun c s hc => ?_⟩
  · subst hn hcore hto
    change src = copySource c at hsrc
    change dst = copyTarget c at hdst
    subst hsrc
    subst hdst
    refine ⟨fun hs => ?_, fun hs hd hsram => endsIn_finish (exec_dmaCopy_outside hc hs hd hsram) (by decide), fun hs hd hto hok hn => ?_,
      fun hs hd => ⟨fun hn => endsIn_finish (exec_dmaCopy_size hc hs hd hn) (by decide),
        fun hn hto hdev => endsIn_finish (exec_dmaCopy_both hc hs hd hn hto hdev) (by decide), fun hn hone => ?_⟩⟩
    · exact endsIn_finish (st := 0x12) (d0 := 0x18) (d1 := 0) ((exec_dmaCopy hc).trans (congrArg _ (by rw [hs]; rfl))) (by decide)
    · refine endsIn_finish (st := 0x12) (d0 := 0x30) (d1 := 0) ((exec_dmaCopy hc).trans (congrArg _ ?_)) (by decide)
      simp [hs, hd, hto, hok, hn, refuse]
    · have hrun := exec_dmaCopy_copies (data := data) hc hs hd hn hone
      refine ⟨fun a x ha hw hb ht => ?_, fun bs hhost hdev => ?_⟩
      · rw [ha, copyBytes, takeFrom_uncorrectable hw hb ht] at hrun
        exact endsIn_finish hrun (by decide)
      · rw [copyBytes_of_taken (takeFrom_source hhost hdev)] at hrun
        refine ⟨fun a ha hup => ?_, fun a ha hw hb => ?_, fun a x ha hw hb => ?_, fun k off p ha hp hw => ?_, fun k off ha hp => ?_⟩
        · rw [ha, putAt, hostAway, hup] at hrun
          exact endsIn_done hrun
        · rw [ha, putAt, hw, hb] at hrun
          exact ⟨hostPut s a bs, endsIn_done hrun, rfl, rfl, rfl⟩
        · rw [ha, putAt, hw, hb] at hrun
          exact endsIn_finish hrun (by decide)
        · rw [ha, putAt, hp] at hrun
          dsimp only at hrun
          rw [hw] at hrun
          exact endsIn_done hrun
        · rw [ha, putAt, hp] at hrun
          exact endsIn_finish hrun (by decide)
  · subst hbs
    subst hkey
    refine ⟨fun d0 hf => endsIn_finish (exec_objectPlace_bad data hc hf) (by decide), fun hf hnew => ⟨fun hroom => ?_, fun hfull => ?_⟩,
      fun old hf hold => ⟨fun hp => endsIn_done (exec_objectPlace_stays data hc hf hold hp), fun u hp hu => ?_, fun u st d0 d1 hp hst hu => ?_⟩⟩
    · exact endsIn_done ((exec_objectPlace_new data hc hf hnew).trans (congrArg _ (if_neg (Nat.not_le.mpr hroom))))
    · exact endsIn_finish ((exec_objectPlace_new data hc hf hnew).trans (congrArg _ (if_pos hfull))) (by decide)
    · have hrun := exec_objectPlace_moves data hc hf hold hp
      rw [hu] at hrun
      exact endsIn_done hrun
    · have hrun := exec_objectPlace_moves data hc hf hold hp
      rw [hu] at hrun
      exact endsIn_finish hrun hst
  · have hrun := exec_objectFree hc
    refine ⟨fun hlt hsome => ?_, fun hno => endsIn_finish (hrun.trans (congrArg _ (if_pos ?_))) (by decide)⟩
    · rw [Nat.mod_eq_of_lt hlt] at hrun
      refine endsIn_done (hrun.trans (congrArg _ (if_neg ?_)))
      simpa [Option.isNone_iff_eq_none, hsome] using hlt
    · by_cases hlt : c.slot.param0 < 2 ^ 32
      · rw [Nat.mod_eq_of_lt hlt]
        have hnone := hno.resolve_left (Nat.not_le.mpr hlt)
        simp [hnone]
      · rw [decide_eq_true (Nat.not_lt.mp hlt), Bool.or_true]

end Sys2Proof.Proofs
end

section
/-! The gradebook's commands (O55). -/

namespace Sys2Proof.Proofs

open Sys2Proof Sys2Proof.Machine Sys2Proof.Laws

variable {s t : State} {c : HostCmd} {data : List Byte}

/-! ### Counters that share a register -/

/-- The low half of a register while its high half counts. -/
theorem field_bump_high (s : State) (b : Blk) (i off n : Nat) :
    field (bump s b i off 16 16 n) b i off 0 16 = field s b i off 0 16 := by
  simp only [field, bump, setField, kept_setReg, setBits, bitsOf]
  generalize satN 16 _ = v
  omega

/-- The high half of a register while its low half counts. -/
theorem field_bump_low (s : State) (b : Blk) (i off n : Nat) :
    field (bump s b i off 0 16 n) b i off 16 16 = field s b i off 16 16 := by
  simp only [field, bump, setField, kept_setReg, setBits, bitsOf]
  generalize satN 16 _ = v
  omega

/-- A counter field counts up to its largest value and stays there (R13). -/
theorem field_bump_satN (s : State) (b : Blk) (i off n : Nat) {lo w : Nat} (h : lo + w ≤ 32) :
    field (bump s b i off lo w n) b i off lo w = satN w (field s b i off lo w + n) := by
  rw [field_bump s b i off n h, satN_eq_min]

/-! ### GRADEBOOK_SET -/

theorem exec_gradebookSet (hc : ready s 0x001D c = true) : exec (.gradebookSet c) s = .next (
    if c.slot.operand % 4096 ≠ 0 then refuse s c 0x18
    else if c.slot.param0 > 16384 then refuse s c 0x20
    else if s.job.running then done { s with grade := { s.grade with pending := some (c.slot.operand, c.slot.param0) } } c
    else done { s with grade := { s.grade with base := c.slot.operand, count := c.slot.param0 } } c) := by
  change execGradebookSet c s = _
  rw [execGradebookSet, runCmd_of_ready hc]

/-! ### GRADEBOOK_COMPARE -/

/-- The format tag of the test array's first tile. -/
def testTag (s : State) (c : HostCmd) (data : List Byte) : Nat :=
  if bitOf c.slot.ctl 6 then leAt (devRead s c.slot.operand 1) 0 1 else leAt data 0 1

/-- The format tag of the reference array's first tile. -/
def referenceTag (s : State) (c : HostCmd) : Nat := leAt (devRead s c.slot.param0 1) 0 1

/-- Pairs of tiles of a comparison. -/
def pairsOf (c : HostCmd) : Nat := bitsOf c.slot.param2 1 24 + 1

/-- The core of a comparison. -/
def compareCore (c : HostCmd) : Nat := bitsOf c.slot.param2 32 16

/-- What a comparison gives. -/
def compared (s : State) (c : HostCmd) (data : List Byte) : CompareEnd :=
  compareAll s c (if bitOf c.slot.ctl 6 then none else some data) (testTag s c data) (referenceTag s c) (pairsOf c)

/-- A comparison whose places and core are good. -/
def comparing (s : State) (c : HostCmd) (data : List Byte) : State :=
  if (hostAway s && !(bitOf c.slot.ctl 6 && bitOf c.slot.param2 0)) || (bitOf c.slot.param2 0 && memWaits s c.slot.param1 64) then s
  else if testTag s c data != 1 && testTag s c data != 3 then finish s c 0x12 0x1000 c.slot.operand
  else if referenceTag s c != 1 && referenceTag s c != 3 then finish s c 0x12 0x1000 c.slot.param0
  else if bitOf c.slot.ctl 6 && rangeBad s c.slot.operand (pairsOf c * plainTile (testTag s c data)) then refuse s c 0x18
  else if rangeBad s c.slot.param0 (pairsOf c * plainTile (referenceTag s c)) then refuse s c 0x20
  else
    match compared s c data with
    | .wait => s
    | .bad a => failUE s c a
    | .fail st d0 d1 => finish s c st d0 d1
    | .ok a => endCompare s c a

theorem exec_gradebookCompare (hc : ready s 0x0139 c = true) : exec (.gradebookCompare c data) s = .next (
    if (bitOf c.slot.ctl 6 && rangeBad s c.slot.operand 64) || (bitOf c.slot.ctl 6 && c.slot.operand % 256 != 0) then refuse s c 0x18
    else if rangeBad s c.slot.param0 64 || c.slot.param0 % 256 != 0 then refuse s c 0x20
    else if c.slot.param1 % 64 != 0 || (bitOf c.slot.param2 0 && rangeBad s c.slot.param1 64) then refuse s c 0x28
    else if compareCore c ≥ Config.logicalCores s.part || s.hif.dies.getD (compareCore c / 32) 0 != c.fn then refuse s c 0x30
    else if (physOf s (compareCore c)).isNone then finish s c 0x22 0 (compareCore c)
    else comparing s c data) := by
  change execGradebookCompare c data s = _
  rw [execGradebookCompare, runCmd_of_ready hc]
  rfl

theorem length_leBytes (k n : Nat) : (leBytes k n).length = k := by
  induction k generalizing n with
  | zero => rfl
  | succ k ih => simp [leBytes, ih]

theorem length_compareResult (a : CompareAcc) : (compareResult a).length = 64 := by
  simp [compareResult, withCrc, length_leBytes]

/-- A comparison counted (R279). -/
def counted (t : State) (a : CompareAcc) : State := bump (bump t .mgt 0 0x228 0 16 1) .mgt 0 0x228 16 16 (b2n (a.differing > 0))

theorem mem_counted (t : State) (a : CompareAcc) : (counted t a).mem = t.mem := rfl

theorem hif_counted (t : State) (a : CompareAcc) : (counted t a).hif = t.hif := rfl

theorem hostOut_counted (t : State) (a : CompareAcc) : (counted t a).hostOut = t.hostOut := rfl

theorem field_counted_low (t : State) (a : CompareAcc) : field (counted t a) .mgt 0 0x228 0 16 = satN 16 (field t .mgt 0 0x228 0 16 + 1) := by
  rw [counted, field_bump_high, field_bump_satN _ _ _ _ _ (by decide)]

theorem field_counted_high (t : State) (a : CompareAcc) : field (counted t a) .mgt 0 0x228 16 16 =
    satN 16 (field t .mgt 0 0x228 16 16 + if a.differing = 0 then 0 else 1) := by
  rw [counted, field_bump_satN _ _ _ _ _ (by decide), field_bump_low]
  by_cases h : a.differing = 0 <;> simp [h, b2n, Nat.pos_of_ne_zero]

theorem endCompare_host (hto : bitOf c.slot.param2 0 = false) (a : CompareAcc) :
    endCompare s c a = done (counted (hostWrite s (.data c.slot.param1 (compareResult a))) a) c := by
  unfold endCompare
  rw [hto]
  rfl

theorem endCompare_device (hto : bitOf c.slot.param2 0 = true) (hb : badWrite s c.slot.param1 64 = none) (a : CompareAcc) :
    endCompare s c a = done (counted (devWrite s c.slot.param1 (compareResult a)) a) c := by
  unfold endCompare tryWrite
  rw [hto, length_compareResult, hb]
  rfl

section Placed
variable (hwait : ((hostAway s && !(bitOf c.slot.ctl 6 && bitOf c.slot.param2 0)) ||
  (bitOf c.slot.param2 0 && memWaits s c.slot.param1 64)) = false)
include hwait

theorem comparing_testTag (hta : testTag s c data ≠ 1 ∧ testTag s c data ≠ 3) :
    comparing s c data = finish s c 0x12 0x1000 c.slot.operand := by
  unfold comparing
  rw [hwait, if_neg Bool.false_ne_true, if_pos (by simp [hta.1, hta.2])]

variable (hta : testTag s c data = 1 ∨ testTag s c data = 3)
include hta

theorem comparing_referenceTag (h1 : referenceTag s c ≠ 1) (h3 : referenceTag s c ≠ 3) :
    comparing s c data = finish s c 0x12 0x1000 c.slot.param0 := by
  unfold comparing
  rw [hwait, if_neg Bool.false_ne_true, if_neg (by rcases hta with h | h <;> simp [h]), if_pos (by simp [h1, h3])]

theorem comparing_runs (htb : referenceTag s c = 1 ∨ referenceTag s c = 3)
    (hra : bitOf c.slot.ctl 6 = true → rangeBad s c.slot.operand (pairsOf c * plainTile (testTag s c data)) = false)
    (hrb : rangeBad s c.slot.param0 (pairsOf c * plainTile (referenceTag s c)) = false) : comparing s c data =
      match compared s c data with
      | .wait => s
      | .bad a => failUE s c a
      | .fail st d0 d1 => finish s c st d0 d1
      | .ok a => endCompare s c a := by
  unfold comparing
  rw [hwait, if_neg Bool.false_ne_true, if_neg (by rcases hta with h | h <;> simp [h]), if_neg (by rcases htb with h | h <;> simp [h]),
    if_neg (by simpa using hra), hrb, if_neg Bool.false_ne_true]

end Placed

/-- Settles O55: GRADEBOOK_SET by its cases, GRADEBOOK_COMPARE by its refusals and by `comparing_runs`. -/
theorem gradebookCommandsComplete : Obligations.GradebookCommandsComplete := by
  unfold Obligations.GradebookCommandsComplete
  refine ⟨fun c s hc => ⟨fun hb => ?_, fun hb hn => ?_, fun hb hn => ⟨fun hj => ?_, fun hj => ?_⟩⟩,
    fun c data s dev toDev n core ta tb hc hdev hto hn hcore hta htb => ?_⟩
  · exact endsIn_finish ((exec_gradebookSet hc).trans (congrArg _ (if_pos hb))) (by decide)
  · exact endsIn_finish ((exec_gradebookSet hc).trans (congrArg _ ((if_neg (by simpa using hb)).trans (if_pos hn)))) (by decide)
  · refine endsIn_done ((exec_gradebookSet hc).trans (congrArg _ ?_))
    rw [if_neg (by simpa using hb), if_neg (Nat.not_lt.mpr hn), hj, if_neg Bool.false_ne_true]
  · refine endsIn_done ((exec_gradebookSet hc).trans (congrArg _ ?_))
    rw [if_neg (by simpa using hb), if_neg (Nat.not_lt.mpr hn), hj, if_pos rfl]
  · have hta' : ta = testTag s c data := by rw [hta, hdev, testTag]
    change tb = referenceTag s c at htb
    change n = pairsOf c at hn
    change core = compareCore c at hcore
    subst hdev hto hn hcore hta' htb
    have hrun := exec_gradebookCompare (data := data) hc
    refine ⟨fun hd hbad => ?_, fun hgood => ?_⟩
    · refine endsIn_finish (hrun.trans (congrArg _ (if_pos ?_))) (by decide)
      rcases hbad with h | h <;> simp [hd, h]
    rw [if_neg (by cases hd : bitOf c.slot.ctl 6 with
      | false => simp
      | true => simp [hgood hd])] at hrun
    refine ⟨fun hbad => endsIn_finish (hrun.trans (congrArg _ (if_pos (by rcases hbad with h | h <;> simp [h])))) (by decide),
      fun hr hal => ?_⟩
    rw [hr, hal, if_neg (by decide)] at hrun
    refine ⟨fun hbad => endsIn_finish (hrun.trans (congrArg _ (if_pos ?_))) (by decide), fun hp hrp => ?_⟩
    · rcases hbad with h | ⟨h, h'⟩
      · simp [h]
      · simp [h, h']
    rw [if_neg (by cases hd : bitOf c.slot.param2 0 with
      | false => simp [hp]
      | true => simp [hp, hrp hd])] at hrun
    refine ⟨fun hbad => endsIn_finish (hrun.trans (congrArg _ (if_pos ?_))) (by decide), fun hlt hfn => ?_⟩
    · rcases hbad with h | h
      · simp [h]
      · rw [bne_iff_ne.mpr h, Bool.or_true]
    rw [if_neg (by rw [hfn]; simp [hlt])] at hrun
    refine ⟨fun hnone => endsIn_finish (hrun.trans (congrArg _ (if_pos (by simp [hnone])))) (by decide), fun hseat hup hw => ?_⟩
    rw [if_neg (by simpa using hseat)] at hrun
    have hwait : ((hostAway s && !(bitOf c.slot.ctl 6 && bitOf c.slot.param2 0)) ||
        (bitOf c.slot.param2 0 && memWaits s c.slot.param1 64)) = false := by
      cases hto : bitOf c.slot.param2 0 with
      | false => simp [hostAway, hup (by simp [hto])]
      | true => cases hd : bitOf c.slot.ctl 6 <;> simp_all [hostAway]
    refine ⟨fun h => endsIn_finish (hrun.trans (congrArg _ (comparing_testTag hwait h))) (by decide),
      fun h h1 h3 => endsIn_finish (hrun.trans (congrArg _ (comparing_referenceTag hwait h h1 h3))) (by decide), fun ha hb hra hrb => ?_⟩
    rw [comparing_runs hwait ha hb hra hrb] at hrun
    refine ⟨fun a hend => ?_, fun st d0 d1 hend hst => ?_, fun a hend hto => ?_, fun a hend hto hbad => ?_⟩ <;>
      change compared s c data = _ at hend <;> rw [hend] at hrun
    · exact endsIn_finish hrun (by decide)
    · exact endsIn_finish hrun hst
    · dsimp only at hrun
      rw [endCompare_host hto] at hrun
      exact ⟨_, endsIn_done hrun, rfl, rfl, field_counted_low .., field_counted_high ..⟩
    · dsimp only at hrun
      rw [endCompare_device hto hbad] at hrun
      exact ⟨_, endsIn_done hrun, (mem_counted ..).trans (mem_devWrite ..), hif_counted .., hostOut_counted ..⟩

end Sys2Proof.Proofs
end

section
/-! Programs on their cores (O52). -/

namespace Sys2Proof.Proofs

open Sys2Proof Sys2Proof.Machine Sys2Proof.Laws

variable {s t : State} {c : HostCmd} {image : List Byte} {decl : StepDecl} {first count : Nat}

/-! ### Checks -/

theorem mem_rangeFrom {a k n : Nat} : n ∈ rangeFrom a k ↔ a ≤ n ∧ n < a + k := by
  induction k generalizing a with
  | zero => simp [rangeFrom]
  | succ k ih =>
    rw [rangeFrom, List.mem_cons, ih]
    omega

section Run
variable (hc : ready s 0x0100 c = true) (image decl)
include hc

theorem exec_programRun_runs (hr : coresOf s c ≠ []) : exec (.programRun c image decl) s =
    .next (if (coresOf s c).all fun e => (coreAt s e.2).transfers.isEmpty then done (endProgram s c) c else s) := by
  change execProgramRun c image decl s = _
  rw [execProgramRun, runCmd_of_ready hc]
  dsimp only
  rw [if_pos (by simpa using hr)]

/-- Cores of a range that the function of a command does not have. -/
def rangeWrong (s : State) (c : HostCmd) : Bool :=
  bitsOf c.slot.param0 16 16 = 0 || bitsOf c.slot.param0 0 16 + bitsOf c.slot.param0 16 16 > Config.logicalCores s.part ||
    ((rangeFrom (bitsOf c.slot.param0 0 16) (bitsOf c.slot.param0 16 16)).any fun n => s.hif.dies.getD (n / 32) 0 != c.fn)

omit hc in
theorem rangeWrong_iff : rangeWrong s c = true ↔ bitsOf c.slot.param0 16 16 = 0 ∨
    Config.logicalCores s.part < bitsOf c.slot.param0 0 16 + bitsOf c.slot.param0 16 16 ∨
    ∃ n, bitsOf c.slot.param0 0 16 ≤ n ∧ n < bitsOf c.slot.param0 0 16 + bitsOf c.slot.param0 16 16 ∧ s.hif.dies.getD (n / 32) 0 ≠ c.fn := by
  rw [rangeWrong, Bool.or_eq_true, Bool.or_eq_true, List.any_eq_true, decide_eq_true_eq, decide_eq_true_eq, or_assoc]
  simp only [mem_rangeFrom, and_assoc, bne_iff_ne, gt_iff_lt]

omit hc in
theorem rangeWrong_of_good (hall : ∀ n, bitsOf c.slot.param0 0 16 ≤ n → n < bitsOf c.slot.param0 0 16 + bitsOf c.slot.param0 16 16 →
    s.hif.dies.getD (n / 32) 0 = c.fn) (hne : bitsOf c.slot.param0 16 16 ≠ 0)
    (hle : bitsOf c.slot.param0 0 16 + bitsOf c.slot.param0 16 16 ≤ Config.logicalCores s.part) : rangeWrong s c = false := by
  rw [Bool.eq_false_iff, ne_eq, rangeWrong_iff]
  rintro (h | h | ⟨n, h1, h2, h3⟩)
  · exact hne h
  · omega
  · exact h3 (hall n h1 h2)

/-- A program with its first page read: its header, its cores, and its start. -/
def launching (s : State) (c : HostCmd) (image : List Byte) (decl : StepDecl) : State :=
  if leAt (operandBytes s c image 64) 60 4 ≠ crc32c ((operandBytes s c image 64).take 60) then refuse s c (blockField 0x3C)
  else
    match absentCore s (bitsOf c.slot.param0 0 16) (bitsOf c.slot.param0 16 16) with
    | some n => finish s c 0x22 0 n
    | none =>
      if (seatedCores s (bitsOf c.slot.param0 0 16) (bitsOf c.slot.param0 16 16)).any fun p => (coreAt s p).command.isSome then s
      else advanceTables (declareMarks (startProgram s c decl (seatedCores s (bitsOf c.slot.param0 0 16) (bitsOf c.slot.param0 16 16))))

variable (hr : coresOf s c = [])
include hr

theorem exec_programRun : exec (.programRun c image decl) s = .next (
    if rangeWrong s c then refuse s c 0x20
    else if bitOf c.slot.ctl 6 && rangeBad s c.slot.operand 64 then refuse s c 0x18
    else if bitOf c.slot.ctl 6 && memWaits s c.slot.operand 64 then s
    else
      match (if bitOf c.slot.ctl 6 then badSector s c.slot.operand 64 else none) with
      | some a => failUE s c a
      | none => launching s c image decl) := by
  change execProgramRun c image decl s = _
  rw [execProgramRun, runCmd_of_ready hc]
  dsimp only
  rw [if_neg (by simp [hr])]
  rfl

theorem exec_programRun_launches (hw : rangeWrong s c = false) (hread : bitOf c.slot.ctl 6 = true → rangeBad s c.slot.operand 64 = false ∧
    memWaits s c.slot.operand 64 = false ∧ badSector s c.slot.operand 64 = none) :
    exec (.programRun c image decl) s = .next (launching s c image decl) := by
  rw [exec_programRun image decl hc hr, hw, if_neg Bool.false_ne_true]
  cases hd : bitOf c.slot.ctl 6 with
  | false => rfl
  | true =>
    obtain ⟨hrange, hwait, hbad⟩ := hread hd
    simp [hrange, hwait, hbad]

end Run

/-! ### The start -/

/-- A core that takes a program: its start is a boundary (R367). -/
def freshCore (c : HostCmd) (k : Core) : Core :=
  { k with command := some c, sendsIn := [], receiveLog := [], resumePoint := some (0, c.slot.operand) }

theorem coreAt_setCore_self (s : State) (p : Nat) (k : Core) : coreAt (setCore s p k) p = k := by
  unfold coreAt setCore setCores
  dsimp only
  rw [mget_mput_self]
  rfl

theorem coreAt_setCore_ne {p q : Nat} (h : p ≠ q) (k : Core) : coreAt (setCore s p k) q = coreAt s q := by
  unfold coreAt setCore setCores
  dsimp only
  rw [mget_mput_ne h]

/-- The cores of a list take a program. -/
def takeProgram (c : HostCmd) (s : State) (ps : List Nat) : State := ps.foldl (fun t p => setCore t p (freshCore c (coreAt t p))) s

theorem takeProgram_cores (c : HostCmd) (ps : List Nat) (s : State) :
    (∀ p ∈ ps, coreAt (takeProgram c s ps) p = freshCore c (coreAt s p)) ∧ (∀ p, p ∉ ps → coreAt (takeProgram c s ps) p = coreAt s p) ∧
      takeProgram c s ps = { s with cores := { s.cores with cores := (takeProgram c s ps).cores.cores } } := by
  induction ps generalizing s with
  | nil => exact ⟨by simp, fun _ _ => rfl, rfl⟩
  | cons q ps ih =>
    have hcons : takeProgram c s (q :: ps) = takeProgram c (setCore s q (freshCore c (coreAt s q))) ps := rfl
    obtain ⟨hin, hout, honly⟩ := ih (setCore s q (freshCore c (coreAt s q)))
    rw [hcons]
    refine ⟨fun p hp => ?_, fun p hp => ?_, honly⟩
    · by_cases hpq : q = p
      · subst hpq
        by_cases hmem : q ∈ ps
        · rw [hin q hmem, coreAt_setCore_self]
          rfl
        · rw [hout q hmem, coreAt_setCore_self]
      · rw [hin p ((List.mem_cons.mp hp).resolve_left fun h => hpq h.symm), coreAt_setCore_ne hpq]
    · rw [List.mem_cons, not_or] at hp
      rw [hout p hp.2, coreAt_setCore_ne fun h => hp.1 h.symm]

theorem mem_insertRequest {tick p : Nat} {q : Nat × Nat} {l : List (Nat × Nat)} :
    q ∈ insertRequest tick p l ↔ q = (tick, p) ∨ q ∈ l := by
  induction l with
  | nil => simp [insertRequest]
  | cons x l ih =>
    simp only [insertRequest]
    split
    · simp
    · simp only [List.mem_cons, ih]
      tauto

/-- From s to t the requests for hall passes stay, and others may have come. -/
structure Asked (s t : State) : Prop where
  only : t = { s with pwr := { s.pwr with requests := t.pwr.requests } }
  stay : ∀ q ∈ s.pwr.requests, q ∈ t.pwr.requests

theorem asked_requestPass (s : State) (p : Nat) : Asked s (requestPass s p) := by
  unfold requestPass
  split
  · exact ⟨rfl, fun _ h => h⟩
  · exact ⟨rfl, fun q h => mem_insertRequest.mpr (.inr h)⟩

theorem requestPass_asks (s : State) (p : Nat) : ∃ q ∈ (requestPass s p).pwr.requests, q.2 = p := by
  unfold requestPass
  split
  · simpa using ‹s.pwr.requests.any (·.2 = p) = true›
  · exact ⟨(s.tick, p), mem_insertRequest.mpr (.inl rfl), rfl⟩

theorem foldl_requestPass (ps : List Nat) (s : State) :
    Asked s (ps.foldl requestPass s) ∧ ∀ p ∈ ps, ∃ q ∈ (ps.foldl requestPass s).pwr.requests, q.2 = p := by
  induction ps generalizing s with
  | nil => exact ⟨⟨rfl, fun _ h => h⟩, by simp⟩
  | cons x ps ih =>
    obtain ⟨hasked, hall⟩ := ih (requestPass s x)
    have hx := asked_requestPass s x
    refine ⟨⟨?_, fun q hq => hasked.stay q (hx.stay q hq)⟩, fun p hp => ?_⟩
    · rw [List.foldl_cons, hasked.only, hx.only]
    · rcases List.mem_cons.mp hp with rfl | hp
      · obtain ⟨q, hq, he⟩ := requestPass_asks s p
        exact ⟨q, hasked.stay q hq, he⟩
      · exact hall p hp

/-- A program that starts has its declaration noted, its cores taken and their passes asked for. -/
theorem startProgram_starts (s : State) (c : HostCmd) (decl : StepDecl) (ps : List Nat) :
    decl ∈ (startProgram s c decl ps).tables.decls ∧
    (∀ p ∈ ps, (p ∈ (startProgram s c decl ps).pwr.passes ∨ ∃ q ∈ (startProgram s c decl ps).pwr.requests, q.2 = p) ∧
      coreAt (startProgram s c decl ps) p = freshCore c (coreAt s p)) ∧
    (∀ p, p ∉ ps → coreAt (startProgram s c decl ps) p = coreAt s p) ∧
    startProgram s c decl ps = { s with
      cores := { s.cores with cores := (startProgram s c decl ps).cores.cores }
      tables := { s.tables with decls := (startProgram s c decl ps).tables.decls }
      pwr := { s.pwr with requests := (startProgram s c decl ps).pwr.requests } } := by
  obtain ⟨hin, hout, honly⟩ := takeProgram_cores c ps s
  obtain ⟨hasked, hall⟩ := foldl_requestPass (ps.filter fun p => !(takeProgram c s ps).pwr.passes.contains p)
    (setTables (takeProgram c s ps) fun t => { t with decls := if t.decls.contains decl then t.decls else t.decls ++ [decl] })
  have hstart : startProgram s c decl ps = (ps.filter fun p => !(takeProgram c s ps).pwr.passes.contains p).foldl requestPass
    (setTables (takeProgram c s ps) fun t => { t with decls := if t.decls.contains decl then t.decls else t.decls ++ [decl] }) := rfl
  rw [hstart]
  generalize (ps.filter fun p => !(takeProgram c s ps).pwr.passes.contains p).foldl requestPass
    (setTables (takeProgram c s ps) fun t => { t with decls := if t.decls.contains decl then t.decls else t.decls ++ [decl] }) = u
    at hasked hall
  have hcores : ∀ p, coreAt u p = coreAt (takeProgram c s ps) p := fun p => by
    rw [hasked.only]
    rfl
  refine ⟨?_, fun p hp => ⟨?_, (hcores p).trans (hin p hp)⟩, fun p hp => (hcores p).trans (hout p hp), ?_⟩
  · rw [hasked.only]
    change decl ∈ if (takeProgram c s ps).tables.decls.contains decl then _ else _
    split
    · exact List.contains_iff_mem.mp ‹_›
    · simp
  · by_cases hpass : p ∈ (takeProgram c s ps).pwr.passes
    · left
      rw [hasked.only]
      exact hpass
    · right
      exact hall p (List.mem_filter.mpr ⟨hp, by simpa using hpass⟩)
  · rw [hasked.only, honly]
    rfl

theorem seatedCores_of_none (h : absentCore s first count = none) {n : Nat} (hn : first ≤ n) (hlt : n < first + count) :
    ∃ p, physOf s n = some p ∧ p ∈ seatedCores s first count := by
  have hmem : n ∈ rangeFrom first count := mem_rangeFrom.mpr ⟨hn, hlt⟩
  have hsome : physOf s n ≠ none := by
    have := List.find?_eq_none.mp h n hmem
    simpa using this
  obtain ⟨p, hp⟩ := Option.ne_none_iff_exists'.mp hsome
  exact ⟨p, hp, List.mem_filterMap.mpr ⟨n, hmem, hp⟩⟩

/-- Settles O52: a running program by `exec_programRun_runs`, a start by `startProgram_starts`, the refusals by the checks in order. -/
theorem programsRunOnTheirCores : Obligations.ProgramsRunOnTheirCores := by
  unfold Obligations.ProgramsRunOnTheirCores
  intro c image decl s first count hd hc hfirst hcount hhd
  subst hfirst hcount hhd
  refine ⟨fun hr hall => ?_, fun ⟨e, he, hbusy⟩ => ?_, fun hr hbad => ?_, fun hr hne hle hall hread => ⟨fun hcrc => ?_, fun hcrc n hn => ?_,
    fun hcrc hn => ⟨fun ⟨p, hp, hcmd⟩ => ?_, fun hfree => ?_⟩⟩, fun hr hne hle hall hd => ⟨fun hrange => ?_, fun a hrange hw hbad => ?_⟩⟩
  · exact endsIn_done ((exec_programRun_runs image decl hc hr).trans (congrArg _ (if_pos (by simpa using hall))))
  · refine ⟨_, (exec_programRun_runs image decl hc (List.ne_nil_of_mem he)).trans (congrArg _ (if_neg ?_)), rfl⟩
    rw [List.all_eq_true]
    exact fun h => hbusy (by simpa using h e he)
  · exact endsIn_finish ((exec_programRun image decl hc hr).trans (congrArg _ (if_pos (rangeWrong_iff.mpr hbad)))) (by decide)
  all_goals have hno := rangeWrong_of_good hall hne hle
  · exact endsIn_finish ((exec_programRun_launches image decl hc hr hno hread).trans (congrArg _ (if_pos hcrc))) (by decide)
  · refine endsIn_finish (st := 0x22) (d0 := 0) (d1 := n) ((exec_programRun_launches image decl hc hr hno hread).trans (congrArg _ ?_))
      (by decide)
    rw [launching, if_neg (not_not.mpr hcrc), hn]
  · refine ⟨_, (exec_programRun_launches image decl hc hr hno hread).trans (congrArg _ ?_), rfl⟩
    rw [launching, if_neg (not_not.mpr hcrc), hn]
    exact if_pos (List.any_eq_true.mpr ⟨p, hp, Option.isSome_iff_ne_none.mpr hcmd⟩)
  · obtain ⟨hdecl, htaken, hothers, honly⟩ :=
      startProgram_starts s c decl (seatedCores s (bitsOf c.slot.param0 0 16) (bitsOf c.slot.param0 16 16))
    refine ⟨_, (exec_programRun_launches image decl hc hr hno hread).trans (congrArg _ ?_), _, rfl, hdecl,
      fun n h1 h2 => seatedCores_of_none hn h1 h2, htaken, hothers, honly⟩
    rw [launching, if_neg (not_not.mpr hcrc), hn]
    exact if_neg (by simpa using hfree)
  · refine endsIn_finish (st := 0x12) (d0 := 0x18) (d1 := 0) ((exec_programRun image decl hc hr).trans (congrArg _ ?_)) (by decide)
    rw [hno, hd, hrange]
    rfl
  · refine endsIn_finish (st := 0x23) (d0 := a) (d1 := ueDetail s) ((exec_programRun image decl hc hr).trans (congrArg _ ?_)) (by decide)
    rw [hno, hd, hrange, hw, if_pos rfl, hbad]
    rfl

end Sys2Proof.Proofs
end

section
/-! Memory channels and patrol scrub (O40). -/

namespace Sys2Proof.Proofs

open Sys2Proof Sys2Proof.Machine Sys2Proof.Laws

variable {s t : State} {ch rate addr : Nat}

/-! ### Lists of numbers -/

theorem mem_insertNat {l : List Nat} {a b : Nat} : b ∈ insertNat l a ↔ b = a ∨ b ∈ l := by
  induction l with
  | nil => simp [insertNat]
  | cons k l ih =>
    simp only [insertNat]
    split
    · simp
    · split
      · subst_vars
        simp
      · simp only [List.mem_cons, ih]
        tauto

theorem insertNat_idem (l : List Nat) (a : Nat) : insertNat (insertNat l a) a = insertNat l a := by
  induction l with
  | nil => simp [insertNat]
  | cons k l ih =>
    simp only [insertNat]
    split
    · simp [insertNat]
    · split
      · simp [insertNat, *]
      · simp [insertNat, *]

/-! ### Hands -/

theorem hands_drainHands : ∀ (n : Nat) (s : State), (drainHands n s).hif.hands = s.hif.hands
  | 0, _ => rfl
  | n + 1, s => by
    unfold drainHands
    split
    · split
      · rfl
      · exact (hands_drainHands n _).trans rfl
    · rfl

/-- A hand that is raised stands behind the others. -/
theorem hands_raise (s : State) (b : Blk) (i bit : Nat) (items : List Nat) :
    (raise s b i bit items).hif.hands = s.hif.hands ++ [⟨s.hif.handSeq, pageOf b i, bit, items⟩] := by
  unfold raise putHandRec drainAllHands
  exact (hands_drainHands _ _).trans rfl

/-! ### Transfers that fail their retries -/

/-- The counts of a failed transfer (R126). -/
def failCounted (s : State) (ch : Nat) : State :=
  bump (bump (if !(rangeFrom (4 * (ch / 4)) 4).any s.gddr.retraining.contains then setReg s .mem (ch / 4) 0x014 0 else s)
    .mem (ch / 4) 0x118 0 16 3) .mem (ch / 4) 0x118 16 16 1

theorem failCounted_only (s : State) (ch : Nat) : failCounted s ch = { s with regs := (failCounted s ch).regs } := by
  unfold failCounted
  split <;> rfl

/-- A channel whose transfer at an address waits. -/
def channelHeld (s : State) (ch addr : Nat) : State :=
  setGddr (holdChannel s ch) fun g =>
    { g with retrying := g.retrying.filter (· != ch)
             waiting := if g.waiting.contains (ch, addr) then g.waiting else g.waiting ++ [(ch, addr)] }

theorem channelHeld_holds (s : State) (ch addr : Nat) : ch ∈ (channelHeld s ch addr).gddr.retraining ∧
    ch ∉ (channelHeld s ch addr).gddr.retrying ∧ (ch, addr) ∈ (channelHeld s ch addr).gddr.waiting := by
  refine ⟨mem_insertNat.mpr (.inl rfl), by simp [channelHeld, setGddr], ?_⟩
  change (ch, addr) ∈ if s.gddr.waiting.contains (ch, addr) then s.gddr.waiting else s.gddr.waiting ++ [(ch, addr)]
  split
  · exact List.contains_iff_mem.mp ‹_›
  · simp

theorem exec_crcRetryExhausted (hup : isUp s = true) (hrate : channelRate s ch ≠ 0) (hw : ch ∉ s.gddr.retraining ∨ ch ∈ s.gddr.retrying) :
    exec (.crcRetryExhausted ch addr) s = .next (if memAssisted s (ch / 4)
      then raise (channelHeld (failCounted s ch) ch addr) .mem (ch / 4) 0 [ch] else channelHeld (failCounted s ch) ch addr) := by
  change execCrcRetryExhausted ch addr s = _
  have hno : (!isUp s || channelRate s ch = 0 || (s.gddr.retraining.contains ch && !s.gddr.retrying.contains ch)) = false := by
    rcases hw with h | h <;> simp [hup, hrate, h]
  unfold execCrcRetryExhausted
  dsimp only
  rw [hno, if_neg Bool.false_ne_true]
  rfl

/-- What a failed transfer changes. -/
theorem failed_frame (s : State) (ch addr : Nat) : (fun t : State =>
    ch ∈ t.gddr.retraining ∧ ch ∉ t.gddr.retrying ∧ (ch, addr) ∈ t.gddr.waiting ∧
      t = { s with gddr := t.gddr, regs := t.regs, hif := t.hif, hostOut := t.hostOut } ∧
      t.gddr = { s.gddr with retraining := t.gddr.retraining, attempts := t.gddr.attempts, retrying := t.gddr.retrying,
                             waiting := t.gddr.waiting } ∧
      (memAssisted s (ch / 4) = true → t.hif.hands = s.hif.hands ++ [⟨s.hif.handSeq, pageOf .mem (ch / 4), 0, [ch]⟩]) ∧
      (memAssisted s (ch / 4) = false → t.hif = s.hif))
    (if memAssisted s (ch / 4) then raise (channelHeld (failCounted s ch) ch addr) .mem (ch / 4) 0 [ch]
      else channelHeld (failCounted s ch) ch addr) := by
  obtain ⟨hret, hnot, hwait⟩ := channelHeld_holds (failCounted s ch) ch addr
  have hfail := failCounted_only s ch
  have hgddr : (channelHeld (failCounted s ch) ch addr).gddr = { s.gddr with
      retraining := (channelHeld (failCounted s ch) ch addr).gddr.retraining
      attempts := (channelHeld (failCounted s ch) ch addr).gddr.attempts
      retrying := (channelHeld (failCounted s ch) ch addr).gddr.retrying
      waiting := (channelHeld (failCounted s ch) ch addr).gddr.waiting } := by
    rw [hfail]
    rfl
  have hhif : (channelHeld (failCounted s ch) ch addr).hif = s.hif := by
    rw [hfail]
    rfl
  have honly : channelHeld (failCounted s ch) ch addr = { s with
      gddr := (channelHeld (failCounted s ch) ch addr).gddr, regs := (channelHeld (failCounted s ch) ch addr).regs } := by
    rw [hfail]
    rfl
  dsimp only
  generalize channelHeld (failCounted s ch) ch addr = u at *
  split
  · have hrest := (ringsOnly_raise u .mem (ch / 4) 0 [ch]).rest
    have hg : (raise u .mem (ch / 4) 0 [ch]).gddr = u.gddr := (congrArg State.gddr hrest).trans rfl
    rw [hg]
    refine ⟨hret, hnot, hwait, hrest.trans ?_, hgddr, fun _ => ?_, fun h => absurd h (by simp [*])⟩
    · rw [honly]
    · rw [hands_raise, hhif]
  · refine ⟨hret, hnot, hwait, ?_, hgddr, fun h => absurd h ‹_›, fun _ => hhif⟩
    rw [hhif]
    rw [honly]

/-! ### Channels that return or are lost -/

/-- What follows an attempt that ends the wait of a channel. -/
def channelBack (t : State) : State :=
  if t.rel.recovery = 2 then drainRecovery t
  else if (runHeld (kickUpdates t)).pwr.sleeping then sleep (runHeld (kickUpdates t)) else runHeld (kickUpdates t)

theorem resumes_channelBack (t : State) : Resumes t (channelBack t) := by
  refine ⟨fun h => by rw [channelBack, if_pos h], fun h w hw => ⟨fun hsl => ?_, fun hsl => ?_⟩⟩ <;> subst hw
  · rw [channelBack, if_neg h, hsl, if_pos rfl]
  · rw [channelBack, if_neg h, hsl, if_neg Bool.false_ne_true]

theorem exec_channelRetrainDone (hup : isUp s = true ∨ s.rel.recovery = 2) (hch : ch ∈ s.gddr.retraining) (hhand : channelHand s ch = none)
    (hrate : rateStep rate = rate) : exec (.channelRetrainDone ch rate) s = .next (
      if s.gddr.retrying.contains ch then (if rate = 0 then s else channelBack (resumeChannel s ch))
      else if rate != 0 then channelBack (returnChannel s ch rate)
      else if (mget s.gddr.attempts ch).getD 0 ≥ 2 then channelBack (loseChannel s ch)
      else setGddr s fun g => { g with attempts := mput g.attempts ch ((mget s.gddr.attempts ch).getD 0 + 1) }) := by
  change execChannelRetrainDone ch rate s = _
  have hno : (!(isUp s || s.rel.recovery = 2) || !s.gddr.retraining.contains ch || (channelHand s ch).isSome ||
      (rate != 0 && rateStep rate != rate)) = false := by
    rcases hup with h | h <;> simp [h, hch, hhand, hrate]
  unfold execChannelRetrainDone
  dsimp only
  rw [hno, if_neg Bool.false_ne_true]
  rfl

theorem exec_channelRetrainDone_idle (hch : ch ∉ s.gddr.retraining) : exec (.channelRetrainDone ch rate) s = .next s := by
  change execChannelRetrainDone ch rate s = _
  simp [execChannelRetrainDone, hch]

/-- The rate at which a channel returns. -/
def newRate (s : State) (ch rate : Nat) : Nat :=
  if deviceRate s (ch / 4) = 0 then rate else min rate (deviceRate s (ch / 4))

/-- A channel in service again at a rate. -/
def channelIn (s : State) (ch rate : Nat) : State :=
  setGddr s fun g =>
    { g with rates := mput g.rates ch rate, retraining := g.retraining.filter (· != ch), attempts := mdel g.attempts ch
             waiting := g.waiting.filter (·.1 != ch) }

/-- The events of a channel that returns. -/
def returnNoted (s : State) (ch rate : Nat) : State :=
  let s2 := post (channelIn s ch (newRate s ch rate)) .mem (ch / 4) 0x0202 [ch, newRate s ch rate]
  if newRate s ch rate < deviceRate s (ch / 4) then
    post (setGddr s2 fun g => { g with attempts := g.attempts.filter fun e => e.1 / 4 != ch / 4 }) .mem (ch / 4) 0x0909
      [ch / 4, newRate s ch rate]
  else s2

theorem gddr_post (s : State) (b : Blk) (i code : Nat) (items : List Nat) : (post s b i code items).gddr = s.gddr :=
  (congrArg State.gddr (ringsOnly_post s b i code items).rest).trans rfl

theorem rel_post (s : State) (b : Blk) (i code : Nat) (items : List Nat) : (post s b i code items).rel = s.rel :=
  (congrArg State.rel (ringsOnly_post s b i code items).rest).trans rfl

theorem returnNoted_frame (s : State) (ch rate : Nat) :
    (returnNoted s ch rate).gddr = { (channelIn s ch (newRate s ch rate)).gddr with attempts := (returnNoted s ch rate).gddr.attempts } ∧
      (returnNoted s ch rate).mem = s.mem ∧ (returnNoted s ch rate).rel = s.rel := by
  have hg : (post (channelIn s ch (newRate s ch rate)) .mem (ch / 4) 0x0202 [ch, newRate s ch rate]).gddr = _ := gddr_post ..
  have hm : (post (channelIn s ch (newRate s ch rate)) .mem (ch / 4) 0x0202 [ch, newRate s ch rate]).mem = _ := mem_post ..
  have hr : (post (channelIn s ch (newRate s ch rate)) .mem (ch / 4) 0x0202 [ch, newRate s ch rate]).rel = _ := rel_post ..
  unfold returnNoted
  dsimp only
  split
  · rw [gddr_post, mem_post, rel_post]
    refine ⟨?_, hm, hr⟩
    dsimp only [setGddr]
    rw [hg]
  · exact ⟨by rw [hg], hm, hr⟩

/-- A channel that returns: the next one of its device that runs faster may train down, and is another one. -/
theorem returnChannel_cases (s : State) (ch rate : Nat) : returnChannel s ch rate = returnNoted s ch rate ∨
    ∃ k, k ≠ ch ∧ returnChannel s ch rate = holdChannel (returnNoted s ch rate) k := by
  have hown : channelRate (returnNoted s ch rate) ch = newRate s ch rate := by
    rw [channelRate, (returnNoted_frame s ch rate).1]
    change (mget (mput s.gddr.rates ch (newRate s ch rate)) ch).getD 0 = _
    rw [mget_mput_self]
    rfl
  have hreturn : returnChannel s ch rate = match (rangeFrom (4 * (ch / 4)) 4).find? fun k =>
      channelRate (returnNoted s ch rate) k > newRate s ch rate && !(returnNoted s ch rate).gddr.retraining.contains k with
    | some k => if (rangeFrom (4 * (ch / 4)) 4).any (returnNoted s ch rate).gddr.retraining.contains then returnNoted s ch rate
        else holdChannel (returnNoted s ch rate) k
    | none => returnNoted s ch rate := rfl
  rw [hreturn]
  split
  · split
    · exact .inl rfl
    · rename_i k hk _
      refine .inr ⟨k, fun he => ?_, rfl⟩
      have hfast := List.find?_some hk
      rw [he, hown] at hfast
      simp at hfast
  · exact .inl rfl

theorem returnChannel_returns (s : State) (ch rate : Nat) : ch ∉ (returnChannel s ch rate).gddr.retraining ∧
    mget (returnChannel s ch rate).gddr.rates ch = some (newRate s ch rate) ∧ (∀ w ∈ (returnChannel s ch rate).gddr.waiting, w.1 ≠ ch) ∧
    (returnChannel s ch rate).mem = s.mem ∧ (returnChannel s ch rate).rel = s.rel := by
  obtain ⟨hgddr, hmem, hrel⟩ := returnNoted_frame s ch rate
  have hin : ch ∉ (returnNoted s ch rate).gddr.retraining ∧ mget (returnNoted s ch rate).gddr.rates ch = some (newRate s ch rate) ∧
      ∀ w ∈ (returnNoted s ch rate).gddr.waiting, w.1 ≠ ch := by
    rw [hgddr]
    exact ⟨by simp [channelIn, setGddr], mget_mput_self .., by simp [channelIn, setGddr]⟩
  obtain ⟨hout, hrate, hwait⟩ := hin
  rcases returnChannel_cases s ch rate with he | ⟨k, hk, he⟩ <;> rw [he]
  · exact ⟨hout, hrate, hwait, hmem, hrel⟩
  · exact ⟨fun h => (mem_insertNat.mp h).elim (fun h => hk h.symm) hout, hrate, hwait, hmem, hrel⟩

/-! ### What the pair loses -/

theorem ringsOnly_foldl {α : Type} {f : State → α → State} (hf : ∀ s x, RingsOnly s (f s x)) (l : List α) (s : State) :
    RingsOnly s (l.foldl f s) := by
  induction l generalizing s with
  | nil => exact .refl s
  | cons x l ih => exact (hf s x).trans (ih _)

/-- The repairs that are given up change nothing of the module beside their list. -/
theorem twin_abandonRepairs (s : State) : (abandonRepairs s).twin = { s.twin with repairs := [] } := by
  unfold abandonRepairs
  refine (congrArg State.twin (ringsOnly_foldl (fun t r => ?_) s.twin.repairs (setTwin s fun t => { t with repairs := [] })).rest).trans rfl
  have hposts := ringsOnly_foldl (fun u a => ringsOnly_post u .rel 0 0x0106 [a]) (if r.closed then r.waiting else r.items) t
  dsimp only
  split
  · exact hposts.trans (ringsOnly_withdraw ..)
  · exact hposts

theorem loseTwinned_paired (hp : s.twin.pair = .paired) :
    (loseTwinned s).twin.pair = .detached ∧ (loseTwinned s).twin.noticeSent = true := by
  have h : loseTwinned s =
      abandonRepairs (setTwin (sendTwin s (.recoveryNotice .paired true)) fun t => { t with noticeSent := true, pair := .detached }) := by
    rw [loseTwinned, hp]
  rw [h, twin_abandonRepairs]
  exact ⟨rfl, rfl⟩

/-! ### Patrol scrub -/

theorem putEvent_gddr (s : State) (g : Gddr) (e : EventRec) : putEvent { s with gddr := g } e = { putEvent s e with gddr := g } := by
  have hlose : loseEvent { s with gddr := g } = { loseEvent s with gddr := g } := rfl
  have hfull (r : Rings) : eventFull { s with gddr := g } r = eventFull s r := rfl
  have haway : hostAway { s with gddr := g } = hostAway s := rfl
  unfold putEvent
  simp only [hlose, hfull, haway]
  cases s.hif.rings with
  | none => dsimp only; split <;> rfl
  | some r =>
    dsimp only
    split
    · split <;> rfl
    · split <;> rfl

/-- The registers of an uncorrectable sector (R129). -/
def ueLatched (s : State) (a : Nat) : State :=
  if bitOf (kept (bump s .mem (memOf s.part a) 0x108 0 32 1) .mem (memOf s.part a) 0x110) 0
    then bump s .mem (memOf s.part a) 0x108 0 32 1
  else setReg (setReg (bump s .mem (memOf s.part a) 0x108 0 32 1) .mem (memOf s.part a) 0x110 (sectorOf a % 2 ^ 32 / 64 * 64 + 1))
    .mem (memOf s.part a) 0x114 (sectorOf a / 2 ^ 32)

theorem noteUE_eq (s : State) (a : Nat) : noteUE s a = post (ueLatched s a) .mem (memOf s.part a) 0x0200 [sectorOf a] := rfl

theorem ueLatched_gddr (s : State) (g : Gddr) (a : Nat) : ueLatched { s with gddr := g } a = { ueLatched s a with gddr := g } := by
  have hc : bitOf (kept (bump { s with gddr := g } .mem (memOf s.part a) 0x108 0 32 1) .mem (memOf s.part a) 0x110) 0 =
      bitOf (kept (bump s .mem (memOf s.part a) 0x108 0 32 1) .mem (memOf s.part a) 0x110) 0 := rfl
  unfold ueLatched
  dsimp only
  rw [hc]
  split <;> rfl

theorem post_gddr (s : State) (g : Gddr) (b : Blk) (i code : Nat) (items : List Nat) :
    post { s with gddr := g } b i code items = { post s b i code items with gddr := g } :=
  putEvent_gddr (setHif (bumpWrap s b i 0x18 1) fun h => { h with eventSeq := h.eventSeq + 1 }) g _

/-- An uncorrectable sector is noted beside what the channels hold. -/
theorem noteUE_gddr (s : State) (g : Gddr) (a : Nat) : noteUE { s with gddr := g } a = { noteUE s a with gddr := g } := by
  rw [noteUE_eq, ueLatched_gddr, post_gddr]
  rfl

theorem sectorOf_sectorOf (a : Nat) : sectorOf (sectorOf a) = sectorOf a := by
  unfold sectorOf
  omega

theorem isSome_foldl {α : Type} {f : Option α → α → Option α} (hf : ∀ m x, (f m x).isSome = true) :
    ∀ (l : List α) (m : Option α), l ≠ [] ∨ m.isSome = true → (l.foldl f m).isSome = true
  | [], _, h => h.resolve_left (by simp)
  | _ :: l, m, _ => isSome_foldl hf l _ (.inr (hf m _))

/-- A sector in the list of bad ones is found. -/
theorem badSector_of_mem {a : Nat} (h : a ∈ s.gddr.badSectors) : (badSector s a 64).isSome = true := by
  have hmem : a ∈ s.gddr.badSectors.filter fun x => x < a + 64 && a < x + 64 := by simp [h]
  unfold badSector
  dsimp only
  generalize hb : List.foldl _ _ _ = b
  have hsome : b.isSome = true := hb ▸ isSome_foldl (fun _ _ => rfl) _ _ (.inl (List.ne_nil_of_mem hmem))
  cases b with
  | none => cases hsome
  | some x => split <;> simp_all

theorem exec_patrolScrub {read : ScrubRead} : exec (.patrolScrub addr read) s = .next (
    if !isUp s || s.pwr.recess || s.gddr.selfRefresh || sectorOf addr ≥ Config.reservedBase s.part + 2 ^ 32
      || field s .mem (memOf s.part (sectorOf addr)) 0x11C 0 16 = 0 || memWaits s (sectorOf addr) 64 || writeQueued s (sectorOf addr) then s
    else if (badSector (meetSector s ⟨addr, read.wrong, read.misplaced, read.retries⟩) (sectorOf addr) 64).isSome
      then scrubBad (meetSector s ⟨addr, read.wrong, read.misplaced, read.retries⟩) (sectorOf addr)
      else meetSector s ⟨addr, read.wrong, read.misplaced, read.retries⟩) := rfl

/-- The retries of a sector's read, counted (R126). -/
def retried (s : State) (r : SectorRead) : State := bump s .mem (memOf s.part (sectorOf r.addr)) 0x118 0 16 (min r.retries 3)

section Met
variable {r : SectorRead} (hw : memWaits s (sectorOf r.addr) 64 = false)
include hw

theorem meetSector_clean (hd : decodeSector r = some .clean) : meetSector s r = retried s r := by
  unfold meetSector
  dsimp only
  rw [hw, if_neg Bool.false_ne_true, hd]
  rfl

theorem meetSector_corrected (hd : decodeSector r = some .corrected) :
    meetSector s r = bump (retried s r) .mem (memOf s.part (sectorOf r.addr)) 0x104 0 32 1 := by
  unfold meetSector
  dsimp only
  rw [hw, if_neg Bool.false_ne_true, hd]
  rfl

theorem meetSector_uncorrectable (hd : decodeSector r = some .uncorrectable) :
    meetSector s r = spoil (retried s r) (sectorOf r.addr) := by
  unfold meetSector
  dsimp only
  rw [hw, if_neg Bool.false_ne_true, hd]
  rfl

end Met

theorem paired_of_twin (h : t.twin = s.twin) : paired t = paired s := by
  simp only [paired, h]

/-- A sector that scrub cannot read, with no live twin. -/
theorem scrubBad_unpaired {a : Nat} (hp : paired s = false) : scrubBad s (sectorOf a) =
    { noteUE s (sectorOf a) with gddr := { s.gddr with badSectors := insertNat s.gddr.badSectors (sectorOf a) } } := by
  have hring := ringsOnly_noteUE s (sectorOf a)
  have hgddr : (noteUE s (sectorOf a)).gddr = s.gddr := (congrArg State.gddr hring.rest).trans rfl
  have htwin : (noteUE s (sectorOf a)).twin = s.twin := (congrArg State.twin hring.rest).trans rfl
  have hpair : paired (setGddr (noteUE s (sectorOf a)) fun g => { g with badSectors := insertNat g.badSectors (sectorOf a) }) = false :=
    (paired_of_twin (s := s) htwin).trans hp
  unfold scrubBad
  dsimp only
  rw [sectorOf_sectorOf, hpair, if_neg Bool.false_ne_true]
  dsimp only [setGddr]
  rw [hgddr]

/-- A sector that scrub finds bad, and notes beside its place in the list. -/
theorem scrubBad_spoil {a : Nat} (hp : paired s = false) : scrubBad (spoil s (sectorOf a)) (sectorOf a) =
    { noteUE s (sectorOf a) with gddr := { s.gddr with badSectors := insertNat s.gddr.badSectors (sectorOf a) } } := by
  rw [scrubBad_unpaired (s := spoil s (sectorOf a)) hp, spoil, noteUE_gddr]
  dsimp only
  rw [insertNat_idem]

theorem badSector_spoil (s : State) (a : Nat) : (badSector (spoil s a) a 64).isSome = true :=
  badSector_of_mem (mem_insertNat.mpr (.inl rfl))

/-- What scrub makes of a sector that it reads. -/
theorem scrub_cases {scrub : Instr} {r : SectorRead} {a : Nat}
    (hrun : exec scrub s = .next (if (badSector (meetSector s r) (sectorOf r.addr) 64).isSome
      then scrubBad (meetSector s r) (sectorOf r.addr) else meetSector s r))
    (ha : a = sectorOf r.addr) (hw : memWaits s a 64 = false) :
    (badSector (meetSector s r) a 64 = none → Leads scrub s (· = meetSector s r)) ∧
    ((badSector (meetSector s r) a 64).isSome = true → Leads scrub s (· = scrubBad (meetSector s r) a)) ∧
    (decodeSector r = some .clean → badSector s a 64 = none → Leads scrub s (· = retried s r)) ∧
    (decodeSector r = some .corrected → badSector s a 64 = none → Leads scrub s
      (· = bump (retried s r) .mem (memOf s.part a) 0x104 0 32 1)) ∧
    (decodeSector r = some .uncorrectable ∨ (decodeSector r = some .clean ∧ (badSector s a 64).isSome = true) →
      paired s = false → Leads scrub s fun t =>
        t = { noteUE (retried s r) a with gddr := { s.gddr with badSectors := insertNat s.gddr.badSectors a } }) := by
  subst ha
  have hgood (h : badSector (meetSector s r) (sectorOf r.addr) 64 = none) : Leads scrub s (· = meetSector s r) :=
    ⟨_, hrun, by rw [h]; rfl⟩
  have hbad (h : (badSector (meetSector s r) (sectorOf r.addr) 64).isSome = true) :
      Leads scrub s (· = scrubBad (meetSector s r) (sectorOf r.addr)) := ⟨_, hrun, if_pos h⟩
  refine ⟨hgood, hbad, fun hd hb => ?_, fun hd hb => ?_, fun hd hp => ?_⟩
  · rw [meetSector_clean hw hd] at hgood
    exact hgood hb
  · rw [meetSector_corrected hw hd] at hgood
    exact hgood hb
  · rcases hd with hd | ⟨hd, hb⟩
    · rw [meetSector_uncorrectable hw hd] at hbad
      have hsome := badSector_spoil (retried s r) (sectorOf r.addr)
      obtain ⟨t, ht, rfl⟩ := hbad hsome
      exact ⟨_, ht, scrubBad_spoil (hp)⟩
    · rw [meetSector_clean hw hd] at hbad
      obtain ⟨t, ht, rfl⟩ := hbad hb
      exact ⟨_, ht, scrubBad_unpaired (hp)⟩

/-! ### Registers of a controller -/

theorem guardWrite_mem {unit : Nat} {f : State → State} (haux : s.pwr.auxGood = true) (hu : unit < Config.memDevices s.part) :
    guardWrite s 0 .mem unit f = f s := by
  simp [guardWrite, haux, blkPresent, hu, mayWrite]

theorem guardWrite_mem_other {unit fn : Nat} {f : State → State} (haux : s.pwr.auxGood = true) (hu : unit < Config.memDevices s.part)
    (hfn : fn ≠ 0) : guardWrite s fn .mem unit f = stick s .mem unit 0 := by
  simp [guardWrite, haux, blkPresent, hu, mayWrite, hfn]

theorem exec_memRetrainAnswer (fn unit : Nat) (v : W32) : exec (.memRetrainAnswer fn unit v) s =
    .next (guardWrite s fn .mem unit fun s => answerMem s unit v.toNat) := rfl

theorem exec_memRetrainRequest (fn unit : Nat) : exec (.memRetrainRequest fn unit) s =
    .next (guardWrite s fn .mem unit fun s => requestMemory s unit) := rfl

/-- Channels held in turn: each of them retrains, and no other starts to. -/
theorem foldl_holdChannel (l : List Nat) (s : State) :
    (∀ c, c ∈ (l.foldl holdChannel s).gddr.retraining ↔ c ∈ l ∨ c ∈ s.gddr.retraining) ∧
      l.foldl holdChannel s = { s with gddr := { s.gddr with
        retraining := (l.foldl holdChannel s).gddr.retraining, attempts := (l.foldl holdChannel s).gddr.attempts } } := by
  induction l generalizing s with
  | nil => exact ⟨by simp, rfl⟩
  | cons x l ih =>
    obtain ⟨hmem, honly⟩ := ih (holdChannel s x)
    refine ⟨fun c => ?_, honly⟩
    rw [List.foldl_cons, hmem c]
    change c ∈ l ∨ c ∈ insertNat s.gddr.retraining x ↔ _
    rw [mem_insertNat, List.mem_cons]
    tauto

/-- A retrain that a register asks for takes the four channels of its controller (R323). -/
theorem requestMemory_retrains (hup : isUp s = true) (m : Nat) : requestMemory s m = { s with
      regs := (requestMemory s m).regs
      gddr := { s.gddr with retraining := (requestMemory s m).gddr.retraining, attempts := (requestMemory s m).gddr.attempts } } ∧
    SameRegs s (requestMemory s m) [pageOf .mem m + 0x14] ∧ (∀ k < 4, 4 * m + k ∈ (requestMemory s m).gddr.retraining) ∧
    ∀ c, c / 4 ≠ m → (c ∈ (requestMemory s m).gddr.retraining ↔ c ∈ s.gddr.retraining) := by
  have hreq : requestMemory s m =
      ((rangeFrom (4 * m) 4).filter fun c => !s.gddr.retraining.contains c).foldl holdChannel (setReg s .mem m 0x014 1) := by
    rw [requestMemory, hup]
    rfl
  obtain ⟨hmem, honly⟩ := foldl_holdChannel ((rangeFrom (4 * m) 4).filter fun c => !s.gddr.retraining.contains c) (setReg s .mem m 0x014 1)
  rw [← hreq] at hmem honly
  have hretr : ∀ c, c ∈ (requestMemory s m).gddr.retraining ↔ (4 * m ≤ c ∧ c < 4 * m + 4) ∨ c ∈ s.gddr.retraining := fun c => by
    rw [hmem c, List.mem_filter, mem_rangeFrom]
    change _ ∨ c ∈ s.gddr.retraining ↔ _
    by_cases h : c ∈ s.gddr.retraining <;> simp [h]
  refine ⟨?_, ?_, fun k hk => (hretr _).mpr (.inl ⟨by omega, by omega⟩), fun c hc => (hretr c).trans ⟨fun h => h.resolve_left (by omega), .inr⟩⟩
  · have hregs : { s with regs := (requestMemory s m).regs } = setReg s .mem m 0x014 1 := by
      rw [honly]
      rfl
    refine honly.trans ?_
    rw [← hregs]
  · have hregs : (requestMemory s m).regs = (setReg s .mem m 0x014 1).regs := (congrArg State.regs honly).trans rfl
    have hset : SameRegs s (setReg s .mem m 0x014 1) [pageOf .mem m + 0x14] := sameRegs_setReg (List.mem_singleton_self _)
    exact hset.trans (SameRegs.of_regs hregs)

/-- Settles O40: failed transfers by `channelHeld_holds`, attempts by `exec_channelRetrainDone`, scrub by `meetSector`'s cases, the
registers of a controller by `requestMemory_retrains` and its answers. -/
theorem memoryChannelsRetrain : Obligations.MemoryChannelsRetrain := by
  unfold Obligations.MemoryChannelsRetrain
  intro s
  refine ⟨fun ch addr hup hrate hw => ?_, fun ch rate hup hch hhand hstep => ⟨fun hno => ⟨fun hr => ?_, fun hr hn => ?_, fun hr hn => ?_⟩,
    fun hretry => ⟨fun hr => ?_, fun hr => ?_⟩⟩, fun ch rate hch => ⟨_, exec_channelRetrainDone_idle hch, rfl⟩,
    ⟨loseTwinned_paired, fun hp => ?_, fun hp => ?_⟩, ?_, fun addr read hz => ?_, fun unit v haux hu => ⟨fun hup => ?_, fun h ho hv => ?_,
      fun h ho hv => ?_, fun hbad => ?_, fun fn hfn => ⟨?_, ?_⟩⟩⟩
  · refine ⟨_, exec_crcRetryExhausted hup hrate hw, ?_⟩
    exact failed_frame s ch addr
  · have hrun := exec_channelRetrainDone hup hch hhand hstep
    rw [if_neg (by simpa using hno), if_pos (by simpa using hr)] at hrun
    obtain ⟨hout, hrate, hwait, hmem, hrel⟩ := returnChannel_returns s ch rate
    exact ⟨_, hrun, _, resumes_channelBack _, hout, hrate, hwait, hmem, hrel⟩
  · have hrun := exec_channelRetrainDone hup hch hhand hstep
    rw [if_neg (by simpa using hno), if_neg (by simp [hr]), if_pos hn] at hrun
    refine ⟨_, hrun, setGddr s fun g => { g with rates := mput g.rates ch 0, retraining := g.retraining.filter (· != ch)
                                                 attempts := mdel g.attempts ch, waiting := g.waiting.filter (·.1 != ch) },
      resumes_channelBack (loseChannel s ch), rfl, by simp [setGddr], mget_mput_self .., by simp [setGddr]⟩
  · have hrun := exec_channelRetrainDone hup hch hhand hstep
    rw [if_neg (by simpa using hno), if_neg (by simp [hr]), if_neg (Nat.not_le.mpr hn)] at hrun
    exact ⟨_, hrun, mget_mput_self .., rfl⟩
  · have hrun := exec_channelRetrainDone hup hch hhand hstep
    rw [if_pos (by simpa using hretry), if_neg hr] at hrun
    refine ⟨_, hrun, setGddr s fun g => { g with retraining := g.retraining.filter (· != ch), retrying := g.retrying.filter (· != ch)
                                                 waiting := g.waiting.filter (·.1 != ch) },
      resumes_channelBack (resumeChannel s ch), rfl, by simp [setGddr], by simp [setGddr], rfl, by simp [setGddr]⟩
  · have hrun := exec_channelRetrainDone hup hch hhand hstep
    rw [if_pos (by simpa using hretry), if_pos hr] at hrun
    exact ⟨_, hrun, rfl⟩
  · rw [loseTwinned, hp]
    rfl
  · rw [loseTwinned, hp]
  · rintro read scrub a s1 rfl rfl hup hrec hself hres hon hw rfl
    have hrun := exec_patrolScrub (s := s) (addr := read.addr) (read := ⟨read.wrong, read.misplaced, read.retries⟩)
    refine ⟨fun hq => ⟨_, hrun, if_pos (by simp [hq])⟩, fun hq => ?_⟩
    rw [if_neg (by simpa [hup, hrec, hself, hw, hq, hon] using hres)] at hrun
    exact scrub_cases (r := read) hrun rfl hw
  · refine ⟨s, exec_patrolScrub.trans (congrArg _ (if_pos ?_)), rfl⟩
    simp [hz]
  · have h := requestMemory_retrains hup unit
    exact ⟨_, (exec_memRetrainRequest 0 unit).trans (congrArg _ (guardWrite_mem haux hu)), h⟩
  · refine ⟨_, (exec_memRetrainAnswer 0 unit v).trans (congrArg _ (guardWrite_mem haux hu)), ?_⟩
    rw [answerMem, answer, ho, hv]
    rfl
  · refine ⟨_, (exec_memRetrainAnswer 0 unit v).trans (congrArg _ (guardWrite_mem haux hu)), ?_⟩
    rw [answerMem, answer, ho, hv]
    rfl
  · refine ⟨_, (exec_memRetrainAnswer 0 unit v).trans (congrArg _ (guardWrite_mem haux hu)), ?_⟩
    rw [answerMem, answer]
    cases ho : oldest s (pageOf .mem unit) with
    | none => rfl
    | some h =>
      have hv := hbad.resolve_left (by rw [ho]; simp)
      dsimp only
      rw [if_neg (by omega), if_neg (by omega)]
  · exact ⟨_, (exec_memRetrainAnswer fn unit v).trans (congrArg _ (guardWrite_mem_other haux hu hfn)), rfl⟩
  · exact ⟨_, (exec_memRetrainRequest fn unit).trans (congrArg _ (guardWrite_mem_other haux hu hfn)), rfl⟩

end Sys2Proof.Proofs
end

section
/-! Peer links: training, identity, retraining (O41). -/

namespace Sys2Proof.Proofs

open Sys2Proof Sys2Proof.Machine Sys2Proof.Laws

variable {s t : State} {n : Nat}

/-! ### One link -/

theorem linkOf_setLink (s : State) (n : Nat) (l : Link) : linkOf (setLink s n l) n = l := by
  rw [linkOf, show mget (setLink s n l).links n = some l from mget_mput_self ..]
  rfl

theorem linkOf_of_links (h : t.links = s.links) (n : Nat) : linkOf t n = linkOf s n := by
  rw [linkOf, h, linkOf]

theorem links_raise (s : State) (b : Blk) (i bit : Nat) (items : List Nat) : (raise s b i bit items).links = s.links :=
  (congrArg State.links (ringsOnly_raise s b i bit items).rest).trans rfl

/-! ### Streams that move -/

theorem links_resend (s : State) (ms : List Msg) : (resend s ms).links = s.links :=
  foldl_keeps (g := State.links) (fun t m => by unfold route; dsimp only; split <;> rfl) _ s

theorem hif_resend (s : State) (ms : List Msg) : (resend s ms).hif = s.hif :=
  foldl_keeps (g := State.hif) (fun t m => by unfold route; dsimp only; split <;> rfl) _ s

theorem kept_resend_lnk (s : State) (ms : List Msg) : kept (resend s ms) .lnk n 0x10 = kept s .lnk n 0x10 :=
  foldl_keeps (g := fun u => kept u .lnk n 0x10) (fun t m => by
    have hkey (u : State) (i lo w k : Nat) : kept (bump u .col i 0x110 lo w k) .lnk n 0x10 = kept u .lnk n 0x10 :=
      kept_setReg_of_ne (by simp only [regKey, pageOf, blkBase]; omega)
    dsimp only
    rw [hkey]
    unfold route
    dsimp only
    split <;> rfl) _ s

theorem moveStreams_keeps {β : Type} {g : State → β} (hcol : ∀ (t : State) (f : Col → Col), g (setCol t f) = g t)
    (hsend : ∀ (t : State) (ms : List Msg), g (resend t ms) = g t) (s : State) : g (moveStreams s) = g s := by
  unfold moveStreams
  refine foldl_keeps (fun t k => ?_) _ s
  dsimp only
  split
  · rfl
  · split
    · exact hcol ..
    · split
      · rfl
      · exact hsend ..

theorem links_moveStreams (s : State) : (moveStreams s).links = s.links := moveStreams_keeps (fun _ _ => rfl) links_resend s

theorem hif_moveStreams (s : State) : (moveStreams s).hif = s.hif := moveStreams_keeps (fun _ _ => rfl) hif_resend s

theorem kept_moveStreams_lnk (s : State) (n : Nat) : kept (moveStreams s) .lnk n 0x10 = kept s .lnk n 0x10 :=
  moveStreams_keeps (g := fun u => kept u .lnk n 0x10) (fun _ _ => rfl) kept_resend_lnk s

/-! ### The identity exchange -/

section Exchange
variable {cls far part : Nat}

theorem exec_identityExchange (hlive : linkLives s n = true) (hin : inClass s = true)
    (hst : ((linkOf s n).state = .training ∧ (linkOf s n).aligned = true) ∨ (linkOf s n).state = .inService) :
    exec (.identityExchange n cls far part true) s = .next (moveStreams (exchange s n cls far part)) := by
  change execIdentityExchange n cls far part true s = _
  have hgo : ((linkOf s n).state = .training && (linkOf s n).aligned || (linkOf s n).state = .inService) = true := by
    rcases hst with ⟨h, h'⟩ | h <;> simp [*]
  unfold execIdentityExchange
  dsimp only
  rw [hlive, hin, if_neg (by simp), if_pos hgo]

/-- A link held for its far end. -/
def miswired (s : State) (n cls far : Nat) : State :=
  if (linkOf s n).retest
    then countFailed (setLink s n { linkOf s n with
      state := .detention, farClass := cls, farLink := far, fails := 0, retest := false, standIn := 0x1F }) n
  else setLink s n { linkOf s n with state := .detention, farClass := cls, farLink := far, fails := 0, retest := false, standIn := 0x1F }

theorem holdMiswired_eq (s : State) (n cls far cause : Nat) :
    holdMiswired s n cls far cause = post (miswired s n cls far) .lnk n 0x0100 [n, cls, far, cause] := rfl

theorem miswired_held (s : State) (n cls far : Nat) : (linkOf (miswired s n cls far) n).state = .detention ∧
    miswired s n cls far = { s with links := (miswired s n cls far).links, regs := (miswired s n cls far).regs } := by
  unfold miswired
  split
  · exact ⟨congrArg Link.state (linkOf_setLink ..), rfl⟩
  · exact ⟨congrArg Link.state (linkOf_setLink ..), rfl⟩

theorem exchange_admitted (hrole : linkRole n ≠ .spare) (hfar : rightFar s n cls far = true)
    (hpart : part = Config.partNumber s.part) : exchange s n cls far part = admitLink s n cls far := by
  simp [exchange, hrole, hfar, hpart]

theorem exchange_miswired {cause : Nat} (h : (cause = 1 ∧ linkRole n ≠ .spare ∧ rightFar s n cls far = false) ∨
    (cause = 1 ∧ linkRole n = .spare ∧ standInFor s cls far = none) ∨
    (cause = 2 ∧ linkRole n ≠ .spare ∧ rightFar s n cls far = true ∧ part ≠ Config.partNumber s.part)) :
    exchange s n cls far part = holdMiswired s n cls far cause := by
  rcases h with ⟨rfl, hrole, hfar⟩ | ⟨rfl, hrole, hnone⟩ | ⟨rfl, hrole, hfar, hpart⟩
  · simp [exchange, hrole, hfar]
  · simp [exchange, hrole, hnone]
  · simp [exchange, hrole, hfar, hpart]

/-- The spare that stands in for a link. -/
def stoodIn (s : State) (n cls far m : Nat) : State :=
  setLink (admitLink s n cls far) n { linkOf (admitLink s n cls far) n with standIn := m }

theorem exchange_stoodIn {m : Nat} (hrole : linkRole n = .spare) (hm : standInFor s cls far = some m)
    (hpart : part = Config.partNumber s.part) : exchange s n cls far part = post (stoodIn s n cls far m) .lnk n 0x0101 [m] := by
  simp only [exchange, hrole, hm, hpart, if_pos, decide_true, Bool.not_true, Bool.false_eq_true, if_false]
  rfl

theorem state_admitLink (s : State) (n cls far : Nat) : (linkOf (admitLink s n cls far) n).state = .inService := by
  unfold admitLink
  dsimp only
  split
  · refine (congrArg Link.state (linkOf_of_links (links_post ..) n)).trans ?_
    exact congrArg Link.state (linkOf_setLink s n _)
  · rw [linkOf_setLink]

end Exchange

/-! ### Retraining -/

/-- A link whose retrain has begun. -/
def retraining (s : State) (n cause : Nat) : State :=
  setLink (setReg s .lnk n 0x014 0) n { linkOf s n with
    state := .retraining, cause := cause, fails := 0, retest := true
    aligned := (linkOf s n).aligned && (linkOf s n).state = .training }

theorem beginRetrain_eq (cause : Nat) (h : (linkOf s n).state ≠ .retraining) (hd : (linkOf s n).state ≠ .down) :
    beginRetrain s n cause = attempt (moveStreams (retraining s n cause)) n := by
  unfold beginRetrain
  dsimp only
  rw [if_neg (by simp [h, hd])]
  rfl

theorem links_attempt (s : State) (n : Nat) : (attempt s n).links = s.links := by
  unfold attempt
  dsimp only
  split
  · exact links_raise ..
  · rfl

theorem linkOf_beginRetrain {cause : Nat} (h : (linkOf s n).state ≠ .retraining) (hd : (linkOf s n).state ≠ .down) :
    linkOf (beginRetrain s n cause) n = { linkOf s n with
      state := .retraining, cause := cause, fails := 0, retest := true
      aligned := (linkOf s n).aligned && (linkOf s n).state = .training } := by
  rw [beginRetrain_eq cause h hd]
  exact (linkOf_of_links ((links_attempt ..).trans (links_moveStreams _)) n).trans (linkOf_setLink ..)

theorem kept_retraining (s : State) (n cause : Nat) : kept (moveStreams (retraining s n cause)) .lnk n 0x10 = kept s .lnk n 0x10 :=
  have hset : kept (setReg s .lnk n 0x014 0) .lnk n 0x10 = kept s .lnk n 0x10 := kept_setReg_of_ne (by simp [regKey])
  (kept_moveStreams_lnk _ n).trans hset

/-- A retrain in hardware mode begins at once. -/
theorem beginRetrain_hardware {cause : Nat} (h : (linkOf s n).state ≠ .retraining) (hd : (linkOf s n).state ≠ .down)
    (hmode : field s .lnk n 0x010 0 1 = 0) : beginRetrain s n cause = moveStreams (retraining s n cause) := by
  rw [beginRetrain_eq cause h hd, attempt]
  have hf : field (moveStreams (retraining s n cause)) .lnk n 0x010 0 1 = 0 := by
    rw [field, kept_retraining]
    exact hmode
  rw [hf]
  rfl

/-- A retrain in host-assisted mode waits behind its hand. -/
theorem hands_beginRetrain {cause : Nat} (h : (linkOf s n).state ≠ .retraining) (hd : (linkOf s n).state ≠ .down)
    (hmode : field s .lnk n 0x010 0 1 = 1) :
    (beginRetrain s n cause).hif.hands = s.hif.hands ++ [⟨s.hif.handSeq, pageOf .lnk n, 0, [n, cause, 1]⟩] := by
  have hf : field (moveStreams (retraining s n cause)) .lnk n 0x010 0 1 = 1 := by
    rw [field, kept_retraining]
    exact hmode
  have hl : linkOf (moveStreams (retraining s n cause)) n = _ :=
    (linkOf_of_links (links_moveStreams _) n).trans (linkOf_setLink ..)
  have hh : (moveStreams (retraining s n cause)).hif = s.hif := hif_moveStreams _
  rw [beginRetrain_eq cause h hd, attempt]
  rw [hf, if_pos rfl, hands_raise, hl, hh]

theorem linkOf_setReg (s : State) (b : Blk) (i off v n : Nat) : linkOf (setReg s b i off v) n = linkOf s n := rfl

theorem exec_peerLinkTrainingDone (hlive : linkLives s n = true) (hst : (linkOf s n).state = .training) (aligned : Bool) :
    exec (.peerLinkTrainingDone n aligned) s = .next (
      if aligned then setLink s n { linkOf s n with aligned := true, fails := 0 }
      else if (linkOf s n).fails ≥ 2 then moveStreams (setLink s n { linkOf s n with aligned := false, fails := 0, state := .detention })
      else setLink s n { linkOf s n with aligned := false, fails := (linkOf s n).fails + 1 }) := by
  change execPeerLinkTrainingDone n aligned s = _
  unfold execPeerLinkTrainingDone
  dsimp only
  rw [hlive, hst, if_neg (by decide)]

theorem exec_linkBlockLockLoss (hlive : linkLives s n = true) (hst : (linkOf s n).state = .inService) :
    exec (.linkBlockLockLoss n) s = .next (beginRetrain s n 1) := by
  change execLinkBlockLockLoss n s = _
  simp [execLinkBlockLockLoss, hlive, hst]

theorem exec_linkReplayRate (hlive : linkLives s n = true) (hst : (linkOf s n).state = .inService) (frames : Nat) :
    exec (.linkReplayRate n frames) s = .next (
      if frames > 1000 then beginRetrain (bump s .lnk n 0x108 0 32 frames) n 2 else bump s .lnk n 0x108 0 32 frames) := by
  change execLinkReplayRate n frames s = _
  simp [execLinkReplayRate, hlive, hst]

/-- A link whose third attempt has failed. -/
def detained (s : State) (n : Nat) : State :=
  countFailed (setLink s n { linkOf s n with state := .detention, fails := 0, retest := false, standIn := 0x1F }) n

theorem exec_linkRetrainDone (hlive : linkLives s n = true) (hst : (linkOf s n).state = .retraining) (hhand : linkHand s n = none)
    (ok : Bool) : exec (.linkRetrainDone n ok) s = .next (
      if ok then setLink s n { linkOf s n with state := .training, aligned := true, fails := 0 }
      else if (linkOf s n).fails ≥ 2 then moveStreams (post (detained s n) .lnk n 0x0907 [])
      else attempt (setLink s n { linkOf s n with fails := (linkOf s n).fails + 1 }) n) := by
  change execLinkRetrainDone n ok s = _
  unfold execLinkRetrainDone
  dsimp only
  rw [hlive, hst, hhand, if_neg (by decide)]
  rfl

theorem linkPresent (hlive : linkLives s n = true) : blkPresent s.part .lnk n = true := by
  simp only [linkLives, Bool.and_eq_true] at hlive
  exact hlive.2

theorem exec_linkRetrainRequest (hlive : linkLives s n = true) (haux : s.pwr.auxGood = true) :
    exec (.linkRetrainRequest 0 n) s = .next (setReg (beginRetrain s n 3) .lnk n 0x014 1) := by
  refine (congrArg Host.Outcome.next (guardWrite_pf0 haux (linkPresent hlive)) : execLinkRetrainRequest 0 n s = _).trans ?_
  rw [requestRetrain, if_pos hlive]

theorem exec_linkRetrainAnswer (hlive : linkLives s n = true) (haux : s.pwr.auxGood = true) (v : W32) :
    exec (.linkRetrainAnswer 0 n v) s = .next (answerLink s n v.toNat) :=
  (congrArg Host.Outcome.next (guardWrite_pf0 haux (linkPresent hlive)) : execLinkRetrainAnswer 0 n v s = _)

theorem answerLink_refused {v : Nat} (hbad : oldest s (pageOf .lnk n) = none ∨ 1 < v) : answerLink s n v = stick s .lnk n 1 := by
  rw [answerLink, answer]
  cases ho : oldest s (pageOf .lnk n) with
  | none => rfl
  | some h =>
    have hv := hbad.resolve_left (by rw [ho]; simp)
    match v, hv with
    | v + 2, _ => rfl

/-- Settles O41: each row by its `exec` equation, what the streams leave alone by `links_moveStreams` and `hif_moveStreams`. -/
theorem peerLinksTrainAndRetrain : Obligations.PeerLinksTrainAndRetrain := by
  unfold Obligations.PeerLinksTrainAndRetrain
  rintro s n l rfl hlive
  refine ⟨fun hst => ⟨?_, fun hf => ?_, fun hf => ?_⟩, fun hin hst cls far part => ⟨fun hrole hfar hpart => ?_, fun cause hc => ?_,
    fun m hrole hm hpart => ?_⟩, fun cls far part => ?_, fun hst => ⟨?_, fun frames hf => ?_, fun frames hf => ?_⟩,
    fun hst hhand => ⟨?_, fun hf => ?_, fun hf => ?_⟩, fun haux => ⟨fun hst hdown => ?_, fun hst => ?_, fun v => ⟨fun h ho hv => ?_,
      fun h ho hv => ?_, fun hbad => ?_⟩⟩⟩
  · exact ⟨_, exec_peerLinkTrainingDone hlive hst true, rfl⟩
  · exact ⟨_, exec_peerLinkTrainingDone hlive hst false, if_neg (Nat.not_le.mpr hf)⟩
  · exact ⟨_, exec_peerLinkTrainingDone hlive hst false, if_pos hf⟩
  · have hrun := exec_identityExchange (cls := cls) (far := far) (part := part) hlive hin hst
    rw [exchange_admitted hrole hfar hpart] at hrun
    refine ⟨_, hrun, _, _, rfl, rfl, fun h => ?_, fun h => ?_⟩ <;> rw [admitLink, h] <;> rfl
  · have hrun := exec_identityExchange (cls := cls) (far := far) (part := part) hlive hin hst
    rw [exchange_miswired hc, holdMiswired_eq] at hrun
    obtain ⟨hstate, honly⟩ := miswired_held s n cls far
    exact ⟨_, hrun, _, rfl, hstate, honly⟩
  · have hrun := exec_identityExchange (cls := cls) (far := far) (part := part) hlive hin hst
    rw [exchange_stoodIn hrole hm hpart] at hrun
    have hlink : linkOf (stoodIn s n cls far m) n = _ := linkOf_setLink ..
    exact ⟨_, hrun, _, rfl, (congrArg Link.state hlink).trans (state_admitLink s n cls far), congrArg Link.standIn hlink⟩
  · refine ⟨s, congrArg Host.Outcome.next (?_ : ite _ _ _ = s), rfl⟩
    rw [if_pos (by simp)]
  · refine ⟨_, exec_linkBlockLockLoss hlive hst, ?_⟩
    have hno : (linkOf s n).state ≠ .retraining ∧ (linkOf s n).state ≠ .down := by simp [hst]
    have hl := linkOf_beginRetrain (cause := 1) hno.1 hno.2
    refine ⟨by rw [hl], by rw [hl], by rw [hl], fun hmode => ⟨_, beginRetrain_hardware hno.1 hno.2 hmode, rfl, ?_⟩,
      hands_beginRetrain hno.1 hno.2⟩
    exact (sameRegs_setReg (s := s) (b := .lnk) (i := n) (off := 0x14) (v := 0) (List.mem_singleton_self _) :)
  · exact ⟨_, exec_linkReplayRate hlive hst frames, if_neg (Nat.not_lt.mpr hf)⟩
  · refine ⟨_, exec_linkReplayRate hlive hst frames, ?_⟩
    have hl := linkOf_beginRetrain (s := bump s .lnk n 0x108 0 32 frames) (n := n) (cause := 2)
      (fun h => absurd (hst.symm.trans h) (by decide)) (fun h => absurd (hst.symm.trans h) (by decide))
    rw [if_pos hf]
    exact ⟨congrArg Link.state hl, congrArg Link.cause hl⟩
  · exact ⟨_, exec_linkRetrainDone hlive hst hhand true, rfl⟩
  · have hrun := exec_linkRetrainDone hlive hst hhand false
    rw [if_neg Bool.false_ne_true, if_pos hf] at hrun
    exact ⟨_, hrun, _, rfl, congrArg Link.state (linkOf_setLink ..), rfl⟩
  · have hrun := exec_linkRetrainDone hlive hst hhand false
    rw [if_neg Bool.false_ne_true, if_neg (Nat.not_le.mpr hf)] at hrun
    exact ⟨_, hrun, (linkOf_of_links (links_attempt ..) n).trans (linkOf_setLink ..)⟩
  · refine ⟨_, exec_linkRetrainRequest hlive haux, ?_⟩
    have hl : linkOf (setReg (beginRetrain s n 3) .lnk n 0x014 1) n = _ := (linkOf_setReg ..).trans (linkOf_beginRetrain hst hdown)
    exact ⟨congrArg Link.state hl, congrArg Link.cause hl, congrArg Link.retest hl⟩
  · refine ⟨_, exec_linkRetrainRequest hlive haux, ?_⟩
    rw [beginRetrain]
    simp [hst]
  · refine ⟨_, exec_linkRetrainAnswer hlive haux v, ?_⟩
    rw [answerLink, answer, ho, hv]
    rfl
  · refine ⟨_, exec_linkRetrainAnswer hlive haux v, setLink (lower s h) n
      { linkOf (lower s h) n with state := .detention, fails := 0, retest := false, standIn := 0x1F }, ?_,
      congrArg Link.state (linkOf_setLink ..), rfl⟩
    rw [answerLink, answer, ho, hv]
    rfl
  · exact ⟨_, exec_linkRetrainAnswer hlive haux v, answerLink_refused hbad⟩

end Sys2Proof.Proofs
end

section
/-! The answers of the REL page, the hall monitor and resets by register (O42). -/

namespace Sys2Proof.Proofs

open Sys2Proof Sys2Proof.Machine Sys2Proof.Laws

variable {s t : State}

/-! ### Answers -/

/-- Each of the three rows writes the answer of the page's oldest hand. -/
theorem exec_answerRel {v : W32} {i : Instr} (haux : s.pwr.auxGood = true)
    (hi : i = .twinRepairAnswer 0 v ∨ i = .substitutionAnswer 0 v ∨ i = .hangEscalationAnswer 0 v) :
    exec i s = .next (answerRel s v.toNat) := by
  have hwrite : guardWrite s 0 .rel 0 (fun s => answerRel s v.toNat) = answerRel s v.toNat := guardWrite_pf0 haux rfl
  rcases hi with rfl | rfl | rfl <;> exact congrArg Host.Outcome.next hwrite

/-- What the answer of a hand on the REL page does. -/
def relAnswered (t : State) (h : Hand) (v : Nat) : Option State :=
  match h.bit with
  | 0 => answerTwin t h v
  | 1 => answerSubstitution t h v
  | _ => answerEscalation t h v

theorem answerRel_oldest {h : Hand} (ho : oldest s (pageOf .rel 0) = some h) (v : Nat) :
    answerRel s v = (relAnswered (lower s h) h v).getD (stick s .rel 0 1) := by
  have hrel : answerRel s v = answer s .rel 0 fun h t => relAnswered t h v := rfl
  rw [hrel, answer, ho]
  dsimp only
  cases relAnswered (lower s h) h v <;> rfl

section Answers
variable {h : Hand} {v : Nat}

theorem relAnswered_twin (hb : h.bit = 0) : relAnswered t h v = answerTwin t h v := by
  rw [relAnswered, hb]
  rfl

theorem relAnswered_substitution (hb : h.bit = 1) : relAnswered t h v = answerSubstitution t h v := by
  rw [relAnswered, hb]
  rfl

theorem relAnswered_escalation (hb : 2 ≤ h.bit) : relAnswered t h v = answerEscalation t h v := by
  unfold relAnswered
  split
  · omega
  · omega
  · rfl

theorem answerTwin_none (hv : 2 < v) : answerTwin t h v = none := by
  match v, hv with
  | v + 3, _ =>
    unfold answerTwin
    split
    · exact if_neg (by omega)
    · rfl

section Repair
variable {r : Repair} (hr : t.twin.repairs.find? (fun r => r.hand = some h.seq) = some r)
include hr

/-- A twin-repair hand that copies one way or the other. -/
theorem answerTwin_copies (hv : v < 2) : answerTwin t h v =
    some (proposeStep (setRepair t { r with hand := none, divergent := [], act := v + 1 })
      { r with hand := none, divergent := [], act := v + 1 }) := by
  unfold answerTwin
  rw [hr]
  match v, hv with
  | 0, _ => rfl
  | 1, _ => rfl

/-- A twin-repair hand that keeps both records. -/
theorem answerTwin_kept : answerTwin t h 2 = some (sendTwin (dropRepair
    (r.divergent.foldl (fun w d => post w .rel 0 0x0105 [d.1, d.2.1, d.2.2, 2 ^ 64 - 1]) t) r.key) (.repairStep r.key 0 false 3)) := by
  unfold answerTwin
  rw [hr]
  rfl

end Repair

theorem answerEscalation_none (hv : 2 < v) : answerEscalation t h v = none := by
  match v, hv with
  | v + 3, _ => rfl

theorem answerSubstitution_none (hv : 1 < v) : answerSubstitution t h v = none := by
  unfold answerSubstitution
  exact if_pos hv

theorem relAnswered_none (hv : 2 < v) : relAnswered t h v = none := by
  unfold relAnswered
  split
  · exact answerTwin_none hv
  · exact answerSubstitution_none (by omega)
  · exact answerEscalation_none hv

theorem answerRel_refused (hbad : oldest s (pageOf .rel 0) = none ∨ 2 < v) : answerRel s v = stick s .rel 0 1 := by
  cases ho : oldest s (pageOf .rel 0) with
  | none => rw [answerRel, answer, ho]
  | some h => rw [answerRel_oldest ho, relAnswered_none (hbad.resolve_left (by rw [ho]; simp))]; rfl

/-- A substitution hand seats its substitute, the next in reserve, or none. -/
theorem answerSubstitution_found {x : Nat × Nat} (hx : t.cores.substituting.find? (fun e => e.1 = h.items.getD 1 0) = some x) (hv : v ≤ 1) :
    answerSubstitution t h v = some (
      if v = 1 then makeAbsent t (h.items.getD 1 0) x.2
      else if mget t.cores.seats (h.items.getD 2 0) = some .reserve then seatSubstitute t (h.items.getD 1 0) x.2 (h.items.getD 2 0)
      else match substituteFor t (h.items.getD 1 0) with
        | some p => seatSubstitute t (h.items.getD 1 0) x.2 p
        | none => makeAbsent t (h.items.getD 1 0) x.2) := by
  unfold answerSubstitution
  dsimp only
  rw [if_neg (by omega), hx]
  dsimp only
  split
  · rfl
  · split
    · rfl
    · cases substituteFor t (h.items.getD 1 0) <;> rfl

end Answers

/-! ### Registers -/

theorem exec_deviceRecoveryRequest (fn : Nat) : exec (.deviceRecoveryRequest fn) s = .next (guardWrite s fn .dev 0 fun s => startRecovery s 2) :=
  rfl

theorem blkPresent_of_locate {p : Part} {off i o : Nat} {b : Blk} (h : locate p off = some (b, i, o)) : blkPresent p b i = true := by
  unfold locate at h
  obtain ⟨b', _, h⟩ := Option.bind_eq_some_iff.mp h
  dsimp only at h
  split at h
  · obtain ⟨rfl, rfl, _⟩ := h
    assumption
  · cases h

theorem exec_functionResetRequest_unmapped {off : Nat} (haux : s.pwr.auxGood = true) (h : locate s.part off = none) :
    exec (.functionResetRequest 0 off) s = .next (unmapped s) := by
  change execFunctionResetRequest 0 off s = _
  simp [execFunctionResetRequest, haux, h]

theorem exec_functionResetRequest {off i o f : Nat} {b : Blk} (haux : s.pwr.auxGood = true) (h : locate s.part off = some (b, i, o))
    (hpage : absentPage s b i = false) (hf : resetTarget s b i = some f) :
    exec (.functionResetRequest 0 off) s = .next (functionReset s f 2) := by
  change execFunctionResetRequest 0 off s = _
  simp [execFunctionResetRequest, haux, h, guardWrite_pf0 haux (blkPresent_of_locate h), hpage, requestReset, hf]

/-! ### The hall monitor -/

theorem hands_post (s : State) (b : Blk) (i code : Nat) (items : List Nat) : (post s b i code items).hif.hands = s.hif.hands := by
  have hput (u : State) (e : EventRec) : (putEvent u e).hif.hands = u.hif.hands := by
    unfold putEvent
    repeat' split
    all_goals rfl
  exact (hput ..).trans rfl

theorem escalationHand_of_hands (h : t.hif.hands = s.hif.hands) (fn : Nat) : escalationHand t fn = escalationHand s fn := by
  rw [escalationHand, h, escalationHand]

theorem tick_post (s : State) (b : Blk) (i code : Nat) (items : List Nat) : (post s b i code items).tick = s.tick :=
  (congrArg State.tick (ringsOnly_post s b i code items).rest).trans rfl

/-- The views whose units stood still for their deadline. -/
def hungViews (s : State) (vs : List HallView) : List (HallView × HallUnit) :=
  (vs.map fun v => (v, hallEntry s v)).filter fun p => p.2.stalled ≥ hallDeadline s p.1.kind && !p.2.ignored

/-- The reading kept of each view. -/
def keptHall (s : State) (vs : List HallView) : List HallUnit :=
  vs.map fun v => if (hungViews s vs).any fun p => p.1.key = v.key then { hallEntry s v with stalled := 0 } else hallEntry s v

theorem exec_hallMonitorCheck (hup : isUp s = true) {vs : List HallView} (hvs : vs = hallCores s ++ hallQueues s ++ hallShared s) :
    exec .hallMonitorCheck s = .next ((hungViews s vs).foldl (fun q p => fireHall q p.1 p.2.stalled)
      (setRel s fun r => { r with hall := keptHall s vs }, [])).1 := by
  subst hvs
  change execHallMonitorCheck s = _
  unfold execHallMonitorCheck
  rw [hup, if_neg (by decide)]
  rfl

theorem exec_hallMonitorCheck_down (hdown : isUp s = false) : exec .hallMonitorCheck s = .next s := by
  change execHallMonitorCheck s = _
  simp [execHallMonitorCheck, hdown]

theorem hungViews_nil {vs : List HallView} (h : ∀ v ∈ vs, (hallEntry s v).stalled < hallDeadline s v.kind ∨ (hallEntry s v).ignored = true) :
    hungViews s vs = [] := by
  simp only [hungViews, List.filter_eq_nil_iff, List.mem_map]
  rintro p ⟨v, hv, rfl⟩
  rcases h v hv with h | h
  · simp [Nat.not_le.mpr h]
  · simp [h]

theorem hungViews_one {v : HallView} (hd : hallDeadline s v.kind ≤ (hallEntry s v).stalled) (hi : (hallEntry s v).ignored = false) :
    hungViews s [v] = [(v, hallEntry s v)] := by
  simp [hungViews, hd, hi]

/-- The state in which the monitor fires for its only view. -/
def firing (s : State) (v : HallView) : State :=
  bump (setRel s fun r => { r with hall := [{ hallEntry s v with stalled := 0 }] }) .rel 0 0x11C 0 16 1

/-- The monitor with its one view hung. -/
theorem exec_hallMonitorCheck_one (hup : isUp s = true) {vs : List HallView} {v : HallView}
    (hvs : vs = hallCores s ++ hallQueues s ++ hallShared s) (hv : vs = [v]) (hd : hallDeadline s v.kind ≤ (hallEntry s v).stalled)
    (hi : (hallEntry s v).ignored = false) : exec .hallMonitorCheck s =
      .next (fireHall (setRel s fun r => { r with hall := [{ hallEntry s v with stalled := 0 }] }, []) v (hallEntry s v).stalled).1 := by
  have hrun := exec_hallMonitorCheck hup hvs
  have hkept : keptHall s [v] = [{ hallEntry s v with stalled := 0 }] := by
    rw [keptHall, hungViews_one hd hi]
    simp
  rw [hv, hungViews_one hd hi, hkept] at hrun
  exact hrun

section Fire
variable {v : HallView} {stalled : Nat}

/-- The event of a firing. -/
def fired (s : State) (v : HallView) (stalled : Nat) : State :=
  post (firing s v) .rel 0 0x0800 [v.key / 4096 * 4096, v.kind, stalled * 25000]

theorem escalationHand_fired (s : State) (v : HallView) (stalled fn : Nat) : escalationHand (fired s v stalled) fn = escalationHand s fn :=
  escalationHand_of_hands (hands_post ..) fn

theorem field_fired (s : State) (v : HallView) (stalled lo w : Nat) : field (fired s v stalled) .rel 0 0x10C lo w = field s .rel 0 0x10C lo w := by
  have hbump : SameRegs s (firing s v) [pageOf .rel 0 + 0x11C] :=
    sameRegs_bump (setRel s fun r => { r with hall := [{ hallEntry s v with stalled := 0 }] }) .rel 0 0x11C 0 16 1
  have hkey : mget (fired s v stalled).regs (pageOf .rel 0 + 0x10C) = mget s.regs (pageOf .rel 0 + 0x10C) :=
    (sameRegs_post (firing s v) .rel 0 0x0800 _ _ (by simp [regKey, pageOf, blkBase])).trans (hbump _ (by decide))
  simp only [field, kept, regKey, hkey]

theorem resetRecent_fired (s : State) (v : HallView) (stalled fn : Nat) : resetRecent (fired s v stalled) fn = resetRecent s fn := by
  have hrel : (fired s v stalled).rel.resetEnds = s.rel.resetEnds := (congrArg Rel.resetEnds (rel_post (firing s v) ..)).trans rfl
  have htick : (fired s v stalled).tick = s.tick := tick_post ..
  unfold resetRecent
  rw [hrel, htick, field_fired]

theorem fireHall_eq (s : State) (v : HallView) (stalled : Nat) :
    (fireHall (setRel s fun r => { r with hall := [{ hallEntry s v with stalled := 0 }] }, []) v stalled) =
      if v.kind = 2 then (if (escalationHand (fired s v stalled) 0xF).isSome then fired s v stalled
        else escalate (fired s v stalled) 0xF (v.key / 4096 * 4096) (stalled * 25000), [])
      else if v.fn = 0 || ([] : List Nat).contains v.fn || (escalationHand (fired s v stalled) v.fn).isSome then (fired s v stalled, [])
      else if resetRecent (fired s v stalled) v.fn
        then (escalate (fired s v stalled) v.fn (v.key / 4096 * 4096) (stalled * 25000), [] ++ [v.fn])
      else (functionReset (fired s v stalled) v.fn 1, [] ++ [v.fn]) := rfl

theorem fireHall_shared (hk : v.kind = 2) (hhand : (escalationHand s 0xF).isSome = true) :
    (fireHall (setRel s fun r => { r with hall := [{ hallEntry s v with stalled := 0 }] }, []) v stalled).1 = fired s v stalled := by
  rw [fireHall_eq, if_pos hk, escalationHand_fired, if_pos hhand]

theorem fireHall_function (hk : v.kind ≠ 2) (hfn : v.fn ≠ 0) (hhand : escalationHand s v.fn = none) (hr : resetRecent s v.fn = false) :
    (fireHall (setRel s fun r => { r with hall := [{ hallEntry s v with stalled := 0 }] }, []) v stalled).1 =
      functionReset (fired s v stalled) v.fn 1 := by
  rw [fireHall_eq, if_neg hk, escalationHand_fired, hhand, if_neg (by simp [hfn]), resetRecent_fired, hr, if_neg Bool.false_ne_true]

end Fire

/-- Settles O42: the answers by `answerRel_oldest`, the monitor by what a firing leaves alone. -/
theorem reliabilityAnswersAndMonitor : Obligations.ReliabilityAnswersAndMonitor := by
  unfold Obligations.ReliabilityAnswersAndMonitor
  intro s
  refine ⟨fun haux v i hi => ⟨fun hbad => ⟨_, exec_answerRel haux hi, answerRel_refused hbad⟩, fun h ho => ?_⟩,
    fun haux => ⟨⟨_, congrArg Host.Outcome.next (guardWrite_pf0 haux rfl), rfl⟩, fun fn hfn => ?_, fun off b i o f hloc hpage hf =>
      ⟨_, exec_functionResetRequest haux hloc hpage hf, rfl⟩⟩,
    fun off haux hloc => ⟨_, exec_functionResetRequest_unmapped haux hloc, rfl⟩, fun hdown => ⟨_, exec_hallMonitorCheck_down hdown, rfl⟩,
    fun hup vs hvs => ⟨fun hquiet => ?_, ?_, ?_⟩⟩
  · have hrun := exec_answerRel haux hi
    rw [answerRel_oldest ho] at hrun
    generalize v.toNat = v at hrun
    have hcores : (lower s h).cores = s.cores := rfl
    have htwin : (lower s h).twin = s.twin := rfl
    refine ⟨fun r act hb hr hv hact => ?_, fun r hb hr hv => ?_, fun x hb hx => ⟨fun hv hq => ?_, fun hv hq => ⟨fun p hp => ?_, fun hp => ?_⟩,
      fun hv => ?_⟩, fun hb hv => ?_, fun hb hv => ?_, fun hb hv => ?_, fun hb hv => ?_⟩
    · subst hact
      rw [← htwin] at hr
      rw [relAnswered_twin hb, answerTwin_copies hr hv, Option.getD_some] at hrun
      exact ⟨_, hrun, _, rfl, rfl⟩
    · rw [← htwin] at hr
      rw [relAnswered_twin hb, hv, answerTwin_kept hr, Option.getD_some] at hrun
      exact ⟨_, hrun, _, rfl, rfl⟩
    · rw [relAnswered_substitution hb, answerSubstitution_found (t := lower s h) hx (by omega), if_neg (by omega), hcores, if_pos hq] at hrun
      exact ⟨_, hrun, rfl⟩
    · rw [relAnswered_substitution hb, answerSubstitution_found (t := lower s h) hx (by omega), if_neg (by omega), hcores, if_neg hq, hp] at hrun
      exact ⟨_, hrun, rfl⟩
    · rw [relAnswered_substitution hb, answerSubstitution_found (t := lower s h) hx (by omega), if_neg (by omega), hcores, if_neg hq, hp] at hrun
      exact ⟨_, hrun, rfl⟩
    · rw [relAnswered_substitution hb, answerSubstitution_found (t := lower s h) hx (by omega), if_pos hv] at hrun
      exact ⟨_, hrun, rfl⟩
    · rw [relAnswered_substitution hb, answerSubstitution_none (by omega)] at hrun
      exact ⟨_, hrun, rfl⟩
    · rw [relAnswered_escalation hb, hv] at hrun
      exact ⟨_, hrun, rfl⟩
    · rw [relAnswered_escalation hb, hv] at hrun
      exact ⟨_, hrun, rfl⟩
    · rw [relAnswered_escalation hb, hv] at hrun
      refine ⟨_, hrun, rfl, fun u hu hpage => ?_⟩
      obtain ⟨u', _, rfl⟩ := List.mem_map.mp hu
      split at hpage <;> simp_all
  · refine ⟨_, exec_deviceRecoveryRequest fn, guardWrite_of_forbidden haux rfl ?_⟩
    simp [mayWrite, hfn]
  · refine ⟨_, exec_hallMonitorCheck hup hvs, ?_⟩
    rw [keptHall, hungViews_nil hquiet]
    simp [setRel]
  · rintro v fn stalled hv hd hi hk rfl hfn hhand hr rfl
    refine ⟨_, exec_hallMonitorCheck_one hup hvs hv hd hi, firing s v, fireHall_function hk hfn hhand hr, rfl, rfl, rfl⟩
  · rintro v stalled hv hd hi hk hhand rfl
    refine ⟨_, exec_hallMonitorCheck_one hup hvs hv hd hi, firing s v, ?_, rfl, rfl⟩
    rw [fireHall_shared hk hhand, fired, hk]

end Sys2Proof.Proofs
end

section
/-! What device recovery rests on (O43): what the end of commands and the drain of updates leave alone. -/

namespace Sys2Proof.Proofs

open Sys2Proof Sys2Proof.Machine Sys2Proof.Laws

variable {s t u : State}

/-! ### What updates overlook -/

/-- A part of the state that neither events and hands nor messages nor the twin's state touch. -/
structure Unheard {β : Type} (g : State → β) : Prop where
  rings : ∀ {s t : State}, RingsOnly s t → g t = g s
  sent : ∀ {s t : State}, Sent s t → g t = g s
  twin : ∀ (s : State) (f : Twin → Twin), g (setTwin s f) = g s

/-- A part of the state that the drain of updates does not touch: nor tables, the bytes of memory and their marks, nor clocks. -/
structure Overlooks {β : Type} (g : State → β) : Prop extends Unheard g where
  tables : ∀ (s : State) (f : Tables → Tables), g (setTables s f) = g s
  outliers : ∀ (s : State) (o : List (Nat × Outliers)), g { s with outliers := o } = g s
  write : ∀ (s : State) (a : Nat) (bs : List Byte), g (devWrite s a bs) = g s
  mark : ∀ (s : State) (a n : Nat), g (mark s a n) = g s
  clock : ∀ (s : State) (d : Nat), g (startDomain s d) = g s

section Operations
variable {β : Type} {g : State → β} (h : Overlooks g)
include h

theorem overlooked_setTables (s : State) (f : Tables → Tables) : g (setTables s f) = g s := h.tables s f

theorem overlooked_setTwin (s : State) (f : Twin → Twin) : g (setTwin s f) = g s := h.twin s f

theorem overlooked_devWrite (s : State) (a : Nat) (bs : List Byte) : g (devWrite s a bs) = g s := h.write s a bs

theorem overlooked_mark (s : State) (a n : Nat) : g (mark s a n) = g s := h.mark s a n

theorem overlooked_startDomain (s : State) (d : Nat) : g (startDomain s d) = g s := h.clock s d

theorem overlooked_bump (s : State) (b : Blk) (i off lo w n : Nat) : g (bump s b i off lo w n) = g s := h.sent (sent_bump ..)

theorem overlooked_bump64 (s : State) (b : Blk) (i off n : Nat) : g (bump64 s b i off n) = g s := h.sent (sent_bump64 ..)

theorem overlooked_progress (s : State) (b : Blk) (i n : Nat) : g (progress s b i n) = g s := h.sent ⟨rfl, rfl⟩

theorem overlooked_post (s : State) (b : Blk) (i code : Nat) (items : List Nat) : g (post s b i code items) = g s :=
  h.rings (ringsOnly_post ..)

theorem overlooked_noteUE (s : State) (a : Nat) : g (noteUE s a) = g s := h.rings (ringsOnly_noteUE s a)

theorem overlooked_sendTwin (s : State) (b : Body) : g (sendTwin s b) = g s := h.sent (sent_send ..)

/-! ### Updates -/

theorem overlooked_unitWrite (s : State) (a : Nat) (bs : List Byte) : g (unitWrite s a bs) = g s := by
  unfold unitWrite
  split
  · exact overlooked_noteUE h ..
  · exact overlooked_devWrite h ..

theorem overlooked_sendForward (s : State) (stepEnd : Option Nat) : g (sendForward s stepEnd) = g s := by
  unfold sendForward
  dsimp only
  split
  · rfl
  · split
    · exact overlooked_setTwin h ..
    · exact (overlooked_sendTwin h ..).trans (overlooked_setTwin h ..)

theorem overlooked_secondWrite (s : State) (o : Open2) : g (secondWrite s o) = g s := by
  unfold secondWrite
  dsimp only
  split_ifs <;> simp only [overlooked_bump h, overlooked_bump64 h, overlooked_sendForward h, overlooked_progress h, overlooked_setTables h, overlooked_unitWrite h]

theorem overlooked_finishOpen (s : State) (a : Nat) : g (finishOpen s a) = g s := by
  unfold finishOpen
  split
  · rfl
  · split
    · rfl
    · exact overlooked_secondWrite h ..

theorem overlooked_requestItem (s : State) (addr n step : Nat) (byUpdate torn : Bool) :
    g (requestItem s addr n step byUpdate torn) = g s := by
  unfold requestItem
  split
  · rfl
  · simp only [overlooked_sendTwin h, overlooked_setTwin h]

theorem overlooked_requestPair (s : State) (d : ShardDesc) (i step : Nat) (byUpdate torn : Bool) :
    g (requestPair s d i step byUpdate torn) = g s :=
  (overlooked_requestItem h ..).trans (overlooked_requestItem h ..)

theorem overlooked_readParts (s : State) (addr n step : Nat) (parts : List (Nat × Nat)) (twinned byUpdate corrupt : Bool) :
    g (afterRead s (readParts s addr n step parts twinned byUpdate corrupt)) = g s := by
  have hfetch (x : Nat) : g (afterRead s (if s.twin.waits.any (·.addr = addr) then ItemRead.wait s
      else .wait (requestItem (noteUE s x) addr n step byUpdate false))) = g s := by
    split
    · rfl
    · exact (overlooked_requestItem h ..).trans (overlooked_noteUE h ..)
  unfold readParts
  dsimp only
  split
  · exact h.twin s fun t => { t with waits := t.waits.filter (·.addr != addr) }
  split
  · rfl
  split
  · split
    · exact hfetch _
    · exact overlooked_noteUE h ..
  · split
    · rfl
    · split
      · exact hfetch _
      · exact overlooked_noteUE h ..

theorem overlooked_readItem (s : State) (addr n step : Nat) (twinned byUpdate corrupt : Bool) :
    g (afterRead s (readItem s addr n step twinned byUpdate corrupt)) = g s := overlooked_readParts h ..

theorem overlooked_scaleRead (s : State) (tensor step : Nat) : g (afterRead s (scaleRead s tensor step)) = g s := by
  unfold scaleRead
  split
  · rfl
  · exact overlooked_readItem h ..

theorem overlooked_updateReads (s : State) (d : TableDesc) (step : Nat) : g (afterRead s (updateReads s d step)) = g s := by
  have hfactors : g (afterRead s (factorsReady s d step)) = g s := by
    unfold factorsReady
    split
    · exact overlooked_readItem h ..
    · rfl
  unfold updateReads
  split
  · exact overlooked_scaleRead h ..
  · exact hfactors

theorem overlooked_writeRecord (s : State) (d : TableDesc) (v : Nat) (key : RowKey) (bs : List Byte) :
    g (writeRecord s d v key bs) = g s := by
  unfold writeRecord
  simp only [overlooked_mark h, overlooked_setTables h, overlooked_unitWrite h, overlooked_devWrite h]

theorem overlooked_reportTorn (s : State) (unit addr : Nat) : g (reportTorn s unit addr) = g s := by
  unfold reportTorn
  split
  · rfl
  · simp only [overlooked_post h, overlooked_bump h, overlooked_setTables h]

theorem overlooked_repairTorn (s : State) (d : TableDesc) (v : Nat) (key : RowKey) (bs : List Byte) :
    g (afterReady (repairTorn s d v key bs)) = g s := by
  unfold repairTorn
  extract_lets a unit asked refused s' step k ws
  split
  · rfl
  split
  · split
    · rfl
    · exact overlooked_requestItem h ..
  have hs' : g s' = g s := overlooked_setTwin h ..
  split
  · exact (overlooked_reportTorn h ..).trans hs'
  · extract_lets new fa r rec' s1 s2
    have hwrite : g s1 = g s' := overlooked_writeRecord h ..
    have hpost : g (post (bump s1 .upd unit 0x11C 0 10 1) .upd unit 0x0300 [a, 3]) = g s1 :=
      (overlooked_post h ..).trans (overlooked_bump h ..)
    exact (overlooked_progress h ..).trans (hpost.trans (hwrite.trans hs'))

theorem overlooked_mendRecord (s : State) (d : TableDesc) (v : Nat) (key : RowKey) (step : Nat) :
    g (afterReady (mendRecord s d v key step)) = g s := by
  have hread := overlooked_readItem h s (recordAddr d v key) d.stride step d.twinned true false
  unfold mendRecord
  dsimp only
  cases hr : readItem s (recordAddr d v key) d.stride step d.twinned true false <;> rw [hr] at hread
  · exact overlooked_repairTorn h ..
  · exact hread
  · exact hread

theorem overlooked_readyRecord (s : State) (d : TableDesc) (v : Nat) (key : RowKey) (step : Nat) (byUpdate : Bool) :
    g (afterReady (readyRecord s d v key step byUpdate)) = g s := by
  unfold readyRecord
  extract_lets a s' read
  have hs' : g s' = g s := overlooked_finishOpen h s a
  have hread (corrupt : Bool) : g (afterRead s' (read corrupt)) = g s := (overlooked_readParts h ..).trans hs'
  split
  · exact hs'
  split
  · exact hs'
  split
  · exact (‹read false = _› ▸ hread false :)
  · exact (‹read false = _› ▸ hread false :)
  split
  · split
    · exact (‹read true = _› ▸ hread true :)
    · exact (‹read true = _› ▸ hread true :)
    · exact hs'
  split
  · exact hs'
  split
  · exact (overlooked_mendRecord h ..).trans hs'
  · exact hs'

theorem overlooked_setStat (s : State) (key : Nat) (f : UpdStat → UpdStat) : g (setStat s key f) = g s := by
  unfold setStat
  rw [overlooked_setTables h]
  unfold gradeTaken
  split_ifs
  · rfl
  · rfl
  · exact overlooked_bump h ..

theorem overlooked_firstWrite (s : State) (d : TableDesc) (v : Nat) (key : RowKey) (old state weights : List Byte) (stamp : Nat)
    (renewal : Bool) : g (firstWrite s d v key old state weights stamp renewal) = g s := by
  unfold firstWrite
  simp only [overlooked_setTables h, overlooked_mark h, overlooked_devWrite h]

theorem overlooked_updateRecord (s : State) (d : TableDesc) (pr : PendRow) (p : Params) (bs : List Byte) :
    g (updateRecord s d pr p bs) = g s := by
  unfold updateRecord
  extract_lets
  split
  · rw [overlooked_setStat h, overlooked_bump h]
  · rw [overlooked_setStat h]
    exact overlooked_firstWrite h ..

theorem overlooked_applyRow (s : State) (pr : PendRow) : g (applyRow s pr) = g s := by
  unfold applyRow
  extract_lets keep
  have hkeep (u : State) (n : Nat) : g (keep u n) = g u := overlooked_setTables h ..
  split
  · rfl
  · rename_i d _
    extract_lets a unit s1 before
    have hs1 : g s1 = g s := overlooked_startDomain h ..
    have hready := (overlooked_readyRecord h s1 d pr.slot pr.key pr.step true).trans hs1
    split
    · exact hs1
    split
    · exact (hkeep ..).trans hs1
    split
    · rename_i t hr
      rw [hr] at hready
      exact (hkeep ..).trans hready
    · rename_i t x hr
      rw [hr] at hready
      split
      · exact (overlooked_bump h ..).trans hready
      · exact hready
    · rename_i t bs hr
      rw [hr] at hready
      have hreads := (overlooked_updateReads h t d pr.step).trans hready
      split
      · exact (overlooked_bump h ..).trans hready
      split
      · exact (overlooked_noteUE h ..).trans hready
      · rename_i hu
        rw [hu] at hreads
        exact (hkeep ..).trans hreads
      · rename_i hu
        rw [hu] at hreads
        exact hreads
      · exact hready
      · extract_lets now
        exact (overlooked_updateRecord h ..).trans hready

theorem overlooked_retryRows (s : State) : g (retryRows s) = g s :=
  (foldl_keeps (g := g) (overlooked_applyRow h) _ _).trans (overlooked_setTables h ..)

theorem overlooked_countTile (s : State) (step : Nat) : g (countTile s step) = g s := overlooked_setTables h ..

theorem overlooked_raiseChannels (s : State) (tensor depth : Nat) (ws : List (List Val)) :
    g (raiseChannels s tensor depth ws) = g s := h.outliers ..

theorem overlooked_updateTile (s : State) (d : ShardDesc) (i : Nat) (pt : PendTile) (p : Params) : g (updateTile s d i pt p) = g s := by
  unfold updateTile
  extract_lets
  split
  · rw [overlooked_setStat h, overlooked_bump h]
  · exact (overlooked_raiseChannels h ..).trans ((overlooked_setStat h ..).trans ((overlooked_mark h ..).trans
      ((overlooked_setTables h ..).trans ((overlooked_mark h ..).trans (overlooked_devWrite h ..)))))

theorem overlooked_rewriteTile (s : State) (d : ShardDesc) (i : Nat) (pt : PendTile) : g (rewriteTile s d i pt) = g s := by
  unfold rewriteTile
  dsimp only
  split
  · exact overlooked_bump h ..
  · split
    · rfl
    · exact overlooked_updateTile h ..

theorem overlooked_rederiveTile {s t : State} {d : ShardDesc} {i : Nat} (ht : rederiveTile s d i = some t) : g t = g s := by
  unfold rederiveTile at ht
  obtain ⟨p, _, rfl⟩ := Option.map_eq_some_iff.mp ht
  rw [overlooked_post h, overlooked_bump h, overlooked_devWrite h]

theorem overlooked_mendTile (s : State) (d : ShardDesc) (i : Nat) : g (afterReady (mendTile s d i)) = g s := by
  unfold mendTile
  extract_lets wa sa stamp w s'
  have hs' : g s' = g s := overlooked_setTwin h ..
  split
  · rfl
  split
  · rfl
  split
  · exact overlooked_requestPair h ..
  split
  · exact (overlooked_reportTorn h ..).trans hs'
  · exact (overlooked_rederiveTile h ‹_›).trans hs'

theorem overlooked_applyTile (s : State) (pt : PendTile) : g (applyTile s pt) = g s := by
  unfold applyTile
  extract_lets keep drop
  have hkeep (n : Nat) (u : State) : g (keep n u) = g u := overlooked_setTables h ..
  have hdrop (u : State) : g (drop u) = g u := overlooked_countTile h ..
  split
  · exact hdrop _
  split
  · exact hdrop _
  rename_i d _ _ i _
  extract_lets wa sa unit s1 read
  have hs1 : g s1 = g s := (overlooked_finishOpen h ..).trans (overlooked_startDomain h ..)
  have hread (a : Nat) : g (afterRead s1 (read a)) = g s := (overlooked_readItem h ..).trans hs1
  have hscale := (overlooked_scaleRead h s1 pt.hdr.tensorId pt.hdr.step).trans hs1
  have hpair (u : State) (step : Nat) (b c : Bool) (cond : Bool) (hu : g u = g s) :
      g (if cond = true then requestPair u d i step b c else u) = g s := by
    split
    · exact (overlooked_requestPair h ..).trans hu
    · exact hu
  split
  · exact (hdrop _).trans hs1
  split
  · exact (hdrop _).trans ((overlooked_bump h ..).trans hs1)
  split
  · exact (hkeep ..).trans hs1
  split
  · rename_i hr
    rw [hr] at hscale
    exact (hkeep ..).trans hscale
  · rename_i hr
    rw [hr] at hscale
    exact (hdrop _).trans hscale
  have hwa := hread wa
  have hsa := hread sa
  split
  · rename_i hr
    rw [hr] at hwa
    exact (hkeep ..).trans (hpair _ _ _ _ _ hwa)
  · rename_i hr _
    rw [hr] at hsa
    exact (hkeep ..).trans (hpair _ _ _ _ _ hsa)
  · rename_i hr _
    rw [hr] at hwa
    exact (hdrop _).trans hwa
  · rename_i hr _ _
    rw [hr] at hsa
    exact (hdrop _).trans hsa
  · have hmend := (overlooked_mendTile h s1 d i).trans hs1
    split
    · exact (hdrop _).trans ((overlooked_rewriteTile h ..).trans hs1)
    split
    · rename_i hr
      rw [hr] at hmend
      exact (hkeep ..).trans hmend
    · rename_i hr
      rw [hr] at hmend
      refine (hdrop _).trans ?_
      split
      · exact (overlooked_bump h ..).trans hmend
      · exact hmend
    · rename_i hr
      rw [hr] at hmend
      exact (hdrop _).trans ((overlooked_rewriteTile h ..).trans hmend)

theorem overlooked_drainUpdates (s : State) : g (drainUpdates s) = g s := by
  unfold drainUpdates
  extract_lets t
  have ht : g t = g s := (foldl_keeps (g := g) (overlooked_applyTile h) _ _).trans
    ((overlooked_setTables h ..).trans (overlooked_retryRows h s))
  exact (foldl_keeps (g := g) (overlooked_secondWrite h) _ _).trans ht

end Operations

/-! ### What the notices of a recovery overlook -/

section Notices
variable {β : Type} {g : State → β} (h : Unheard g)
include h

theorem unheard_withdrawAll (s : State) : g (withdrawAll s) = g s :=
  foldl_keeps (g := g) (fun _ _ => h.rings (ringsOnly_withdraw ..)) _ _

theorem unheard_abandonRepairs (s : State) : g (abandonRepairs s) = g s := by
  unfold abandonRepairs
  refine (foldl_keeps (g := g) (fun t r => ?_) _ _).trans (h.twin ..)
  have hposts (l : List Nat) : g (l.foldl (fun u a => post u .rel 0 0x0106 [a]) t) = g t :=
    foldl_keeps (g := g) (fun u a => h.rings (ringsOnly_post ..)) l t
  dsimp only
  split
  · exact (h.rings (ringsOnly_withdraw ..)).trans (hposts _)
  · exact hposts _

theorem unheard_sendAnswer (s : State) (dst tag status d0 d1 : Nat) : g (sendAnswer s dst tag status d0 d1) = g s :=
  h.sent (sent_send ..)

theorem unheard_giveNotice (s : State) : g (giveNotice s) = g s := by
  unfold giveNotice
  extract_lets s1 s2 s3
  have hs1 : g s1 = g s := (h.twin ..).trans (h.sent (sent_send ..))
  have hs2 : g s2 = g s := by
    unfold s2
    split
    · unfold answerAttach
      split
      · exact hs1
      · exact (unheard_sendAnswer h ..).trans hs1
    · exact hs1
  have hs3 : g s3 = g s := by
    unfold s3
    split
    · exact (unheard_sendAnswer h ..).trans hs2
    · exact hs2
  split
  · rfl
  · exact (unheard_abandonRepairs h _).trans ((h.twin ..).trans hs3)

end Notices

/-! ### The standing of a module -/

/-- What commands that end and updates that drain leave alone: reliability, boot, the chart of cores, whether the host is detached, PERST#
and the trip. -/
def standing (s : State) : Rel × Boot × List (Nat × Seat) × Bool × Bool × Bool :=
  (s.rel, s.boot, s.cores.seats, s.hif.detached, s.pwr.perst, s.pwr.tripped)

theorem standing_of_rings (h : RingsOnly s t) : standing t = standing s := by
  rw [h.rest, standing, h.hif]
  rfl

theorem standing_of_sent (h : Sent s t) : standing t = standing s := by
  rw [h.rest]
  rfl

theorem overlooks_standing : Overlooks standing :=
  ⟨⟨standing_of_rings, standing_of_sent, fun _ _ => rfl⟩, fun _ _ => rfl, fun _ _ => rfl, fun _ _ _ => rfl, fun _ _ _ => rfl, fun _ _ => rfl⟩

theorem standing_postCompletion (s : State) (base : Nat) (c : Completion) : standing (postCompletion s base c) = standing s := by
  unfold postCompletion
  split
  · rfl
  · split
    · rfl
    · split <;> rfl

theorem standing_remember (s : State) (c : HostCmd) (d : Option (Nat × Nat × Nat)) : standing (remember s c d) = standing s := by
  unfold remember
  split <;> rfl

theorem standing_finish (s : State) (c : HostCmd) (status d0 d1 : Nat) : standing (finish s c status d0 d1) = standing s := by
  unfold finish
  extract_lets s1 dups s2
  have hs2 : standing s2 = standing s :=
    ((rfl : standing s2 = standing s1).trans (standing_postCompletion ..)).trans ((standing_remember ..).trans rfl)
  split
  · unfold reopen
    cases dups with
    | nil => exact hs2
    | cons d ds => exact ((rfl : standing (setHif (remember s2 c none) _) = standing (remember s2 c none)).trans (standing_remember ..)).trans hs2
  · have hdups := (foldl_keeps (g := standing) (fun u d => (rfl : standing (postDuplicate status d0 d1 u d) =
      standing (postCompletion u d.cqBase (completionOf d 1 status d0 d1))).trans (standing_postCompletion ..)) dups s2).trans hs2
    unfold adminCheck
    split
    · exact (rfl : standing (startAdmin _) = _).trans hdups
    · exact hdups

theorem standing_uninstall (c : ClassCmd) (u : UndoImage) (s : State) : standing (uninstall c u s) = standing s := by
  unfold uninstall
  extract_lets
  split <;> rfl

theorem standing_abortRelays (s : State) (hit : HostCmd → Bool) : standing (abortRelays s hit) = standing s := by
  unfold abortRelays
  refine foldl_keeps (g := standing) (fun t r => ?_) _ s
  extract_lets cc others t1
  have hback : standing (takeBack t cc) = standing t := by
    unfold takeBack
    split
    · rfl
    · exact (rfl : standing (dropUndo _ _ _) = _).trans (standing_uninstall ..)
  have ht1 : standing t1 = standing t :=
    (foldl_keeps (g := standing) (fun u m => standing_of_sent (sent_send ..)) _ _).trans hback
  exact (rfl : standing (setCol t1 _) = standing t1).trans ht1

theorem standing_dropDecode (s : State) (j : DecodeJob) : standing (dropDecode s j) = standing s := by
  have hunpin (u : State) (n : Nat) : standing (unpinPage u n) = standing u := by
    have hsettle (w : State) : standing (settlePage w n) = standing w := by
      unfold settlePage
      dsimp only
      split <;> rfl
    exact (hsettle _).trans rfl
  unfold dropDecode
  exact (foldl_keeps (g := standing) (fun u n => (rfl : standing (freePage u n) = standing u)) _ _).trans
    ((foldl_keeps (g := standing) hunpin _ _).trans rfl)

theorem standing_abortEngines (s : State) (hit : HostCmd → Bool) : standing (abortEngines s hit) = standing s := by
  unfold abortEngines abortDecodes
  extract_lets s1 s2
  have hs1 : standing s1 = standing s := (rfl : standing s1 = _).trans
    (foldl_keeps (g := standing) (fun u b => (rfl : standing (dropBackward u b) = standing u)) _ _)
  exact (foldl_keeps (g := standing) (fun t j => ((rfl : standing (setCol (dropDecode t j) _) = standing (dropDecode t j)).trans
    (standing_dropDecode ..))) _ _).trans hs1

theorem standing_abortCommands (s : State) (hit : HostCmd → Bool) : standing (abortCommands s hit) = standing s :=
  (foldl_keeps (g := standing) (fun t c => standing_finish t c 0x30 0 0) _ _).trans
    ((standing_abortEngines ..).trans ((standing_abortRelays ..).trans rfl))

end Sys2Proof.Proofs
end

section
/-! Device recovery, PERST# and the I/O rail (O43). -/

namespace Sys2Proof.Proofs

open Sys2Proof Sys2Proof.Machine Sys2Proof.Laws

variable {s t u : State} {cause : Nat}

/-! ### The start of a recovery -/

theorem isUp_parts (hup : isUp s = true) : s.rel.recovery = 0 ∧ s.pwr.tripped = false ∧ s.boot.stopped = false := by
  simp only [isUp, Bool.and_eq_true, Bool.not_eq_true', decide_eq_true_eq] at hup
  obtain ⟨⟨⟨_, hstop⟩, htrip⟩, hrec⟩ := hup
  exact ⟨hrec, htrip, hstop⟩

/-- The notices of a recovery that starts, its hands withdrawn. -/
def announced (s : State) (cause : Nat) : State :=
  withdrawAll (giveNotice (setRel (post (bump s .rel 0 0x110 0 16 1) .rel 0 0x0803 [cause])
    fun r => { r with afterReturn := handsToRaise (post (bump s .rel 0 0x110 0 16 1) .rel 0 0x0803 [cause]) }))

/-- The host detached for a recovery. -/
def hostGone (s : State) (cause : Nat) : State :=
  setHif (detachHost (announced s cause) 3) fun h => { h with cause := 3, waitGo := false }

/-- What a recovery clears of the boot and the rules, and how it marks itself, once commands have ended. -/
def recoveryMark (x : State) (cause tick : Nat) : State :=
  let s6 := setBoot x fun b => { b with m0 := [], m1 := [], challenge := none, granted := b.granted / 4 * 4 }
  let s7 := { s6 with scaling := s6.scaling.map fun e => (e.1, { e.2 with answer := if e.2.silentHand then none else e.2.answer }) }
  setRel s7 fun r => { r with recovery := 2, recoveryCause := cause, recoveryStart := tick, hall := [] }

/-- A recovery whose updates drain. -/
def draining (s : State) (cause : Nat) : State := recoveryMark (abortCommands (hostGone s cause) fun _ => true) cause s.tick

theorem startRecovery_up (hup : isUp s = true) (cause : Nat) : startRecovery s cause = drainRecovery (draining s cause) := by
  unfold startRecovery
  rw [hup, if_neg (by decide)]
  rfl

theorem startRecovery_down (hdown : isUp s = false) (cause : Nat) : startRecovery s cause = s := by
  unfold startRecovery
  rw [hdown, if_pos (by decide)]

theorem standing_announced (s : State) (cause : Nat) :
    standing (announced s cause) = standing { s with rel := (announced s cause).rel } ∧
      (announced s cause).rel = { s.rel with afterReturn := (announced s cause).rel.afterReturn } := by
  have hpost : standing (post (bump s .rel 0 0x110 0 16 1) .rel 0 0x0803 [cause]) = standing s :=
    (standing_of_rings (ringsOnly_post (bump s .rel 0 0x110 0 16 1) .rel 0 0x0803 [cause])).trans rfl
  unfold announced
  generalize hx : post (bump s .rel 0 0x110 0 16 1) .rel 0 0x0803 [cause] = x at *
  have hall : standing (withdrawAll (giveNotice (setRel x fun r => { r with afterReturn := handsToRaise x }))) =
      standing (setRel x fun r => { r with afterReturn := handsToRaise x }) :=
    (unheard_withdrawAll overlooks_standing.toUnheard _).trans (unheard_giveNotice overlooks_standing.toUnheard _)
  have hrel : (withdrawAll (giveNotice (setRel x fun r => { r with afterReturn := handsToRaise x }))).rel =
      { s.rel with afterReturn := handsToRaise x } :=
    (congrArg (·.1) hall).trans (congrArg (fun r => { r with afterReturn := handsToRaise x }) (congrArg (·.1) hpost))
  rw [hrel]
  refine ⟨hall.trans ?_, rfl⟩
  simp only [standing, Prod.mk.injEq] at hpost ⊢
  obtain ⟨hr, hb, hs, hd, hp, ht⟩ := hpost
  exact ⟨congrArg (fun r => { r with afterReturn := handsToRaise x }) hr, hb, hs, hd, hp, ht⟩

/-- What the start of a recovery leaves of the module's standing. -/
structure Recovering (s : State) (cause : Nat) (t : State) : Prop where
  cause : t.rel.recoveryCause = cause
  start : t.rel.recoveryStart = s.tick
  rail : t.rel.railDie = s.rel.railDie
  detached : t.hif.detached = true
  seats : t.cores.seats = s.cores.seats
  granted : t.boot.granted = s.boot.granted / 4 * 4
  stopped : t.boot.stopped = s.boot.stopped
  perst : t.pwr.perst = s.pwr.perst
  tripped : t.pwr.tripped = s.pwr.tripped

theorem standing_detachHost (s : State) (cause : Nat) : (detachHost s cause).hif.detached = true ∧
    standing (detachHost s cause) = standing (setHif s fun h => { h with detached := true }) := by
  unfold detachHost
  split
  · refine ⟨‹_›, ?_⟩
    simp [standing, setHif, *]
  · exact ⟨rfl, rfl⟩

theorem standing_hostGone (s : State) (cause : Nat) : standing (hostGone s cause) = standing (detachHost (announced s cause) 3) := by
  unfold hostGone
  generalize detachHost (announced s cause) 3 = x
  rfl

theorem recovering_recoveryMark {x : State} (hs : x.cores.seats = s.cores.seats) (hd : x.hif.detached = true) (hb : x.boot = s.boot)
    (hr : x.rel.railDie = s.rel.railDie) (hp : x.pwr.perst = s.pwr.perst) (ht : x.pwr.tripped = s.pwr.tripped) (cause : Nat) :
    Recovering s cause (recoveryMark x cause s.tick) :=
  ⟨rfl, rfl, hr, hd, hs, congrArg (fun b : Boot => b.granted / 4 * 4) hb,
    show x.boot.stopped = s.boot.stopped from congrArg Boot.stopped hb, hp, ht⟩

theorem recovering_draining (s : State) (cause : Nat) : Recovering s cause (draining s cause) := by
  obtain ⟨hsay, hrel⟩ := standing_announced s cause
  obtain ⟨_, hdet⟩ := standing_detachHost (announced s cause) 3
  have hall := (standing_abortCommands (hostGone s cause) fun _ => true).trans ((standing_hostGone s cause).trans hdet)
  unfold draining
  generalize (abortCommands (hostGone s cause) fun _ => true) = x at *
  generalize announced s cause = y at *
  simp only [standing, Prod.mk.injEq] at hall hsay
  obtain ⟨hr, hb, hs, hd, hp, ht⟩ := hall
  obtain ⟨_, hb', hs', hd', hp', ht'⟩ := hsay
  exact recovering_recoveryMark (hs.trans hs') hd (hb.trans hb') ((congrArg Rel.railDie (hr.trans hrel)).trans rfl) (hp.trans hp')
    (ht.trans ht') cause

theorem recovery_draining (s : State) (cause : Nat) : (draining s cause).rel.recovery = 2 := by
  unfold draining
  generalize (abortCommands (hostGone s cause) fun _ => true) = x
  rfl

theorem drainRecovery_waits (h : drainWaits (drainUpdates u) = true) : drainRecovery u = drainUpdates u := if_pos h

theorem drainRecovery_done (h : drainWaits (drainUpdates u) = false) : drainRecovery u =
    stopUnits (setRel (drainUpdates u) fun r => { r with recovery := if r.railDie.isSome then 3 else 4 }) := if_neg (by simp [h])

theorem rel_drainUpdates (u : State) : (drainUpdates u).rel = u.rel := congrArg (·.1) (overlooked_drainUpdates overlooks_standing u)

theorem Recovering.of_standing (h : Recovering s cause u) (hst : standing t = standing u) : Recovering s cause t := by
  simp only [standing, Prod.mk.injEq] at hst
  obtain ⟨hr, hb, hs, hd, hp, ht⟩ := hst
  exact ⟨hr ▸ h.cause, hr ▸ h.start, hr ▸ h.rail, hd ▸ h.detached, hs ▸ h.seats, hb ▸ h.granted, hb ▸ h.stopped, hp ▸ h.perst, ht ▸ h.tripped⟩

theorem Recovering.drained (h : Recovering s cause u) (f : Nat) :
    Recovering s cause (stopUnits (setRel u fun r => { r with recovery := f })) :=
  ⟨h.cause, h.start, h.rail, h.detached, h.seats, h.granted, h.stopped, h.perst, h.tripped⟩

theorem recovering_startRecovery (hup : isUp s = true) (cause : Nat) : Recovering s cause (startRecovery s cause) := by
  have hv : Recovering s cause (drainUpdates (draining s cause)) :=
    (recovering_draining s cause).of_standing (overlooked_drainUpdates overlooks_standing _)
  rw [startRecovery_up hup]
  generalize draining s cause = u at *
  cases hw : drainWaits (drainUpdates u) with
  | true => exact drainRecovery_waits hw ▸ hv
  | false =>
    rw [drainRecovery_done hw]
    exact hv.drained _

/-- What the drain of a recovery does beside the updates. -/
theorem drainRecovery_drains (u : State) : (drainWaits (drainUpdates u) = true → drainRecovery u = drainUpdates u) ∧
    (drainWaits (drainUpdates u) = false → (drainRecovery u).rel.recovery = (if u.rel.railDie.isSome then 3 else 4) ∧
      (drainRecovery u).cores.sram = [] ∧ (drainRecovery u).pwr.passes = [] ∧ (drainRecovery u).gddr.selfRefresh = true ∧
      (drainRecovery u).mem = (drainUpdates u).mem) := by
  refine ⟨drainRecovery_waits, fun hw => ?_⟩
  rw [drainRecovery_done hw, ← rel_drainUpdates u]
  generalize drainUpdates u = v
  exact ⟨rfl, rfl, rfl, rfl, rfl⟩

theorem recovery_startRecovery (hup : isUp s = true) (cause : Nat) : (startRecovery s cause).rel.recovery = 2 ∨
    (startRecovery s cause).rel.recovery = if s.rel.railDie.isSome then 3 else 4 := by
  have hrail := (recovering_draining s cause).rail
  have htwo := recovery_draining s cause
  rw [startRecovery_up hup]
  generalize draining s cause = u at *
  obtain ⟨hwait, hdone⟩ := drainRecovery_drains u
  rw [← hrail]
  cases hw : drainWaits (drainUpdates u) with
  | true => exact .inl ((congrArg (·.rel.recovery) (hwait hw)).trans ((congrArg Rel.recovery (rel_drainUpdates u)).trans htwo))
  | false => exact .inr (hdone hw).1

/-! ### Memory through the start of a recovery -/

/-- Memory, and the work that a recovery may write to it for. -/
def quietWork (s : State) : List Host.Cell × Tables × List HostCmd × List Relay × List DecodeJob :=
  (s.mem, s.tables, s.hif.running, s.col.relays, s.decodes)

theorem unheard_quietWork : Unheard quietWork where
  rings h := by
    rw [h.rest, quietWork, h.hif]
    rfl
  sent h := by
    rw [h.rest, quietWork, h.col]
    rfl
  twin _ _ := rfl

theorem quietWork_hostGone (s : State) (cause : Nat) : quietWork (hostGone s cause) = quietWork s := by
  have hdetach (x : State) : quietWork (detachHost x 3) = quietWork x := by
    unfold detachHost
    split <;> rfl
  have hset (x : State) : quietWork (setHif x fun h => { h with cause := 3, waitGo := false }) = quietWork x := rfl
  have hpost : quietWork (post (bump s .rel 0 0x110 0 16 1) .rel 0 0x0803 [cause]) = quietWork s :=
    (unheard_quietWork.rings (ringsOnly_post (bump s .rel 0 0x110 0 16 1) .rel 0 0x0803 [cause])).trans rfl
  have hsay : quietWork (announced s cause) = quietWork s :=
    (unheard_withdrawAll unheard_quietWork _).trans ((unheard_giveNotice unheard_quietWork _).trans hpost)
  exact (hset _).trans ((hdetach _).trans hsay)

/-- Updates that have nothing to drain. -/
theorem mem_drainUpdates (ho : u.tables.open2 = []) (hr : u.tables.pendRows = []) (ht : u.tables.pendTiles = []) :
    (drainUpdates u).mem = u.mem := by
  have hrows : retryRows u = setTables u fun t => { t with pendRows := [] } := by
    rw [retryRows, hr]
    rfl
  have htiles (x : State) (h : x.tables.pendTiles = []) : retryTiles x = setTables x fun t => { t with pendTiles := [] } := by
    rw [retryTiles, h]
    rfl
  have hopen (x : State) (h : x.tables.open2 = []) : ((x.tables.open2.filter fun o => !writeHeld x o).foldl secondWrite x).mem = x.mem := by
    rw [h]
    rfl
  have hall := htiles (setTables u fun t => { t with pendRows := [] }) ht
  rw [← hrows] at hall
  refine (hopen (retryTiles (retryRows u)) ?_).trans ?_ <;> rw [hall, hrows]
  · exact ho
  · rfl

/-- Memory and what the update units have accepted. -/
def accepted (s : State) : List Host.Cell × List Open2 × List PendRow × List PendTile :=
  (s.mem, s.tables.open2, s.tables.pendRows, s.tables.pendTiles)

/-- Commands that end where none runs, relays or decodes. -/
theorem abortCommands_idle {x : State} (hrun : x.hif.running = []) (hrel : x.col.relays = []) (hdec : x.decodes = [])
    (hback : x.tables.backwards = []) : accepted (abortCommands x fun _ => true) = accepted x := by
  have hrelays : abortRelays (abortCores x fun _ => true) (fun _ => true) = abortCores x fun _ => true := by
    unfold abortRelays
    rw [show (abortCores x fun _ => true).col.relays = [] from hrel]
    rfl
  have hengines (y : State) (hb : y.tables.backwards = []) (hd : y.decodes = []) :
      accepted (abortEngines y fun _ => true) = accepted y := by
    unfold abortEngines abortDecodes
    dsimp only [setTables, setCol]
    rw [hb, List.filter_nil, List.foldl_nil, hd]
    rfl
  unfold abortCommands
  dsimp only
  rw [hrun, List.filter_nil, List.foldl_nil, hrelays]
  exact (hengines (abortCores x fun _ => true) hback hdec).trans rfl

theorem mem_startRecovery (hup : isUp s = true) (cause : Nat) (hrun : s.hif.running = []) (hrel : s.col.relays = []) (hdec : s.decodes = [])
    (hback : s.tables.backwards = []) (ho : s.tables.open2 = []) (hrows : s.tables.pendRows = []) (htiles : s.tables.pendTiles = []) :
    (startRecovery s cause).mem = s.mem := by
  have hgone := quietWork_hostGone s cause
  rw [startRecovery_up hup, draining]
  generalize hostGone s cause = x at *
  simp only [quietWork, Prod.mk.injEq] at hgone
  obtain ⟨hmem, htab, hrun', hrel', hdec'⟩ := hgone
  have hidle := abortCommands_idle (hrun'.trans hrun) (hrel'.trans hrel) (hdec'.trans hdec) ((congrArg Tables.backwards htab).trans hback)
  generalize (abortCommands x fun _ => true) = y at *
  simp only [accepted, Prod.mk.injEq, htab] at hidle
  obtain ⟨hmem', ho', hrows', htiles'⟩ := hidle
  have hdrain : (drainUpdates (recoveryMark y cause s.tick)).mem = y.mem :=
    mem_drainUpdates (ho'.trans ho) (hrows'.trans hrows) (htiles'.trans htiles)
  have hall : (drainRecovery (recoveryMark y cause s.tick)).mem = (drainUpdates (recoveryMark y cause s.tick)).mem := by
    obtain ⟨hwait, hdone⟩ := drainRecovery_drains (recoveryMark y cause s.tick)
    cases hw : drainWaits (drainUpdates (recoveryMark y cause s.tick)) with
    | true => rw [hwait hw]
    | false => exact (hdone hw).2.2.2.2
  exact hall.trans (hdrain.trans (hmem'.trans hmem))

/-! ### Steps 4 to 6 -/

section Run
variable {report : TestReport}

theorem runRecovery_held (h : s.rel.recovery ≠ 4 ∨ s.pwr.perst = true ∨ s.rel.railDie.isSome = true) : runRecovery s report = s := by
  unfold runRecovery
  rcases h with h | h | h <;> simp [h]

/-- What a recovery does to a module whose core image boots. -/
def restored (s : State) (r : TestReport) : State :=
  retrainMemory (trainLinks (rebuildChart (retestCores (dropUnloaded s r).1 r)
    ((dropUnloaded s r).1.cores.substituting ++ (dropUnloaded s r).2)) r) r

theorem runRecovery_runs (h4 : s.rel.recovery = 4) (hp : s.pwr.perst = false) (ht : s.pwr.tripped = false) (hr : s.rel.railDie = none)
    (hb : s.boot.stopped = false) : runRecovery s report =
      if !(bootManagement s).2 then stopBoot (bootManagement s).1
      else if !(bootKind (bootManagement s).1 2).2
        then setRel (enterFailed (bootKind (bootManagement s).1 2).1) fun x => { x with recovery := 7 }
      else setRel (restored (bootKind (bootManagement s).1 2).1 report) fun x => { x with recovery := 7 } := by
  unfold runRecovery
  rw [if_neg (by simp [h4, hp, ht, hr, hb])]
  rfl

/-- What the retest and retraining of units leave alone: memory, the twin and tables. -/
def contents (s : State) : List Host.Cell × Twin × Tables := (s.mem, s.twin, s.tables)

theorem contents_of_rings (h : RingsOnly s t) : contents t = contents s := by
  rw [h.rest]
  rfl

theorem contents_post (s : State) (b : Blk) (i code : Nat) (items : List Nat) : contents (post s b i code items) = contents s :=
  contents_of_rings (ringsOnly_post ..)

theorem contents_dropUnloaded (s : State) (r : TestReport) : contents (dropUnloaded s r).1 = contents s := by
  have hfold (l : List Nat) (q : State × List (Nat × Nat)) : contents (l.foldl (fun (q : State × List (Nat × Nat)) p =>
      match mget q.1.cores.seats p with
      | some (.seated n) => (post (setSeat q.1 p .outOfService) .tst 0 0x090A [], q.2 ++ [(n, p)])
      | some .reserve => (post (setSeat q.1 p .outOfService) .tst 0 0x090A [], q.2)
      | _ => q) q).1 = contents q.1 := by
    induction l generalizing q with
    | nil => rfl
    | cons p l ih =>
      rw [List.foldl_cons, ih]
      split
      · exact (contents_post ..).trans rfl
      · exact (contents_post ..).trans rfl
      · rfl
  exact hfold ..

theorem contents_retestCores (s : State) (r : TestReport) : contents (retestCores s r) = contents s :=
  foldl_keeps (g := contents) (fun t e => by
    dsimp only
    split
    · exact (contents_post ..).trans rfl
    · rfl) _ s

theorem contents_rebuildChart (s : State) (lost : List (Nat × Nat)) : contents (rebuildChart s lost) = contents s :=
  (foldl_keeps (g := contents) (fun t n => by
    have hbump (x : State) (lo : Nat) : contents (bump x .rel 0 0x118 lo 16 1) = contents x := rfl
    split
    · rw [hbump, contents_post]
      rfl
    · split
      · rw [announceAbsent, hbump, contents_post]
      · rfl) _ _).trans rfl

/-- Memory trained again: its contents stand, no channel waits, and self-refresh is over. -/
theorem retrainMemory_frame (s : State) (r : TestReport) : contents (retrainMemory s r) = contents s ∧
    (retrainMemory s r).gddr.retraining = [] ∧ (retrainMemory s r).gddr.selfRefresh = false := by
  have htrain : contents (trainMemory s r) = contents s ∧ (trainMemory s r).gddr.retraining = [] := by
    unfold trainMemory
    extract_lets rates
    refine ⟨(foldl_keeps (g := contents) (fun t e => contents_post ..) _ _).trans rfl, ?_⟩
    exact (foldl_keeps (g := fun t => t.gddr.retraining) (fun t e => congrArg Gddr.retraining (gddr_post ..)) _ _).trans rfl
  unfold retrainMemory
  extract_lets away s1 back
  have hposts : contents (back.foldl (fun t c => post t .mem (c / 4) 0x0202 [c, settledRate r c]) s1) = contents s1 :=
    foldl_keeps (g := contents) (fun t c => contents_post ..) _ _
  have hretr : (back.foldl (fun t c => post t .mem (c / 4) 0x0202 [c, settledRate r c]) s1).gddr.retraining = s1.gddr.retraining :=
    foldl_keeps (g := fun t => t.gddr.retraining) (fun t c => congrArg Gddr.retraining (gddr_post ..)) _ _
  obtain ⟨hcont, hnone⟩ := htrain
  generalize (back.foldl (fun t c => post t .mem (c / 4) 0x0202 [c, settledRate r c]) s1) = x at *
  exact ⟨(rfl : contents (setGddr x _) = contents x).trans (hposts.trans hcont), hretr.trans hnone, rfl⟩

theorem restored_frame (s : State) (r : TestReport) : contents (restored s r) = contents s ∧
    (restored s r).gddr.retraining = [] ∧ (restored s r).gddr.selfRefresh = false := by
  obtain ⟨hcont, hretr, hself⟩ := retrainMemory_frame (trainLinks (rebuildChart (retestCores (dropUnloaded s r).1 r)
    ((dropUnloaded s r).1.cores.substituting ++ (dropUnloaded s r).2)) r) r
  have hlinks (x : State) : contents (trainLinks x r) = contents x := rfl
  exact ⟨hcont.trans ((hlinks _).trans ((contents_rebuildChart ..).trans ((contents_retestCores ..).trans (contents_dropUnloaded ..)))),
    hretr, hself⟩

end Run

/-! ### The return -/

theorem exec_recoveryReturn_held (h : s.rel.recovery ≠ 7 ∨ s.pwr.perst = true ∨ s.pwr.tripped = true) :
    exec .recoveryReturn s = .next s := by
  change execRecoveryReturn s = _
  unfold execRecoveryReturn
  rcases h with h | h | h <;> simp [h]

/-- The module as it returns: recovery over, its register counted, its domains running. -/
def returned (s : State) : State :=
  setField (setRel (setPwr s fun p =>
    { p with recess := false, recessing := false, noticed := false
             running := ((if field s .hif 0 0x100 0 1 = 1 then [domHif] else []) ++ mgtDomains).foldl insertNat [] })
    fun r => { r with recovery := 0 }) .rel 0 0x114 0 20 (satN 20 ((s.tick - s.rel.recoveryStart) / 25000))

theorem returned_only (s : State) : returned s = { s with
    regs := (returned s).regs, rel := { s.rel with recovery := 0 },
    pwr := { s.pwr with recess := false, recessing := false, noticed := false, running := (returned s).pwr.running } } := rfl

/-- The work of a module that returns. -/
def resumedWork (s : State) : State :=
  kickUpdates ((s.tables.shards.map (·.2)).foldl repairShard (recoverPages (choosePair (returned s))))

theorem exec_recoveryReturn (h7 : s.rel.recovery = 7) (hp : s.pwr.perst = false) (ht : s.pwr.tripped = false) :
    exec .recoveryReturn s = .next (setHif (raiseAgain (post { resumedWork s with
      twin := { (resumedWork s).twin with notedRecovery := none, notedRemoval := false } } .rel 0 0x0804 [s.tick - s.rel.recoveryStart]))
      fun h => { h with waitGo := field s .hif 0 0x100 0 1 = 1 }) := by
  change execRecoveryReturn s = _
  unfold execRecoveryReturn
  rw [if_neg (by simp [h7, hp, ht])]
  rfl

section Pair
variable (hin : inClass s = true)
include hin

theorem choosePair_removed (hr : s.twin.notedRemoval = true) : choosePair s = leaveClass s s.job.openStep := by
  simp [choosePair, hin, hr]

/-- The pair state that a member chooses whose removal was not noted. -/
theorem choosePair_kept (hr : s.twin.notedRemoval = false) : choosePair s =
    if (s.twin.startPair = .paired && s.twin.notedRecovery = some .paired) = true then
      if !senior s then { s with twin := { s.twin with pair := .detached } }
      else if isMember s (twinOf s) then sendRemoval { s with twin := { s.twin with pair := .sole } } (twinOf s)
      else { s with twin := { s.twin with pair := .sole } }
    else if s.twin.startPair = .sole then { s with twin := { s.twin with pair := .sole } }
    else { s with twin := { s.twin with pair := .detached } } := by
  unfold choosePair
  dsimp only
  rw [if_neg (by simp [hin]), if_neg (by simp [hr])]
  rfl

section Paired
variable (hr : s.twin.notedRemoval = false) (hp : s.twin.startPair = .paired) (hn : s.twin.notedRecovery = some .paired)
include hr hp hn

theorem choosePair_senior (hs : senior s = true) : choosePair s = if isMember s (twinOf s)
    then sendRemoval { s with twin := { s.twin with pair := .sole } } (twinOf s) else { s with twin := { s.twin with pair := .sole } } := by
  rw [choosePair_kept hin hr, if_pos (by simp [hp, hn]), hs, if_neg (by decide)]

theorem choosePair_junior (hs : senior s = false) : choosePair s = { s with twin := { s.twin with pair := .detached } } := by
  rw [choosePair_kept hin hr, if_pos (by simp [hp, hn]), hs, if_pos (by decide)]

end Paired

theorem choosePair_sole (hr : s.twin.notedRemoval = false) (hp : s.twin.startPair = .sole) :
    choosePair s = { s with twin := { s.twin with pair := .sole } } := by
  rw [choosePair_kept hin hr, if_neg (by simp [hp]), if_pos hp]

theorem choosePair_other (hr : s.twin.notedRemoval = false) (hp : s.twin.startPair ≠ .sole)
    (hn : s.twin.startPair ≠ .paired ∨ s.twin.notedRecovery ≠ some .paired) :
    choosePair s = { s with twin := { s.twin with pair := .detached } } := by
  rw [choosePair_kept hin hr, if_neg (by rcases hn with h | h <;> simp [h]), if_neg hp]

end Pair

/-! ### PERST# and the rail -/

theorem exec_perstAsserted (haux : s.pwr.auxGood = true) : exec .perstAsserted s = .next (
    if s.rel.recovery = 0 then startRecovery { s with pwr := { s.pwr with perst := true } } 3
    else if s.rel.recovery < 4 then { s with pwr := { s.pwr with perst := true } }
    else stopUnits (setRel { s with pwr := { s.pwr with perst := true } } fun r => { r with recovery := 4 })) := by
  change execPerstAsserted s = _
  unfold execPerstAsserted
  rw [haux, if_neg (by decide)]
  rfl

theorem exec_perstAsserted_dark (haux : s.pwr.auxGood = false) : exec .perstAsserted s = .next s := by
  change execPerstAsserted s = _
  simp [execPerstAsserted, haux]

theorem exec_perstDeasserted (report : TestReport) : exec (.perstDeasserted report) s = .next (
    if s.rel.recovery = 4 then runRecovery { s with pwr := { s.pwr with perst := false } } report
    else continueBoot { s with pwr := { s.pwr with perst := false } } report) := rfl

/-- The module with an I/O die lost. -/
def railLost (s : State) (die : Nat) : State := { loseDie s die with rel := { s.rel with railDie := some die } }

theorem recovery_railLost (s : State) (die : Nat) : (railLost s die).rel.recovery = s.rel.recovery := rfl

theorem isUp_railLost (s : State) (die : Nat) : isUp (railLost s die) = isUp s := rfl

theorem exec_ioRailFault {die : Nat} (hd : die < Config.ioDies s.part) (hpg : s.pwr.mainPg = true) (hup : isUp s = true ∨ s.rel.recovery ≠ 0) :
    exec (.ioRailFault die) s = .next (if (startRecovery (railLost s die) 4).rel.recovery < 4 then startRecovery (railLost s die) 4
      else setRel (startRecovery (railLost s die) 4) fun r => { r with recovery := 3 }) := by
  change execIoRailFault die s = _
  have hno : (decide (die ≥ Config.ioDies s.part) || !s.pwr.mainPg || !(isUp s || s.rel.recovery != 0)) = false := by
    rcases hup with h | h <;> simp [hd, hpg, h]
  unfold execIoRailFault
  rw [hno, if_neg Bool.false_ne_true]
  rfl

theorem exec_ioRailRestore {die : Nat} (hd : s.rel.railDie = some die) (restored : Bool) : exec (.ioRailRestore die restored) s = .next (
    if restored then setRel s fun r => { r with railDie := none, recovery := if r.recovery = 3 then 4 else r.recovery }
    else if die = 0 then setBoot (setField (setRel (enterFailed s) fun r => { r with railDie := none, recovery := 0 }) .tst 0 0x100 2 1 1)
      fun b => { b with stopped := true }
    else setHif (setField (setRel (enterFailed s) fun r => { r with railDie := none, recovery := 0 }) .tst 0 0x100 2 1 1)
      fun h => { h with waitGo := field s .hif 0 0x100 0 1 = 1 }) := by
  change execIoRailRestore die restored s = _
  unfold execIoRailRestore
  rw [hd, if_neg (by simp)]

theorem bootStep_perst (s : State) (b : Bool) : bootStep { s with pwr := { s.pwr with perst := b } } = bootStep s := rfl

/-- Settles O43: the start by `recovering_startRecovery` and `drainRecovery_drains`, steps 4 to 6 by `restored_frame`. -/
theorem recoveryRunsItsSteps : Obligations.RecoveryRunsItsSteps := by
  unfold Obligations.RecoveryRunsItsSteps
  intro s
  refine ⟨?_, fun cause hdown => startRecovery_down hdown cause, ?_, fun h => ⟨_, exec_recoveryReturn_held h, rfl⟩, fun h7 hp ht => ?_,
    choosePair_removed, fun hin hr => ⟨fun hp hn hs hm => ?_, fun hp hn hs hm => ?_, fun hp hn hs => ?_, fun hp => ?_, fun hp hn => ?_⟩,
    fun haux h0 => ?_, fun haux h0 h4 => ?_, fun haux h4 => ?_, fun haux => ⟨_, exec_perstAsserted_dark haux, rfl⟩,
    fun report => ⟨fun h4 => ?_, fun h4 => ?_, fun h4 hstep => ?_⟩, ?_, fun die hd => ⟨?_, ?_⟩⟩
  · rintro cause _ hup rfl
    have h := recovering_startRecovery hup cause
    refine ⟨h.cause, h.start, h.detached, h.seats, h.granted, ?_, mem_startRecovery hup cause⟩
    have hrun := startRecovery_up hup cause
    have hrail := (recovering_draining s cause).rail
    obtain ⟨hwait, hdone⟩ := drainRecovery_drains (draining s cause)
    rw [← hrun, hrail] at hdone
    rw [← hrun] at hwait
    exact ⟨_, _, hrun, rfl, recovery_draining s cause, hrail, hwait, hdone⟩
  · rintro cause report _ hup rfl
    have h := recovering_startRecovery hup cause
    obtain ⟨_, htrip, hstop⟩ := isUp_parts hup
    refine ⟨fun hheld => ⟨_, rfl, runRecovery_held ?_⟩, fun h4 hp hr u b hb => ?_⟩
    · rwa [h.perst, h.rail]
    · have hrun : exec (.deviceRecovery cause report) s = .next (runRecovery (startRecovery s cause) report) := rfl
      rw [runRecovery_runs h4 (h.perst.trans hp) (h.tripped.trans htrip) (h.rail.trans hr) (h.stopped.trans hstop), hb] at hrun
      dsimp only at hrun
      refine ⟨fun hno => ?_, fun w hyes hw => ?_, fun w hyes hw => ?_⟩
      · rw [hno] at hrun
        exact ⟨_, hrun, rfl⟩
      · rw [hyes, hw] at hrun
        exact ⟨_, hrun, rfl⟩
      · rw [hyes, hw] at hrun
        obtain ⟨hcont, hretr, hself⟩ := restored_frame w report
        exact ⟨_, hrun, rfl, hself, hretr, congrArg (·.1) hcont, congrArg (·.2.1) hcont, congrArg (·.2.2) hcont⟩
  · exact ⟨_, exec_recoveryReturn h7 hp ht, returned s, _, returned_only s, rfl, rfl⟩
  · rw [choosePair_senior hin hr hp hn hs, if_pos hm]
  · rw [choosePair_senior hin hr hp hn hs, if_neg (by simp [hm])]
  · rw [choosePair_junior hin hr hp hn hs]
  · rw [choosePair_sole hin hr hp]
  · rw [choosePair_other hin hr hp hn]
  · exact ⟨_, exec_perstAsserted haux, if_pos h0⟩
  · exact ⟨_, exec_perstAsserted haux, (if_neg h0).trans (if_pos h4)⟩
  · have hrun := exec_perstAsserted haux
    rw [if_neg (by omega), if_neg (by omega)] at hrun
    exact ⟨_, hrun, rfl, rfl, rfl, rfl⟩
  · exact ⟨_, exec_perstDeasserted report, if_pos h4⟩
  · exact ⟨_, exec_perstDeasserted report, if_neg h4⟩
  · refine ⟨_, exec_perstDeasserted report, (if_neg h4).trans ?_⟩
    rw [continueBoot, bootStep_perst, if_neg (by simp [hstep])]
  · rintro die _ hd hpg rfl
    refine ⟨fun hup => ?_, fun hdown h0 h4 => ?_, fun hdown h4 => ?_⟩
    · have h := recovering_startRecovery (s := railLost s die) ((isUp_railLost s die).trans hup) 4
      have hrec := recovery_startRecovery (s := railLost s die) ((isUp_railLost s die).trans hup) 4
      rw [show (railLost s die).rel.railDie = some die from rfl, Option.isSome_some, if_pos rfl] at hrec
      have hrun := exec_ioRailFault hd hpg (.inl hup)
      rw [if_pos (by rcases hrec with h | h <;> rw [h] <;> decide)] at hrun
      exact ⟨_, hrun, rfl, hrec, h.rail, h.cause⟩
    · have hrun := exec_ioRailFault hd hpg (.inr h0)
      rw [startRecovery_down ((isUp_railLost s die).trans hdown), recovery_railLost, if_pos h4] at hrun
      exact ⟨_, hrun, rfl⟩
    · have hrun := exec_ioRailFault hd hpg (.inr (by omega : s.rel.recovery ≠ 0))
      rw [startRecovery_down ((isUp_railLost s die).trans hdown), recovery_railLost, if_neg (Nat.not_lt.mpr h4)] at hrun
      exact ⟨_, hrun, rfl⟩
  · exact ⟨_, exec_ioRailRestore hd true, rfl⟩
  · refine ⟨_, exec_ioRailRestore hd false, ?_⟩
    rw [if_neg Bool.false_ne_true]
    split
    · exact ⟨rfl, rfl, rfl, fun _ => rfl, rfl⟩
    · exact ⟨rfl, rfl, rfl, fun h => absurd h ‹_›, rfl⟩

end Sys2Proof.Proofs
end

section
/-! Power and thermal readings, the brake, hall passes and clocks (O44). -/

namespace Sys2Proof.Proofs

open Sys2Proof Sys2Proof.Machine Sys2Proof.Laws

variable {s t : State}

/-! ### Power readings -/

/-- A power reading, shown in its register. -/
def powerShown (s : State) (watts : Nat) : State := setField s .pwr 0 0x100 16 16 (satN 16 watts)

theorem exec_powerReading (hup : isUp s = true) (watts : Nat) : exec (.powerReading watts) s = .next (
    if watts > field s .pwr 0 0x108 0 16 then
      if field s .pwr 0 0x010 0 1 = 0 then
        post (setWidened (powerShown s watts) (min (2 * s.pwr.widened) 16)) .pwr 0 0x0707 [watts, min (2 * s.pwr.widened) 16]
      else if min (2 * s.pwr.widened) 16 = s.pwr.widened || passesHeld s then setPwr (powerShown s watts) fun w => { w with below := 0 }
      else raise (setPwr (powerShown s watts) fun w => { w with below := 0 }) .pwr 0 0
        [watts, s.pwr.widened, min (2 * s.pwr.widened) 16]
    else if 10 * watts < 9 * field s .pwr 0 0x108 0 16 then
      if s.pwr.below + 1 < 100 then setPwr (powerShown s watts) fun w => { w with below := w.below + 1 }
      else setPwr (powerShown s watts) fun w => { w with widened := max 1 (s.pwr.widened / 2), below := 0 }
    else setPwr (powerShown s watts) fun w => { w with below := 0 }) := by
  change execPowerReading watts s = _
  unfold execPowerReading
  dsimp only
  rw [hup, if_neg (by decide)]
  rfl

theorem setWidened_only (s : State) (n : Nat) :
    setWidened s n = { s with regs := (setWidened s n).regs, pwr := { s.pwr with widened := n, below := 0 } } := by
  unfold setWidened
  dsimp only
  split <;> rfl

theorem pwr_raise (s : State) (b : Blk) (i bit : Nat) (items : List Nat) : (raise s b i bit items).pwr = s.pwr :=
  (congrArg State.pwr (ringsOnly_raise s b i bit items).rest).trans rfl

/-! ### Thermal readings -/

theorem showTemps_only (s : State) (temps : List Int) : showTemps s temps = { s with regs := (showTemps s temps).regs } := by
  have hfold (l : List (Int × Nat)) (x : State) : ∃ r, l.foldl (fun t q =>
      if blkPresent t.part .pwr (dieInstance q.2) then setField t .pwr (dieInstance q.2) 0x100 16 16 (unsignedOf 16 q.1) else t) x =
        { x with regs := r } := by
    induction l generalizing x with
    | nil => exact ⟨x.regs, rfl⟩
    | cons q l ih =>
      rw [List.foldl_cons]
      split
      · exact ih _
      · exact ih x
  obtain ⟨r, hr⟩ := hfold temps.zipIdx s
  unfold showTemps
  dsimp only
  rw [hr]
  split <;> rfl

/-- The mode of the power page is no register that a reading shows. -/
theorem mode_showTemps (s : State) (temps : List Int) : kept (showTemps s temps) .pwr 0 0x10 = kept s .pwr 0 0x10 := by
  have hset (x : State) (i off v : Nat) (hoff : off = 0x100 ∨ off = 0x10C) : kept (setReg x .pwr i off v) .pwr 0 0x10 = kept x .pwr 0 0x10 :=
    kept_setReg_of_ne (by simp only [regKey, pageOf, blkBase]; omega)
  have hfold := foldl_keeps (g := fun x => kept x .pwr 0 0x10) (f := fun t (q : Int × Nat) =>
    if blkPresent t.part .pwr (dieInstance q.2) then setField t .pwr (dieInstance q.2) 0x100 16 16 (unsignedOf 16 q.1) else t)
    (fun x q => by
      split
      · exact hset x _ _ _ (.inl rfl)
      · rfl) temps.zipIdx s
  unfold showTemps
  dsimp only at hfold ⊢
  split
  · exact hfold
  · exact (hset _ _ _ _ (.inr rfl)).trans hfold

section Thermal
variable {temps : List Int} {k : Nat} {v : Int} (hhot : hottest s temps = some (k, v)) (hpg : s.pwr.mainPg = true)
  (htrip : s.pwr.tripped = false)
include hhot hpg htrip

theorem exec_thermalReading : exec (.thermalReading temps) s = .next (
    if v ≥ 1920 then trip (showTemps s temps)
    else if v ≥ 1680 && !s.pwr.thermalStep then
      post (bump (setPwr (showTemps s temps) fun w => { w with thermalStep := true, cool := 0, coolHand := 0 }) .pwr 0 0x110 0 16 1)
        .pwr 0 0x0704 []
    else if v < 1600 && s.pwr.thermalStep then coolReading (showTemps s temps) v
    else setPwr (showTemps s temps) fun w => { w with cool := 0 }) := by
  change execThermalReading temps s = _
  unfold execThermalReading
  dsimp only
  rw [hhot]
  dsimp only
  rw [if_neg (by simp [hpg, htrip])]

end Thermal

theorem trip_tripped (s : State) : (trip s).pwr.tripped = true ∧ (trip s).pwr.passes = [] ∧ (trip s).gddr.selfRefresh = true ∧
    (trip s).mem = s.mem := by
  refine ⟨rfl, rfl, rfl, ?_⟩
  unfold trip
  dsimp only [setGddr, setPwr]
  split
  · rfl
  · exact mem_post ..

section Cool
variable {v : Int} (hno : ∀ h ∈ handsOn s (pageOf .pwr 0), h.bit ≠ 1)
include hno

/-- A reading below the return, with no thermal hand standing and none that waits to come again. -/
theorem coolReading_step (hmode : field s .pwr 0 0x010 1 1 = 0 ∨ s.pwr.coolHand = 0) : coolReading s v =
    if s.pwr.cool + 1 < 10 then setPwr s fun w => { w with cool := w.cool + 1 }
    else if field s .pwr 0 0x010 1 1 = 0 then
      post (setPwr (setPwr s fun w => { w with cool := w.cool + 1 }) fun w => { w with thermalStep := false, cool := 0, coolHand := 0 })
        .pwr 0 0x0705 []
    else raiseThermal (setPwr s fun w => { w with cool := w.cool + 1 }) v := by
  have hnone : ((handsOn s (pageOf .pwr 0)).any (·.bit = 1)) = false := by
    simpa using hno
  unfold coolReading
  dsimp only
  rw [hnone, if_neg Bool.false_ne_true]
  by_cases h0 : field s .pwr 0 0x010 1 1 = 0
  · simp only [h0, if_true]
  · have hc := hmode.resolve_left h0
    simp only [h0, if_false, hc, Nat.lt_irrefl, gt_iff_lt]

end Cool

/-! ### Answers -/

theorem exec_answerPwr {x : W32} {i : Instr} (haux : s.pwr.auxGood = true) (hi : i = .staggeringAnswer 0 x ∨ i = .thermalStepAnswer 0 x) :
    exec i s = .next (answerPwr s x.toNat) := by
  have hwrite : guardWrite s 0 .pwr 0 (fun s => answerPwr s x.toNat) = answerPwr s x.toNat := guardWrite_pf0 haux rfl
  rcases hi with rfl | rfl <;> exact congrArg Host.Outcome.next hwrite

theorem answerPwr_none (ho : oldest s (pageOf .pwr 0) = none) (v : Nat) : answerPwr s v = stick s .pwr 0 1 := by
  rw [answerPwr, answer, ho]

theorem answerPwr_stagger {h : Hand} (ho : oldest s (pageOf .pwr 0) = some h) (hb : h.bit = 0) (v : Nat) :
    answerPwr s v = (answerStagger (lower s h) h (bitsOf v 8 2) (bitsOf v 0 8)).getD (stick s .pwr 0 1) := by
  rw [answerPwr, answer, ho]
  dsimp only
  rw [if_pos hb]
  cases answerStagger (lower s h) h (bitsOf v 8 2) (bitsOf v 0 8) <;> rfl

theorem answerPwr_thermal {h : Hand} (ho : oldest s (pageOf .pwr 0) = some h) (hb : h.bit ≠ 0) (v : Nat) :
    answerPwr s v = (answerThermal (lower s h) (bitsOf v 8 2)).getD (stick s .pwr 0 1) := by
  rw [answerPwr, answer, ho]
  dsimp only
  rw [if_neg hb]
  cases answerThermal (lower s h) (bitsOf v 8 2) <;> rfl

theorem answerPwr_refused {v : Nat} (hbad : oldest s (pageOf .pwr 0) = none ∨ bitsOf v 8 2 = 3) : answerPwr s v = stick s .pwr 0 1 := by
  cases ho : oldest s (pageOf .pwr 0) with
  | none => exact answerPwr_none ho v
  | some h =>
    have h3 := hbad.resolve_left (by rw [ho]; simp)
    by_cases hb : h.bit = 0
    · rw [answerPwr_stagger ho hb, h3]
      rfl
    · rw [answerPwr_thermal ho hb, h3]
      rfl

/-! ### The brake -/

theorem exec_pwrbrkAsserted (haux : s.pwr.auxGood = true) (ht : s.pwr.tripped = false) (hb : s.pwr.braked = false) :
    exec .pwrbrkAsserted s = .next (post (setPwr (bump (setPwr s fun w => { w with pwrbrk := true, releasing := false })
      .pwr 0 0x110 16 16 1) fun w => { w with braked := true }) .pwr 0 0x0702 []) := by
  change execPwrbrkAsserted s = _
  unfold execPwrbrkAsserted
  dsimp only
  rw [haux, if_neg (by decide), if_neg (by simp [ht, hb])]

theorem exec_pwrbrkAsserted_dark (haux : s.pwr.auxGood = false) : exec .pwrbrkAsserted s = .next s := by
  change execPwrbrkAsserted s = _
  simp [execPwrbrkAsserted, haux]

theorem exec_pwrbrkReleased (ht : s.pwr.tripped = false) (hb : s.pwr.braked = true) :
    exec .pwrbrkReleased s = .next (post (setPwr (setPwr s fun w => { w with pwrbrk := false, releasing := false })
      fun w => { w with braked := false }) .pwr 0 0x0703 []) := by
  change execPwrbrkReleased s = _
  unfold execPwrbrkReleased
  dsimp only
  rw [if_neg (by simp [ht, hb])]

theorem exec_assertionNotTaken (haux : s.pwr.auxGood = true) {pin : Nat} (hp : pin ≤ 1) : exec (.assertionNotTaken pin) s = .next (
    if pin = 1 && s.pwr.pwrbrk then setPwr (bump s .pwr 0 0x118 16 16 1) fun w => { w with releasing := true }
    else bump s .pwr 0 0x118 16 16 1) := by
  change execAssertionNotTaken pin s = _
  unfold execAssertionNotTaken
  dsimp only
  rw [if_neg (by simp [haux, hp])]

/-! ### Hall passes and clocks -/

section Passes
variable {die p : Nat}

/-- A pass granted to the first request of a die. -/
def granted (s : State) (die p : Nat) : State :=
  bump (setPwr s fun w =>
    { w with passes := insertNat w.passes p, requests := w.requests.filter (·.2 != p), lastGrant := mput w.lastGrant die s.tick
             running := insertNat w.running p }) .pwr (1 + die) 0x104 0 32 1

theorem exec_hallPassGrant (hp : (s.pwr.requests.find? fun q => q.2 / 34 = die).map (·.2) = some p) : exec (.hallPassGrant die) s = .next (
    if !isUp s || passesHeld s || (s.pwr.recess && !s.pwr.recessing) || !grantDue s die then s else granted s die p) := by
  change execHallPassGrant die s = _
  unfold execHallPassGrant
  rw [hp]
  rfl

theorem exec_hallPassGrant_none (hnone : ∀ q ∈ s.pwr.requests, q.2 / 34 ≠ die) : exec (.hallPassGrant die) s = .next s := by
  have hfind : (s.pwr.requests.find? fun q => q.2 / 34 = die) = none := by simpa using hnone
  change execHallPassGrant die s = _
  unfold execHallPassGrant
  rw [hfind]
  rfl

theorem exec_hallPassRelease (hp : p ∈ s.pwr.passes) (hidle : coreIdle (coreAt s p) = true) : exec (.hallPassRelease p) s = .next (
    setPwr s fun w => { w with passes := w.passes.filter (· != p), running := w.running.filter (· != p) }) := by
  change execHallPassRelease p s = _
  unfold execHallPassRelease
  rw [if_neg (by simp [hp, hidle])]

theorem exec_domainClockStop (d : Nat) : exec (.domainClockStop d) s = .next (
    if d < 272 || keepsClock s d then s else setPwr s fun w => { w with running := w.running.filter (· != d) }) := rfl

end Passes

/-- Settles O44: each row by its `exec` equation, its cases by the readings and answers that they name. -/
theorem powerInputsAndPasses : Obligations.PowerInputsAndPasses := by
  unfold Obligations.PowerInputsAndPasses
  intro s
  refine ⟨?_, ?_, fun haux x i hi => ⟨fun hbad => ⟨_, exec_answerPwr haux hi, answerPwr_refused hbad⟩, fun h ho => ?_⟩,
    fun haux ht hb => ⟨_, exec_pwrbrkAsserted haux ht hb, _, rfl, rfl⟩, fun haux => ⟨_, exec_pwrbrkAsserted_dark haux, rfl⟩,
    fun ht hb => ⟨_, exec_pwrbrkReleased ht hb, _, rfl, rfl⟩, fun pin haux hp => ?_, fun die p hp hup => ⟨fun hheld hrec hdue => ?_, fun hno => ?_⟩,
    fun die hnone => ⟨_, exec_hallPassGrant_none hnone, rfl⟩, fun p hp hidle => ?_, fun d => ⟨fun hd hk => ?_, fun hd => ?_⟩⟩
  · rintro watts _ hup rfl
    have hrun := exec_powerReading hup watts
    refine ⟨fun hover hmode => ?_, fun hover hmode hwide hheld => ?_, fun hunder h90 hb => ?_, fun hunder h90 hb => ?_, fun hunder h90 => ?_⟩
    · rw [if_pos hover, if_pos hmode] at hrun
      exact ⟨_, hrun, _, rfl, setWidened_only (powerShown s watts) _⟩
    · rw [if_pos hover, if_neg (by simp [hmode]), if_neg (by simp [hheld]; omega)] at hrun
      exact ⟨_, hrun, (hands_raise ..).trans rfl, (pwr_raise ..).trans rfl⟩
    · rw [if_neg (Nat.not_lt.mpr hunder), if_pos h90, if_pos (by omega)] at hrun
      exact ⟨_, hrun, rfl⟩
    · rw [if_neg (Nat.not_lt.mpr hunder), if_pos h90, if_neg (by omega)] at hrun
      exact ⟨_, hrun, rfl⟩
    · rw [if_neg (Nat.not_lt.mpr hunder), if_neg (by omega)] at hrun
      exact ⟨_, hrun, rfl⟩
  · intro temps k v hhot hpg htrip
    have hrun := exec_thermalReading hhot hpg htrip
    have honly := showTemps_only s temps
    refine ⟨fun hv => ?_, fun hv hv' hstep => ?_, fun hv hstep hno => ?_, fun hv hv' => ?_⟩
    · rw [if_pos hv] at hrun
      obtain ⟨htripped, hpass, hself, hmem⟩ := trip_tripped (showTemps s temps)
      exact ⟨_, hrun, htripped, hpass, hself, hmem.trans ((congrArg State.mem honly).trans rfl)⟩
    · rw [if_neg (by omega), if_pos (by simp [hv, hstep])] at hrun
      refine ⟨_, hrun, _, rfl, ?_⟩
      rw [honly]
      rfl
    · rw [if_neg (by omega), if_neg (by simp [hstep]), if_pos (by simp [hv, hstep])] at hrun
      have hmode : field (showTemps s temps) .pwr 0 0x010 1 1 = field s .pwr 0 0x010 1 1 := by
        rw [field, mode_showTemps, field]
      have hpwr : (showTemps s temps).pwr = s.pwr := (congrArg State.pwr honly).trans rfl
      have hhif : (showTemps s temps).hif = s.hif := (congrArg State.hif honly).trans rfl
      have hno' : ∀ h ∈ handsOn (showTemps s temps) (pageOf .pwr 0), h.bit ≠ 1 := by
        rw [handsOn, hhif]
        exact hno
      have hcool (hm : field s .pwr 0 0x010 1 1 = 0 ∨ s.pwr.coolHand = 0) := coolReading_step (v := v) hno' (by rw [hmode, hpwr]; exact hm)
      rw [hmode, hpwr] at hcool
      refine ⟨fun hc hm => ?_, fun hc hm => ?_, fun hc hm hh => ?_⟩
      · rw [hcool hm, if_pos hc] at hrun
        refine ⟨_, hrun, ?_⟩
        rw [honly]
        rfl
      · rw [hcool (.inl hm), if_neg (Nat.not_lt.mpr hc), if_pos hm] at hrun
        refine ⟨_, hrun, _, rfl, ?_⟩
        rw [honly]
        rfl
      · rw [hcool (.inr hh), if_neg (Nat.not_lt.mpr hc), if_neg (by simp [hm])] at hrun
        refine ⟨_, hrun, ?_, ?_⟩
        · rw [raiseThermal, hands_raise]
          dsimp only [setPwr]
          rw [hhif]
        · rw [raiseThermal, pwr_raise]
          dsimp only [setPwr]
          rw [hpwr]
    · rw [if_neg (by omega), if_neg (by simp; omega), if_neg (by simp; omega)] at hrun
      refine ⟨_, hrun, ?_⟩
      rw [honly]
      rfl
  · have hrun := exec_answerPwr haux hi
    generalize x.toNat = v at *
    refine ⟨fun hb ha => ?_, fun hb ha hlo hhi => ?_, fun hb ha hbad => ?_, fun hb ha => ?_, fun hb ha => ?_, fun hb ha => ?_, fun hb ha => ?_⟩
    · rw [answerPwr_stagger ho hb, ha] at hrun
      exact ⟨_, hrun, rfl⟩
    · rw [answerPwr_stagger ho hb, ha, answerStagger, if_pos (by simp [hlo, hhi])] at hrun
      exact ⟨_, hrun, rfl⟩
    · rw [answerPwr_stagger ho hb, ha, answerStagger, if_neg (by simp; omega)] at hrun
      exact ⟨_, hrun, rfl⟩
    · rw [answerPwr_stagger ho hb, ha] at hrun
      exact ⟨_, hrun, rfl⟩
    · rw [answerPwr_thermal ho hb, ha] at hrun
      exact ⟨_, hrun, rfl⟩
    · rw [answerPwr_thermal ho hb, ha] at hrun
      exact ⟨_, hrun, rfl⟩
    · rw [answerPwr_thermal ho hb, ha] at hrun
      exact ⟨_, hrun, rfl⟩
  · refine ⟨_, exec_assertionNotTaken haux hp, _, rfl, ?_⟩
    by_cases h : (pin = 1 && s.pwr.pwrbrk) = true
    · rw [if_pos h, h, Bool.or_true]
      rfl
    · rw [if_neg h, Bool.eq_false_of_not_eq_true h, Bool.or_false]
      rfl
  · have hrun := exec_hallPassGrant hp
    have hr : (s.pwr.recess && !s.pwr.recessing) = false := by
      cases h : s.pwr.recess
      · rfl
      · simp [hrec h]
    rw [if_neg (by simp [hup, hheld, hr, hdue])] at hrun
    exact ⟨_, hrun, mem_insertNat.mpr (.inl rfl), fun q => by simp [granted, setPwr, bump, setField, setReg], mem_insertNat.mpr (.inl rfl),
      mget_mput_self .., rfl⟩
  · refine ⟨_, exec_hallPassGrant hp, if_pos ?_⟩
    rcases hno with h | h <;> simp [h]
  · exact ⟨_, exec_hallPassRelease hp hidle, by simp [setPwr], by simp [setPwr], rfl⟩
  · have hrun := exec_domainClockStop (s := s) d
    rw [if_neg (by simp [hk]; omega)] at hrun
    exact ⟨_, hrun, by simp [setPwr], rfl⟩
  · refine ⟨_, exec_domainClockStop d, if_pos ?_⟩
    rcases hd with h | h <;> simp [h]

end Sys2Proof.Proofs
end

section
/-! Recess and wake, the report card, the transcript sweep (O45). -/

namespace Sys2Proof.Proofs

open Sys2Proof Sys2Proof.Machine Sys2Proof.Laws

variable {s t : State} {c : HostCmd}

/-! ### The entry into recess -/

/-- A module on its way into recess. -/
def recessBegun (s : State) : State := setPwr s fun w => { w with recessing := true }

/-- The notice of recess on its way to the twin. -/
def recessNoticed (s : State) : State := sendTwin (setPwr s fun w => { w with recessing := true, noticed := true }) .recessNotice

theorem sends_sendTwin (s : State) (b : Body) : Sends s (sendTwin s b) [twinOf s] 0x0C b := (sendsVia_send ..).sendsEach

theorem sends_sendTwin_setPwr (s : State) (f : Pwr → Pwr) (b : Body) : Sends s (sendTwin (setPwr s f) b) [twinOf s] 0x0C b := by
  have hsends := sends_sendTwin (setPwr s f) b
  exact hsends

theorem sends_recessNoticed (s : State) : Sends s (recessNoticed s) [twinOf s] 0x0C .recessNotice := by
  unfold recessNoticed
  exact sends_sendTwin_setPwr ..

theorem sent_sendTwin (s : State) (b : Body) : Sent s (sendTwin s b) := sent_send ..

theorem sent_recessNoticed (s : State) : Sent (setPwr s fun w => { w with recessing := true, noticed := true }) (recessNoticed s) := by
  unfold recessNoticed
  exact sent_sendTwin ..

theorem recessNoticed_frame (s : State) : (recessNoticed s).pwr = { s.pwr with recessing := true, noticed := true } ∧
    (recessNoticed s).hif = s.hif :=
  ⟨(congrArg State.pwr (sent_recessNoticed s).rest).trans rfl, (sent_recessNoticed s).hif_eq⟩

section Approach
variable {keep : Bool} (hback : keep = true ∨ backlog s = 0)
include hback

theorem approachSleep_notice (hm : isMember s (twinOf s) = true) (hn : s.pwr.noticed = false) :
    approachSleep s keep = (recessNoticed s, false) := by
  unfold approachSleep
  dsimp only
  rw [if_neg (by rcases hback with h | h <;> simp [h]), if_pos (by simp [hm, hn])]
  rfl

theorem approachSleep_done (hm : isMember s (twinOf s) = false ∨ s.pwr.noticed = true) (hopen : noticeOpen s = false) :
    approachSleep s keep = (recessBegun s, true) := by
  unfold approachSleep
  dsimp only
  rw [if_neg (by rcases hback with h | h <;> simp [h]), if_neg (by rcases hm with h | h <;> simp [h]), hopen]
  rfl

end Approach

section Enter
variable (hc : ready s 0x001E c = true)
include hc

theorem exec_recessEnter_refused (hr : s.pwr.recessing = false) (hno : s.job.running = true ∨ enrolling s = true ∨ s.hif.hands ≠ []) :
    exec (.recessEnter c) s = .next (finish s c 0x12 (2 ^ 64 - 1) 0) := by
  change execRecessEnter c s = _
  rw [execRecessEnter, runCmd_of_ready hc, if_pos]
  · rfl
  · rcases hno with h | h | h <;> simp [hr, h]

theorem exec_recessEnter (hfree : s.pwr.recessing = true ∨ (s.job.running = false ∧ enrolling s = false ∧ s.hif.hands = []))
    (hrun : s.hif.running = [c]) (hdup : s.hif.duplicates = []) : exec (.recessEnter c) s = .next (
      if (approachSleep s (bitOf c.slot.param0 0)).2 then sleep (post (done (approachSleep s (bitOf c.slot.param0 0)).1 c) .pwr 0 0x0700 [0])
      else (approachSleep s (bitOf c.slot.param0 0)).1) := by
  change execRecessEnter c s = _
  rw [execRecessEnter, runCmd_of_ready hc, if_neg, if_neg]
  · simp [hrun, hdup]
  · rcases hfree with h | ⟨hj, he, hh⟩
    · simp [h]
    · simp [hj, he, hh]

end Enter

/-! ### Sleep -/

theorem sleep_waits (h : s.gddr.retraining ≠ []) : sleep s = { s with pwr := { s.pwr with sleeping := true } } := by
  unfold sleep
  rw [if_pos (by simpa using h)]
  rfl

/-- A module asleep. -/
def asleep (s : State) : State :=
  bump (setGddr (setPwr (linkPower s .inService .lowPower) fun w => { w with
    recess := true, recessing := false, sleeping := false, passes := [], requests := [], running := [] })
    fun g => { g with selfRefresh := true }) .pwr 0 0x114 0 16 1

theorem sleep_trained (h : s.gddr.retraining = []) : sleep s = if doorbellOpen s then beginWake (asleep s) else asleep s := by
  unfold sleep
  rw [if_neg (by simp [h])]
  rfl

theorem state_linkPower {a b : LinkState} (hab : b ≠ a) {e : Nat × Link} (he : e ∈ (linkPower s a b).links) : e.2.state ≠ a := by
  obtain ⟨e', _, rfl⟩ := List.mem_map.mp he
  dsimp only
  split
  · exact hab
  · assumption

/-! ### Automatic recess -/

section Auto
variable (hup : isUp s = true) (hrec : s.pwr.recess = false) (hsl : s.pwr.sleeping = false) (hidle : field s .pwr 0 0x104 16 16 ≠ 0)
include hup hrec hsl hidle

theorem exec_autoRecess (hj : s.job.running = false) (he : enrolling s = false) (hh : s.hif.hands = []) (hb : hostBusy s = false) :
    exec .autoRecess s = .next (if (approachSleep s false).2 then sleep (post (approachSleep s false).1 .pwr 0 0x0700 [1])
      else (approachSleep s false).1) := by
  change execAutoRecess s = _
  unfold execAutoRecess
  rw [if_neg (by simp [hup, hrec, hsl, hidle]), if_neg (by simp [hj, he, hh, hb])]

theorem exec_autoRecess_busy (hno : s.job.running = true ∨ enrolling s = true ∨ s.hif.hands ≠ [] ∨ hostBusy s = true)
    (hn : s.pwr.noticed = false) :
    exec .autoRecess s = .next { s with pwr := { s.pwr with recessing := false, noticed := false } } := by
  change execAutoRecess s = _
  unfold execAutoRecess
  rw [if_neg (by simp [hup, hrec, hsl, hidle]), if_pos (by rcases hno with h | h | h | h <;> simp [h])]
  dsimp only
  rw [hn, if_neg Bool.false_ne_true]
  rfl

end Auto

theorem exec_autoRecess_off (h : field s .pwr 0 0x104 16 16 = 0) : exec .autoRecess s = .next s := by
  change execAutoRecess s = _
  unfold execAutoRecess
  rw [if_pos (by simp [h])]

/-! ### Wake -/

/-- A module awake, its twin not told yet. -/
def awake (s : State) : State :=
  setGddr (setPwr (linkPower s .lowPower .inService) fun w =>
    { w with recess := false, recessing := false, noticed := false
             running := (domHif :: (ioNetDomains s ++ memDomains s ++ mgtDomains)).foldl insertNat w.running })
    fun g => { g with selfRefresh := false }

theorem exec_wake (hr : s.pwr.recess = true) (ht : s.pwr.tripped = false) : exec .wake s =
    .next (post (if s.pwr.noticed then sendTwin (awake s) .wakeNotice else awake s) .pwr 0 0x0701 []) := by
  change execWake s = _
  unfold execWake
  rw [if_neg (by simp [hr, ht])]
  rfl

theorem exec_wake_awake (hr : s.pwr.recess = false) : exec .wake s = .next s := by
  change execWake s = _
  unfold execWake
  rw [if_pos (by simp [hr])]

theorem mem_foldl_insertNat {d : Nat} {l m : List Nat} : d ∈ l.foldl insertNat m ↔ d ∈ l ∨ d ∈ m := by
  induction l generalizing m with
  | nil => simp
  | cons x l ih =>
    rw [List.foldl_cons, ih, mem_insertNat, List.mem_cons]
    tauto

theorem sent_wakeNotice (s : State) : Sent (awake s) (if s.pwr.noticed then sendTwin (awake s) .wakeNotice else awake s) := by
  split
  · exact sent_send ..
  · exact .refl _

/-! ### The report card and the transcript -/

theorem exec_reportCard {r : Rings} (hr : s.hif.rings = some r) (hd : s.hif.detached = false) (hup : isUp s = true) :
    exec .reportCard s = .next (setHif (hostWrite s (.card r.card (cardOf s))) fun h => { h with cardSeq := h.cardSeq + 1 }) := by
  change execReportCard s = _
  unfold execReportCard
  rw [hr]
  dsimp only
  rw [if_neg (by simp [hostAway, hd, hup])]

theorem exec_reportCard_away (h : s.hif.rings = none ∨ s.hif.detached = true) : exec .reportCard s = .next s := by
  change execReportCard s = _
  unfold execReportCard
  cases hr : s.hif.rings with
  | none => rfl
  | some r =>
    have hd := h.resolve_left (by simp [hr])
    dsimp only
    rw [if_pos (by simp [hostAway, hd])]

theorem exec_transcriptSweep_away (budget : Nat) (h : s.hif.rings = none ∨ s.hif.detached = true ∨ s.pwr.recess = true) :
    exec (.transcriptSweep budget) s = .next s := by
  change execTranscriptSweep budget s = _
  unfold execTranscriptSweep
  rcases h with h | h | h
  · split
    · rfl
    · rw [h]
  · rw [if_pos (by simp [hostAway, h])]
  · rw [if_pos (by simp [h])]

/-- What the rate cap allows a sweep. -/
def sweepRoom (r : Rings) (budget : Nat) : SweepRoom :=
  ⟨if r.rateCap = 0 then none else some (min budget (r.rateCap * 1000000)), 0, budget ≥ r.rateCap * 1000000⟩

theorem exec_transcriptSweep {r : Rings} (hup : isUp s = true) (hf : s.boot.failed = false) (hrec : s.pwr.recess = false)
    (hd : s.hif.detached = false) (hr : s.hif.rings = some r) (budget : Nat) :
    exec (.transcriptSweep budget) s = .next (runSweep s r budget) := by
  change execTranscriptSweep budget s = _
  unfold execTranscriptSweep
  rw [if_neg (by simp [hup, hf, hrec, hostAway, hd]), hr]

/-- A sweep with nothing marked writes its end mark alone. -/
theorem runSweep_empty {r : Rings} {budget : Nat} (hsw : s.hif.sweep = none) (hm : markedItems s = []) (hdm : s.gddr.descMarks = [])
    (hfits : fits s r (sweepRoom r budget) 72 = true) : runSweep s r budget =
      setGddr (setHif (emit s r 6 0 0 0 s.job.openStep (leBytes 8 s.job.openStep)) fun h => { h with sweep := none, trWait := false })
        fun g => { g with marks := g.marks.filter fun m => (sweepItems s).any fun it => overlaps m.1 m.2 it.addr it.len } := by
  have hrun : runSweep s r budget = endSweep r ⟨s, sweepRoom r budget, none⟩ s.job.openStep := by
    unfold runSweep
    dsimp only
    rw [hsw, hm, List.filter_nil, List.foldl_nil, hdm, List.filter_nil, List.foldl_nil]
    rfl
  rw [hrun, endSweep]
  dsimp only
  rw [hfits, if_neg (by decide)]

/-- Settles O45: recess by `approachSleep`'s two outcomes and `sleep`, the transcript by `runSweep_empty`. -/
theorem recessCardAndTranscript : Obligations.RecessCardAndTranscript := by
  unfold Obligations.RecessCardAndTranscript
  intro s
  refine ⟨fun c hc => ⟨fun hr hno => ?_, fun hfree hrun hdup hback => ⟨fun hm hn => ?_, fun hm hopen => ?_⟩⟩, sleep_waits, fun hretr => ?_,
    fun hup hrec hsl hidle => ⟨fun hj he hh hb hback => ⟨fun hm hopen => ?_, fun hm hn => ?_⟩, fun hno hn => ?_⟩,
    fun hoff => ⟨_, exec_autoRecess_off hoff, rfl⟩, fun hr ht => ?_, fun hr => ⟨_, exec_wake_awake hr, rfl⟩,
    fun r hr hd hup => ⟨_, exec_reportCard hr hd hup, rfl⟩, fun h => ⟨_, exec_reportCard_away h, rfl⟩,
    fun budget h => ⟨_, exec_transcriptSweep_away budget h, rfl⟩, fun budget r hup hf hrec hd hr hsw hm hdm hfits => ?_⟩
  · exact endsIn_finish (exec_recessEnter_refused hc hr hno) (by decide)
  · have hgo := exec_recessEnter hc hfree hrun hdup
    rw [approachSleep_notice hback hm hn, if_neg Bool.false_ne_true] at hgo
    dsimp only at hgo
    obtain ⟨hpwr, hhif⟩ := recessNoticed_frame s
    exact ⟨recessNoticed s, hgo, sends_recessNoticed s, by rw [hpwr], by rw [hpwr], by rw [hpwr], hhif⟩
  · have hgo := exec_recessEnter hc hfree hrun hdup
    rw [approachSleep_done hback hm hopen, if_pos rfl] at hgo
    exact ⟨_, hgo, done (recessBegun s) c, rfl, finish_ends (recessBegun s) c 0 0 (by decide)⟩
  · refine ⟨?_, ?_, fun e he => ?_, fun hd => ?_, fun hd => ?_⟩
    · rw [sleep_trained hretr]
      split <;> rfl
    · rw [sleep_trained hretr]
      split <;> rfl
    · rw [sleep_trained hretr] at he
      split at he
      · exact state_linkPower (s := s) (by decide) he
      · exact state_linkPower (s := s) (by decide) he
    · rw [sleep_trained hretr, hd]
      rfl
    · rw [sleep_trained hretr, hd]
      exact ⟨rfl, rfl, rfl⟩
  · have hgo := exec_autoRecess hup hrec hsl hidle hj he hh hb
    rw [approachSleep_done (.inr hback) hm hopen, if_pos rfl] at hgo
    exact ⟨_, hgo, rfl⟩
  · have hgo := exec_autoRecess hup hrec hsl hidle hj he hh hb
    rw [approachSleep_notice (.inr hback) hm hn, if_neg Bool.false_ne_true] at hgo
    dsimp only at hgo
    obtain ⟨hpwr, hhif⟩ := recessNoticed_frame s
    exact ⟨recessNoticed s, hgo, sends_recessNoticed s, by rw [hpwr], by rw [hpwr], hhif⟩
  · exact ⟨_, exec_autoRecess_busy hup hrec hsl hidle hno hn, rfl⟩
  · have hsent := sent_wakeNotice s
    refine ⟨_, exec_wake hr ht, _, rfl, ?_, ?_, ?_, fun e he => ?_, hsent.mem_eq, fun d hd => ?_, fun hn => ?_⟩
    · rw [show State.pwr _ = (awake s).pwr from (congrArg State.pwr hsent.rest).trans rfl]
      rfl
    · rw [show State.pwr _ = (awake s).pwr from (congrArg State.pwr hsent.rest).trans rfl]
      rfl
    · exact (congrArg State.gddr hsent.rest).trans rfl
    · rw [show State.links _ = (awake s).links from (congrArg State.links hsent.rest).trans rfl] at he
      exact state_linkPower (s := s) (by decide) he
    · rw [show State.pwr _ = (awake s).pwr from (congrArg State.pwr hsent.rest).trans rfl]
      exact mem_foldl_insertNat.mpr (.inl hd)
    · rw [if_pos hn]
      exact sends_sendTwin (awake s) .wakeNotice
  · have hgo := exec_transcriptSweep hup hf hrec hd hr budget
    rw [runSweep_empty hsw hm hdm hfits] at hgo
    exact ⟨_, hgo, _, rfl, rfl, rfl, rfl, rfl⟩

end Sys2Proof.Proofs
end

section
/-! Operations of a core and its hall pass; matrix passes and the hand-in tray (O48). -/

namespace Sys2Proof.Proofs

open Sys2Proof Sys2Proof.Machine Sys2Proof.Laws

variable {s t z : State} {core p : Nat} {k : Core}

/-! ### An operation of a core -/

theorem onCore_of_pass (hp : physOf s core = some p) (hpass : s.pwr.passes.contains p = true) (act : State → Nat → State) :
    onCore s core act = act s p := by
  rw [onCore, hp]
  dsimp only
  rw [if_pos hpass]

theorem onCore_of_none (hp : physOf s core = some p) (hpass : s.pwr.passes.contains p = false) (act : State → Nat → State) :
    onCore s core act = requestPass s p := by
  rw [onCore, hp]
  dsimp only
  rw [if_neg (by rw [hpass]; decide)]

theorem requestPass_only (s : State) (p : Nat) : requestPass s p = { s with pwr := { s.pwr with requests := (requestPass s p).pwr.requests } } ∧
    (requestPass s p).pwr.requests =
      if (s.pwr.requests.any fun q => q.2 = p) = true then s.pwr.requests else insertRequest s.tick p s.pwr.requests := by
  unfold requestPass
  split
  · exact ⟨rfl, rfl⟩
  · exact ⟨rfl, rfl⟩

/-- Each operation of a core asks for its hall pass where it has none (R339). -/
theorem exec_asks (hp : physOf s core = some p) (hpass : s.pwr.passes.contains p = false) {mp : MatPass} {v : VecOp} {f : SpecialFn}
    {src : VecSrc} {tr : Transfer} {a b n m o x : Nat} {md : NumMode} {rd : Rounding} {i : Instr}
    (hi : i ∈ [.matrixPass core mp, .tileCopy core, .trayRelease core, .vectorOperation core v, .specialFunction core f src a b md rd,
      .streamIn core tr, .gather core tr, .offload core tr, .fetch core tr, .send core n m o a b x, .boundary core a b]) :
    exec i s = .next (requestPass s p) := by
  simp only [List.mem_cons, List.not_mem_nil, or_false] at hi
  rcases hi with rfl | rfl | rfl | rfl | rfl | rfl | rfl | rfl | rfl | rfl | rfl <;>
    exact congrArg Host.Outcome.next (onCore_of_none hp hpass _)

/-- A program that fails ends its command; a core without one ignores the operation. -/
theorem failProgram_cases (hk : k = coreAt s p) (status d0 d1 : Nat) :
    (∀ c, k.command = some c → failProgram s p status d0 d1 = finish (endProgram s c) c status d0 d1) ∧
      (k.command = none → failProgram s p status d0 d1 = s) := by
  subst hk
  exact ⟨fun c hc => by rw [failProgram, hc], fun hc => by rw [failProgram, hc]⟩

/-! ### Waits of the matrix engine -/

section Pass
variable {m : MatPass} {pp : PassIn} {fa fb : Fmt} {aa ab : Arr}

theorem exec_matrixPass (hp : physOf s core = some p) (hpass : s.pwr.passes.contains p = true) (hpp : pp = passIn s p m)
    (ha : tagOf? m.a.tag = some (fa, aa)) (hb : tagOf? m.b.tag = some (fb, ab)) (hok : passOk pp = true) :
    exec (.matrixPass core m) s = .next (
      if (passRanges pp).any fun r => readWaits (coreAt s p) r.1 r.2 then waitStream (holdPass s p) p
      else if (if (coreAt s p).lastB then (coreAt s p).accA else (coreAt s p).accB).isSome then
        (if (coreAt s p).accA.isSome && (coreAt s p).accB.isSome then stallMatrix (holdPass s p) p else holdPass s p)
      else
        match (passRanges pp).findSome? fun r => sramBad (meetWords s core (passRanges pp) m.words) core r.1 r.2 with
        | some off => failSram (meetWords s core (passRanges pp) m.words) core p off
        | none =>
          if passReserved (meetWords s core (passRanges pp) m.words) core pp fa fb
            then failProgram (meetWords s core (passRanges pp) m.words) p 0x12 condition 0
          else
            match pairRate fa fb with
            | none => failProgram (meetWords s core (passRanges pp) m.words) p 0x12 condition 0
            | some (rate, grouped) => closePass (meetWords s core (passRanges pp) m.words) core p pp fa aa fb ab rate grouped) := by
  subst hpp
  change execMatrixPass core m s = _
  unfold execMatrixPass
  rw [onCore_of_pass hp hpass]
  dsimp only
  rw [show tagOf? (passIn s p m).a.tag = some (fa, aa) from ha, show tagOf? (passIn s p m).b.tag = some (fb, ab) from hb, hok]
  rfl

theorem exec_matrixPass_refused (hp : physOf s core = some p) (hpass : s.pwr.passes.contains p = true)
    (hok : passOk (passIn s p m) = false) : exec (.matrixPass core m) s = .next (failProgram s p 0x12 condition 0) := by
  change execMatrixPass core m s = _
  unfold execMatrixPass
  rw [onCore_of_pass hp hpass]
  dsimp only
  rw [hok]
  split
  · contradiction
  · rfl

theorem passOk_tags (hok : passOk pp = true) : ∃ fa aa fb ab, tagOf? pp.a.tag = some (fa, aa) ∧ tagOf? pp.b.tag = some (fb, ab) := by
  unfold passOk at hok
  split at hok
  · exact ⟨_, _, _, _, ‹_›, ‹_›⟩
  · cases hok

end Pass

/-- A word register of a core that counts a wait. -/
theorem kept_bump_core (s : State) (off n : Nat) (h0 : resetReg .coreP p off < 2 ^ 32) :
    kept (bump s .coreP p off 0 32 n) .coreP p off = satN 32 (kept s .coreP p off + n) := by
  rw [kept_bump_word, satN_eq_min, Nat.mod_eq_of_lt (kept_lt h0)]

/-- A pass that the engine holds. -/
theorem holdPass_frame (hk : k = coreAt s p) : holdPass s p = { s with cores := { s.cores with cores := (holdPass s p).cores.cores } } ∧
    coreAt (holdPass s p) p = { k with meWait := true } ∧ ∀ q, q ≠ p → coreAt (holdPass s p) q = coreAt s q := by
  subst hk
  exact ⟨rfl, coreAt_setCore_self .., fun q hq => coreAt_setCore_ne (Ne.symm hq) _⟩

/-- Waits on transfers and on closed accumulators are counted by a free value. -/
theorem countedWait_frame (off : Nat) (h0 : resetReg .coreP p off < 2 ^ 32) (hk : k = coreAt s p) (u : State)
    (hu : u = bump (drawFree (holdPass s p)).1 .coreP p off 0 32 (drawFree (holdPass s p)).2) :
    u = { s with regs := u.regs, freeCtr := s.freeCtr + 1, cores := { s.cores with cores := u.cores.cores } } ∧
      coreAt u p = { k with meWait := true } ∧ kept u .coreP p off = satN 32 (kept s .coreP p off + Config.freeNat s.freeCtr) := by
  obtain ⟨_, hcore, _⟩ := holdPass_frame hk
  subst hu
  exact ⟨rfl, hcore, kept_bump_core _ _ _ h0⟩

/-! ### Tiles -/

/-- A summary noted at a core: kept while the gradebook covers the tensor (R270). -/
theorem noteCore_frame (s : State) (p tensor : Nat) (g : GradeRec) :
    noteCore s p tensor g = { s with
      regs := (noteCore s p tensor g).regs, cores := { s.cores with cores := (noteCore s p tensor g).cores.cores } } ∧
    (∀ q, q ≠ p → coreAt (noteCore s p tensor g) q = coreAt s q) ∧
    coreAt (noteCore s p tensor g) p = { coreAt s p with
      uncommitted := if tensor < s.grade.count
        then mput (coreAt s p).uncommitted tensor (((mget (coreAt s p).uncommitted tensor).getD GradeRec.zero).merge g)
        else (coreAt s p).uncommitted } := by
  unfold noteCore noteCoreWith gradeTaken
  by_cases ht : tensor < s.grade.count
  · simp only [if_pos ht]
    exact ⟨rfl, fun q hq => coreAt_setCore_ne (Ne.symm hq) _, coreAt_setCore_self ..⟩
  · simp only [if_neg ht]
    split
    · exact ⟨rfl, fun _ _ => rfl, rfl⟩
    · exact ⟨rfl, fun _ _ => rfl, rfl⟩

/-- A closed tile on its way into the tray. -/
theorem exec_tileCopy (hp : physOf s core = some p) (hpass : s.pwr.passes.contains p = true) (hk : k = coreAt s p) :
    exec (.tileCopy core) s = .next (
      if k.tray.length ≥ 4 then s
      else match (if k.accA.isSome && (k.lastB || k.accB.isNone) then k.accA else k.accB) with
        | none => s
        | some t => bump64 (setCore s p { k with
            tray := k.tray ++ [t]
            accA := if k.accA.isSome && (k.lastB || k.accB.isNone) then none else k.accA
            accB := if k.accA.isSome && (k.lastB || k.accB.isNone) then k.accB else none }) .coreP p 0x118 1) := by
  subst hk
  exact congrArg Host.Outcome.next ((onCore_of_pass hp hpass _).trans rfl)

theorem exec_trayRelease (hp : physOf s core = some p) (hpass : s.pwr.passes.contains p = true) :
    exec (.trayRelease core) s = .next (releaseTray s p) := congrArg Host.Outcome.next (onCore_of_pass hp hpass _)

theorem releaseTray_empty (h : (coreAt s p).tray = []) : releaseTray s p = s := by
  rw [releaseTray, h]

/-- The tray head released, its summary noted. -/
theorem releaseTray_frame {tile : Tile} {rest : List Tile} (h : (coreAt s p).tray = tile :: rest) :
    releaseTray s p = { s with regs := (releaseTray s p).regs, cores := { s.cores with cores := (releaseTray s p).cores.cores } } ∧
    (∀ q, q ≠ p → coreAt (releaseTray s p) q = coreAt s q) ∧
    coreAt (releaseTray s p) p = { coreAt s p with
      tray := rest
      uncommitted := if tile.tensorId < s.grade.count then mput (coreAt s p).uncommitted tile.tensorId
          (((mget (coreAt s p).uncommitted tile.tensorId).getD GradeRec.zero).merge
            { GradeRec.zero with counts := tile.counts, first := tile.first, replayFirst := b2n (tile.replay = 1)
                                 replaySecond := b2n (tile.replay = 2) }) else (coreAt s p).uncommitted } := by
  obtain ⟨honly, hother, hself⟩ := noteCore_frame (setCore s p { coreAt s p with tray := rest }) p tile.tensorId
    { GradeRec.zero with counts := tile.counts, first := tile.first, replayFirst := b2n (tile.replay = 1)
                         replaySecond := b2n (tile.replay = 2) }
  have hrel : releaseTray s p = noteCore (setCore s p { coreAt s p with tray := rest }) p tile.tensorId
      { GradeRec.zero with counts := tile.counts, first := tile.first, replayFirst := b2n (tile.replay = 1)
                           replaySecond := b2n (tile.replay = 2) } := by
    rw [releaseTray, h]
  rw [coreAt_setCore_self] at hself
  rw [hrel]
  exact ⟨honly.trans rfl, fun q hq => (hother q hq).trans (coreAt_setCore_ne (Ne.symm hq) _), hself⟩

/-! ### A pass that closes its tile -/

section Close
variable {pp : PassIn} {fa fb : Fmt} {aa ab : Arr} {rate : Nat} {grouped : Bool}

/-- What reads of SRAM words meet changes corrected counts and bad words alone. -/
theorem meetWords_only (s : State) (core : Nat) (ranges : List (Nat × Nat)) (ws : List WordRead) :
    meetWords s core ranges ws = { s with cores := { s.cores with
      corrected := (meetWords s core ranges ws).cores.corrected, badWords := (meetWords s core ranges ws).cores.badWords } } := by
  have hfold (l : List WordRead) (x : State) : ∃ a b, l.foldl (meetWord core) x = { x with cores := { x.cores with corrected := a, badWords := b } } := by
    induction l generalizing x with
    | nil => exact ⟨_, _, rfl⟩
    | cons w l ih =>
      obtain ⟨a, b, h⟩ := ih (meetWord core x w)
      refine ⟨a, b, h.trans ?_⟩
      unfold meetWord
      split_ifs <;> rfl
  obtain ⟨a, b, h⟩ := hfold (ws.filter fun w => ranges.any fun r => overlaps (w.off / 8 * 8) 8 r.1 r.2) s
  rw [show meetWords s core ranges ws = _ from h]

theorem coreAt_meetWords (s : State) (core : Nat) (ranges : List (Nat × Nat)) (ws : List WordRead) (q : Nat) :
    coreAt (meetWords s core ranges ws) q = coreAt s q := by
  rw [meetWords_only]
  rfl

/-- The tile that a pass closes. -/
def closedTile (z : State) (core p : Nat) (pp : PassIn) (fa : Fmt) (aa : Arr) (fb : Fmt) (ab : Arr) (rate : Nat) (grouped : Bool) : Tile :=
  let f := fillTile pp grouped (passInputs z core pp fa aa fb ab)
  let tag := (((coreAt z p).command.map (·.slot.requestId)).getD 0) % 2 ^ 32
  { elems := f.1.map fun r => r.map (·.code), free := z.freeCtr + 1, commandTag := tag
    tileRow := pp.tileRow % 65536, tileCol := pp.tileCol % 65536, mode := pp.mode, channelScaled := ab = .channel
    sidePass := !pp.outliers.isEmpty, accumulator := b2n (!(coreAt z p).lastB), shift := f.2.1, replay := f.2.2
    outFormat := pp.outFormat % 256, counts := countsOf (f.1.flatMap fun r => r.map (·.exc))
    first := tileFirst pp tag core f.1
    cycles := satN 32 (if f.2.2 = 0 then fillCycles rate pp.k pp.mode + 2 * pp.outliers.length else Config.freeNat z.freeCtr)
    tensorId := pp.tensorId % 65536 }

theorem accumulator_closedTile (z : State) (core p : Nat) (pp : PassIn) (fa : Fmt) (aa : Arr) (fb : Fmt) (ab : Arr) (rate : Nat)
    (grouped : Bool) : (closedTile z core p pp fa aa fb ab rate grouped).accumulator = if (coreAt z p).lastB then 0 else 1 := by
  change b2n (!(coreAt z p).lastB) = _
  cases (coreAt z p).lastB <;> rfl

theorem cycles_closedTile (h0 : (fillTile pp grouped (passInputs z core pp fa aa fb ab)).2.2 = 0) :
    (closedTile z core p pp fa aa fb ab rate grouped).cycles = satN 32 (fillCycles rate pp.k pp.mode + 2 * pp.outliers.length) :=
  congrArg (satN 32) (if_pos h0)

/-- The core that holds a closed tile. -/
def closedCore (k : Core) (tile : Tile) : Core :=
  { k with accA := if k.lastB then some tile else k.accA, accB := if k.lastB then k.accB else some tile, lastB := !k.lastB, meWait := false }

/-- The counters of a pass: its cycles, its progress and its replays. -/
def passCounted (x : State) (p cycles replays : Nat) : State :=
  let s3 := progress (bump64 x .coreP p 0x108 cycles) .coreP p 1
  if replays = 1 then bump s3 .coreP p 0x114 0 16 1
  else if replays = 2 then bump s3 .coreP p 0x114 16 16 1 else s3

theorem passCounted_only (x : State) (p cycles replays : Nat) :
    passCounted x p cycles replays = { x with regs := (passCounted x p cycles replays).regs } := by
  unfold passCounted
  dsimp only
  split_ifs <;> rfl

/-- The fill of a pass. -/
abbrev passFill (z : State) (core : Nat) (pp : PassIn) (fa : Fmt) (aa : Arr) (fb : Fmt) (ab : Arr) (grouped : Bool) :=
  fillTile pp grouped (passInputs z core pp fa aa fb ab)

theorem closePass_eq (z : State) : closePass z core p pp fa aa fb ab rate grouped =
    passCounted (setCore { z with freeCtr := z.freeCtr + 1 + 16384 } p
      (closedCore (coreAt z p) (closedTile z core p pp fa aa fb ab rate grouped))) p
      (if (passFill z core pp fa aa fb ab grouped).2.2 = 0 then fillCycles rate pp.k pp.mode + 2 * pp.outliers.length
        else Config.freeNat z.freeCtr)
      (passFill z core pp fa aa fb ab grouped).2.2 := rfl

theorem closePass_frame (z : State) :
    closePass z core p pp fa aa fb ab rate grouped = { z with
      regs := (closePass z core p pp fa aa fb ab rate grouped).regs
      freeCtr := (closePass z core p pp fa aa fb ab rate grouped).freeCtr
      cores := { z.cores with cores := (closePass z core p pp fa aa fb ab rate grouped).cores.cores } } ∧
    (∀ q, q ≠ p → coreAt (closePass z core p pp fa aa fb ab rate grouped) q = coreAt z q) ∧
    coreAt (closePass z core p pp fa aa fb ab rate grouped) p = closedCore (coreAt z p) (closedTile z core p pp fa aa fb ab rate grouped) := by
  rw [closePass_eq]
  generalize closedCore (coreAt z p) (closedTile z core p pp fa aa fb ab rate grouped) = c
  generalize hx : setCore { z with freeCtr := z.freeCtr + 1 + 16384 } p c = x
  have hself : coreAt x p = c := hx ▸ coreAt_setCore_self ..
  have hother (q : Nat) (hq : q ≠ p) : coreAt x q = coreAt z q := hx ▸ coreAt_setCore_ne (Ne.symm hq) c
  have honly : x = { z with freeCtr := x.freeCtr, cores := { z.cores with cores := x.cores.cores } } := by
    rw [← hx]
    rfl
  rw [passCounted_only]
  refine ⟨?_, hother, hself⟩
  rw [honly]

end Close

/-- Settles O48: the waits by `countedWait_frame`, a closed tile by `closePass_frame`, the tray by `noteCore_frame`. -/
theorem matrixPassesFillTheTray : Obligations.MatrixPassesFillTheTray := by
  unfold Obligations.MatrixPassesFillTheTray
  intro core p s k hp hk
  refine ⟨fun hpass mp v f src tr a b n m o x md rd i hi => ⟨_, exec_asks hp hpass hi, requestPass_only s p⟩, fun hpass =>
    ⟨?_, fun m hok => ⟨fun c hc => ?_, fun hc => ?_⟩, fun m pp hpp hok => ⟨fun hwait => ?_, fun hread => ⟨fun ha hb => ?_, fun hone => ?_⟩⟩,
      fun hfull => ?_, fun hroom ha hb => ?_, fun tile hroom ha hb => ?_, fun tile hroom hb ha => ?_, fun hempty => ?_, fun tile rest htray => ?_⟩⟩
  · rintro m pp z fa fb aa ab rate grouped cells tag sh replays hpp rfl ha hb hok hrate hready hres hA hB rfl hfill
    have hrun := exec_matrixPass hp hpass hpp ha hb hok
    have hfree : (if (coreAt s p).lastB then (coreAt s p).accA else (coreAt s p).accB).isSome = false := by
      subst hk
      cases h : (coreAt s p).lastB
      · simp [hB h]
      · simp [hA h]
    have hnobad : ((passRanges pp).findSome? fun r => sramBad (meetWords s core (passRanges pp) m.words) core r.1 r.2) = none := by
      rw [List.findSome?_eq_none_iff]
      exact fun r hr => (hready r hr).2
    rw [if_neg (by simpa [← hk] using fun a b hr => (hready (a, b) hr).1), hfree, if_neg Bool.false_ne_true, hnobad] at hrun
    dsimp only at hrun
    rw [hres, if_neg Bool.false_ne_true, hrate] at hrun
    obtain ⟨honly, hother, hself⟩ := closePass_frame (core := core) (p := p) (pp := pp) (fa := fa) (fb := fb) (aa := aa) (ab := ab)
      (rate := rate) (grouped := grouped) (meetWords s core (passRanges pp) m.words)
    have hcore : coreAt (meetWords s core (passRanges pp) m.words) p = k := (coreAt_meetWords ..).trans hk.symm
    simp only [coreAt_meetWords] at hother
    rw [hcore] at hself
    have hcells : cells = (passFill (meetWords s core (passRanges pp) m.words) core pp fa aa fb ab grouped).1 := congrArg (·.1) hfill
    have hsh : sh = (passFill (meetWords s core (passRanges pp) m.words) core pp fa aa fb ab grouped).2.1 := congrArg (·.2.1) hfill
    have hrep : replays = (passFill (meetWords s core (passRanges pp) m.words) core pp fa aa fb ab grouped).2.2 := congrArg (·.2.2) hfill
    refine ⟨_, hrun, _, honly, hother, hself, ?_⟩
    subst hpp hcells hsh hrep
    refine ⟨rfl, rfl, rfl, ?_, rfl, rfl, rfl, rfl, ?_, rfl, ?_, fun h0 => ?_⟩
    · rw [← hcore]
      rfl
    · rw [← hcore]
      exact accumulator_closedTile ..
    · rw [← hcore]
      rfl
    · exact cycles_closedTile h0
  · have hrun := exec_matrixPass_refused hp hpass hok
    rw [(failProgram_cases hk _ _ _).1 c hc] at hrun
    exact endsIn_finish hrun (by decide)
  · have hrun := exec_matrixPass_refused hp hpass hok
    rw [(failProgram_cases hk _ _ _).2 hc] at hrun
    exact ⟨_, hrun, rfl⟩
  · obtain ⟨fa, aa, fb, ab, ha, hb⟩ := passOk_tags hok
    rw [hpp] at ha hb
    have hrun := exec_matrixPass hp hpass hpp ha hb hok
    rw [if_pos (by simpa [← hk] using hwait)] at hrun
    exact ⟨_, hrun, countedWait_frame 0x120 (show 0 < 2 ^ 32 by decide) hk _ rfl⟩
  · obtain ⟨fa, aa, fb, ab, ha', hb'⟩ := passOk_tags hok
    rw [hpp] at ha' hb'
    have hrun := exec_matrixPass hp hpass hpp ha' hb' hok
    rw [← hk, if_neg (by simpa using fun a b hr => hread (a, b) hr), if_pos (by split <;> assumption), if_pos (by simp [ha, hb])] at hrun
    exact ⟨_, hrun, countedWait_frame 0x110 (show 0 < 2 ^ 32 by decide) hk _ rfl⟩
  · obtain ⟨fa, aa, fb, ab, ha', hb'⟩ := passOk_tags hok
    rw [hpp] at ha' hb'
    have hrun := exec_matrixPass hp hpass hpp ha' hb' hok
    rw [← hk, if_neg (by simpa using fun a b hr => hread (a, b) hr),
      if_pos (by rcases hone with ⟨hl, hs, _⟩ | ⟨hl, hs, _⟩ <;> simp [hl, hs]),
      if_neg (by rcases hone with ⟨_, _, hn⟩ | ⟨_, _, hn⟩ <;> simp [hn])] at hrun
    exact ⟨_, hrun, holdPass_frame hk⟩
  · exact ⟨_, exec_tileCopy hp hpass hk, if_pos hfull⟩
  · have hrun := exec_tileCopy hp hpass hk
    rw [if_neg (Nat.not_le.mpr hroom), ha, hb] at hrun
    exact ⟨_, hrun, rfl⟩
  · have hrun := exec_tileCopy hp hpass hk
    have hfrom : (k.accA.isSome && (k.lastB || k.accB.isNone)) = true := by rcases hb with h | h <;> simp [ha, h]
    rw [if_neg (Nat.not_le.mpr hroom), hfrom, if_pos rfl, ha] at hrun
    exact ⟨_, hrun, rfl, fun q hq => coreAt_setCore_ne (s := s) (Ne.symm hq) _, coreAt_setCore_self s p _⟩
  · have hrun := exec_tileCopy hp hpass hk
    have hfrom : (k.accA.isSome && (k.lastB || k.accB.isNone)) = false := by rcases ha with h | h <;> simp [hb, h]
    rw [if_neg (Nat.not_le.mpr hroom), hfrom, if_neg Bool.false_ne_true, hb] at hrun
    exact ⟨_, hrun, rfl, fun q hq => coreAt_setCore_ne (s := s) (Ne.symm hq) _, coreAt_setCore_self s p _⟩
  · have hrun := exec_trayRelease hp hpass
    rw [releaseTray_empty (hk ▸ hempty)] at hrun
    exact ⟨_, hrun, rfl⟩
  · subst hk
    obtain ⟨honly, hother, hself⟩ := releaseTray_frame htray
    exact ⟨_, exec_trayRelease hp hpass, honly, hother, hself⟩

end Sys2Proof.Proofs
end

section
/-! Vector operations and special functions (O49). -/

namespace Sys2Proof.Proofs

open Sys2Proof Sys2Proof.Machine Sys2Proof.Laws

variable {s t z : State} {core p : Nat} {k : Core}

/-! ### What the counts of an operation change of its core -/

/-- From s to t registers changed, and of the cores one, in its summaries alone: buffers, masks, the length of its tray and what it
waits for stand. -/
structure Counted (s t : State) (p : Nat) : Prop where
  rest : t = { s with regs := t.regs, cores := { s.cores with cores := t.cores.cores } }
  other : ∀ q, q ≠ p → coreAt t q = coreAt s q
  buffers : (coreAt t p).buffers = (coreAt s p).buffers
  masks : (coreAt t p).masks = (coreAt s p).masks
  tray : (coreAt t p).tray.length = (coreAt s p).tray.length
  waits : (coreAt t p).vecWait = (coreAt s p).vecWait

theorem Counted.refl (s : State) (p : Nat) : Counted s s p := ⟨rfl, fun _ _ => rfl, rfl, rfl, rfl, rfl⟩

theorem Counted.trans {a b c : State} (h : Counted a b p) (g : Counted b c p) : Counted a c p where
  rest := g.rest.trans (congrArg (fun x : State => { x with regs := c.regs, cores := { x.cores with cores := c.cores.cores } }) h.rest)
  other q hq := (g.other q hq).trans (h.other q hq)
  buffers := g.buffers.trans h.buffers
  masks := g.masks.trans h.masks
  tray := g.tray.trans h.tray
  waits := g.waits.trans h.waits

theorem counted_bump (s : State) (b : Blk) (i off lo w n : Nat) : Counted s (bump s b i off lo w n) p :=
  ⟨rfl, fun _ _ => rfl, rfl, rfl, rfl, rfl⟩

theorem counted_progress (s : State) (b : Blk) (i n : Nat) : Counted s (progress s b i n) p := ⟨rfl, fun _ _ => rfl, rfl, rfl, rfl, rfl⟩

theorem counted_setCore {c : Core} (hb : c.buffers = (coreAt s p).buffers) (hm : c.masks = (coreAt s p).masks)
    (ht : c.tray.length = (coreAt s p).tray.length) (hw : c.vecWait = (coreAt s p).vecWait) : Counted s (setCore s p c) p where
  rest := rfl
  other _ hq := coreAt_setCore_ne (Ne.symm hq) c
  buffers := ((congrArg Core.buffers (coreAt_setCore_self ..)).trans rfl).trans hb
  masks := (congrArg Core.masks (coreAt_setCore_self ..)).trans hm
  tray := (congrArg (fun c : Core => c.tray.length) (coreAt_setCore_self ..)).trans ht
  waits := (congrArg Core.vecWait (coreAt_setCore_self ..)).trans hw

theorem counted_countVec (s : State) (core : Nat) (c : Counts) : Counted s (countVec s core c) p :=
  (counted_bump ..).trans ((counted_bump ..).trans ((counted_bump ..).trans (counted_bump ..)))

theorem counted_countOp (s : State) (core p : Nat) (tray : Bool) (es : List Exc) : Counted s (countOp s core p tray es) p := by
  have hadd : Counted s (setCore s p (addTileCounts (coreAt s p) (countsOf es))) p := by
    unfold addTileCounts
    split
    · exact counted_setCore rfl rfl rfl rfl
    · rename_i h
      exact counted_setCore rfl rfl (by rw [h]; rfl) rfl
  unfold countOp
  dsimp only
  split
  · exact hadd.trans (counted_countVec ..)
  · exact counted_countVec ..

theorem counted_noteCoreWith (s : State) (p tensor : Nat) (f : GradeRec → GradeRec) : Counted s (noteCoreWith s p tensor f) p := by
  unfold noteCoreWith gradeTaken
  dsimp only
  split
  · exact counted_setCore rfl rfl rfl rfl
  · split
    · exact .refl ..
    · exact counted_bump ..

/-! ### The end of an operation -/

/-- An operation's progress, the end of its wait, and the release of the tray head that it drains. -/
def vecEnded (s : State) (core p : Nat) (release : Bool) : State :=
  let s2 := progress (progress s .coreP p 1) .vec core 1
  let s3 := setCore s2 p { coreAt s2 p with vecWait := none }
  if release then releaseTray s3 p else s3

/-- What the end of an operation leaves of its core. -/
theorem vecEnded_frame (s : State) (core p : Nat) (release : Bool) (hr : release = true → (coreAt s p).tray ≠ []) :
    vecEnded s core p release = { s with
      regs := (vecEnded s core p release).regs, cores := { s.cores with cores := (vecEnded s core p release).cores.cores } } ∧
    (∀ q, q ≠ p → coreAt (vecEnded s core p release) q = coreAt s q) ∧
    (coreAt (vecEnded s core p release) p).buffers = (coreAt s p).buffers ∧
    (coreAt (vecEnded s core p release) p).masks = (coreAt s p).masks ∧
    (coreAt (vecEnded s core p release) p).tray.length = (coreAt s p).tray.length - (if release then 1 else 0) ∧
    (coreAt (vecEnded s core p release) p).vecWait = none := by
  unfold vecEnded
  dsimp only
  generalize hx : setCore (progress (progress s .coreP p 1) .vec core 1) p
    { coreAt (progress (progress s .coreP p 1) .vec core 1) p with vecWait := none } = x
  have hself : coreAt x p = { coreAt s p with vecWait := none } := hx ▸ coreAt_setCore_self ..
  have hother (q : Nat) (hq : q ≠ p) : coreAt x q = coreAt s q := hx ▸ coreAt_setCore_ne (Ne.symm hq) _
  have honly : x = { s with regs := x.regs, cores := { s.cores with cores := x.cores.cores } } := by
    rw [← hx]
    rfl
  cases release with
  | false =>
    rw [if_neg Bool.false_ne_true, hself]
    exact ⟨honly, hother, rfl, rfl, rfl, rfl⟩
  | true =>
    have htray : (coreAt x p).tray ≠ [] := by
      rw [hself]
      exact hr rfl
    obtain ⟨tile, rest, hrest⟩ := List.exists_cons_of_ne_nil htray
    obtain ⟨hfree, hkeep, hhead⟩ := releaseTray_frame hrest
    rw [if_pos rfl, if_pos rfl, hhead]
    refine ⟨hfree.trans ?_, fun q hq => (hkeep q hq).trans (hother q hq), ?_, ?_, ?_, ?_⟩
    · rw [honly]
    · exact (congrArg Core.buffers hself).trans rfl
    · exact (congrArg Core.masks hself).trans rfl
    · have hlen : (coreAt s p).tray = tile :: rest := (congrArg Core.tray hself).symm.trans hrest
      rw [hlen]
      rfl
    · exact (congrArg Core.vecWait hself).trans rfl

/-! ### The result of an operation -/

/-- The result of a vector operation, before the operation ends. -/
def vecResult (s : State) (core p : Nat) (v : VecOp) (tray : Bool) (sigma sh : Nat) : State :=
  let k := coreAt s p
  if isCompare v.fn then
    let r := runCompare s core p v sh
    countOp r.1 core p tray (keepValid k v r.2)
  else
    let ls := vecLanes s core k v sh
    match v.dst with
    | .buffer b row =>
      let out := ls.map (bufferLane v sh)
      let bs := packElems v.lane (out.map (·.1))
      let k1 := { k with buffers := writeBytes k.buffers (b * 65536 + row * rowBytes v.lane) bs }
      countOp (setCore s p k1) core p tray (keepValid k v (out.map (·.2)))
    | .sram off tag kind so source =>
      match tagOf? tag with
      | none => s
      | some fa => storeVec s core p v tray sigma sh ls off fa kind so source

theorem runVec_eq (s : State) (core p : Nat) (v : VecOp) {tray : Bool} {sigma sh : Nat} (ht : tray = v.args.any fun o => isTray o.src)
    (hs : sigma = if tray then ((coreAt s p).tray.head?.map (·.shift)).getD 0 else 0) (hsh : sh = if foldsShift v.dst then 0 else sigma) :
    runVec s core p v = vecEnded (vecResult s core p v tray sigma sh) core p (v.release && tray) := by
  subst ht hs hsh
  rfl

/-- What the result of an operation leaves of its core. -/
structure Resulted (s t : State) (p : Nat) (v : VecOp) : Prop where
  rest : t = { s with
    regs := t.regs, scaling := t.scaling
    cores := { s.cores with cores := t.cores.cores, sram := t.cores.sram, badWords := t.cores.badWords } }
  other : ∀ q, q ≠ p → coreAt t q = coreAt s q
  tray : (coreAt t p).tray.length = (coreAt s p).tray.length
  scaling : (∀ off tag so h, v.dst ≠ .sram off tag .g so h) → t.scaling = s.scaling

section Results
variable {v : VecOp} {tray : Bool} {sigma sh : Nat}

theorem Counted.resulted (h : Counted s t p) : Resulted s t p v where
  rest := h.rest.trans (by rw [h.rest])
  other := h.other
  tray := h.tray
  scaling _ := (congrArg State.scaling h.rest).trans rfl

/-- A result that one core takes, and its counts. -/
theorem resulted_setCore {c : Core} (h : Counted (setCore s p c) t p) (hc : c.tray.length = (coreAt s p).tray.length) : Resulted s t p v where
  rest := h.rest.trans (by rw [h.rest]; rfl)
  other q hq := (h.other q hq).trans (coreAt_setCore_ne (Ne.symm hq) c)
  tray := (h.tray.trans (congrArg (fun c : Core => c.tray.length) (coreAt_setCore_self ..))).trans hc
  scaling _ := (congrArg State.scaling h.rest).trans rfl

theorem Counted.sram (h : Counted s t p) : t.cores.sram = s.cores.sram := (congrArg (fun x : State => x.cores.sram) h.rest).trans rfl

/-- The lanes of a comparison. -/
def maskLanes (s : State) (core : Nat) (k : Core) (v : VecOp) (sh : Nat) : List Bool :=
  (List.range (lanesOf v.lane)).map fun l =>
    (laneCmp ⟨v.mode, v.rounding, v.lane⟩ v.fn ((v.args.map fun o => modified o (srcLanes s core k ⟨v.mode, v.rounding, v.lane⟩ sh o.src)).map
      fun col => (col.getD l (.fin false 0 0, .none)).1)).1

theorem runCompare_sets (s : State) (core p : Nat) (v : VecOp) (sh : Nat) {m : Nat} (hm : fnMask v.fn = some m) :
    (runCompare s core p v sh).1 = setCore s p { coreAt s p with
      masks := mput (coreAt s p).masks m (maskLanes s core (coreAt s p) v sh) } := by
  unfold runCompare maskLanes
  dsimp only
  rw [hm, List.map_map]
  simp only [Function.comp_def, List.map_map, Option.getD_some]

/-- A comparison writes its mask register. -/
theorem vecResult_compare (hc : isCompare v.fn = true) : Resulted s (vecResult s core p v tray sigma sh) p v ∧
    (vecResult s core p v tray sigma sh).cores.sram = s.cores.sram ∧
    (coreAt (vecResult s core p v tray sigma sh) p).buffers = (coreAt s p).buffers ∧
    ∀ m, fnMask v.fn = some m →
      mget (coreAt (vecResult s core p v tray sigma sh) p).masks m = some (maskLanes s core (coreAt s p) v sh) := by
  have hm : ∃ m, fnMask v.fn = some m := by
    cases hf : v.fn <;> simp_all [isCompare, fnMask]
  obtain ⟨m, hm⟩ := hm
  have hcount := counted_countOp (runCompare s core p v sh).1 core p tray (keepValid (coreAt s p) v (runCompare s core p v sh).2)
  have hres : vecResult s core p v tray sigma sh =
      countOp (runCompare s core p v sh).1 core p tray (keepValid (coreAt s p) v (runCompare s core p v sh).2) := by
    rw [vecResult, if_pos hc]
  rw [← hres, runCompare_sets s core p v sh hm] at hcount
  refine ⟨resulted_setCore hcount rfl, hcount.sram.trans rfl, hcount.buffers.trans ((congrArg Core.buffers (coreAt_setCore_self ..)).trans rfl), fun m' hm' => ?_⟩
  cases hm.symm.trans hm'
  rw [hcount.masks, coreAt_setCore_self]
  exact mget_mput_self ..

/-- A result written to a row of a tile buffer. -/
theorem vecResult_buffer (hc : isCompare v.fn = false) {b row : Nat} (hd : v.dst = .buffer b row) :
    Resulted s (vecResult s core p v tray sigma sh) p v ∧ (vecResult s core p v tray sigma sh).cores.sram = s.cores.sram ∧
    (coreAt (vecResult s core p v tray sigma sh) p).masks = (coreAt s p).masks ∧
    (coreAt (vecResult s core p v tray sigma sh) p).buffers = writeBytes (coreAt s p).buffers (b * 65536 + row * rowBytes v.lane)
      (packElems v.lane ((vecLanes s core (coreAt s p) v sh).map fun o => (bufferLane v sh o).1)) := by
  have hcount := counted_countOp (setCore s p { coreAt s p with
      buffers := writeBytes (coreAt s p).buffers (b * 65536 + row * rowBytes v.lane)
        (packElems v.lane (((vecLanes s core (coreAt s p) v sh).map (bufferLane v sh)).map (·.1))) }) core p tray
    (keepValid (coreAt s p) v (((vecLanes s core (coreAt s p) v sh).map (bufferLane v sh)).map (·.2)))
  have hres : vecResult s core p v tray sigma sh = countOp (setCore s p { coreAt s p with
      buffers := writeBytes (coreAt s p).buffers (b * 65536 + row * rowBytes v.lane)
        (packElems v.lane (((vecLanes s core (coreAt s p) v sh).map (bufferLane v sh)).map (·.1))) }) core p tray
      (keepValid (coreAt s p) v (((vecLanes s core (coreAt s p) v sh).map (bufferLane v sh)).map (·.2))) := by
    rw [vecResult, if_neg (by simp [hc])]
    dsimp only
    rw [hd]
  rw [← hres] at hcount
  refine ⟨resulted_setCore hcount rfl, hcount.sram.trans rfl, hcount.masks.trans ((congrArg Core.masks (coreAt_setCore_self ..)).trans rfl),
    (hcount.buffers.trans ((congrArg Core.buffers (coreAt_setCore_self ..)).trans rfl)).trans ?_⟩
  rw [List.map_map]
  rfl

/-- What the converter of the store path makes of lanes. -/
def storedLanes (s : State) (v : VecOp) (k : Core) (sigma sh : Nat) (ls : List LaneOut) (fa : Fmt × Arr) (source : Option Nat) : Stored :=
  if fa.2 = .plain && keepsBits v fa.1 then ⟨ls.map (·.code), [], ls.map fun _ => .none, ls.map (·.val)⟩
  else storeRow ⟨v.mode, v.rounding, v.lane⟩ fa.1 fa.2 ((if foldsShift v.dst then (sigma : Int) else 0) + handOver s v source)
    (if fa.2 = .channel then (ls.map (·.val)).zipIdx.map fun q => columnMax k v sh q.2 q.1 else []) (ls.map (·.val))

/-- What is written of them. -/
def convertedLanes (v : VecOp) (sh : Nat) (f : Fmt) (st : Stored) : List (Nat × Exc) :=
  if v.fn = .pass then (st.elems.zip st.excs).map (clampShift sh f) else st.elems.zip st.excs

/-- The bytes of a store in SRAM. -/
def storedBytes (s : State) (core off : Nat) (f : Fmt) (so : Nat) (conv : List (Nat × Exc)) (st : Stored) : State :=
  sramWrite (sramWrite s core off (packElems f (conv.map (·.1)))) core so st.scales

/-- A store to SRAM writes its bytes, and beside them counts and, of a gradient, the maximum of its tensor. -/
theorem storeVec_writes (s : State) (core p : Nat) (v : VecOp) (tray : Bool) (sigma sh : Nat) (ls : List LaneOut) (off : Nat) (fa : Fmt × Arr)
    (kind : Kind) (so : Nat) (source : Option Nat) : ∃ u x, Counted (storedBytes s core off fa.1 so
        (convertedLanes v sh fa.1 (storedLanes s v (coreAt s p) sigma sh ls fa source)) (storedLanes s v (coreAt s p) sigma sh ls fa source)) u p ∧
      storeVec s core p v tray sigma sh ls off fa kind so source = { u with scaling := if kind = .g then x else u.scaling } := by
  unfold storeVec
  extract_lets k h q c xs folds amaxs st conv opEs cvEs shTrue xv s1 s2 qs s3
  have h2 : Counted s1 s2 p := counted_countOp ..
  have h3 : Counted s1 s3 p := by
    unfold s3
    split
    · exact h2
    · exact h2.trans (counted_noteCoreWith ..)
  refine ⟨s3, (raiseOwn s3 v.tensorId (xv.map fun x => scaleVal x ((shTrue : Int) - q))).scaling, h3, ?_⟩
  split_ifs <;> rfl

theorem vecResult_sram (hc : isCompare v.fn = false) {off tag so : Nat} {kind : Kind} {source : Option Nat} {fa : Fmt × Arr}
    (hd : v.dst = .sram off tag kind so source) (htag : tagOf? tag = some fa) :
    Resulted s (vecResult s core p v tray sigma sh) p v ∧
    (coreAt (vecResult s core p v tray sigma sh) p).masks = (coreAt s p).masks ∧
    (coreAt (vecResult s core p v tray sigma sh) p).buffers = (coreAt s p).buffers ∧
    (vecResult s core p v tray sigma sh).cores.sram = (storedBytes s core off fa.1 so
      (convertedLanes v sh fa.1 (storedLanes s v (coreAt s p) sigma sh (vecLanes s core (coreAt s p) v sh) fa source))
      (storedLanes s v (coreAt s p) sigma sh (vecLanes s core (coreAt s p) v sh) fa source)).cores.sram := by
  have hres : vecResult s core p v tray sigma sh =
      storeVec s core p v tray sigma sh (vecLanes s core (coreAt s p) v sh) off fa kind so source := by
    rw [vecResult, if_neg (by simp [hc])]
    dsimp only
    rw [hd]
    dsimp only
    rw [htag]
  obtain ⟨u, x, hcount, hstore⟩ := storeVec_writes s core p v tray sigma sh (vecLanes s core (coreAt s p) v sh) off fa kind so source
  rw [hres, hstore]
  generalize hst : storedLanes s v (coreAt s p) sigma sh (vecLanes s core (coreAt s p) v sh) fa source = st at *
  generalize convertedLanes v sh fa.1 st = conv at *
  have hbytes (q : Nat) : coreAt (storedBytes s core off fa.1 so conv st) q = coreAt s q := rfl
  refine ⟨⟨?_, fun q hq => (hcount.other q hq).trans (hbytes q), hcount.tray.trans (congrArg (fun c : Core => c.tray.length) (hbytes p)), fun hg => ?_⟩,
    hcount.masks.trans (congrArg Core.masks (hbytes p)), hcount.buffers.trans (congrArg Core.buffers (hbytes p)), hcount.sram⟩
  · rw [hcount.rest]
    rfl
  · rw [if_neg fun hk => hg off tag so source (hd.trans (by rw [hk]))]
    exact (congrArg State.scaling hcount.rest).trans rfl

/-- Whatever its destination, the result of an operation. -/
theorem vecResult_resulted : Resulted s (vecResult s core p v tray sigma sh) p v ∧
    (isCompare v.fn = false → (coreAt (vecResult s core p v tray sigma sh) p).masks = (coreAt s p).masks) := by
  cases hc : isCompare v.fn with
  | true => exact ⟨(vecResult_compare hc).1, nofun⟩
  | false =>
    cases hd : v.dst with
    | buffer b row =>
      obtain ⟨h, _, hm, _⟩ := vecResult_buffer (s := s) (core := core) (p := p) (tray := tray) (sigma := sigma) (sh := sh) hc hd
      exact ⟨h, fun _ => hm⟩
    | sram off tag kind so source =>
      cases htag : tagOf? tag with
      | none =>
        have hres : vecResult s core p v tray sigma sh = s := by
          rw [vecResult, if_neg (by simp [hc])]
          dsimp only
          rw [hd]
          dsimp only
          rw [htag]
        rw [hres]
        exact ⟨(Counted.refl s p).resulted, fun _ => rfl⟩
      | some fa =>
        obtain ⟨h, hm, _⟩ := vecResult_sram (s := s) (core := core) (p := p) (tray := tray) (sigma := sigma) (sh := sh) hc hd htag
        exact ⟨h, fun _ => hm⟩

end Results

/-! ### The operations -/

theorem exec_vectorOperation (hp : physOf s core = some p) (hpass : s.pwr.passes.contains p = true) (v : VecOp)
    {reads : List (Nat × Nat)} (hr : reads = v.args.flatMap fun o => srcRanges v.lane o.src) :
    ∃ buffers, exec (.vectorOperation core v) s = .next (
      if !vecOk (coreAt s p) v then failProgram s p 0x12 condition 0
      else if (v.args.any fun o => isTray o.src) && (coreAt s p).tray.isEmpty then waitTray s core p buffers
      else if (reads.any fun r => readWaits (coreAt s p) r.1 r.2) || (dstRanges v.lane v.dst).any fun r => writeWaits (coreAt s p) r.1 r.2 then
        waitStream (holdVec s p buffers false) p
      else if gWaits s v then holdVec s p buffers false
      else
        match reads.findSome? fun r => sramBad (meetWords s core reads v.words) core r.1 r.2 with
        | some off => failSram (meetWords s core reads v.words) core p off
        | none =>
          if v.args.any fun o => srcReserved (meetWords s core reads v.words) core v.lane o.src then
            failProgram (meetWords s core reads v.words) p 0x12 condition 0
          else
            match scalesRead (meetWords s core reads v.words) (scalesOf v) (coreStep (meetWords s core reads v.words) p) with
            | .wait u => holdVec u p buffers false
            | .fail u a => failProgram u p 0x23 a (ueDetail u)
            | .ok _ => runVec (meetWords s core reads v.words) core p v) := by
  subst hr
  refine ⟨_, congrArg Host.Outcome.next ((onCore_of_pass hp hpass _).trans rfl)⟩

/-- A vector operation that its checks pass. -/
theorem exec_vectorOperation_runs (hp : physOf s core = some p) (hpass : s.pwr.passes.contains p = true) {v : VecOp}
    {reads : List (Nat × Nat)} {bs : List Byte} (hr : reads = v.args.flatMap fun o => srcRanges v.lane o.src)
    (hz : z = meetWords s core reads v.words) (hok : vecOk (coreAt s p) v = true)
    (htray : (v.args.any fun o => isTray o.src) = true → (coreAt s p).tray ≠ []) (hg : gWaits s v = false)
    (hreads : ∀ r ∈ reads, readWaits (coreAt s p) r.1 r.2 = false ∧ sramBad z core r.1 r.2 = none)
    (hwrites : ∀ r ∈ dstRanges v.lane v.dst, writeWaits (coreAt s p) r.1 r.2 = false)
    (hres : ∀ o ∈ v.args, srcReserved z core v.lane o.src = false) (hsc : scalesRead z (scalesOf v) (coreStep s p) = .ok bs) :
    exec (.vectorOperation core v) s = .next (runVec z core p v) := by
  obtain ⟨buffers, hrun⟩ := exec_vectorOperation hp hpass v hr
  have hstep : coreStep z p = coreStep s p := by
    rw [hz, meetWords_only]
    rfl
  have hnobad : (reads.findSome? fun r => sramBad z core r.1 r.2) = none := by
    rw [List.findSome?_eq_none_iff]
    exact fun r hr => (hreads r hr).2
  rw [← hz, if_neg (by simp [hok]), if_neg (by simpa using htray), if_neg (by
    simpa using ⟨fun a b hr => (hreads (a, b) hr).1, fun a b hr => hwrites (a, b) hr⟩), if_neg (by simp [hg]), hnobad] at hrun
  dsimp only at hrun
  rw [if_neg (by simpa using hres), hstep, hsc] at hrun
  exact hrun

theorem exec_vectorOperation_waits (hp : physOf s core = some p) (hpass : s.pwr.passes.contains p = true) {v : VecOp}
    (hok : vecOk (coreAt s p) v = true) (htray : (v.args.any fun o => isTray o.src) = true) (hempty : (coreAt s p).tray = []) :
    ∃ buffers, exec (.vectorOperation core v) s = .next (waitTray s core p buffers) := by
  obtain ⟨buffers, hrun⟩ := exec_vectorOperation hp hpass v rfl
  rw [if_neg (by simp [hok]), if_pos (by simp [htray, hempty])] at hrun
  exact ⟨buffers, hrun⟩

theorem exec_vectorOperation_refused (hp : physOf s core = some p) (hpass : s.pwr.passes.contains p = true) {v : VecOp}
    (hok : vecOk (coreAt s p) v = false) : exec (.vectorOperation core v) s = .next (failProgram s p 0x12 condition 0) := by
  obtain ⟨buffers, hrun⟩ := exec_vectorOperation hp hpass v rfl
  rw [if_pos (by simp [hok])] at hrun
  exact hrun

/-- The wait of an operation for the tray. -/
theorem waitTray_frame (s : State) (core p buffers : Nat) : waitTray s core p buffers = { s with
      regs := (waitTray s core p buffers).regs, freeCtr := s.freeCtr + 1
      cores := { s.cores with cores := (waitTray s core p buffers).cores.cores } } ∧
    (∀ q, q ≠ p → coreAt (waitTray s core p buffers) q = coreAt s q) ∧
    coreAt (waitTray s core p buffers) p = { coreAt s p with vecWait := some (buffers, true) } :=
  ⟨rfl, fun _ hq => coreAt_setCore_ne (Ne.symm hq) _, coreAt_setCore_self ..⟩

theorem exec_specialFunction_runs (hp : physOf s core = some p) (hpass : s.pwr.passes.contains p = true) {f : SpecialFn} {src : VecSrc}
    {b row : Nat} {mode : NumMode} {rounding : Rounding} (hok : srcOk (coreAt s p) .fp32 src = true) (hb : b < 4) (hrow : row < 128)
    (hround : rounding = .rne ∨ mode = .strict)
    (hleg : mode = .legacy → ∀ off tag so, src = .sram off tag so → legacyTag tag = true)
    (htray : isTray src = true → (coreAt s p).tray ≠ [])
    (hreads : ∀ r ∈ srcRanges .fp32 src, readWaits (coreAt s p) r.1 r.2 = false ∧ sramBad s core r.1 r.2 = none)
    (hres : srcReserved s core .fp32 src = false) :
    exec (.specialFunction core f src b row mode rounding) s = .next (runSpecial s core p f src b row mode rounding) := by
  change execSpecialFunction core f src b row mode rounding s = _
  unfold execSpecialFunction
  rw [onCore_of_pass hp hpass]
  have hnobad : ((srcRanges .fp32 src).findSome? fun r => sramBad s core r.1 r.2) = none := by
    rw [List.findSome?_eq_none_iff]
    exact fun r hr => (hreads r hr).2
  have hfits : ¬(row + 1) * 512 > 65536 := by omega
  have hmode : (rounding != .rne && mode != .strict) = false := by
    rcases hround with h | h <;> simp [h]
  dsimp only
  rw [if_neg (by
      simp only [hok, hfits, hmode, Bool.not_true, ge_iff_le, Nat.not_le.2 hb, decide_false, Bool.or_false, Bool.false_or, Bool.and_eq_true,
        decide_eq_true_eq, not_and, Bool.not_eq_true]
      intro hm
      split
      · simp [hleg hm _ _ _ rfl]
      · rfl), if_neg (by simpa using htray),
    if_neg (by simpa using fun a b hr => (hreads (a, b) hr).1), hnobad]
  dsimp only
  rw [if_neg (by simp [hres])]

/-- What a special function writes. -/
theorem runSpecial_frame {f : SpecialFn} {src : VecSrc} {b row sigma : Nat} {mode : NumMode} {rounding : Rounding}
    (hs : sigma = if isTray src then ((coreAt s p).tray.head?.map (·.shift)).getD 0 else 0) (ht : t = runSpecial s core p f src b row mode rounding) :
    t = { s with regs := t.regs, cores := { s.cores with cores := t.cores.cores } } ∧ (∀ q, q ≠ p → coreAt t q = coreAt s q) ∧
    (coreAt t p).buffers = writeBytes (coreAt s p).buffers (b * 65536 + row * 512) (packElems .fp32
      ((srcLanes s core (coreAt s p) ⟨mode, rounding, .fp32⟩ sigma src).map fun x => (opSpecial mode rounding f x.1).1)) ∧
    (coreAt t p).masks = (coreAt s p).masks ∧ (coreAt t p).tray.length = (coreAt s p).tray.length ∧ (coreAt t p).vecWait = none := by
  subst ht
  unfold runSpecial
  extract_lets k tr sg xs out es valid k1
  have hcount : Counted (setCore s p k1) (progress (countOp (setCore s p k1) core p tr valid) .vec core 1) p :=
    (counted_countOp ..).trans (counted_progress ..)
  have hself := coreAt_setCore_self s p k1
  refine ⟨?_, fun q hq => (hcount.other q hq).trans (coreAt_setCore_ne (Ne.symm hq) _), (hcount.buffers.trans (congrArg Core.buffers hself)).trans ?_, (hcount.masks.trans (congrArg Core.masks hself)).trans rfl,
    (hcount.tray.trans (congrArg (fun c : Core => c.tray.length) hself)).trans rfl, (hcount.waits.trans (congrArg Core.vecWait hself)).trans rfl⟩
  · exact hcount.rest
  · subst hs
    unfold k1 out
    dsimp only
    rw [List.map_map]
    rfl

/-- Settles O49: the result of an operation by its destination, its end by `vecEnded_frame`. -/
theorem vectorResultsAreWritten : Obligations.VectorResultsAreWritten := by
  unfold Obligations.VectorResultsAreWritten
  intro core p s k hp hk hpass
  refine ⟨?_, fun v hok htray hempty => ?_, fun v hok c hc => ?_,
    fun f src b row sigma mode rounding hok hb hrow hround hleg htray hreads hres hs => ?_⟩
  · intro v reads z tray sigma sh ctl ls bs hok hr hz ht htray hg hreads hwrites hres hsc hs hsh hctl hls
    have hcore (q : Nat) : coreAt z q = coreAt s q := hz ▸ coreAt_meetWords ..
    have hscale : z.scaling = s.scaling := by
      rw [hz, meetWords_only]
    have hrun := exec_vectorOperation_runs hp hpass hr hz (hk ▸ hok) (ht ▸ hk ▸ htray) hg (hk ▸ hreads) (hk ▸ hwrites) hres hsc
    rw [runVec_eq z core p v ht (by rw [hs, hk, hcore]) hsh] at hrun
    have hkz : coreAt z p = k := (hcore p).trans hk.symm
    obtain ⟨hresult, hmasks⟩ := vecResult_resulted (s := z) (core := core) (p := p) (v := v) (tray := tray) (sigma := sigma) (sh := sh)
    obtain ⟨honly, hother, hbuf, hmask, hlen, hwait⟩ := vecEnded_frame (vecResult z core p v tray sigma sh) core p (v.release && tray) (by
      intro h hnil
      have := hresult.tray
      rw [hnil, hkz, eq_comm, List.length_nil, List.length_eq_zero_iff] at this
      exact htray (by simp_all) this)
    refine ⟨_, hrun, ?_⟩
    generalize vecEnded (vecResult z core p v tray sigma sh) core p (v.release && tray) = t at *
    have hsram : t.cores.sram = (vecResult z core p v tray sigma sh).cores.sram := (congrArg (fun x : State => x.cores.sram) honly).trans rfl
    have hbad : t.cores.badWords = (vecResult z core p v tray sigma sh).cores.badWords :=
      (congrArg (fun x : State => x.cores.badWords) honly).trans rfl
    have hscaling : t.scaling = (vecResult z core p v tray sigma sh).scaling := (congrArg State.scaling honly).trans rfl
    subst hctl hls
    refine ⟨?_, fun q hq => ((hother q hq).trans (hresult.other q hq)).trans (hcore q), hwait,
      hlen.trans (by rw [hresult.tray, hkz]), fun h => (hscaling.trans (hresult.scaling h)).trans hscale, fun hc m hm => ?_,
      fun hc => (hmask.trans (hmasks hc)).trans (congrArg Core.masks hkz), fun hc b row hd => ?_, ?_⟩
    · refine (honly.trans (congrArg (fun x : State =>
        { x with regs := t.regs, cores := { x.cores with cores := t.cores.cores } }) hresult.rest)).trans ?_
      rw [hscaling, hsram, hbad]
    · obtain ⟨_, hs', hb', hm'⟩ := vecResult_compare (s := z) (core := core) (p := p) (tray := tray) (sigma := sigma) (sh := sh) hc
      rw [hsram, hbuf, hmask, hs', hb', hm' m hm, hkz]
      exact ⟨rfl, rfl, rfl⟩
    · obtain ⟨_, hs', _, hb'⟩ := vecResult_buffer (s := z) (core := core) (p := p) (tray := tray) (sigma := sigma) (sh := sh) hc hd
      rw [hsram, hbuf, hs', hb', hkz]
      exact ⟨rfl, rfl⟩
    · intro hc off tag kind so src f a st conv hd htag hst hconv
      obtain ⟨_, _, hb', hs'⟩ := vecResult_sram (s := z) (core := core) (p := p) (tray := tray) (sigma := sigma) (sh := sh) hc hd htag
      have hst' : st = storedLanes z v k sigma sh (vecLanes z core k v sh) (f, a) src := by
        rw [hst]
        unfold storedLanes
        simp only [Bool.and_eq_true, decide_eq_true_eq]
      rw [hsram, hbuf, hb', hs', hkz, ← hst', hconv]
      exact ⟨rfl, rfl⟩
  · obtain ⟨buffers, hrun⟩ := exec_vectorOperation_waits hp hpass (hk ▸ hok) htray (hk ▸ hempty)
    obtain ⟨honly, hother, hself⟩ := waitTray_frame s core p buffers
    exact ⟨_, hrun, honly, hother, buffers, hself.trans (by rw [hk])⟩
  · have hrun := exec_vectorOperation_refused hp hpass (hk ▸ hok)
    rw [(failProgram_cases hk _ _ _).1 c hc] at hrun
    exact endsIn_finish hrun (by decide)
  · subst hk
    exact ⟨_, exec_specialFunction_runs hp hpass hok hb hrow hround hleg htray hreads hres, runSpecial_frame hs rfl⟩

end Sys2Proof.Proofs
end

section
/-! Transfers, sends and boundaries (O50). -/

namespace Sys2Proof.Proofs

open Sys2Proof Sys2Proof.Machine Sys2Proof.Laws

variable {s t z : State} {core p : Nat} {k : Core}

/-! ### Starting a transfer -/

theorem exec_issues (hp : physOf s core = some p) (hpass : s.pwr.passes.contains p = true) {i : Instr} {kind : Nat} {tr x : Transfer}
    (hi : (i, kind, x) ∈ [(Instr.streamIn core tr, 0, tr), (.gather core tr, 1, { tr with inHost := true }), (.offload core tr, 2, tr),
      (.fetch core tr, 3, tr)]) : exec i s = .next (issueTransfer s p kind x) := by
  simp only [List.mem_cons, Prod.mk.injEq, List.not_mem_nil, or_false] at hi
  rcases hi with ⟨rfl, rfl, rfl⟩ | ⟨rfl, rfl, rfl⟩ | ⟨rfl, rfl, rfl⟩ | ⟨rfl, rfl, rfl⟩ <;>
    exact congrArg Host.Outcome.next (onCore_of_pass hp hpass _)

/-! ### The end of a transfer -/

/-- The oldest transfer of a core taken off its list. -/
theorem popTransfer_frame (s : State) (p : Nat) :
    popTransfer s p = { s with regs := (popTransfer s p).regs, cores := { s.cores with cores := (popTransfer s p).cores.cores } } ∧
    (∀ q, q ≠ p → coreAt (popTransfer s p) q = coreAt s q) ∧
    coreAt (popTransfer s p) p = { coreAt s p with transfers := (coreAt s p).transfers.drop 1 } :=
  ⟨rfl, fun _ hq => coreAt_setCore_ne (Ne.symm hq) _, coreAt_setCore_self ..⟩

section Complete
variable {kind : Nat} {tr : Transfer} {rest : List OpenTransfer}

theorem exec_transferComplete (hp : physOf s core = some p) (ht : (coreAt s p).transfers = ⟨kind, tr⟩ :: rest) (ident : Nat) :
    exec (.transferComplete core ident) s = .next (
      if tr.ident != ident || (tr.inHost && kind != 1 && hostAway s) then s
      else if kind = 2 then offload s core p tr
      else if tr.inHost then receiveTile s core p tr (padTo tr.bytes (tr.data.take tr.bytes)) fun v => popTransfer v p
      else fetchBytes s p tr fun u bs => receiveTile u core p tr bs fun v => popTransfer v p) := by
  change execTransferComplete core ident s = _
  unfold execTransferComplete
  rw [hp]
  dsimp only
  rw [ht]

/-- A transfer whose host is there, by its kind. -/
theorem exec_transferComplete_runs (hp : physOf s core = some p) (ht : (coreAt s p).transfers = ⟨kind, tr⟩ :: rest)
    (haway : tr.inHost = true → kind = 1 ∨ s.hif.detached = false) :
    exec (.transferComplete core tr.ident) s = .next (
      if kind = 2 then offload s core p tr
      else if tr.inHost then receiveTile s core p tr (padTo tr.bytes (tr.data.take tr.bytes)) fun v => popTransfer v p
      else fetchBytes s p tr fun u bs => receiveTile u core p tr bs fun v => popTransfer v p) := by
  rw [exec_transferComplete hp ht, if_neg]
  cases hh : tr.inHost with
  | false => simp
  | true =>
    rcases haway hh with h | h
    · simp [h]
    · simp [hostAway, h]

/-- Bytes that have come are checked, then put in SRAM. -/
theorem exec_transferComplete_receives (hp : physOf s core = some p) (ht : (coreAt s p).transfers = ⟨kind, tr⟩ :: rest)
    (haway : tr.inHost = true → kind = 1 ∨ s.hif.detached = false) (hk : kind ≠ 2) {bs : List Byte}
    (hhost : tr.inHost = true → z = s ∧ bs = padTo tr.bytes (tr.data.take tr.bytes))
    (hdev : tr.inHost = false → tornIn s tr.addr tr.bytes = none ∧ z = meet s (metIn tr.met tr.addr tr.bytes) ∧
      readItem z tr.addr tr.bytes (coreStep z p) tr.twinned false false = .ok bs) :
    exec (.transferComplete core tr.ident) s = .next (receiveTile z core p tr bs fun v => popTransfer v p) := by
  rw [exec_transferComplete_runs hp ht haway, if_neg hk]
  cases hh : tr.inHost with
  | true =>
    obtain ⟨rfl, rfl⟩ := hhost hh
    rfl
  | false =>
    obtain ⟨htorn, hz, hread⟩ := hdev hh
    rw [if_neg Bool.false_ne_true, fetchBytes, htorn]
    dsimp only
    rw [← hz, hread]

theorem receiveTile_ok {bs : List Byte} {after : State → State} (h : tr.isTile = false ∨ tileCheck s tr bs = .ok) :
    receiveTile s core p tr bs after = after (sramWrite s core tr.sramOffset bs) := by
  unfold receiveTile
  cases ht : tr.isTile with
  | false => rfl
  | true =>
    rw [h.resolve_left (by simp [ht])]
    rfl

/-- A tile that fails its check, with the status and the details of the fault. -/
theorem receiveTile_refused {bs : List Byte} {after : State → State} (ht : tr.isTile = true) :
    (tileCheck s tr bs = .corrupt → tr.inHost = true → receiveTile s core p tr bs after = failProgram s p 0x23 tr.addr (ueDetail s)) ∧
    (∀ f, tileCheck s tr bs = .badField f → receiveTile s core p tr bs after = failProgram s p 0x12 (0x1000 + f) tr.addr) ∧
    (tileCheck s tr bs = .epoch → receiveTile s core p tr bs after = failProgram s p 0x21 (leAt bs 6 2) tr.layoutEpoch) := by
  unfold receiveTile
  rw [ht]
  exact ⟨fun h hh => by rw [h, hh]; rfl, fun f h => by rw [h]; rfl, fun h => by rw [h]; rfl⟩

/-- Bytes put in SRAM by the transfer that ends. -/
theorem received_frame (z : State) (core p off : Nat) (bs : List Byte) (ht : t = popTransfer (sramWrite z core off bs) p) :
    t = { z with
      regs := t.regs, cores := { z.cores with cores := t.cores.cores, sram := t.cores.sram, badWords := t.cores.badWords } } ∧
    t.cores.sram = writeBytes z.cores.sram (sramAt core off) bs ∧ (∀ q, q ≠ p → coreAt t q = coreAt z q) ∧
    coreAt t p = { coreAt z p with transfers := (coreAt z p).transfers.drop 1 } := by
  obtain ⟨_, hother, hself⟩ := popTransfer_frame (sramWrite z core off bs) p
  subst ht
  exact ⟨rfl, rfl, hother, hself⟩

/-- An offload of words that read, past its seal. -/
theorem offload_of_read (hz : z = meetWords s core [(tr.sramOffset, tr.bytes)] tr.words) (hbad : sramBad z core tr.sramOffset tr.bytes = none)
    {bs : List Byte} (hbs : bs = if tr.isTile then sealTile z tr (coreStep s p) (sramRead z core tr.sramOffset tr.bytes)
      else sramRead z core tr.sramOffset tr.bytes) :
    offload s core p tr = if tr.inHost then popTransfer (hostWrite z (.data tr.addr bs)) p
      else if memWaits z tr.addr tr.bytes then z
      else
        match badWrite z tr.addr tr.bytes with
        | some a => failProgram (noteUE z a) p 0x23 a (ueDetail z)
        | none => popTransfer (devWrite z tr.addr bs) p := by
  have hstep : coreStep z p = coreStep s p := by
    rw [hz, meetWords_only]
    rfl
  rw [offload, ← hz]
  dsimp only
  rw [hbad]
  dsimp only
  rw [hstep, ← hbs] <;> rfl

theorem offload_of_bad (hz : z = meetWords s core [(tr.sramOffset, tr.bytes)] tr.words) {off : Nat}
    (hbad : sramBad z core tr.sramOffset tr.bytes = some off) : offload s core p tr = failSram z core p off := by
  rw [offload, ← hz]
  dsimp only
  rw [hbad]

end Complete

/-! ### Sends and boundaries -/

theorem exec_send {dst q ordinal so bytes buffer dso : Nat} (hp : physOf s core = some p) (hpass : s.pwr.passes.contains p = true)
    (hq : physOf s dst = some q) (hb : buffer < 64) (hso : so + bytes ≤ sramBytes) (hdso : dso + bytes ≤ sramBytes)
    (hdst : dst < Config.logicalCores s.part) : exec (.send core dst ordinal so bytes buffer dso) s = .next (
      if ordinal ≤ lastSend (coreAt s q) core then progress s .coreP q 1
      else if readWaits (coreAt s p) so bytes || writeWaits (coreAt s q) dso bytes then waitStream s p
      else
        match sramBad s core so bytes with
        | some off => failSram s core p off
        | none => progress (sramWrite (setCore s q { coreAt s q with
            sendsIn := mput (coreAt s q).sendsIn core ordinal
            receiveLog := (coreAt s q).receiveLog ++ [(core, ordinal, sramRead s core so bytes)] }) dst dso (sramRead s core so bytes))
            .coreP p 1) := by
  change execSend core dst ordinal so bytes buffer dso s = _
  unfold execSend
  rw [onCore_of_pass hp hpass, if_neg (by simp [hb, hso, hdso, hdst]), hq] <;> rfl

theorem exec_boundary (hp : physOf s core = some p) (hpass : s.pwr.passes.contains p = true) (position restore : Nat) :
    exec (.boundary core position restore) s = .next (setCore (commitCore s core p) p { coreAt (commitCore s core p) p with
      resumePoint := some (position, restore), receiveLog := [] }) :=
  congrArg Host.Outcome.next (onCore_of_pass hp hpass _)

/-- The contributions of a core committed. -/
theorem commitCore_frame (s : State) (core p : Nat) :
    commitCore s core p = { s with
      grade := { s.grade with recs := (coreAt s p).uncommitted.foldl (fun m e => putGrade m (gradeKey core e.1) e.2) s.grade.recs }
      cores := { s.cores with cores := (commitCore s core p).cores.cores } } ∧
    (∀ q, q ≠ p → coreAt (commitCore s core p) q = coreAt s q) ∧ coreAt (commitCore s core p) p = { coreAt s p with uncommitted := [] } := by
  refine ⟨rfl, fun q hq => ?_, ?_⟩
  · exact (coreAt_setCore_ne (Ne.symm hq) _).trans rfl
  · exact coreAt_setCore_self ..

/-- Settles O50: received bytes by `receiveTile_ok`, sealed ones by `offload_of_read`. -/
theorem transfersMoveSramContents : Obligations.TransfersMoveSramContents := by
  unfold Obligations.TransfersMoveSramContents
  intro core p s k hp hk
  refine ⟨fun hpass i kind tr x hi => ⟨fun hok => ?_, fun hok c hc => ?_⟩, fun kind tr rest bs z htr => ?_,
    fun hpass dst q ordinal so bytes buffer dso hq hb hso hdso hdst => ⟨fun hold => ?_, fun hnew hr hw hbad => ?_⟩,
    fun hpass position restore => ?_⟩
  · refine ⟨_, exec_issues hp hpass hi, ?_⟩
    rw [issueTransfer, if_pos hok, ← hk]
    exact ⟨rfl, fun q hq => coreAt_setCore_ne (Ne.symm hq) _, coreAt_setCore_self ..⟩
  · have hrun := exec_issues hp hpass hi
    rw [issueTransfer, if_neg (by simp [hok]), (failProgram_cases hk _ _ _).1 c hc] at hrun
    exact endsIn_finish hrun (by decide)
  · rw [hk] at htr
    refine ⟨fun ident hne => ?_, fun hh hk1 hd => ?_, fun haway => ⟨fun hk2 hhost hdev => ?_, fun hk2 hh a c htorn hc => ?_,
      fun hk2 hz hbad hbs => ⟨fun hh => ?_, fun hh hw hb => ?_⟩, fun hk2 off c hz hbad hc => ?_⟩⟩
    · refine ⟨_, exec_transferComplete hp htr ident, if_pos ?_⟩
      simp [hne.symm]
    · refine ⟨_, exec_transferComplete hp htr tr.ident, if_pos ?_⟩
      simp [hh, hk1, hostAway, hd]
    · have hrun := exec_transferComplete_receives hp htr haway hk2 hhost hdev
      have hmet : Met s z := by
        cases hh : tr.inHost with
        | true => exact (hhost hh).1 ▸ .refl s
        | false => exact (hdev hh).2.1 ▸ met_meet _ s
      have hcores : z.cores = s.cores := (congrArg State.cores hmet.rest).trans rfl
      have hcore (q : Nat) : coreAt z q = coreAt s q := congrArg (fun c : Cores => (mget c.cores q).getD Core.reset) hcores
      have hkz : k = coreAt z p := hk.trans (hcore p).symm
      refine ⟨fun hok => ?_, fun c hti hc => ⟨fun hch hh => ?_, fun f hch => ?_, fun hch => ?_⟩⟩
      · rw [receiveTile_ok hok] at hrun
        obtain ⟨honly, hsram, hother, hself⟩ := received_frame z core p tr.sramOffset bs rfl
        refine ⟨_, hrun, honly, hsram.trans (by rw [hcores]), fun q hq => (hother q hq).trans (hcore q), hself.trans ?_⟩
        rw [hkz, hcore, htr]
        rfl
      · rw [(receiveTile_refused hti).1 hch hh, (failProgram_cases hkz _ _ _).1 c hc, (hhost hh).1] at hrun
        exact endsIn_finish hrun (by decide)
      · rw [(receiveTile_refused hti).2.1 f hch, (failProgram_cases hkz _ _ _).1 c hc] at hrun
        exact endsIn_finish hrun (by decide)
      · rw [(receiveTile_refused hti).2.2 hch, (failProgram_cases hkz _ _ _).1 c hc] at hrun
        exact endsIn_finish hrun (by decide)
    · have hrun := exec_transferComplete_runs hp htr haway
      rw [if_neg hk2, if_neg (by simp [hh]), fetchBytes, htorn] at hrun
      dsimp only at hrun
      rw [(failProgram_cases hk _ _ _).1 c hc] at hrun
      exact endsIn_finish hrun (by decide)
    · have hrun := exec_transferComplete_runs hp htr haway
      rw [if_pos hk2, offload_of_read hz hbad hbs, if_pos hh] at hrun
      obtain ⟨honly, _, hself⟩ := popTransfer_frame (hostWrite z (.data tr.addr bs)) p
      have hcore : coreAt z p = coreAt s p := hz ▸ coreAt_meetWords ..
      have hout : z.hostOut = s.hostOut := by
        rw [hz, meetWords_only]
      refine ⟨_, hrun, honly.trans ?_, hself.trans ?_⟩
      · rw [← hout]
        rfl
      · rw [hk, ← hcore, show (coreAt (hostWrite z (.data tr.addr bs)) p) = coreAt z p from rfl, hcore, htr]
        rfl
    · have hrun := exec_transferComplete_runs hp htr haway
      have hgddr : z.gddr = s.gddr := by
        rw [hz, meetWords_only]
      have hpart : z.part = s.part := by
        rw [hz, meetWords_only]
      have hcore : coreAt z p = coreAt s p := hz ▸ coreAt_meetWords ..
      rw [if_pos hk2, offload_of_read hz hbad hbs, if_neg (by simp [hh]), if_neg (by simpa [memWaits, hgddr, hpart] using hw),
        show badWrite z tr.addr tr.bytes = none by rw [hz, meetWords_only]; exact hb] at hrun
      dsimp only at hrun
      obtain ⟨honly, _, hself⟩ := popTransfer_frame (devWrite z tr.addr bs) p
      refine ⟨_, hrun, ?_, hself.trans ?_, ?_, ?_⟩
      · rw [honly, hz, meetWords_only]
        rfl
      · rw [show coreAt (devWrite z tr.addr bs) p = coreAt z p from rfl, hcore, hk, htr]
        rfl
      · rw [honly, hz, meetWords_only]
        rfl
      · rw [honly, hz, meetWords_only]
        rfl
    · have hrun := exec_transferComplete_runs hp htr haway
      have hcore : coreAt z p = coreAt s p := hz ▸ coreAt_meetWords ..
      have hnumber : z.twin = s.twin := by
        rw [hz, meetWords_only]
      rw [if_pos hk2, offload_of_bad hz hbad, failSram, (failProgram_cases (hk.trans hcore.symm) _ _ _).1 c hc, hnumber] at hrun
      exact endsIn_finish hrun (by decide)
  · refine ⟨_, exec_send hp hpass hq hb hso hdso hdst, if_pos hold⟩
  · have hrun := exec_send hp hpass hq hb hso hdso hdst (ordinal := ordinal)
    rw [if_neg (Nat.not_le.2 hnew), if_neg (by simp [← hk, hr, hw]), hbad] at hrun
    dsimp only at hrun
    have hself := coreAt_setCore_self s q { coreAt s q with
      sendsIn := mput (coreAt s q).sendsIn core ordinal
      receiveLog := (coreAt s q).receiveLog ++ [(core, ordinal, sramRead s core so bytes)] }
    refine ⟨_, hrun, rfl, rfl, fun x hx => coreAt_setCore_ne (Ne.symm hx) _, ?_, ?_⟩
    · refine (congrArg (fun c : Core => lastSend c core) hself).trans ?_
      rw [lastSend, mget_mput_self]
      rfl
    · exact congrArg Core.receiveLog hself
  · obtain ⟨honly, hother, hself⟩ := commitCore_frame s core p
    refine ⟨_, exec_boundary hp hpass position restore, ?_, ?_, fun q hq => ?_, ?_⟩
    · rfl
    · rw [hk]; rfl
    · exact (coreAt_setCore_ne (Ne.symm hq) _).trans (hother q hq)
    · refine (coreAt_setCore_self ..).trans ?_
      rw [hself, hk]

end Sys2Proof.Proofs
end

section
/-! The end of a step (O54): a removal that a step boundary releases may end a class command and take its change back. -/

namespace Sys2Proof.Proofs

open Sys2Proof Sys2Proof.Machine Sys2Proof.Laws

variable {s t : State}

/-! ### What tables that advance overlook -/

section Tables
variable {β : Type} {g : State → β} (h : Overlooks g)
include h

theorem overlooked_retryTiles (s : State) : g (retryTiles s) = g s :=
  (foldl_keeps (g := g) (overlooked_applyTile h) _ _).trans (overlooked_setTables h ..)

theorem overlooked_readKey (s : State) (d : TableDesc) (v step : Nat) (key : RowKey) : g (afterKey (readKey s d v step key)) = g s := by
  have hready := overlooked_readyRecord h s d v key step false
  unfold readKey
  dsimp only
  split
  · exact (‹readyRecord .. = _› ▸ hready :)
  · exact (‹readyRecord .. = _› ▸ hready :)
  · have ht := (‹readyRecord .. = _› ▸ hready :)
    split
    · exact ht
    · exact (overlooked_bump64 h ..).trans ht

theorem overlooked_readKeys (s : State) (d : TableDesc) (v step : Nat) (keys : List RowKey) : g (readKeys s d v step keys).1 = g s := by
  unfold readKeys
  generalize some [] = es
  induction keys generalizing s es with
  | nil => rfl
  | cons k keys ih =>
    rw [List.foldl_cons]
    cases es with
    | none => exact ih ..
    | some es =>
      have hkey := overlooked_readKey h s d v step k
      dsimp only
      split <;> exact (ih ..).trans (‹readKey .. = _› ▸ hkey :)

theorem overlooked_serveBatch (s : State) (b : HeldBatch) : g (serveBatch s b) = g s := by
  have hreply (u : State) (hd : MsgHdr) (es : List ReplyEntry) : g (replyTo u hd es) = g u := h.sent (sent_sendHdr ..)
  unfold serveBatch
  extract_lets keep
  have hkeep (u : State) : g (keep u) = g u := overlooked_setTables h ..
  split
  · exact hreply ..
  split
  · exact hreply ..
  split
  · exact hkeep s
  extract_lets r
  have hr : g r.1 = g s := (overlooked_readKeys h ..).trans (overlooked_startDomain h ..)
  split
  · exact (hkeep _).trans hr
  · exact (hreply ..).trans ((overlooked_progress h ..).trans hr)

theorem overlooked_serveBatches (s : State) : g (serveBatches s) = g s :=
  (foldl_keeps (g := g) (overlooked_serveBatch h) _ _).trans (overlooked_setTables h ..)

theorem overlooked_writeRoll (s : State) (d : TableDesc) (r : Roll) : g (writeRoll s d r) = g s := by
  unfold writeRoll
  extract_lets stamp record drop a x
  have hdrop (u : State) : g (drop u) = g u := overlooked_setTables h ..
  have hx : g x = g s := overlooked_finishOpen h ..
  have hread := overlooked_readItem h x a d.stride r.step d.twinned true false
  split
  · exact hx
  split
  · exact (hdrop x).trans hx
  split
  · exact (overlooked_writeRecord h ..).trans ((hdrop x).trans hx)
  split
  · split
    · exact (hdrop _).trans ((overlooked_noteUE h ..).trans hx)
    · exact (overlooked_writeRecord h ..).trans ((hdrop x).trans hx)
  · rename_i hr
    rw [hr] at hread
    exact hread.trans hx
  · rename_i hr
    rw [hr] at hread
    exact (hdrop _).trans (hread.trans hx)

theorem overlooked_tryApply (s : State) (d : TableDesc) : g (tryApply s d) = g s := by
  unfold tryApply
  dsimp only
  split
  · exact (foldl_keeps (g := g) (fun t r => (overlooked_applyRow h ..).trans (overlooked_bump64 h ..)) _ _).trans (overlooked_setTables h ..)
  · rfl

theorem overlooked_advanceTable (s : State) (n : Nat) : g (advanceTable s n) = g s := by
  unfold advanceTable
  split
  · rfl
  · refine (foldl_keeps (g := g) (fun t r => ?_) _ _).trans (overlooked_tryApply h ..)
    split
    · exact overlooked_writeRoll h ..
    · rfl

/-- Updates, rolls and held look-ups. -/
theorem overlooked_kickUpdates (s : State) : g (kickUpdates s) = g s :=
  (overlooked_serveBatches h _).trans ((foldl_keeps (g := g) (fun t (e : Nat × TableDesc) => overlooked_advanceTable h t e.1) _ _).trans
    ((overlooked_retryTiles h _).trans (overlooked_retryRows h s)))

/-- The marks of the declared steps. -/
theorem overlooked_declareMarks (s : State) : g (declareMarks s) = g s := by
  have hlook (t : State) (d : TableDesc) (step : Nat) : g (sendLookMark t d step) = g t :=
    (foldl_keeps (g := g) (fun u o => h.sent (sent_sendIdent ..)) _ _).trans (overlooked_setTables h ..)
  have hend (t : State) (d : TableDesc) (step : Nat) : g (sendEndMarks t d step) = g t :=
    (foldl_keeps (g := g) (fun u o => foldl_keeps (g := g) (fun w e => h.sent (sent_sendRows ..)) _ _) _ _).trans (overlooked_setTables h ..)
  have htable (t : State) (decl : StepDecl) (d : TableDesc) : g (declareTable t decl d) = g t := by
    unfold declareTable
    extract_lets step s1
    have hs1 : g s1 = g t := by
      unfold s1
      split
      · exact hlook ..
      · rfl
    split
    · exact (hend ..).trans hs1
    · exact hs1
  unfold declareMarks
  split
  · rfl
  · split
    · exact foldl_keeps (g := g) (fun t e => htable ..) _ _
    · rfl

end Tables

theorem overlooks_job : Overlooks State.job :=
  ⟨⟨fun h => (congrArg State.job h.rest).trans rfl, fun h => (congrArg State.job h.rest).trans rfl, fun _ _ => rfl⟩, fun _ _ => rfl,
    fun _ _ => rfl, fun _ _ _ => rfl, fun _ _ _ => rfl, fun _ _ => rfl⟩

/-! ### A module whose job goes with the command that brought it -/

/-- JOB_START as PF0 sent it. -/
def startSlot : Slot := ⟨0x001B, 0, 0, 0, 0, 1, 0, 0, 0, 0, 0, 0, []⟩

/-- A job of a number, in its first step. -/
def startedJob (number : Nat) : Job := ⟨true, number, 0, 0, 0, [], 0⟩

/-- A notice that a member leaves at a step. -/
def noticeOf (lost step : Nat) : Msg := { dst := 0, hdr := { kind := 0x0F, srcClass := 1 }, body := .removal lost step }

/-- A module whose open step is done. Its JOB_START, which another member refused, still waits for member 2; the notice of member 2 is
held for the next step; before the JOB_START another job ran. -/
def refusedStart : State :=
  { working with
    job := startedJob 1
    tables := { working.tables with decls := [⟨0, [], [], 0, []⟩] }
    col := { working.col with members := 5, relays := [⟨9, ⟨0, 0, 0, 0, startSlot⟩, [2], some (1, 0x12, 0x18, 0)⟩] }
    twin := { working.twin with held := [noticeOf 2 1] }
    undo := [⟨0, 9, working.tables, [], [], working.col, startedJob 7⟩] }

theorem mayClose_refusedStart : mayClose refusedStart = true := by decide +kernel

/-- The boundary releases the notice, which ends the JOB_START: the job before it is back. -/
theorem number_refusedStart : (match exec .stepClose refusedStart with
    | .next t => t.job.number
    | _ => 0) = 7 := by decide +kernel

/-- Refutes O54: a step boundary releases the removal notices that are due (R254), and where one ends a class command that a member
refused, the change of that command is taken back. In `refusedStart` the command is the JOB_START of the running job, so that the job
is not the one whose step closed. -/
theorem not_stepsCloseAndExchange : ¬ Obligations.StepsCloseAndExchange := by
  unfold Obligations.StepsCloseAndExchange
  intro hall
  obtain ⟨_, hclose, _⟩ := hall refusedStart
  obtain ⟨t, hrun, u, ht, hjob, _⟩ := hclose mayClose_refusedStart
  have hnumber := number_refusedStart
  rw [hrun] at hnumber
  dsimp only at hnumber
  rw [ht, overlooked_kickUpdates overlooks_job, overlooked_declareMarks overlooks_job, hjob] at hnumber
  cases hnumber

end Sys2Proof.Proofs
end

section
/-! Page pools, sequences and references (O59). -/

namespace Sys2Proof.Proofs

open Sys2Proof Sys2Proof.Machine Sys2Proof.Laws

variable {s t : State} {c : HostCmd} {q : SeqRec} {n : Nat}

/-! ### Entries of the page table -/

theorem pageEntry_setEntry_self (s : State) (n : Nat) (e : PageEntry) : pageEntry (setEntry s n e) n = e :=
  congrArg (Option.getD · _) (mget_mput_self s.kvp.entries n e)

theorem pinsOf_setEntry (s : State) (n m : Nat) (e : PageEntry) : pinsOf (setEntry s n e) m = pinsOf s m := rfl

/-- A reference dropped of a page that keeps another, or a pin. -/
theorem dropRef_keeps (h : 1 < (pageEntry s n).refs ∨ 0 < pinsOf s n) :
    pageEntry (dropRef s n) n = { pageEntry s n with refs := (pageEntry s n).refs - 1 } ∧ (dropRef s n).kvp.heads = s.kvp.heads := by
  have hstays : lowerRef s n = setEntry s n { pageEntry s n with refs := (pageEntry s n).refs - 1 } := by
    unfold lowerRef settlePage
    dsimp only
    rw [pageEntry_setEntry_self, if_neg]
    rw [pinsOf_setEntry]
    rcases h with h | h
    · simp [show (pageEntry s n).refs - 1 ≠ 0 by omega]
    · simp [show pinsOf s n ≠ 0 by omega]
  rw [dropRef, hstays]
  exact ⟨pageEntry_setEntry_self .., rfl⟩

theorem freePage_entry (s : State) (n : Nat) :
    pageEntry (freePage s n) n = ⟨(mget s.kvp.heads (pageEntry s n).pool).getD noPage, .free, (pageEntry s n).pool, 0, 0, 0, 0⟩ ∧
    mget (freePage s n).kvp.heads (pageEntry s n).pool = some n :=
  ⟨pageEntry_setEntry_self .., mget_mput_self ..⟩

/-- The last reference dropped of a page without pin. -/
theorem dropRef_frees (hlive : (pageEntry s n).state = .live) (hrefs : (pageEntry s n).refs = 1) (hpins : pinsOf s n = 0) :
    pageEntry (dropRef s n) n = ⟨(mget s.kvp.heads (pageEntry s n).pool).getD noPage, .free, (pageEntry s n).pool, 0, 0, 0, 0⟩ ∧
    mget (dropRef s n).kvp.heads (pageEntry s n).pool = some n := by
  obtain ⟨hentry, hhead⟩ := freePage_entry (setEntry s n { pageEntry s n with refs := (pageEntry s n).refs - 1 }) n
  have hfrees : lowerRef s n = freePage (setEntry s n { pageEntry s n with refs := (pageEntry s n).refs - 1 }) n := by
    unfold lowerRef settlePage
    dsimp only
    rw [pageEntry_setEntry_self, if_pos]
    simp [hlive, hrefs, hpins, pinsOf_setEntry]
  rw [pageEntry_setEntry_self] at hentry hhead
  rw [dropRef, hfrees]
  exact ⟨hentry, hhead⟩

/-! ### Pools -/

theorem mget_filter_of_keep {α : Type} {m : List (Nat × α)} {a : Nat} {keep : Nat × α → Bool} (h : ∀ v, mget m a = some v → keep (a, v) = true) :
    mget (m.filter keep) a = mget m a := by
  induction m with
  | nil => rfl
  | cons e m ih =>
    obtain ⟨k, v⟩ := e
    by_cases hk : k = a
    · subst hk
      have hv : mget ((k, v) :: m) k = some v := if_pos rfl
      rw [List.filter_cons_of_pos (h v hv), hv]
      exact if_pos rfl
    · have hne (l : List (Nat × α)) : mget ((k, v) :: l) a = mget l a := if_neg hk
      rw [hne] at h ⊢
      cases hkeep : keep (k, v) with
      | true => rw [List.filter_cons_of_pos hkeep, hne, ih h]
      | false => rw [List.filter_cons_of_neg (by simp [hkeep]), ih h]

/-- Entries written one after another, each key once. -/
theorem mget_foldl_mput {α : Type} (f : Nat → α) (l : List Nat) (m : List (Nat × α)) (a : Nat) :
    mget ((l.map fun k => (k, f k)).foldl (fun m e => mput m e.1 e.2) m) a = if a ∈ l then some (f a) else mget m a := by
  induction l generalizing m with
  | nil => simp
  | cons k l ih =>
    rw [List.map_cons, List.foldl_cons, ih]
    by_cases ha : a ∈ l
    · simp [ha]
    · by_cases hk : k = a
      · subst hk
        simp [ha]
      · simp [ha, Ne.symm hk, mget_mput_ne hk]

/-- The page table of a pool that has come. -/
theorem definePool_entries (s : State) (pool : Nat) (p : Pool) : (definePool s pool p).kvp.entries =
    ((rangeFrom p.first p.count).map fun n =>
      (n, (⟨if n + 1 < p.first + p.count then n + 1 else noPage, .free, pool, 0, 0, 0, 0⟩ : PageEntry))).foldl
      (fun m e => mput m e.1 e.2) (s.kvp.entries.filter fun e => e.2.pool != pool || e.2.state = .unused) := rfl

theorem pageEntry_definePool_free {pool : Nat} {p : Pool} (h : p.first ≤ n ∧ n < p.first + p.count) :
    pageEntry (definePool s pool p) n = ⟨if n + 1 < p.first + p.count then n + 1 else noPage, .free, pool, 0, 0, 0, 0⟩ := by
  rw [pageEntry, definePool_entries, mget_foldl_mput
    (fun n => (⟨if n + 1 < p.first + p.count then n + 1 else noPage, .free, pool, 0, 0, 0, 0⟩ : PageEntry)), if_pos (mem_rangeFrom.2 h)]
  rfl

theorem pageEntry_definePool_other {pool : Nat} {p : Pool} (h : ¬(p.first ≤ n ∧ n < p.first + p.count)) (hpool : (pageEntry s n).pool ≠ pool) :
    pageEntry (definePool s pool p) n = pageEntry s n := by
  rw [pageEntry, definePool_entries, mget_foldl_mput
    (fun n => (⟨if n + 1 < p.first + p.count then n + 1 else noPage, .free, pool, 0, 0, 0, 0⟩ : PageEntry)),
    if_neg (mt mem_rangeFrom.1 h), mget_filter_of_keep, pageEntry]
  intro v hv
  rw [pageEntry, hv, Option.getD_some] at hpool
  simp [hpool]

theorem exec_kvPoolDefine (hr : ready s 0x0128 c = true) : exec (.kvPoolDefine c) s = .next (match poolFault s (inlineOf c.slot 32) with
    | some d0 => refuse s c d0
    | none => done (definePool (startDomain s domKvp) (bitsOf (leAt (inlineOf c.slot 32) 0 1) 0 4) (poolOf (inlineOf c.slot 32))) c) := by
  change execKvPoolDefine c s = _
  rw [execKvPoolDefine, runCmd_of_ready hr] <;> rfl

/-! ### Commands in quiet memory -/

theorem memWaits_of_quiet (hq : Quiet s) (a n : Nat) : memWaits s a n = false := by
  obtain ⟨hre, -, -⟩ := hq
  simp [memWaits, hre]

theorem gated_of_quiet (hq : Quiet s) (c : HostCmd) (rs : List (Nat × Nat)) (k : State → State) : gated s c rs k = k s := by
  have hbad : (rs.findSome? fun r => badSector s r.1 r.2) = none := by
    rw [List.findSome?_eq_none_iff]
    exact fun r _ => badSector_of_quiet hq.2.1 hq.2.2 r.1 r.2
  rw [gated, if_neg (by simp [memWaits_of_quiet hq]), hbad]

theorem poolGate_of_quiet (hq : Quiet s) (c : HostCmd) (pools : List Nat) (k : State → State) : poolGate s c pools k = k s := by
  have hbad : (pools.findSome? fun n => (mget s.kvp.pools n).bind (poolBad s)) = none := by
    rw [List.findSome?_eq_none_iff]
    intro n _
    cases mget s.kvp.pools n with
    | none => rfl
    | some p => simp [poolBad, hq.2.1]
  rw [poolGate, hbad]

theorem withSeq_refused (hb : bitOf c.slot.ctl 6 = true) (hr : rangeBad s c.slot.operand 64 = true) (data : List Byte) (k : State → SeqRec → State) :
    withSeq s c data k = refuse s c 0x18 := by
  rw [withSeq, if_pos (by simp [hb, hr])]

theorem withSeq_of_quiet (hq : Quiet s) (hr : bitOf c.slot.ctl 6 = true → rangeBad s c.slot.operand 64 = false) (data : List Byte)
    (k : State → SeqRec → State) : withSeq s c data k = k s (seqOf (operandBytes s c data 64)) := by
  rw [withSeq, if_neg (by simpa using hr), gated_of_quiet hq]

section Sequences
variable {data : List Byte}

theorem exec_kv_refused (hb : bitOf c.slot.ctl 6 = true) (hout : rangeBad s c.slot.operand 64 = true) :
    (ready s 0x0129 c = true → exec (.kvSeqOpen c data) s = .next (refuse s c 0x18)) ∧
    (ready s 0x012A c = true → exec (.kvShare c data) s = .next (refuse s c 0x18)) ∧
    (ready s 0x012B c = true → exec (.kvRelease c data) s = .next (refuse s c 0x18)) := by
  refine ⟨fun hr => ?_, fun hr => ?_, fun hr => ?_⟩
  · change execKvSeqOpen c data s = _
    rw [execKvSeqOpen, runCmd_of_ready hr, withSeq_refused hb hout]
  · change execKvShare c data s = _
    rw [execKvShare, runCmd_of_ready hr, withSeq_refused hb hout]
  · change execKvRelease c data s = _
    rw [execKvRelease, runCmd_of_ready hr, withSeq_refused hb hout]

variable (hquiet : Quiet s) (hin : bitOf c.slot.ctl 6 = true → rangeBad s c.slot.operand 64 = false) (hq : q = seqOf (operandBytes s c data 64))
include hquiet hin hq

theorem exec_kvSeqOpen (hr : ready s 0x0129 c = true) : exec (.kvSeqOpen c data) s = .next (match seqFault s q with
    | some d0 => refuse s c d0
    | none => if seqNames s q then refuse s c condition else done (clearSeq (startDomain s domKvp) q) c) := by
  change execKvSeqOpen c data s = _
  rw [execKvSeqOpen, runCmd_of_ready hr, withSeq_of_quiet hquiet hin]
  simp only [gated_of_quiet hquiet]
  rw [← hq] <;> rfl

theorem exec_kvRelease (hr : ready s 0x012B c = true) : exec (.kvRelease c data) s = .next (match releaseFault s q with
    | some d0 => refuse s c d0
    | none => done (clearSeq (((List.range (seqLists q)).flatMap fun l =>
        if (cubbyOf s q l).isSome then listPages s q l else []).foldl dropRef s) q) c) := by
  change execKvRelease c data s = _
  rw [execKvRelease, runCmd_of_ready hr, withSeq_of_quiet hquiet hin]
  simp only [gated_of_quiet hquiet]
  rw [← hq] <;> rfl

end Sequences

/-- A child that the parent's sequence is shared with, or what is wrong with it; the pages that its shared tails need; and the copies. -/
def shared (s : State) (c : HostCmd) (q : SeqRec) (kids : List SeqRec) : State :=
  match kids.findSome? (childFault s q), (List.range (seqLists q)).find? fun l => (cubbyOf s q l).isNone with
  | some d0, _ => refuse s c d0
  | none, some l => failUE s c (cubbyAddr s q l)
  | none, none =>
    let fl := if bitOf c.slot.param1 31 then sharedFlushes s q else []
    let need := (fl.map fun e => flushNeeds s q e.1 e.2).sum
    match holdPages s q.pool need with
    | none => failPool s c q.pool (need - (poolFree s q.pool need).length)
    | some h =>
      if h.2.any (pageWaits h.1) then s
      else
        let r := fl.foldl (fun (a : State × List Nat) e => flush a.1 (ctlOf c) q e.1 e.2 a.2) h
        done (kids.foldl (fun t x => copySeq t q x) (shareRefs (startDomain (r.2.foldl freePage r.1) domKvp) q kids)) c

theorem exec_kvShare {data : List Byte} (hquiet : Quiet s) (hin : bitOf c.slot.ctl 6 = true → rangeBad s c.slot.operand 64 = false)
    (hq : q = seqOf (operandBytes s c data 64)) (hn : n = bitsOf c.slot.param1 0 11 + 1) {addrs : List Nat} {kids : List SeqRec}
    (ha : addrs = (List.range n).map fun i => leNat (devRead s (c.slot.param0 + 8 * i) 8))
    (hk : kids = addrs.map fun a => seqOf (devRead s a 64)) (hr : ready s 0x012A c = true) :
    exec (.kvShare c data) s = .next (
      if n > 1024 then refuse s c 0x28
      else if rangeBad s c.slot.param0 (8 * n) then refuse s c 0x20
      else
        match seqFault s q with
        | some d0 => refuse s c d0
        | none =>
          if addrs.any fun a => rangeBad s a 64 then refuse s c condition
          else
            match kids.findSome? (seqFault s) with
            | some d0 => refuse s c d0
            | none => shared s c q kids) := by
  subst hn ha hk
  change execKvShare c data s = _
  rw [execKvShare, runCmd_of_ready hr, withSeq_of_quiet hquiet hin]
  simp only [gated_of_quiet hquiet, poolGate_of_quiet hquiet]
  rw [← hq]
  unfold shared
  cases seqFault s q with
  | some d0 => rfl
  | none =>
    generalize (List.range (bitsOf c.slot.param1 0 11 + 1)).map (fun i => leNat (devRead s (c.slot.param0 + 8 * i) 8)) = addrs
    cases (addrs.map fun a => seqOf (devRead s a 64)).findSome? (seqFault s) with
    | some d0 => rfl
    | none => rfl

/-- Pages that are held do not wait where nothing retrains. -/
theorem pageWaits_holdPages (hquiet : Quiet s) {pool need : Nat} {h : State × List Nat} (hh : holdPages s pool need = some h) :
    h.2.any (pageWaits h.1) = false := by
  have hgddr : h.1.gddr = s.gddr := by
    unfold holdPages at hh
    dsimp only at hh
    split at hh
    · cases hh
    · cases hh
      have hset : ((poolFree s pool need).foldl (fun t p => setEntry t p ⟨0, .held, pool, 0, 0, 0, 0⟩) s).gddr = s.gddr :=
        foldl_keeps (g := State.gddr) (f := fun t p => setEntry t p ⟨0, .held, pool, 0, 0, 0, 0⟩) (fun _ _ => rfl) _ _
      refine Eq.trans ?_ hset
      dsimp only
      split <;> rfl
  have hwaits (a n : Nat) : memWaits h.1 a n = false := by
    simp [memWaits, hgddr, hquiet.1]
  rw [List.any_eq_false]
  intro n _
  unfold pageWaits
  split
  · simp
  · simp [hwaits]

/-! ### Clearing a sequence -/

theorem readByte_devWrite_outside (hi : Inv s) {a x : Nat} {bs : List Byte} (h : x < a ∨ a + bs.length ≤ x) :
    readByte (devWrite s a bs).mem x = readByte s.mem x :=
  (readByte_writeBytes hi a x bs).trans (if_neg (by omega))

theorem kvp_devWrite (s : State) (a : Nat) (bs : List Byte) : (devWrite s a bs).kvp = s.kvp := rfl

theorem kvp_clearSeq (s : State) (q : SeqRec) : (clearSeq s q).kvp = s.kvp := by
  unfold clearSeq
  exact (foldl_keeps (g := State.kvp) (fun _ _ => kvp_devWrite ..) _ _).trans (kvp_devWrite ..)

theorem seqPool_devWrite (s : State) (a : Nat) (bs : List Byte) (q : SeqRec) : seqPool (devWrite s a bs) q = seqPool s q := rfl

theorem length_clearedCubby : (withCrc (leBytes 4 0 ++ [byteOf 0, byteOf 0] ++ List.replicate 54 0)).length = 64 := by
  simp only [withCrc, List.length_append, List.length_take, length_leBytes, List.length_cons, List.length_nil, List.length_replicate]
  omega

/-- The cubbies of some lists cleared: what lies outside the cubbies reads as before. -/
theorem readByte_clearCubbies {l : List Nat} {m x : Nat} (hi : Inv s) (hl : ∀ k ∈ l, k < m)
    (h : x < q.cubbyBase ∨ q.cubbyBase + m * cubbyStride (seqPool s q) ≤ x) :
    readByte (l.foldl (fun t l => setCubby t q l ⟨0, 0, 0⟩) s).mem x = readByte s.mem x := by
  induction l generalizing s with
  | nil => rfl
  | cons k l ih =>
    have hfit : (k + 1) * cubbyStride (seqPool s q) ≤ m * cubbyStride (seqPool s q) :=
      Nat.mul_le_mul_right _ (hl k List.mem_cons_self)
    have hstride : 64 ≤ cubbyStride (seqPool s q) := by
      unfold cubbyStride granules
      omega
    rw [Nat.add_mul, Nat.one_mul] at hfit
    have hfirst : readByte (setCubby s q k ⟨0, 0, 0⟩).mem x = readByte s.mem x := by
      unfold setCubby cubbyAddr
      refine readByte_devWrite_outside hi ?_
      rw [length_clearedCubby]
      omega
    have hi' : Inv (setCubby s q k ⟨0, 0, 0⟩) := wf_devWrite _ _ hi
    have hpool : seqPool (setCubby s q k ⟨0, 0, 0⟩) q = seqPool s q := by
      rw [setCubby, seqPool_devWrite]
    rw [List.foldl_cons, ih hi' (fun j hj => hl j (List.mem_cons_of_mem _ hj)) (by rw [hpool]; exact h), hfirst]

theorem readByte_clearSeq {x : Nat} (hi : Inv s) (hlist : x < q.listBase ∨ q.listBase + listBytes q ≤ x)
    (hcubby : x < q.cubbyBase ∨ q.cubbyBase + cubbyBytes s q ≤ x) : readByte (clearSeq s q).mem x = readByte s.mem x := by
  unfold clearSeq
  dsimp only
  rw [readByte_clearCubbies (m := seqLists q) (wf_devWrite _ _ hi) (fun k hk => List.mem_range.1 hk) hcubby]
  refine readByte_devWrite_outside hi ?_
  rw [List.length_flatMap]
  simp only [length_leBytes, List.map_const', List.sum_replicate, List.length_replicate, smul_eq_mul]
  unfold listBytes at hlist
  rw [Nat.mul_assoc, Nat.mul_comm 4] at hlist
  exact hlist

/-- Settles O59: a pool by `mget_foldl_mput`, the commands of sequences by `gated_of_quiet`, references by `dropRef_keeps` and
`dropRef_frees`. -/
theorem pagesAndSequencesAreKept : Obligations.PagesAndSequencesAreKept := by
  unfold Obligations.PagesAndSequencesAreKept
  refine ⟨?_, fun c data s hb hout => ?_, fun c data s q hquiet hin hq => ⟨fun hr => ⟨fun d0 hf => ?_, fun hf hn => ?_, fun hf hn =>
      ⟨?_, kvp_clearSeq _ q, fun hi a hlist hcubby => readByte_clearSeq (s := startDomain s domKvp) hi hlist hcubby⟩⟩,
    fun hr => ⟨fun hc => ?_, fun d0 hf => ?_, fun hf => ?_⟩, ?_⟩,
    fun s n hlive => ⟨dropRef_frees hlive, dropRef_keeps⟩⟩
  · rintro c s bs pool p hr rfl rfl rfl
    have hrun := exec_kvPoolDefine hr
    refine ⟨fun d0 hf => ?_, fun hf => ?_⟩
    · rw [hf] at hrun
      exact endsIn_finish hrun (by decide)
    · rw [hf] at hrun
      refine ⟨_, endsIn_done hrun, mget_mput_self .., mget_mput_self .., fun n h1 h2 => pageEntry_definePool_free ⟨h1, h2⟩, fun n hn hpool => ?_,
        fun k hk => ⟨mget_mput_ne hk.symm, mget_mput_ne hk.symm⟩, rfl⟩
      exact (pageEntry_definePool_other (s := startDomain s domKvp) (by omega) hpool).trans rfl
  · obtain ⟨hopen, hshare, hrelease⟩ := exec_kv_refused (s := s) (c := c) (data := data) hb hout
    exact ⟨fun hr => endsIn_finish (hopen hr) (by decide), fun hr => endsIn_finish (hshare hr) (by decide),
      fun hr => endsIn_finish (hrelease hr) (by decide)⟩
  · have hrun := exec_kvSeqOpen hquiet hin hq hr
    rw [hf] at hrun
    exact endsIn_finish hrun (by decide)
  · have hrun := exec_kvSeqOpen hquiet hin hq hr
    rw [hf] at hrun
    dsimp only at hrun
    rw [if_pos hn] at hrun
    exact endsIn_finish hrun (by decide)
  · have hrun := exec_kvSeqOpen hquiet hin hq hr
    rw [hf] at hrun
    dsimp only at hrun
    rw [if_neg (by simp [hn])] at hrun
    exact endsIn_done hrun
  · have hrun := exec_kvRelease hquiet hin hq hr
    rw [show releaseFault s q = some 0x13C by simp [releaseFault, hc, blockField]] at hrun
    exact endsIn_finish hrun (by decide)
  · have hrun := exec_kvRelease hquiet hin hq hr
    rw [hf] at hrun
    exact endsIn_finish hrun (by decide)
  · have hrun := exec_kvRelease hquiet hin hq hr
    rw [hf] at hrun
    exact endsIn_done hrun
  · rintro hr n addrs kids hn
    have hexec := exec_kvShare hquiet hin hq hn rfl rfl hr
    refine ⟨fun hmany => ?_, fun hfew hout => ?_, fun hfew hok => ⟨fun d0 hf => ?_, fun hf ha hk => ?_⟩⟩
    · rw [if_pos hmany] at hexec
      exact endsIn_finish hexec (by decide)
    · rw [if_neg (Nat.not_lt.2 hfew), if_pos hout] at hexec
      exact endsIn_finish hexec (by decide)
    · rw [if_neg (Nat.not_lt.2 hfew), if_neg (by simp [hok]), hf] at hexec
      exact endsIn_finish hexec (by decide)
    · rw [← ha, ← hk, if_neg (Nat.not_lt.2 hfew), if_neg (by simp [hok]), hf] at hexec
      dsimp only at hexec
      refine ⟨fun hbad => ?_, fun d0 hin' hkid => ?_, fun hin' hkid => ⟨fun d0 hchild => ?_, fun hchild hcubby fl need hfl hneed =>
        ⟨fun short hh hshort => ?_, fun h r hh hr' => ?_⟩⟩⟩
      · rw [if_pos (by simpa using hbad)] at hexec
        exact endsIn_finish hexec (by decide)
      · rw [if_neg (by simpa using hin'), hkid] at hexec
        exact endsIn_finish hexec (by decide)
      all_goals
        rw [if_neg (by simpa using hin'), List.findSome?_eq_none_iff.2 hkid] at hexec
        dsimp only at hexec
        rw [shared] at hexec
      · rw [hchild] at hexec
        exact endsIn_finish hexec (by decide)
      all_goals
        have hnone : ((List.range (seqLists q)).find? fun l => (cubbyOf s q l).isNone) = none := by
          rw [List.find?_eq_none]
          intro l hl
          simpa [← Option.isSome_iff_ne_none] using hcubby l (List.mem_range.1 hl)
        rw [hchild, hnone] at hexec
        dsimp only at hexec
        rw [← hfl, ← hneed, hh] at hexec
        dsimp only at hexec
      · rw [← hshort] at hexec
        exact endsIn_finish hexec (by decide)
      · rw [if_neg (by simp [pageWaits_holdPages hquiet hh]), ← hr'] at hexec
        exact endsIn_done hexec

end Sys2Proof.Proofs
end

section
/-! ATT_DECODE (O60). -/

namespace Sys2Proof.Proofs

open Sys2Proof Sys2Proof.Machine Sys2Proof.Laws

variable {s t u : State} {c : HostCmd} {d : DecDesc} {rows : List DecRow} {apps : List DecAppend} {pl : AppendPlan} {j : DecodeJob}

/-! ### Checks -/

/-- No check of a decode aborts its command. -/
theorem decodeFault_status {st d0 d1 : Nat} (h : decodeFault s c d rows apps pl = some (st, d0, d1)) : st ≠ 0x30 := by
  unfold decodeFault at h
  extract_lets at h
  split at h
  · simp only [Option.some.injEq, Prod.mk.injEq] at h
    omega
  split at h
  · simp only [Option.some.injEq, Prod.mk.injEq] at h
    omega
  split at h
  · simp only [Option.some.injEq, Prod.mk.injEq] at h
    omega
  split at h
  · simp only [Option.some.injEq, Prod.mk.injEq] at h
    omega
  split at h
  · simp only [Option.some.injEq, Prod.mk.injEq] at h
    omega
  · simp only [Option.some.injEq, Prod.mk.injEq] at h
    omega
  · simp only [Option.some.injEq, Prod.mk.injEq] at h
    omega
  · simp only [Option.some.injEq, Prod.mk.injEq] at h
    omega
  · simp only [Option.some.injEq, Prod.mk.injEq] at h
    omega
  · split at h
    · simp only [Option.some.injEq, Prod.mk.injEq] at h
      omega
    · cases h

/-- The addresses of the records that the rows and the appends of a decode name. -/
def recordAddrs (s : State) (d : DecDesc) : List Nat :=
  ((List.range d.rows).map fun i => leNat (devRead s (d.rowBase + 16 * i) 8))
    ++ (List.range d.appends).map fun i => leNat (devRead s (d.appendBase + 24 * i) 8)

theorem any_recordAddrs (bad : Nat → Bool) : (recordAddrs s d).any bad = true ↔
    (∃ i < d.rows, bad (leNat (devRead s (d.rowBase + 16 * i) 8)) = true) ∨
      ∃ i < d.appends, bad (leNat (devRead s (d.appendBase + 24 * i) 8)) = true := by
  simp [recordAddrs]

/-- A decode that comes, in quiet memory. -/
theorem exec_attDecode_comes (hr : ready s 0x0121 c = true) (hq : Quiet s) (hnew : s.decodes.find? (·.cmd = c) = none) :
    exec (.attDecode c) s = .next (
      if rangeBad s c.slot.operand 128 then refuse s c 0x18
      else
        match decFault s (devRead s c.slot.operand 128) with
        | some d0 => refuse s c d0
        | none =>
          if (recordAddrs s (decDescOf (devRead s c.slot.operand 128))).any fun a => rangeBad s a 64 then refuse s c condition
          else beginDecode s c (decDescOf (devRead s c.slot.operand 128))) := by
  change execAttDecode c s = _
  rw [execAttDecode, runCmd_of_ready hr, hnew]
  simp only [gated_of_quiet hq] <;> rfl

theorem exec_attDecode_known (hr : ready s 0x0121 c = true) (hj : s.decodes.find? (·.cmd = c) = some j) :
    exec (.attDecode c) s = .next (if j.own.isEmpty then attendDecode s c else finishDecode s j) := by
  change execAttDecode c s = _
  rw [execAttDecode, runCmd_of_ready hr, hj]

/-! ### The pages of the appends -/

theorem gddr_holdPages {pool need : Nat} {h : State × List Nat} (hh : holdPages s pool need = some h) : h.1.gddr = s.gddr := by
  unfold holdPages at hh
  dsimp only at hh
  split at hh
  · cases hh
  · cases hh
    have hset : ((poolFree s pool need).foldl (fun t p => setEntry t p ⟨0, .held, pool, 0, 0, 0, 0⟩) s).gddr = s.gddr :=
      foldl_keeps (g := State.gddr) (f := fun t p => setEntry t p ⟨0, .held, pool, 0, 0, 0, 0⟩) (fun _ _ => rfl) _ _
    refine Eq.trans ?_ hset
    dsimp only
    split <;> rfl

/-- The pages held of one pool after another. -/
def holdNext (a : Except (Nat × Nat) (State × List (Nat × List Nat))) (e : Nat × Nat) :
    Except (Nat × Nat) (State × List (Nat × List Nat)) :=
  match a with
  | .error x => .error x
  | .ok t =>
    match holdPages t.1 e.1 e.2 with
    | none => .error (e.1, e.2 - (poolFree t.1 e.1 e.2).length)
    | some h => .ok (h.1, mput t.2 e.1 h.2)

theorem gddr_holdAll {need : List (Nat × Nat)} {h : State × List (Nat × List Nat)} (hh : holdAll s need = .ok h) : h.1.gddr = s.gddr := by
  have hfold (l : List (Nat × Nat)) (a : Except (Nat × Nat) (State × List (Nat × List Nat)))
      (ha : ∀ t, a = .ok t → t.1.gddr = s.gddr) : ∀ t, l.foldl holdNext a = .ok t → t.1.gddr = s.gddr := by
    induction l generalizing a with
    | nil => exact ha
    | cons e l ih =>
      refine ih _ fun t ht => ?_
      unfold holdNext at ht
      split at ht
      · cases ht
      · split at ht
        · cases ht
        · cases ht
          exact (gddr_holdPages ‹_›).trans (ha _ rfl)
  exact hfold need (.ok (s, [])) (fun t ht => by cases ht; rfl) h hh

theorem pageWaits_of_retraining (hre : s.gddr.retraining = []) (l : List Nat) : l.any (pageWaits s) = false := by
  rw [List.any_eq_false]
  intro n _
  unfold pageWaits memWaits
  split <;> simp [hre]

/-! ### The start of a decode -/

/-- Starting clocks changes the list of running ones. -/
theorem foldl_startDomain_only (f : Nat → Nat) (l : List Nat) (s : State) : l.foldl (fun t i => startDomain t (f i)) s =
    { s with pwr := { s.pwr with running := (l.foldl (fun t i => startDomain t (f i)) s).pwr.running } } := by
  induction l generalizing s with
  | nil => rfl
  | cons i l ih => exact (ih (startDomain s (f i))).trans rfl

/-- The clocks of a decode started. -/
def clocked (s : State) (d : DecDesc) : State :=
  (rangeFrom (d.coreFirst / 32) ((d.coreFirst + d.coreCount - 1) / 32 + 1 - d.coreFirst / 32)).foldl (fun t i => startDomain t (domAtt i))
    (startDomain s domKvp)

theorem clocked_only (s : State) (d : DecDesc) : clocked s d = { s with pwr := { s.pwr with running := (clocked s d).pwr.running } } :=
  (foldl_startDomain_only domAtt _ (startDomain s domKvp)).trans rfl

/-- A decode that attends, after its appends. -/
def begun (r : State × List (Nat × List Nat)) (c : HostCmd) (d : DecDesc) (rows : List DecRow) : State :=
  { clocked r.1 d with
    decodes := (clocked r.1 d).decodes ++ [⟨c, true, false, [], r.2.flatMap (·.2), [], [], decodeRings rows, []⟩] }

theorem begun_frame (r : State × List (Nat × List Nat)) (c : HostCmd) (d : DecDesc) (rows : List DecRow) :
    begun r c d rows = { r.1 with
      decodes := (begun r c d rows).decodes, pwr := { r.1.pwr with running := (begun r c d rows).pwr.running } } ∧
    (begun r c d rows).decodes = r.1.decodes ++ [⟨c, true, false, [], r.2.flatMap (·.2), [], [], decodeRings rows, []⟩] := by
  have hclock := clocked_only r.1 d
  have hdec : (clocked r.1 d).decodes = r.1.decodes := (congrArg State.decodes hclock).trans rfl
  unfold begun
  generalize clocked r.1 d = x at *
  rw [hdec]
  exact ⟨(congrArg (fun x : State => { x with
    decodes := r.1.decodes ++ [(⟨c, true, false, [], r.2.flatMap fun e : Nat × List Nat => e.2, [], [], decodeRings rows, []⟩ : DecodeJob)] }) hclock).trans rfl, rfl⟩

theorem beginDecode_of_quiet (hq : Quiet s) (hrows : rows = decRows s d) (happs : apps = decAppends s d)
    (hpl : pl = apps.foldl (planAppend s d) ⟨[], [], [], none, none⟩) :
    beginDecode s c d = match decodeFault s c d rows apps pl, linesOk s d rows apps with
      | some f, _ => if f.1 = 0x23 then failUE s c f.2.1 else finish s c f.1 f.2.1 f.2.2
      | none, some d0 => refuse s c d0
      | none, none =>
        match holdAll s pl.need with
        | .error e => failPool s c e.1 e.2
        | .ok h => attendDecode (begun (apps.foldl (runAppend (ctlOf c) d) h) c d rows) c := by
  unfold beginDecode
  dsimp only
  rw [← hrows, ← happs, ← hpl]
  generalize decodeFault s c d rows apps pl = fault
  generalize linesOk s d rows apps = lines
  cases fault with
  | some f => rfl
  | none =>
    cases lines with
    | some d0 => rfl
    | none =>
      dsimp only
      rw [gated_of_quiet hq, poolGate_of_quiet hq, gated_of_quiet hq]
      cases hh : holdAll s pl.need with
      | error e => rfl
      | ok h =>
        dsimp only
        rw [if_neg (by simp [pageWaits_of_retraining ((congrArg Gddr.retraining (gddr_holdAll hh)).trans hq.1)])]
        rfl

/-! ### The lines of a decode -/

/-- From s to t only counts and statistics change. -/
def OnlyCounts (s t : State) : Prop :=
  t = { s with regs := t.regs, freeCtr := t.freeCtr, grade := t.grade, scaling := t.scaling }

theorem OnlyCounts.trans {a b c : State} (h : OnlyCounts a b) (g : OnlyCounts b c) : OnlyCounts a c :=
  Eq.trans g (congrArg (fun x : State => { x with regs := c.regs, freeCtr := c.freeCtr, grade := c.grade, scaling := c.scaling }) h)

theorem onlyCounts_setReg (s : State) (b : Blk) (i off v : Nat) : OnlyCounts s (setReg s b i off v) := rfl

theorem onlyCounts_bump (s : State) (b : Blk) (i off lo w n : Nat) : OnlyCounts s (bump s b i off lo w n) := onlyCounts_setReg ..

theorem onlyCounts_bump64 (s : State) (b : Blk) (i off n : Nat) : OnlyCounts s (bump64 s b i off n) :=
  (onlyCounts_setReg ..).trans (onlyCounts_setReg ..)

theorem onlyCounts_noteGradeWith (s : State) (src tensor : Nat) (f : GradeRec → GradeRec) : OnlyCounts s (noteGradeWith s src tensor f) := by
  unfold noteGradeWith gradeTaken
  dsimp only
  split_ifs <;> exact rfl

theorem onlyCounts_noteAtt (s : State) (tensor core pairs : Nat) (a : AttCount) : OnlyCounts s (noteAtt s tensor core pairs a) := by
  unfold noteAtt
  extract_lets s1 f s2 s3 s4
  have hs1 : OnlyCounts s s1 := rfl
  have hf : OnlyCounts s1 f.1 := by
    unfold f
    split <;> exact rfl
  have hs2 : OnlyCounts s1 s2 := by
    unfold s2
    split
    · exact rfl
    · exact hf.trans ((onlyCounts_bump64 ..).trans ((onlyCounts_bump64 ..).trans ((onlyCounts_bump ..).trans (onlyCounts_bump ..))))
  have hs3 : OnlyCounts s2 s3 := onlyCounts_noteGradeWith ..
  have hs4 : OnlyCounts s3 s4 := rfl
  exact (((hs1.trans hs2).trans hs3).trans hs4).trans (onlyCounts_bump64 ..)

/-- From s to u lines were written: memory is quiet, and pages and decodes stand. -/
structure Lined (s u : State) : Prop where
  quiet : Quiet u
  kvp : u.kvp = s.kvp
  decodes : u.decodes = s.decodes

/-- A line that a decode writes. -/
def lineStep (s : State) (c : Ctl) (d : DecDesc) (rows : List DecRow) (j : DecodeJob) (a : State × Option Nat) (q : DecRow × Nat) :
    State × Option Nat :=
  match a.2 with
  | some _ => a
  | none =>
    let tot := rowTotal a.1 c rows j q
    let o := outputLine a.1 c d (seqPool a.1 q.1.seq).headDim tot.1
    (match tryWrite o.1 (outputAt s d q.1).1 o.2.1 with
    | .error x => (o.1, some x)
    | .ok t => (noteAtt t 0xFFFF d.coreFirst 0 (AttCount.of (tot.2 ++ o.2.2)), none))

/-- The address of a line. -/
def lineAt (s : State) (d : DecDesc) (q : DecRow × Nat) : Nat :=
  d.outBase + (if d.outFp32 then 4 else 2) * (seqPool s q.1.seq).headDim * q.1.line

/-- A line written in quiet memory: its bytes, which are those of the row itself where that is not split by position. -/
theorem lineStep_of_quiet {ctl : Ctl} (h : Lined s u) (q : DecRow × Nat) : ∃ v bs, lineStep s ctl d rows j (u, none) q = (v, none) ∧ Lined s v ∧
    v.mem = writeBytes u.mem (lineAt s d q) bs ∧ ∀ st, q.1.seq.byPosition = false → j.own.getD q.2 none = some st →
      bs = (outputLine s ctl d (seqPool s q.1.seq).headDim (some st)).2.1 := by
  obtain ⟨⟨hre, hbad, hdead⟩, hkvp, hdec⟩ := h
  have hpool : seqPool u q.1.seq = seqPool s q.1.seq := congrArg (fun k : Kvp => (mget k.pools q.1.seq.pool).getD _) hkvp
  unfold lineStep
  dsimp only
  rw [hpool]
  generalize hout : outputLine u ctl d (seqPool s q.1.seq).headDim (rowTotal u ctl rows j q).1 = o
  have honly : OnlyCounts u o.1 := by
    rw [← hout]
    unfold outputLine
    dsimp only
    split <;> exact rfl
  have hog : o.1.gddr = u.gddr := (congrArg State.gddr honly).trans rfl
  have hwrite : tryWrite o.1 (outputAt s d q.1).1 o.2.1 = .ok (devWrite o.1 (lineAt s d q) o.2.1) := by
    rw [tryWrite, badWrite_of_quiet (by rw [hog, hbad]) (by rw [deadChannels, hog]; exact hdead)]
    rfl
  rw [hwrite]
  refine ⟨_, o.2.1, rfl, ?_, ?_, fun st hpos hown => ?_⟩
  · have hnote := onlyCounts_noteAtt (devWrite o.1 (lineAt s d q) o.2.1) 0xFFFF d.coreFirst 0
      (AttCount.of ((rowTotal u ctl rows j q).2 ++ o.2.2))
    generalize noteAtt (devWrite o.1 (lineAt s d q) o.2.1) 0xFFFF d.coreFirst 0 (AttCount.of ((rowTotal u ctl rows j q).2 ++ o.2.2)) = v at *
    have hgddr : v.gddr = (devWrite o.1 (lineAt s d q) o.2.1).gddr := (congrArg State.gddr hnote).trans rfl
    refine ⟨⟨?_, ?_, ?_⟩, ?_, ?_⟩
    · rw [hgddr]
      exact (congrArg Gddr.retraining hog).trans hre
    · rw [hgddr]
      change healed o.1.gddr.badSectors _ _ = []
      rw [hog, hbad]
      rfl
    · rw [deadChannels, hgddr]
      change deadChannels o.1 = []
      rw [deadChannels, hog]
      exact hdead
    · exact ((congrArg State.kvp hnote).trans rfl).trans (((congrArg State.kvp honly).trans rfl).trans hkvp)
    · exact ((congrArg State.decodes hnote).trans rfl).trans (((congrArg State.decodes honly).trans rfl).trans hdec)
  · have hnote := onlyCounts_noteAtt (devWrite o.1 (lineAt s d q) o.2.1) 0xFFFF d.coreFirst 0
      (AttCount.of ((rowTotal u ctl rows j q).2 ++ o.2.2))
    have hmem : o.1.mem = u.mem := (congrArg State.mem honly).trans rfl
    rw [← hmem]
    exact (congrArg State.mem hnote).trans rfl
  · rw [← hout, rowTotal, if_pos (by simp [hpos]), hown]
    rfl

/-- The lines of a decode in quiet memory. -/
theorem lines_of_quiet {ctl : Ctl} (l : List (DecRow × Nat)) (h : Lined s u) :
    ∃ (v : State) (ws : List (Nat × List Byte)), l.foldl (lineStep s ctl d rows j) (u, none) = (v, none) ∧
    Lined s v ∧ v.mem = ws.foldl (fun m w => writeBytes m w.1 w.2) u.mem ∧ ws.map (·.1) = l.map (lineAt s d) ∧
    ∀ q ∈ l, ∀ st, q.1.seq.byPosition = false → j.own.getD q.2 none = some st →
      (lineAt s d q, (outputLine s ctl d (seqPool s q.1.seq).headDim (some st)).2.1) ∈ ws := by
  induction l generalizing u with
  | nil => exact ⟨u, [], rfl, h, rfl, rfl, nofun⟩
  | cons q l ih =>
    obtain ⟨v, bs, hstep, hv, hmem, hbs⟩ := lineStep_of_quiet (ctl := ctl) (rows := rows) (j := j) (d := d) h q
    obtain ⟨w, ws, hrest, hw, hwmem, hplaces, hlines⟩ := ih hv
    refine ⟨w, (lineAt s d q, bs) :: ws, ?_, hw, ?_, ?_, fun x hx st hpos hown => ?_⟩
    · rw [List.foldl_cons, hstep, hrest]
    · rw [hwmem, hmem]
      rfl
    · rw [List.map_cons, List.map_cons, hplaces]
    · rcases List.mem_cons.1 hx with rfl | hx
      · rw [hbs st hpos hown]
        exact List.mem_cons_self
      · exact List.mem_cons_of_mem _ (hlines x hx st hpos hown)

/-! ### The end of a decode -/

theorem finishDecode_waits (h : decodeReady s (decRows s (decDescOf (devRead s j.cmd.slot.operand 128))) j = false) :
    finishDecode s j = s := by
  rw [finishDecode, if_pos (by simp [h])]

/-- The rows that a decode merges here. -/
def mergedHere (rows : List DecRow) (j : DecodeJob) : List (DecRow × Nat) :=
  rows.zipIdx.filter fun r => j.merge.getD r.2 0 = r.1.seq.position

theorem finishDecode_of_quiet (hq : Quiet s) (hd : d = decDescOf (devRead s j.cmd.slot.operand 128)) (hrows : rows = decRows s d)
    (h : decodeReady s rows j = true) {v : State}
    (hv : (mergedHere rows j).foldl (lineStep s (ctlOf j.cmd) d rows j) (s, none) = (v, none)) :
    finishDecode s j = done (dropDecode v j) j.cmd := by
  unfold finishDecode
  dsimp only
  rw [← hd, ← hrows, if_neg (by simp [h, memWaits_of_quiet hq])]
  change (match ((mergedHere rows j).foldl (lineStep s (ctlOf j.cmd) d rows j) (s, none)).2 with
    | some x => failUE (dropDecode ((mergedHere rows j).foldl (lineStep s (ctlOf j.cmd) d rows j) (s, none)).1 j) j.cmd x
    | none => done (dropDecode ((mergedHere rows j).foldl (lineStep s (ctlOf j.cmd) d rows j) (s, none)).1 j) j.cmd) = _
  rw [hv]

/-- From s to t counts and the page table change, and no pool. -/
def PagesOnly (s t : State) : Prop := t = { s with regs := t.regs, kvp := { t.kvp with pools := s.kvp.pools } }

theorem PagesOnly.trans {a b c : State} (h : PagesOnly a b) (g : PagesOnly b c) : PagesOnly a c :=
  Eq.trans g (congrArg (fun x : State => { x with regs := c.regs, kvp := { c.kvp with pools := x.kvp.pools } }) h)

theorem pagesOnly_setReg (s : State) (b : Blk) (i off v : Nat) : PagesOnly s (setReg s b i off v) := rfl

theorem pagesOnly_kvOps (s : State) (n : Nat) : PagesOnly s (kvOps s n) :=
  ((pagesOnly_setReg ..).trans (pagesOnly_setReg ..)).trans (pagesOnly_setReg ..)

theorem pagesOnly_freePage (s : State) (n : Nat) : PagesOnly s (freePage s n) := rfl

theorem pagesOnly_settlePage (s : State) (n : Nat) : PagesOnly s (settlePage s n) := by
  unfold settlePage
  dsimp only
  split
  · exact pagesOnly_freePage ..
  · exact rfl

theorem pagesOnly_unpinPage (s : State) (n : Nat) : PagesOnly s (unpinPage s n) := by
  unfold unpinPage
  refine PagesOnly.trans (PagesOnly.trans ?_ (pagesOnly_kvOps _ 1)) (pagesOnly_settlePage _ n)
  exact rfl

/-- A decode dropped: its pages freed or unpinned. -/
theorem dropDecode_frame (s : State) (j : DecodeJob) : (dropDecode s j).decodes = s.decodes.filter (·.cmd != j.cmd) ∧
    (dropDecode s j).kvp.pools = s.kvp.pools ∧ (dropDecode s j).mem = s.mem := by
  have hfold {f : State → Nat → State} (hf : ∀ t n, PagesOnly t (f t n)) (l : List Nat) (t : State) : PagesOnly t (l.foldl f t) := by
    induction l generalizing t with
    | nil => exact rfl
    | cons n l ih => exact (hf t n).trans (ih _)
  have h : PagesOnly { s with decodes := s.decodes.filter (·.cmd != j.cmd) } (dropDecode s j) :=
    (hfold pagesOnly_unpinPage j.pinned _).trans (hfold pagesOnly_freePage j.held _)
  exact ⟨(congrArg State.decodes h).trans rfl, (congrArg (fun t : State => t.kvp.pools) h).trans rfl, (congrArg State.mem h).trans rfl⟩

/-- Settles O60: the start by `beginDecode_of_quiet`, the lines by `lines_of_quiet`. -/
theorem decodesAppendAndAttend : Obligations.DecodesAppendAndAttend := by
  unfold Obligations.DecodesAppendAndAttend
  refine ⟨?_, fun c s j hr hj hown => ⟨_, exec_attDecode_known hr hj, if_pos (by simp [hown])⟩, ?_⟩
  · intro c s bs d rows apps pl hr hq hnew hbs hd hrows happs hpl
    have hrun := exec_attDecode_comes hr hq hnew
    rw [← hbs, ← hd] at hrun
    refine ⟨fun hout => ?_, fun hin => ⟨fun d0 hf => ?_, fun hf hbad => ?_, fun hf hrec happ => ?_⟩⟩
    · rw [if_pos hout] at hrun
      exact endsIn_finish hrun (by decide)
    all_goals
      rw [if_neg (by simp [hin]), hf] at hrun
      dsimp only at hrun
    · exact endsIn_finish hrun (by decide)
    · rw [if_pos ((any_recordAddrs fun a => rangeBad s a 64).2 hbad)] at hrun
      exact endsIn_finish hrun (by decide)
    · have hsound : ¬((recordAddrs s d).any fun a => rangeBad s a 64) = true := by
        rw [any_recordAddrs fun a => rangeBad s a 64]
        rintro (⟨i, hi, hb⟩ | ⟨i, hi, hb⟩)
        · rw [hrec i hi] at hb
          cases hb
        · rw [happ i hi] at hb
          cases hb
      rw [if_neg hsound, beginDecode_of_quiet hq hrows happs hpl] at hrun
      refine ⟨fun st d0 d1 hfault hst => ?_, fun d0 d1 hfault => ?_, fun d0 hfault hline => ?_, fun hfault hline =>
        ⟨fun pool short hh => ?_, fun h r hh hr' => ?_⟩⟩
      · rw [hfault] at hrun
        dsimp only at hrun
        rw [if_neg hst] at hrun
        exact endsIn_finish hrun (decodeFault_status hfault)
      · rw [hfault] at hrun
        dsimp only at hrun
        rw [if_pos rfl] at hrun
        exact endsIn_finish hrun (by decide)
      all_goals
        rw [hfault, hline] at hrun
        dsimp only at hrun
      · exact endsIn_finish hrun (by decide)
      all_goals
        rw [hh] at hrun
        dsimp only at hrun
      · exact endsIn_finish hrun (by decide)
      · obtain ⟨honly, hdec⟩ := begun_frame r c d rows
        rw [← hr'] at hrun
        exact ⟨_, hrun, _, rfl, honly, hdec⟩
  · intro c s j d rows mine hr hq hj hown hd hrows hmine
    have hcmd : j.cmd = c := by simpa using List.find?_some hj
    have hrun := exec_attDecode_known hr hj
    rw [if_neg (by simpa using hown)] at hrun
    subst hcmd
    refine ⟨fun hwait => ⟨_, hrun, finishDecode_waits (by rw [← hd, ← hrows]; exact hwait)⟩, fun hready => ?_⟩
    obtain ⟨v, ws, hfold, ⟨_, hkvp, hdec⟩, hmem, hplaces, hlines⟩ :=
      lines_of_quiet (s := s) (u := s) (ctl := ctlOf j.cmd) (d := d) (rows := rows) (j := j) (mergedHere rows j) ⟨hq, rfl, rfl⟩
    obtain ⟨hdrop, hpools, hdmem⟩ := dropDecode_frame v j
    rw [finishDecode_of_quiet hq hd hrows hready hfold] at hrun
    refine ⟨_, ws, endsIn_done hrun, ?_, ?_, hdmem.trans hmem, ?_, ?_⟩
    · rw [hdrop, hdec]
    · rw [hpools, hkvp]
    · rw [hplaces, hmine]
      rfl
    · rw [hmine]
      exact hlines

end Sys2Proof.Proofs
end

section
/-! Blocks of messages: what they put into the lists of messages, in any order (R242, R245). -/

namespace Sys2Proof.Proofs

open Sys2Proof Sys2Proof.Machine Sys2Proof.Laws

variable {s t u : State}

/-- A message without its number. -/
def unnumbered (m : Msg) : Nat × MsgHdr × Body := (m.dst, { m.hdr with sequence := 0 }, m.body)

/-- From s to t messages were launched: those issued stand in the outbox and in the retry store, the others are held back. -/
def Launches (s t : State) (xs : List (Nat × MsgHdr × Body)) : Prop :=
  ∃ out held : List Msg, t.col.outbox = s.col.outbox ++ out ∧ t.col.retry = s.col.retry ++ out ∧ t.col.unsent = s.col.unsent ++ held ∧
    ((out ++ held).map unnumbered).Perm xs

/-- Lists of messages that stand. -/
def SameMessages (s t : State) : Prop :=
  t.col.outbox = s.col.outbox ∧ t.col.retry = s.col.retry ∧ t.col.unsent = s.col.unsent

theorem SameMessages.of_col (h : t.col = s.col) : SameMessages s t := by
  rw [SameMessages, h]
  exact ⟨rfl, rfl, rfl⟩

theorem SameMessages.trans (h : SameMessages s t) (g : SameMessages t u) : SameMessages s u :=
  ⟨g.1.trans h.1, g.2.1.trans h.2.1, g.2.2.trans h.2.2⟩

theorem SameMessages.launches (h : SameMessages s t) : Launches s t [] :=
  ⟨[], [], by simp [h.1], by simp [h.2.1], by simp [h.2.2], .refl _⟩

theorem Launches.trans {xs ys : List (Nat × MsgHdr × Body)} (h : Launches s t xs) (g : Launches t u ys) : Launches s u (xs ++ ys) := by
  obtain ⟨out, held, ho, hr, hu, hx⟩ := h
  obtain ⟨out', held', ho', hr', hu', hy⟩ := g
  refine ⟨out ++ out', held ++ held', by rw [ho', ho, List.append_assoc], by rw [hr', hr, List.append_assoc],
    by rw [hu', hu, List.append_assoc], ?_⟩
  have horder : ((out ++ out') ++ (held ++ held')).Perm ((out ++ held) ++ (out' ++ held')) := by
    rw [List.append_assoc, List.append_assoc]
    refine List.Perm.append_left out ?_
    rw [← List.append_assoc, ← List.append_assoc]
    exact List.Perm.append_right held' List.perm_append_comm
  exact (horder.map _).trans (by
    rw [List.map_append]
    exact hx.append hy)

theorem Launches.after {xs : List (Nat × MsgHdr × Body)} (h : SameMessages s t) (g : Launches t u xs) : Launches s u xs :=
  h.launches.trans g

theorem Launches.before {xs : List (Nat × MsgHdr × Body)} (h : Launches s t xs) (g : SameMessages t u) : Launches s u xs := by
  have := h.trans g.launches
  rwa [List.append_nil] at this

theorem launches_foldl {α : Type} {f : State → α → State} {g : α → List (Nat × MsgHdr × Body)} (hf : ∀ t x, Launches t (f t x) (g x))
    (l : List α) (s : State) : Launches s (l.foldl f s) (l.flatMap g) := by
  induction l generalizing s with
  | nil => exact SameMessages.launches (.of_col rfl)
  | cons x l ih => exact (hf s x).trans (ih _)

theorem launches_launch (s : State) (m : Msg) : Launches s (launch s m) [unnumbered m] := by
  cases hb : holdsBack s (channelSlice s m.hdr.srcChannel) with
  | true =>
    rw [launch_of_holdsBack hb]
    exact ⟨[], [m], (List.append_nil _).symm, (List.append_nil _).symm, rfl, .refl _⟩
  | false =>
    obtain ⟨r, hdst, hhdr, hbody, hout, hretry, hunsent, _⟩ := issue_puts s m
    rw [launch_of_room hb]
    refine ⟨[r], [], hout, hretry, by rw [hunsent, List.append_nil], ?_⟩
    simp [unnumbered, hdst, hhdr, hbody]

theorem sameMessages_reserve (s : State) (op ring tensor step : Nat) (key : StreamKey) (n : Nat) :
    SameMessages s (reserve s op ring tensor step key n).1 := by
  unfold reserve
  dsimp only
  split <;> exact ⟨rfl, rfl, rfl⟩

theorem sameMessages_foldl {α : Type} {f : State → α → State} (hf : ∀ t x, SameMessages t (f t x)) (l : List α) (s : State) :
    SameMessages s (l.foldl f s) := by
  induction l generalizing s with
  | nil => exact .of_col rfl
  | cons x l ih => exact (hf s x).trans (ih _)

theorem sameMessages_reserveBlock (s : State) (op ring tensor step : Nat) (hs : List MsgHdr) :
    SameMessages s (reserveBlock s op ring tensor step hs) := sameMessages_foldl (fun _ _ => sameMessages_reserve ..) hs s

/-- One message launched to each of a list of receivers. -/
theorem launches_copies (l : List Nat) (h : MsgHdr) (b : Body) (n : Nat) (s : State) :
    Launches s (l.foldl (fun u d => launch u { dst := d, hdr := { h with sequence := n }, body := b }) s)
      (l.map fun d => (d, { h with sequence := 0 }, b)) := by
  rw [List.map_eq_flatMap]
  have hone (u : State) (d : Nat) : Launches u (launch u { dst := d, hdr := { h with sequence := n }, body := b })
      [(d, { h with sequence := 0 }, b)] := launches_launch u { dst := d, hdr := { h with sequence := n }, body := b }
  exact launches_foldl (f := fun u d => launch u { dst := d, hdr := { h with sequence := n }, body := b })
    (g := fun d => [(d, { h with sequence := 0 }, b)]) hone l s

/-- The messages of a block, one to each of its receivers. -/
def blockMessages (ms : List (List Nat × MsgHdr × Body)) : List (Nat × MsgHdr × Body) :=
  ms.flatMap fun q => q.1.map fun d => (d, { q.2.1 with sequence := 0 }, q.2.2)

theorem launches_sendBlock (s : State) (op ring tensor step : Nat) (ms : List (List Nat × MsgHdr × Body)) :
    Launches s (sendBlock s op ring tensor step ms) (blockMessages ms) := by
  have hzip : blockMessages ms = ms.zipIdx.flatMap fun q => q.1.1.map fun d => (d, { q.1.2.1 with sequence := 0 }, q.1.2.2) := by
    conv_lhs => rw [blockMessages, ← List.zipIdx_map_fst 0 ms, List.flatMap_map]
  rw [hzip]
  unfold sendBlock
  dsimp only
  refine launches_foldl (g := fun q : (List Nat × MsgHdr × Body) × Nat => q.1.1.map fun d => (d, { q.1.2.1 with sequence := 0 }, q.1.2.2))
    (fun t q => ?_) _ s
  have hres := sameMessages_reserve t op ring tensor step (streamOf q.1.2.1) (ms.filter fun m => streamOf m.2.1 = streamOf q.1.2.1).length
  generalize reserve t op ring tensor step (streamOf q.1.2.1) (ms.filter fun m => streamOf m.2.1 = streamOf q.1.2.1).length = r at *
  exact Launches.after hres (launches_copies q.1.1 q.1.2.1 q.1.2.2 _ r.1)

theorem Launches.sendsAll {kind : Nat} {xs : List (Nat × MsgHdr × Body)} {ys : List (Nat × Body)} (h : Launches s t xs)
    (hk : ∀ x ∈ xs, x.2.1.kind = kind) (hy : xs.map (fun x => (x.1, x.2.2)) = ys) : SendsAll s t kind ys := by
  obtain ⟨out, held, ho, -, hu, hx⟩ := h
  refine ⟨out, held, ho, hu, ?_, fun m hm => hk _ (hx.subset (List.mem_map_of_mem hm))⟩
  have hmap := hx.map fun x => (x.1, x.2.2)
  rw [List.map_map, hy] at hmap
  exact hmap

theorem Launches.sendsOf {xs : List (Nat × MsgHdr × Body)} {P : Msg → Prop} (h : Launches s t xs)
    (hP : ∀ m : Msg, unnumbered m ∈ xs → P m) : SendsOf s t P := by
  obtain ⟨out, held, ho, -, hu, hx⟩ := h
  exact ⟨out, held, ho, hu, fun m hm => hP m (hx.subset (List.mem_map_of_mem hm))⟩

/-- What is launched waits for its acknowledgement. -/
theorem Launches.unacked {xs : List (Nat × MsgHdr × Body)} {x : Nat × MsgHdr × Body} (h : Launches s t xs) (hx : x ∈ xs) :
    ∃ m ∈ unacked t, unnumbered m = x := by
  obtain ⟨out, held, -, hr, hu, hperm⟩ := h
  obtain ⟨m, hm, rfl⟩ := List.mem_map.1 (hperm.symm.subset hx)
  refine ⟨m, ?_, rfl⟩
  rw [Machine.unacked, hr, hu]
  rcases List.mem_append.1 hm with hm | hm <;> simp [hm]

end Sys2Proof.Proofs
end

section
/-! Collectives (O56): what chunks are sent, written and settled. -/

namespace Sys2Proof.Proofs

open Sys2Proof Sys2Proof.Machine Sys2Proof.Laws

variable {s t u : State} {j : ColJob}

/-! ### Segments -/

theorem length_cutBody (b : Body) : (cutBody b).length = (segmentsOf (payloadBytes b)).length := List.length_map ..

theorem length_chunkHdrs (s : State) (j : ColJob) (dst kind k : Nat) (dir : Bool) (n : Nat) :
    (chunkHdrs s j dst kind k dir n).length = (segmentsOf n).length := by
  unfold chunkHdrs
  rw [List.length_map, List.length_zipIdx]

theorem segmentsOf_ne_nil (n : Nat) : segmentsOf n ≠ [] := by
  unfold segmentsOf
  split
  · exact List.cons_ne_nil _ _
  · intro h
    have hlen := congrArg List.length h
    simp only [List.length_map, List.length_range, List.length_nil] at hlen
    omega

/-- What the header of a segment says of its collective. -/
theorem chunkHdr_fields {dst kind k n : Nat} {dir : Bool} {h : MsgHdr} (hh : h ∈ chunkHdrs s j dst kind k dir n) :
    h.kind = kind ∧ h.ringId = j.desc.ringId ∧ h.tensorId = j.desc.tensor ∧ h.step = j.cmd.slot.step := by
  unfold chunkHdrs at hh
  obtain ⟨q, -, rfl⟩ := List.mem_map.1 hh
  exact ⟨rfl, rfl, rfl, rfl⟩

/-- The messages of a chunk. -/
def chunkMessages (s : State) (j : ColJob) (dst kind k : Nat) (dir : Bool) (b : Body) : List (Nat × MsgHdr × Body) :=
  ((chunkHdrs s j dst kind k dir (payloadBytes b)).zip (cutBody b)).map fun q => (dst, { q.1 with sequence := 0 }, q.2.2)

theorem launches_sendChunk (s : State) (j : ColJob) (dst kind k : Nat) (dir : Bool) (b : Body) :
    Launches s (sendChunk s j dst kind k dir b) (chunkMessages s j dst kind k dir b) := by
  have hmessages : chunkMessages s j dst kind k dir b =
      blockMessages (((chunkHdrs s j dst kind k dir (payloadBytes b)).zip (cutBody b)).map fun q => ([dst], q.1, q.2.2)) := by
    unfold chunkMessages blockMessages
    rw [List.flatMap_map, List.map_eq_flatMap]
    rfl
  rw [hmessages]
  exact launches_sendBlock ..

theorem chunkMessage_fields {dst kind k : Nat} {dir : Bool} {b : Body} {x : Nat × MsgHdr × Body}
    (hx : x ∈ chunkMessages s j dst kind k dir b) :
    x.2.1.kind = kind ∧ x.2.1.ringId = j.desc.ringId ∧ x.2.1.tensorId = j.desc.tensor ∧ x.2.1.step = j.cmd.slot.step := by
  obtain ⟨q, hq, rfl⟩ := List.mem_map.1 hx
  have hfields := chunkHdr_fields (List.of_mem_zip hq).1
  exact hfields

theorem chunkMessages_bodies (s : State) (j : ColJob) (dst kind k : Nat) (dir : Bool) (b : Body) :
    (chunkMessages s j dst kind k dir b).map (fun x => (x.1, x.2.2)) = (cutBody b).map fun q => (dst, q.2) := by
  unfold chunkMessages
  rw [List.map_map]
  have hsnd := List.map_snd_zip (l₁ := chunkHdrs s j dst kind k dir (payloadBytes b)) (l₂ := cutBody b)
    (by rw [length_cutBody, length_chunkHdrs])
  conv_rhs => rw [← hsnd, List.map_map]
  rfl

theorem chunkMessages_ne_nil (s : State) (j : ColJob) (dst kind k : Nat) (dir : Bool) (b : Body) :
    chunkMessages s j dst kind k dir b ≠ [] := by
  have hlen : (chunkMessages s j dst kind k dir b).length = (segmentsOf (payloadBytes b)).length := by
    unfold chunkMessages
    rw [List.length_map, List.length_zip, length_cutBody, length_chunkHdrs, Nat.min_self]
  intro h
  rw [h] at hlen
  exact segmentsOf_ne_nil _ (List.length_eq_zero_iff.1 hlen.symm)

theorem Launches.chunk {a : State} {dst kind k : Nat} {dir : Bool} {b : Body} (h : Launches s t (chunkMessages a j dst kind k dir b)) :
    SendsAll s t kind ((cutBody b).map fun q => (dst, q.2)) ∧
    SendsOf s t fun m => m.hdr.ringId = j.desc.ringId ∧ m.hdr.tensorId = j.desc.tensor ∧ m.hdr.step = j.cmd.slot.step :=
  ⟨h.sendsAll (fun _ hx => (chunkMessage_fields hx).1) (chunkMessages_bodies ..), h.sendsOf fun _ hm => (chunkMessage_fields hm).2⟩

theorem sent_sendChunk (s : State) (j : ColJob) (dst kind k : Nat) (dir : Bool) (b : Body) : Sent s (sendChunk s j dst kind k dir b) :=
  sent_sendBlock ..

/-! ### Writes in quiet memory -/

theorem quiet_congr (hq : Quiet s) (h : t.gddr = s.gddr) : Quiet t := by
  rw [Quiet, deadChannels, h]
  exact hq

theorem quiet_devWrite (hq : Quiet s) (a : Nat) (bs : List Byte) : Quiet (devWrite s a bs) := by
  obtain ⟨hre, hbad, hdead⟩ := hq
  refine ⟨hre, ?_, hdead⟩
  change healed s.gddr.badSectors _ _ = []
  rw [hbad]
  rfl

theorem colWrite_of_quiet (hq : Quiet s) (core a : Nat) (bs : List Byte) : colWrite s false core a bs = .ok (devWrite s a bs) := by
  rw [colWrite, if_neg Bool.false_ne_true, tryWrite, badWrite_of_quiet hq.2.1 hq.2.2]

theorem colRead_of_quiet (hq : Quiet s) (ht : s.tables.torn = []) (core a n : Nat) : colRead s false core a n = .ok (devRead s a n) := by
  rw [colRead, if_neg Bool.false_ne_true, if_neg (by simp [memWaits_of_quiet hq]), badSector_of_quiet hq.2.1 hq.2.2, tornIn, ht]
  rfl

/-! ### Jobs that settle -/

theorem sameMessages_setColJob (s : State) (j : ColJob) : SameMessages s (setColJob s j) := ⟨rfl, rfl, rfl⟩

theorem sameMessages_dropped (s : State) (j : ColJob) (st d0 d1 : Nat) : SameMessages s (failCol s j st d0 d1) := by
  rw [SameMessages, failCol, col_finish]
  exact ⟨rfl, rfl, rfl⟩

theorem mem_failCol (s : State) (j : ColJob) (st d0 d1 : Nat) : (failCol s j st d0 d1).mem = s.mem := mem_finish ..

theorem sameMessages_settleCollectives (s : State) : SameMessages s (settleCollectives s) :=
  sameMessages_foldl (fun t j => sameMessages_dropped t j 0 0 0) _ s

theorem mem_settleCollectives (s : State) : (settleCollectives s).mem = s.mem :=
  foldl_keeps (g := State.mem) (fun t j => mem_failCol t j 0 0 0) _ s

/-- Where every job still waits, nothing settles. -/
theorem settleCollectives_none (h : ∀ j ∈ s.col.jobs, j.expect ≠ [] ∨ colUnacked s j = true) : settleCollectives s = s := by
  have hnone : (s.col.jobs.filter fun j => j.expect.isEmpty && !colUnacked s j) = [] := by
    rw [List.filter_eq_nil_iff]
    intro j hj
    rcases h j hj with he | hu
    · simp [he]
    · simp [hu]
  rw [settleCollectives, hnone]
  rfl

/-- One job, whose parts are all here and acknowledged, settles. -/
theorem settleCollectives_one (hj : s.col.jobs = [j]) (he : j.expect = []) (hu : colUnacked s j = false) :
    settleCollectives s = done (dropColJob s j) j.cmd := by
  have hone : (s.col.jobs.filter fun j => j.expect.isEmpty && !colUnacked s j) = [j] := by
    rw [hj, List.filter_cons_of_pos (by simp [he, hu])]
    rfl
  rw [settleCollectives, hone]
  rfl

end Sys2Proof.Proofs
end

section
/-! COL_RUN and the messages of collectives (O56). -/

namespace Sys2Proof.Proofs

open Sys2Proof Sys2Proof.Machine Sys2Proof.Laws

variable {s t u : State} {c : HostCmd} {d : ColDesc} {j : ColJob} {h : MsgHdr}

/-! ### The checks of COL_RUN -/

/-- A collective whose descriptor is sound, before it starts. -/
def colChecked (s : State) (c : HostCmd) (d : ColDesc) (ring : Option Ring) : State :=
  let ms := (ring.map (·.members)).getD []
  let same := fun (j : ColJob) => j.desc.operation = d.operation && j.desc.ringId = d.ringId && j.desc.tensor = d.tensor
    && j.cmd.slot.step = c.slot.step
  if d.layoutEpoch != s.job.layoutEpoch then finish s c 0x21 d.layoutEpoch s.job.layoutEpoch
  else if ring.any (·.broken) then
    (let lost := (ms.find? fun m => !isMember s m).getD 0
    finish s c 0x27 lost (removalStep s lost % 2 ^ 32))
  else if s.col.jobs.any same || (d.toUpdate && (paramsFor s d.tensor c.slot.step).isNone) then refuse s c condition
  else if d.sourceSram && (physOf s d.sourceCore).isNone then finish s c 0x22 0 d.sourceCore
  else if d.destSram && (physOf s d.destCore).isNone then finish s c 0x22 0 d.destCore
  else startCol s c d ms

theorem exec_colRun {data bs : List Byte} (hr : ready s 0x0131 c = true) (hnew : ∀ j ∈ s.col.jobs, j.cmd ≠ c)
    (hout : operandOut s c 64 = false) (hfault : operandFault s c 64 = none) (hbs : bs = operandBytes s c data 64) (hd : d = colDescOf bs) :
    exec (.colRun c data) s = .next (match colFault s c.fn bs (mget s.col.rings d.ringId) with
      | some d0 => refuse s c d0
      | none => colChecked s c d (mget s.col.rings d.ringId)) := by
  change execColRun c data s = _
  rw [execColRun, runCmd_of_ready hr, if_neg (by simpa using hnew), hout, if_neg Bool.false_ne_true, hfault]
  dsimp only
  rw [← hbs, ← hd] <;> rfl

section Checked
variable {r : Ring} (hepoch : d.layoutEpoch = s.job.layoutEpoch)
include hepoch

theorem colChecked_broken (hb : r.broken = true) {m : Nat} (hm : (r.members.find? fun m => !isMember s m) = some m) :
    colChecked s c d (some r) = finish s c 0x27 m (removalStep s m % 2 ^ 32) := by
  unfold colChecked
  dsimp only
  rw [if_neg (by simp [hepoch]), if_pos (by simpa using hb), Option.map_some, Option.getD_some, hm]
  rfl

theorem colChecked_refused (hb : r.broken = false)
    (h : (∃ j ∈ s.col.jobs, j.desc.operation = d.operation ∧ j.desc.ringId = d.ringId ∧ j.desc.tensor = d.tensor ∧
      j.cmd.slot.step = c.slot.step) ∨ d.toUpdate = true ∧ paramsFor s d.tensor c.slot.step = none) :
    colChecked s c d (some r) = refuse s c condition := by
  unfold colChecked
  dsimp only
  rw [if_neg (by simp [hepoch]), if_neg (by simp [hb]), if_pos]
  rw [Bool.or_eq_true, List.any_eq_true]
  rcases h with ⟨j, hj, hop, hring, htensor, hstep⟩ | ⟨hup, hpar⟩
  · exact .inl ⟨j, hj, by simp [hop, hring, htensor, hstep]⟩
  · exact .inr (by simp [hup, hpar])

theorem colChecked_runs (hb : r.broken = false) (hjobs : s.col.jobs = []) (hpar : d.toUpdate = true → paramsFor s d.tensor c.slot.step ≠ none) :
    colChecked s c d (some r) = if d.sourceSram && (physOf s d.sourceCore).isNone then finish s c 0x22 0 d.sourceCore
      else if d.destSram && (physOf s d.destCore).isNone then finish s c 0x22 0 d.destCore
      else startCol s c d r.members := by
  unfold colChecked
  dsimp only
  rw [if_neg (by simp [hepoch]), if_neg (by simp [hb]), if_neg]
  · rfl
  · simpa [hjobs] using hpar

end Checked

/-! ### The start of an owner of a broadcast or an all-gather -/

/-- The job of a collective that starts. -/
def newCol (s : State) (c : HostCmd) (d : ColDesc) (ring : List Nat) : ColJob :=
  ⟨c, d, ring.findIdx (· = s.twin.number), ring, awaited d ring.length (ring.findIdx (· = s.twin.number)), [],
    workingSlices s (((mget s.col.rings d.ringId).map (·.linkSet)).getD 3), []⟩

/-- A state in which a job has started. -/
def withCol (s : State) (j : ColJob) : State := setCol s fun x => { x with jobs := x.jobs ++ [j] }

theorem colWaits_of_quiet (hq : Quiet s) (j : ColJob) (kind k : Nat) : colWaits s j kind k = false := by
  unfold colWaits
  simp only [memWaits_of_quiet hq, Bool.and_false, Bool.or_false]

theorem mem_owners_lt {n i : Nat} (h : i ∈ owners d n) : i < n := by
  have hset (i : Nat) (hi : i ∈ (List.range n).filter fun j => bitOf d.ownerMask j) : i < n :=
    List.mem_range.1 (List.mem_filter.1 hi).1
  unfold owners at h
  dsimp only at h
  split at h
  · exact List.mem_range.1 h
  · exact hset i (List.mem_of_mem_take h)
  · exact hset i h

theorem getD_ordinalOf {os : List Nat} {p : Nat} (h : p ∈ os) : os.getD (ordinalOf os p) 0 = p := by
  have hlt : os.findIdx (· = p) < os.length := List.findIdx_lt_length_of_exists ⟨p, h, by simp⟩
  have hget := List.findIdx_getElem (w := hlt)
  rw [ordinalOf, List.getD_eq_getElem _ _ hlt]
  simpa using hget

/-- The only member of a ring waits for nothing. -/
theorem awaited_alone (hop : d.operation = 2 ∨ d.operation = 5) {p : Nat} (hp : p < 1) : awaited d 1 p = [] := by
  have hnone : (((owners d 1).zipIdx.filter fun q => q.1 != p).map fun q => (2, q.2)) = [] := by
    rw [List.map_eq_nil_iff, List.filter_eq_nil_iff]
    intro q hq
    have hlt : q.1 < 1 := mem_owners_lt (List.fst_mem_of_mem_zipIdx hq)
    simp [show q.1 = p by omega]
  unfold awaited
  rcases hop with hop | hop <;> simpa [hop] using hnone

theorem startCol_owner (hq : Quiet s) (ht : s.tables.torn = []) (hsrc : d.sourceSram = false) (hop : d.operation = 2 ∨ d.operation = 5)
    {ring : List Nat} (howns : (owners d ring.length).contains (ring.findIdx (· = s.twin.number)) = true) {src : List Byte}
    (hbytes : src = devRead s d.sourceBase d.chunkBytes) : startCol s c d ring = settleCollectives (takeAllEarly (beginCol
      (reserveCol (withCol s (newCol s c d ring)) (newCol s c d ring) src) (newCol s c d ring) src)) := by
  have h1 : d.operation ≠ 1 := by omega
  have h3 : d.operation ≠ 3 := by omega
  have h4 : d.operation ≠ 4 := by omega
  have h7 : d.operation ≠ 7 := by omega
  unfold startCol
  dsimp only
  rw [colWaits_of_quiet hq, if_neg Bool.false_ne_true, howns]
  simp only [h1, h3, h4, h7, decide_false, Bool.or_false, Bool.or_true, Bool.false_or, if_true, Bool.false_eq_true, if_false, hsrc,
    colRead_of_quiet hq ht, ← hbytes, Bool.not_false]
  rfl

theorem beginCol_owner (hq : Quiet s) (hdst : j.desc.destSram = false) (hop : j.desc.operation = 2 ∨ j.desc.operation = 5)
    (howns : (owners j.desc j.ring.length).contains j.position = true) (src : List Byte) {a k : Nat}
    (hk : k = ordinalOf (owners j.desc j.ring.length) j.position)
    (ha : a = j.desc.destBase + (if j.desc.operation = 2 then k else 0) * j.desc.chunkBytes) :
    beginCol s j src = if j.ring.length > 1 then forwardChunk (devWrite s a src) j (owners j.desc j.ring.length) k src
      else devWrite s a src := by
  have hput : putChunk s j (owners j.desc j.ring.length) k src = .ok (devWrite s a src) := by
    have hsome : (owners j.desc j.ring.length).isEmpty = false := by
      cases hos : owners j.desc j.ring.length with
      | nil => rw [hos] at howns; cases howns
      | cons x xs => rfl
    have hplace : (if (decide (j.desc.operation = 2) || decide (j.desc.operation = 3)) = true then k else 0) =
        if j.desc.operation = 2 then k else 0 := by
      simp [show j.desc.operation ≠ 3 by omega]
    unfold putChunk
    dsimp only
    rw [hsome, if_neg Bool.false_ne_true, hdst, colWrite_of_quiet hq, hplace, ← ha]
  have hbegin : beginCol s j src = (match putChunk s j (owners j.desc j.ring.length) k src with
      | .error a => failColWrite s j a
      | .ok s1 => if j.ring.length > 1 then forwardChunk s1 j (owners j.desc j.ring.length) k src else s1) := by
    unfold beginCol
    rcases hop with h | h <;> (rw [h]; dsimp only; rw [howns, ← hk] <;> rfl)
  rw [hbegin, hput]

theorem sent_reserveCol (s : State) (j : ColJob) (src : List Byte) : Sent s (reserveCol s j src) :=
  sent_foldl (fun _ _ => sent_reserveBlock ..) _ s

theorem sameMessages_reserveCol (s : State) (j : ColJob) (src : List Byte) : SameMessages s (reserveCol s j src) :=
  sameMessages_foldl (fun _ _ => sameMessages_reserveBlock ..) _ s

theorem reserveCol_alone {src : List Byte} (hn : j.ring.length = 1) : reserveCol s j src = s := by
  have hnone : sentChunks j src = [] := by
    unfold sentChunks
    dsimp only
    rw [if_pos (by omega)]
  rw [reserveCol, hnone]
  rfl

theorem takeAllEarly_none (he : s.col.early = []) : takeAllEarly s = setCol s fun c => { c with early := [] } := by
  rw [takeAllEarly, he]
  rfl

theorem col_without {x : Col} (hj : x.jobs = []) (he : x.early = []) : { x with jobs := [], early := [] } = x := by
  cases x
  cases hj
  cases he
  rfl

/-- An owner alone on its ring writes its chunk and completes. -/
theorem startCol_alone (hq : Quiet s) (ht : s.tables.torn = []) (hsrc : d.sourceSram = false) (hdst : d.destSram = false)
    (hop : d.operation = 2 ∨ d.operation = 5) (hjobs : s.col.jobs = []) (hearly : s.col.early = []) (hretry : s.col.retry = [])
    (hunsent : s.col.unsent = []) {ring : List Nat} {p k : Nat} {src : List Byte} (hp : ring.findIdx (· = s.twin.number) = p)
    (howns : (owners d ring.length).contains p = true) (hbytes : src = devRead s d.sourceBase d.chunkBytes)
    (hk : k = if d.operation = 2 then ordinalOf (owners d ring.length) p else 0) (hn : ring.length = 1) :
    startCol s c d ring = done (devWrite s (d.destBase + k * d.chunkBytes) src) c := by
  subst hp
  have hplt : ring.findIdx (· = s.twin.number) < 1 := hn ▸ mem_owners_lt (List.contains_iff_mem.1 howns)
  have ha : d.destBase + k * d.chunkBytes = (newCol s c d ring).desc.destBase +
      (if (newCol s c d ring).desc.operation = 2 then ordinalOf (owners d ring.length) (ring.findIdx (· = s.twin.number)) else 0) *
        (newCol s c d ring).desc.chunkBytes := by
    rw [hk]
    rfl
  have hquiet : Quiet (withCol s (newCol s c d ring)) := hq
  rw [startCol_owner hq ht hsrc hop howns hbytes, reserveCol_alone hn, beginCol_owner hquiet hdst hop howns src rfl ha, if_neg (by
    change ¬ring.length > 1
    omega), takeAllEarly_none (show (devWrite (withCol s (newCol s c d ring)) _ src).col.early = [] from hearly)]
  generalize hx : (setCol (devWrite (withCol s (newCol s c d ring)) (d.destBase + k * d.chunkBytes) src) fun c => { c with early := [] }) = x
  have hcol : x.col = { s.col with jobs := s.col.jobs ++ [newCol s c d ring], early := [] } := hx ▸ rfl
  have hone : x.col.jobs = [newCol s c d ring] := by
    rw [hcol, hjobs]
    rfl
  have hexpect : (newCol s c d ring).expect = [] := by
    have := awaited_alone hop hplt
    rw [← hn] at this
    exact this
  have hacked : colUnacked x (newCol s c d ring) = false := by
    rw [colUnacked, Machine.unacked, hcol, hretry, hunsent]
    rfl
  rw [settleCollectives_one hone hexpect hacked]
  have hdrop : dropColJob x (newCol s c d ring) = devWrite s (d.destBase + k * d.chunkBytes) src := by
    have hcut : dropColJob x (newCol s c d ring) = setCol x fun c => { c with jobs := [] } := by
      unfold dropColJob
      rw [setCol, hone]
      simp [setCol]
    rw [hcut, ← hx]
    exact congrArg (fun y : Col => { devWrite s (d.destBase + k * d.chunkBytes) src with col := y }) (col_without hjobs hearly)
  rw [hdrop]
  rfl

/-- The owner of a chunk is not its own next member. -/
theorem forwardChunk_owner (howns : (owners j.desc j.ring.length).contains j.position = true) (hn : 1 < j.ring.length) (src : List Byte) :
    forwardChunk s j (owners j.desc j.ring.length) (ordinalOf (owners j.desc j.ring.length) j.position) src =
      sendChunk s j (memberAt j ((j.position + 1) % j.ring.length)) 0x02 (ordinalOf (owners j.desc j.ring.length) j.position) false
        (.chunk src) := by
  have hplt : j.position < j.ring.length := mem_owners_lt (List.contains_iff_mem.1 howns)
  refine if_neg ?_
  rw [getD_ordinalOf (List.contains_iff_mem.1 howns)]
  intro h
  rcases Nat.lt_or_ge (j.position + 1) j.ring.length with hlt | hge
  · rw [Nat.mod_eq_of_lt hlt] at h
    omega
  · rw [show j.position + 1 = j.ring.length by omega, Nat.mod_self] at h
    omega

/-- A job whose chunk is on its way still waits for an acknowledgement. -/
theorem Launches.colUnacked {a : State} {dst kind k : Nat} {dir : Bool} {b : Body} (h : Launches s t (chunkMessages a j dst kind k dir b))
    (hkind : kind < 4) : colUnacked t j = true := by
  obtain ⟨x, hx⟩ := List.exists_mem_of_ne_nil _ (chunkMessages_ne_nil a j dst kind k dir b)
  obtain ⟨m, hm, rfl⟩ := h.unacked hx
  obtain ⟨hk, hring, htensor, hstep⟩ := chunkMessage_fields hx
  unfold Machine.colUnacked
  rw [List.any_eq_true]
  refine ⟨m, hm, ?_⟩
  simp only [Bool.and_eq_true, decide_eq_true_eq, Bool.or_eq_true]
  exact ⟨⟨⟨hring, htensor⟩, hstep⟩, .inl (.inl (lt_of_eq_of_lt hk hkind))⟩

/-- An owner writes its chunk and sends it on. -/
theorem startCol_sends (hq : Quiet s) (ht : s.tables.torn = []) (hsrc : d.sourceSram = false) (hdst : d.destSram = false)
    (hop : d.operation = 2 ∨ d.operation = 5) (hjobs : s.col.jobs = []) (hearly : s.col.early = [])
    {ring : List Nat} {p k : Nat} {src : List Byte} (hp : ring.findIdx (· = s.twin.number) = p)
    (howns : (owners d ring.length).contains p = true) (hbytes : src = devRead s d.sourceBase d.chunkBytes)
    (hk : k = if d.operation = 2 then ordinalOf (owners d ring.length) p else 0) (hn : 1 < ring.length) (ht' : t = startCol s c d ring) :
    t.mem = writeBytes s.mem (d.destBase + k * d.chunkBytes) src ∧ t.hif = s.hif ∧ t.col.jobs = [newCol s c d ring] ∧
      SendsAll s t 0x02 ((cutBody (.chunk src)).map fun q => (ring.getD ((p + 1) % ring.length) 0, q.2)) ∧
      SendsOf s t fun m => m.hdr.ringId = d.ringId ∧ m.hdr.tensorId = d.tensor ∧ m.hdr.step = c.slot.step := by
  subst hp
  have ha : d.destBase + k * d.chunkBytes = (newCol s c d ring).desc.destBase +
      (if (newCol s c d ring).desc.operation = 2 then ordinalOf (owners d ring.length) (ring.findIdx (· = s.twin.number)) else 0) *
        (newCol s c d ring).desc.chunkBytes := by
    rw [hk]
    rfl
  have hsent := sent_reserveCol (withCol s (newCol s c d ring)) (newCol s c d ring) src
  have hsame := sameMessages_reserveCol (withCol s (newCol s c d ring)) (newCol s c d ring) src
  have hquiet : Quiet (reserveCol (withCol s (newCol s c d ring)) (newCol s c d ring) src) := quiet_congr hq hsent.gddr_eq
  rw [startCol_owner hq ht hsrc hop howns hbytes, beginCol_owner hquiet hdst hop howns src rfl ha,
    if_pos (show (newCol s c d ring).ring.length > 1 from hn), forwardChunk_owner (j := newCol s c d ring) howns hn] at ht'
  generalize reserveCol (withCol s (newCol s c d ring)) (newCol s c d ring) src = s2 at *
  have hmember : memberAt (newCol s c d ring) (((newCol s c d ring).position + 1) % (newCol s c d ring).ring.length) =
      ring.getD ((ring.findIdx (· = s.twin.number) + 1) % ring.length) 0 := by
    unfold memberAt
    exact congrArg (ring.getD · 0) (Nat.mod_mod ..)
  rw [hmember] at ht'
  generalize ring.getD ((ring.findIdx (· = s.twin.number) + 1) % ring.length) 0 = dst at *
  generalize ordinalOf (owners (newCol s c d ring).desc (newCol s c d ring).ring.length) (newCol s c d ring).position = o at *
  have hlaunch := launches_sendChunk (devWrite s2 (d.destBase + k * d.chunkBytes) src) (newCol s c d ring) dst 0x02 o false (.chunk src)
  have hput := sent_sendChunk (devWrite s2 (d.destBase + k * d.chunkBytes) src) (newCol s c d ring) dst 0x02 o false (.chunk src)
  have hw : SameMessages s (devWrite s2 (d.destBase + k * d.chunkBytes) src) := hsame
  generalize sendChunk (devWrite s2 (d.destBase + k * d.chunkBytes) src) (newCol s c d ring) dst 0x02 o false (.chunk src) = x at *
  have hfirst : x.col.early = [] ∧ x.col.jobs = [newCol s c d ring] := by
    constructor
    · exact ((congrArg Col.early hput.col).trans rfl).trans (((congrArg Col.early hsent.col).trans rfl).trans hearly)
    · refine ((congrArg Col.jobs hput.col).trans rfl).trans (((congrArg Col.jobs hsent.col).trans rfl).trans ?_)
      exact congrArg (· ++ [newCol s c d ring]) hjobs
  have hstart : t = setCol x fun c => { c with early := [] } := by
    rw [ht', takeAllEarly_none hfirst.1]
    refine settleCollectives_none fun y hy => .inr ?_
    have hy' : y = newCol s c d ring := by
      have hjobs' : (setCol x fun c => { c with early := [] }).col.jobs = [newCol s c d ring] := hfirst.2
      rw [hjobs'] at hy
      exact List.mem_singleton.1 hy
    rw [hy']
    exact hlaunch.colUnacked (by decide)
  obtain ⟨hall, hof⟩ := ((Launches.after hw hlaunch).before (⟨rfl, rfl, rfl⟩ : SameMessages x (setCol x fun c => { c with early := [] }))).chunk
  rw [hstart]
  refine ⟨hput.mem_eq.trans ?_, hput.hif_eq.trans ?_, hfirst.2, hall, hof⟩
  · exact congrArg (writeBytes · (d.destBase + k * d.chunkBytes) src) hsent.mem_eq
  · exact hsent.hif_eq

end Sys2Proof.Proofs
end

section
/-! Pieces of collectives, and their reduction (O56). -/

namespace Sys2Proof.Proofs

open Sys2Proof Sys2Proof.Machine Sys2Proof.Laws

variable {s t u : State} {c : HostCmd} {d : ColDesc} {j j0 j1 : ColJob} {h : MsgHdr} {kind k : Nat}

/-! ### Messages without a ring -/

theorem exec_reductionPartial (h : MsgHdr) (elems : List Nat) (s : State) : exec (.reductionPartial h elems) s = .next (receive s h fun s =>
    if h.ringId != 0 then takePiece s h 1 (.partialSum elems)
    else if h.last && elems.isEmpty then setCol s fun c => { c with maxima := c.maxima ++ [(h.step, h.srcClass)] }
    else
      match factoredTable s h.tensorId with
      | some d => takeColumns s d h elems
      | none => takeMaxima s h elems) := rfl

theorem factoredTable_noted (s : State) (h : MsgHdr) (tensor : Nat) : factoredTable (noted s h) tensor = factoredTable s tensor := by
  rw [factoredTable, tables_noted, factoredTable]

theorem maxima_noted (s : State) (h : MsgHdr) : (noted s h).col.maxima = s.col.maxima := by
  rw [col_noted]
  rfl

/-! ### Pieces -/

/-- Whether a message is one of a job's. -/
def ofJob (h : MsgHdr) (j : ColJob) : Bool := j.desc.ringId = h.ringId && j.desc.tensor = h.tensorId && j.cmd.slot.step = h.step

theorem ofJob_eq (h : MsgHdr) : ofJob h = fun j => decide (j.desc.ringId = h.ringId ∧ j.desc.tensor = h.tensorId ∧ j.cmd.slot.step = h.step) := by
  funext j
  simp [ofJob, Bool.and_assoc]

theorem takePiece_none (kind : Nat) (b : Body) (hnone : s.col.jobs.find? (ofJob h) = none) : takePiece s h kind b = keepEarly s h b := by
  rw [takePiece, show (s.col.jobs.find? fun j => j.desc.ringId = h.ringId && j.desc.tensor = h.tensorId && j.cmd.slot.step = h.step) = none from hnone]

theorem takePiece_some (b : Body) (hj0 : s.col.jobs.find? (ofJob h) = some j0)
    (hk : k = if kind < 3 then h.offset / spanOf j0.desc kind else h.srcPosition) :
    (colFor s h kind k = none → takePiece s h kind b = keepEarly s h b) ∧
    ∀ j j1, colFor s h kind k = some j → j1 = { j with pieces := j.pieces ++
        [⟨kind, k, if kind < 3 then h.offset % spanOf j0.desc kind else h.offset, h.last, asSent j.desc b⟩] } →
      takePiece s h kind b = takeWhole (setColJob s j1) j1 kind k := by
  unfold takePiece
  rw [show (s.col.jobs.find? fun j => j.desc.ringId = h.ringId && j.desc.tensor = h.tensorId && j.cmd.slot.step = h.step) = some j0 from hj0]
  dsimp only
  rw [← hk]
  refine ⟨fun hnone => by rw [hnone], fun j j1 hsome hj1 => ?_⟩
  rw [hsome, hj1]

/-! ### A chunk that is whole -/

section Whole
variable {ps : List Piece}

/-- The pieces of a chunk. -/
def ofChunk (kind k : Nat) (p : Piece) : Bool := p.kind = kind && p.ordinal = k

theorem ofChunk_eq (kind k : Nat) : ofChunk kind k = fun p => decide (p.kind = kind ∧ p.ordinal = k) := by
  funext p
  simp [ofChunk]

/-- A job without the pieces of a chunk that is whole. -/
def chunkTaken (j : ColJob) (kind k : Nat) : ColJob := { ticked j kind k with pieces := j.pieces.filter fun p => !ofChunk kind k p }

theorem chunkTaken_eq (j : ColJob) (kind k : Nat) : chunkTaken j kind k =
    { ticked j kind k with pieces := j.pieces.filter fun p => ¬ (p.kind = kind ∧ p.ordinal = k) } := by
  rw [chunkTaken, ofChunk_eq]
  simp only [decide_not]

theorem takeWhole_stays (hw : wholeOf (j.pieces.filter (ofChunk kind k)) = none ∨ colWaits s j kind k = true) : takeWhole s j kind k = s := by
  rw [takeWhole]
  change (match wholeOf (j.pieces.filter (ofChunk kind k)) with
    | none => s
    | some body => if colWaits s j kind k = true then s else _) = s
  rcases hw with hw | hw
  · rw [hw]
  · rw [hw]
    split <;> rfl

theorem takeWhole_takes {b : Body} (hw : wholeOf (j.pieces.filter (ofChunk kind k)) = some b) (hc : colWaits s j kind k = false) :
    (∀ xs w, kind = 1 → b = .partialSum xs w → takeWhole s j kind k = reduceStep s (chunkTaken j kind k) k (some xs)) ∧
    (∀ bs, kind = 2 → b = .chunk bs → takeWhole s j kind k = takeChunk s (chunkTaken j kind k) k bs) ∧
    (∀ bs, kind = 3 → b = .block bs → takeWhole s j kind k = takeBlock s (chunkTaken j kind k) k bs) ∧
    (∀ bs, kind = 8 → b = .chunk bs → takeWhole s j kind k = takePass s (chunkTaken j kind k) k bs) := by
  have hfilter : wholeOf (j.pieces.filter fun p => p.kind = kind && p.ordinal = k) = some b := hw
  unfold takeWhole
  dsimp only
  rw [hfilter, hc]
  refine ⟨fun xs w hk hb => ?_, fun bs hk hb => ?_, fun bs hk hb => ?_, fun bs hk hb => ?_⟩ <;>
    (subst hk hb; rfl)

theorem quiet_setColJob (hq : Quiet s) (j : ColJob) : Quiet (setColJob s j) := hq

/-- A gathered chunk is written, and passed on unless its owner is next. -/
theorem takeChunk_frame {bs : List Byte} (hq : Quiet s) (hdst : j.desc.destSram = false) (hos : owners j.desc j.ring.length ≠ []) :
    (takeChunk s j k bs).mem = writeBytes s.mem
      (j.desc.destBase + (if j.desc.operation = 2 ∨ j.desc.operation = 3 then k else 0) * j.desc.chunkBytes) bs ∧
    ((owners j.desc j.ring.length).getD k 0 ≠ (j.position + 1) % j.ring.length → SendsAll s (takeChunk s j k bs) 0x02
      ((cutBody (.chunk bs)).map fun q => (memberAt j ((j.position + 1) % j.ring.length), q.2))) ∧
    ((owners j.desc j.ring.length).getD k 0 = (j.position + 1) % j.ring.length → SendsAll s (takeChunk s j k bs) 0x02 []) := by
  have hplace : (if (decide (j.desc.operation = 2) || decide (j.desc.operation = 3)) = true then k else 0) =
      if j.desc.operation = 2 ∨ j.desc.operation = 3 then k else 0 := by
    simp only [Bool.or_eq_true, decide_eq_true_eq]
  have htake : takeChunk s j k bs = settleCollectives (forwardChunk (devWrite (setColJob s j) (j.desc.destBase +
      (if j.desc.operation = 2 ∨ j.desc.operation = 3 then k else 0) * j.desc.chunkBytes) bs) j (owners j.desc j.ring.length) k bs) := by
    unfold takeChunk putChunk
    dsimp only
    rw [List.isEmpty_eq_false_iff.2 hos, if_neg Bool.false_ne_true, hdst, hplace, colWrite_of_quiet (quiet_setColJob hq _)]
  rw [htake, mem_settleCollectives]
  generalize hx : devWrite (setColJob s j) (j.desc.destBase +
    (if j.desc.operation = 2 ∨ j.desc.operation = 3 then k else 0) * j.desc.chunkBytes) bs = x
  have hsame : SameMessages s x := hx ▸ ⟨rfl, rfl, rfl⟩
  have hmem : x.mem = writeBytes s.mem (j.desc.destBase +
      (if j.desc.operation = 2 ∨ j.desc.operation = 3 then k else 0) * j.desc.chunkBytes) bs := hx ▸ rfl
  unfold forwardChunk
  dsimp only
  refine ⟨?_, fun hne => ?_, fun heq => ?_⟩
  · split
    · exact hmem
    · exact (sent_sendChunk ..).mem_eq.trans hmem
  · rw [if_neg hne]
    exact ((Launches.after hsame (launches_sendChunk ..)).before (sameMessages_settleCollectives _)).chunk.1
  · rw [if_pos heq]
    exact (hsame.trans (sameMessages_settleCollectives _)).launches.sendsAll nofun rfl

/-- A block of an all-to-all. -/
theorem takeBlock_frame {bs all : List Byte} (hall : all = (sortBy (·.1) (j.blocks ++ [(k, bs)])).flatMap (·.2)) :
    (j.expect ≠ [] → takeBlock s j k bs = setColJob s { j with blocks := j.blocks ++ [(k, bs)] }) ∧
    (j.expect = [] → endBad s j.desc.destSram j.desc.destBase all.length = true → ∃ u, takeBlock s j k bs =
      failCol u { j with blocks := j.blocks ++ [(k, bs)] } 0x12 0x120 0) ∧
    (j.expect = [] → endBad s j.desc.destSram j.desc.destBase all.length = false → j.desc.destSram = false → Quiet s →
      (takeBlock s j k bs).mem = writeBytes s.mem j.desc.destBase all) := by
  unfold takeBlock placeBlocks
  dsimp only
  rw [← hall]
  have hend : endBad (setColJob s { j with blocks := j.blocks ++ [(k, bs)] }) j.desc.destSram j.desc.destBase all.length =
      endBad s j.desc.destSram j.desc.destBase all.length := rfl
  rw [hend]
  refine ⟨fun he => if_neg (by simpa using he), fun he hb => ?_, fun he hb hdst hq => ?_⟩
  · rw [if_pos (by simp [he]), if_pos hb]
    exact ⟨_, rfl⟩
  · rw [if_pos (by simp [he]), if_neg (by simp [hb]), hdst, colWrite_of_quiet (quiet_setColJob hq _)]
    dsimp only
    rw [mem_settleCollectives]
    rfl

/-- A hand-over lies in its slot, behind its mark. -/
theorem mem_takePass {bs : List Byte} {a : Nat} {after : Bool} (hq : Quiet s) (hdst : j.desc.destSram = false)
    (hafter : after = ((k + 1) % j.ring.length != j.position)) (ha : a = passSlot j.desc after) :
    (takePass s j k bs).mem = writeBytes (writeBytes s.mem a (bs.take j.desc.chunkBytes)) (a + j.desc.chunkBytes + 192)
      (markBytes ⟨j.cmd.slot.step, j.desc.ringId, j.desc.tensor, false, k, !after, false, s.job.layoutEpoch, s.job.number⟩) := by
  unfold takePass
  dsimp only
  rw [← hafter, ← ha, hdst, colWrite_of_quiet hq]
  change (match colWrite (devWrite s a (bs.take j.desc.chunkBytes)) false j.desc.destCore (a + j.desc.chunkBytes + 192) _ with
    | .error x => failColWrite s j x
    | .ok s1 => settleCollectives (setColJob s1 j)).mem = _
  rw [colWrite_of_quiet (quiet_devWrite hq ..)]
  dsimp only
  rw [mem_settleCollectives]
  rfl

end Whole

end Sys2Proof.Proofs
end

section
/-! The reduction of a chunk, and the collectives together (O56). -/

namespace Sys2Proof.Proofs

open Sys2Proof Sys2Proof.Machine Sys2Proof.Laws

variable {s t u : State} {c : HostCmd} {d : ColDesc} {j : ColJob} {h : MsgHdr} {k : Nat}

/-! ### Counts of a reduction -/

theorem onlyCounts_noteCol (s : State) (d : ColDesc) (xs : List (Nat × Exc)) : OnlyCounts s (noteCol s d xs) := by
  unfold noteCol noteGrade
  exact onlyCounts_noteGradeWith ..

theorem onlyCounts_noteResult (s : State) (d : ColDesc) (hd : List Byte) (xs : List Nat) (r : List Byte × List Exc × List (Val × Val)) :
    OnlyCounts s (noteResult s d hd xs r) := by
  unfold noteResult
  dsimp only
  split
  · exact (onlyCounts_noteGradeWith ..).trans rfl
  · exact onlyCounts_noteGradeWith ..

theorem onlyCounts_foldl {α : Type} {f : State → α → State} (hf : ∀ t x, OnlyCounts t (f t x)) (l : List α) (s : State) :
    OnlyCounts s (l.foldl f s) := by
  induction l generalizing s with
  | nil => exact rfl
  | cons x l ih => exact (hf s x).trans (ih _)

section Counted
variable (hx : OnlyCounts s t)
include hx

theorem OnlyCounts.mem_eq : t.mem = s.mem := (congrArg State.mem hx).trans rfl
theorem OnlyCounts.gddr_eq : t.gddr = s.gddr := (congrArg State.gddr hx).trans rfl
theorem OnlyCounts.col_eq : t.col = s.col := (congrArg State.col hx).trans rfl
theorem OnlyCounts.job_eq : t.job = s.job := (congrArg State.job hx).trans rfl
theorem OnlyCounts.twin_eq : t.twin = s.twin := (congrArg State.twin hx).trans rfl

theorem OnlyCounts.colRead_eq (sram : Bool) (core a n : Nat) : colRead t sram core a n = colRead s sram core a n :=
  (congrArg (fun x : State => colRead x sram core a n) hx).trans rfl

theorem OnlyCounts.resultTile_eq (ctl : Ctl) (d : ColDesc) (step tag : Nat) (hd : List Byte) (xs : List Nat) :
    (resultTile t ctl d step tag hd xs).1 = (resultTile s ctl d step tag hd xs).1 := by
  unfold resultTile
  dsimp only
  rw [hx.job_eq]

end Counted

/-! ### The reduction -/

section Reduce
variable {acc : Option (List Nat)} {own : List Byte} {r : List (Nat × Exc)} {tiles : List (List Byte)}
  (hread : colRead s j.desc.sourceSram j.desc.sourceCore (j.desc.sourceBase + k * j.desc.chunkBytes) j.desc.chunkBytes = .ok own)
  (hr : r = reduceChunk (ctlOf j.cmd) j.desc.reduceOp acc (contribution (ctlOf j.cmd) own)) (ht : tiles = chunkTiles (own.length / 256) own)
include hread hr ht

theorem reduceStep_eq : reduceStep s j k acc =
    if !(tiles.all (sourceTileOk (ctlOf j.cmd).mode)) then failCol s j 0x12 0x1000 (j.desc.sourceBase + k * j.desc.chunkBytes)
    else if (owners j.desc j.ring.length).getD k 0 = j.position then
      finishChunk (noteCol s j.desc r) j (owners j.desc j.ring.length) k own r
    else settleCollectives (sendChunk (setColJob (noteCol s j.desc (onWire (ctlOf j.cmd) j.desc r)) j) j (memberAt j (j.position + 1)) 0x01 k
      false (.partialSum ((onWire (ctlOf j.cmd) j.desc r).map (·.1)) (j.desc.wire = 1))) := by
  unfold reduceStep
  dsimp only
  rw [hread]
  dsimp only
  rw [← hr, ← ht]

theorem reduceStep_refused (h : ∃ x ∈ tiles, sourceTileOk (ctlOf j.cmd).mode x = false) :
    reduceStep s j k acc = failCol s j 0x12 0x1000 (j.desc.sourceBase + k * j.desc.chunkBytes) := by
  rw [reduceStep_eq hread hr ht, if_pos]
  simpa using h

variable (hok : ∀ x ∈ tiles, sourceTileOk (ctlOf j.cmd).mode x = true)
include hok

/-- A partial goes on to the next member. -/
theorem reduceStep_passes (hown : (owners j.desc j.ring.length).getD k 0 ≠ j.position) :
    SendsAll s (reduceStep s j k acc) 0x01 ((cutBody (.partialSum ((onWire (ctlOf j.cmd) j.desc r).map (·.1)) (j.desc.wire = 1))).map
      fun q => (memberAt j (j.position + 1), q.2)) ∧
    SendsOf s (reduceStep s j k acc) fun m => m.hdr.ringId = j.desc.ringId ∧ m.hdr.tensorId = j.desc.tensor ∧
      m.hdr.step = j.cmd.slot.step := by
  rw [reduceStep_eq hread hr ht, if_neg (by simpa using hok), if_neg hown]
  have hsame : SameMessages s (setColJob (noteCol s j.desc (onWire (ctlOf j.cmd) j.desc r)) j) :=
    (SameMessages.of_col (onlyCounts_noteCol ..).col_eq).trans (sameMessages_setColJob ..)
  exact ((Launches.after hsame (launches_sendChunk ..)).before (sameMessages_settleCollectives _)).chunk

theorem reduceStep_finishes (hown : (owners j.desc j.ring.length).getD k 0 = j.position) :
    reduceStep s j k acc = finishChunk (noteCol s j.desc r) j (owners j.desc j.ring.length) k own r := by
  rw [reduceStep_eq hread hr ht, if_neg (by simpa using hok), if_pos hown]

end Reduce

theorem blockMessages_single {α : Type} (l : List α) (m : Nat) (f : α → MsgHdr) (b : α → Body) :
    blockMessages (l.map fun q => ([m], f q, b q)) = l.map fun q => (m, { f q with sequence := 0 }, b q) := by
  unfold blockMessages
  rw [List.flatMap_map, List.map_eq_flatMap]
  rfl

/-- The messages of reduced gradients. -/
theorem deliverUpdates_block {tiles : List (List Byte)} {xs : List Nat} (htwin : j.desc.twinCopy = false) : ∃ f : List Byte × Nat → MsgHdr,
    (∀ q, (f q).kind = 0x07) ∧ deliverUpdates s j tiles xs = sendBlock s (chunkIdent j.desc 7 0) j.desc.ringId j.desc.tensor j.cmd.slot.step
      (tiles.zipIdx.map fun q => ([s.twin.number], f q,
        .gradTile (leAt q.1 8 2) (leAt q.1 0xA 2) ((xs.drop (16384 * q.2)).take 16384))) := by
  unfold deliverUpdates
  simp only [htwin, Bool.false_eq_true, if_false]
  exact ⟨_, fun q => rfl, rfl⟩

/-- Reduced gradients, one tile after another, to the update units of this module. -/
theorem finishChunk_delivers {os : List Nat} {own : List Byte} {r : List (Nat × Exc)} {tiles : List (List Byte)}
    (ht : tiles = chunkTiles (own.length / 256) own) (hup : j.desc.toUpdate = true) (htwin : j.desc.twinCopy = false) :
    SendsAll s (finishChunk s j os k own r) 0x07 (tiles.zipIdx.map fun q =>
      (s.twin.number, .gradTile (leAt q.1 8 2) (leAt q.1 0xA 2) (((r.map (·.1)).drop (16384 * q.2)).take 16384))) := by
  have hfinish : finishChunk s j os k own r = settleCollectives (deliverUpdates (setColJob s j) j tiles (r.map (·.1))) := by
    rw [ht]
    exact if_pos hup
  rw [hfinish]
  obtain ⟨f, hkind, hdeliver⟩ := deliverUpdates_block (s := setColJob s j) (tiles := tiles) (xs := r.map (·.1)) htwin
  rw [hdeliver]
  have hlaunch := (Launches.after (sameMessages_setColJob s j) (launches_sendBlock (setColJob s j) (chunkIdent j.desc 7 0) j.desc.ringId
    j.desc.tensor j.cmd.slot.step (tiles.zipIdx.map fun q => ([s.twin.number], f q,
      .gradTile (leAt q.1 8 2) (leAt q.1 0xA 2) (((r.map (·.1)).drop (16384 * q.2)).take 16384))))).before (sameMessages_settleCollectives _)
  rw [blockMessages_single] at hlaunch
  refine hlaunch.sendsAll (fun x hx => ?_) ?_
  · obtain ⟨q, -, rfl⟩ := List.mem_map.1 hx
    exact hkind q
  · rw [List.map_map]
    rfl

section Finish
variable {os : List Nat} {own hd : List Byte} {r : List (Nat × Exc)} {tiles : List (List Byte)} {base : Nat}
  (ht : tiles = chunkTiles (own.length / 256) own) (hup : j.desc.toUpdate = false) (hdst : j.desc.destSram = false)
  (hbase : base = j.desc.destBase + (if j.desc.operation = 3 then k * j.desc.chunkBytes else 0))
  (hread : colRead s false j.desc.destCore base 64 = .ok hd)
include hup hdst hbase hread

theorem finishChunk_refused (htag : storeTagOk (ctlOf j.cmd).mode (leAt hd 0 1) = false) :
    finishChunk s j os k own r = failCol s j 0x12 0x1000 base := by
  unfold finishChunk
  dsimp only
  rw [hup, if_neg Bool.false_ne_true, hdst, ← hbase, hread]
  dsimp only
  rw [htag, Bool.not_false, if_pos rfl]

include ht

/-- The result of a reduction, in the format of its place. -/
theorem mem_finishChunk (hq : Quiet s) (htag : storeTagOk (ctlOf j.cmd).mode (leAt hd 0 1) = true) :
    (finishChunk s j os k own r).mem = writeBytes s.mem base
      ((tiles.zipIdx.flatMap fun q => (resultTile s (ctlOf j.cmd) j.desc j.cmd.slot.step (leAt hd 0 1) q.1
        (((r.map (·.1)).drop (16384 * q.2)).take 16384)).1).take j.desc.chunkBytes) := by
  unfold finishChunk
  dsimp only
  rw [hup, if_neg Bool.false_ne_true, hdst, ← hbase, hread]
  dsimp only
  rw [htag, Bool.not_true, if_neg Bool.false_ne_true, ← ht]
  generalize hout : (tiles.zipIdx.map fun q => (q.1, ((r.map (·.1)).drop (16384 * q.2)).take 16384,
    resultTile s (ctlOf j.cmd) j.desc j.cmd.slot.step (leAt hd 0 1) q.1 (((r.map (·.1)).drop (16384 * q.2)).take 16384))) = out
  have hbytes : (out.flatMap fun o => o.2.2.1) = tiles.zipIdx.flatMap fun q => (resultTile s (ctlOf j.cmd) j.desc j.cmd.slot.step
      (leAt hd 0 1) q.1 (((r.map (·.1)).drop (16384 * q.2)).take 16384)).1 := by
    rw [← hout, List.flatMap_map]
  rw [hbytes]
  generalize (tiles.zipIdx.flatMap fun q => (resultTile s (ctlOf j.cmd) j.desc j.cmd.slot.step (leAt hd 0 1) q.1
    (((r.map (·.1)).drop (16384 * q.2)).take 16384)).1).take j.desc.chunkBytes = bs
  have hnotes : OnlyCounts s (out.foldl (fun t o => noteResult t j.desc o.1 o.2.1 o.2.2) s) :=
    onlyCounts_foldl (fun _ _ => onlyCounts_noteResult ..) out s
  generalize out.foldl (fun t o => noteResult t j.desc o.1 o.2.1 o.2.2) s = x at *
  rw [colWrite_of_quiet (quiet_congr hq hnotes.gddr_eq)]
  dsimp only
  rw [mem_settleCollectives]
  have hcopy : (copyResult (setColJob (devWrite x base bs) j) j base bs).mem = writeBytes s.mem base bs := by
    refine Eq.trans ?_ (congrArg (writeBytes · base bs) hnotes.mem_eq)
    unfold copyResult
    split
    · rfl
    · exact (sent_sendBlock ..).mem_eq
  split
  · unfold forwardChunk
    dsimp only
    split
    · exact hcopy
    · exact (sent_sendChunk ..).mem_eq.trans hcopy
  · exact hcopy

end Finish

end Sys2Proof.Proofs
end

section
/-! Collectives move their chunks (O56). -/

namespace Sys2Proof.Proofs

open Sys2Proof Sys2Proof.Machine Sys2Proof.Laws

variable {s t u : State} {c : HostCmd} {d : ColDesc} {h : MsgHdr}

/-- A collective whose descriptor is sound. -/
theorem exec_colRun_checked {data bs : List Byte} (hr : ready s 0x0131 c = true) (hnew : ∀ j ∈ s.col.jobs, j.cmd ≠ c)
    (hout : operandOut s c 64 = false) (hfault : operandFault s c 64 = none) (hbs : bs = operandBytes s c data 64) (hd : d = colDescOf bs)
    (hsound : colFault s c.fn bs (mget s.col.rings d.ringId) = none) {ring : Option Ring} (hring : mget s.col.rings d.ringId = ring) :
    exec (.colRun c data) s = .next (colChecked s c d ring) := by
  have hrun := exec_colRun hr hnew hout hfault hbs hd
  rw [hsound] at hrun
  exact hrun.trans (by rw [hring])

/-- The messages of collectives, and those without a ring. -/
theorem takes_reductionPartial {elems : List Nat} (ha : Accepted s h) {e : State}
    (he : (if h.ringId != 0 then takePiece (noted s h) h 1 (.partialSum elems)
      else if h.last && elems.isEmpty then setCol (noted s h) fun c => { c with maxima := c.maxima ++ [(h.step, h.srcClass)] }
      else
        match factoredTable (noted s h) h.tensorId with
        | some d => takeColumns (noted s h) d h elems
        | none => takeMaxima (noted s h) h elems) = e) {Q : State → Prop} (hQ : Q e) : Takes (.reductionPartial h elems) s h Q :=
  takes_of_receive ha (exec_reductionPartial h elems s) (by rw [← he] at hQ; exact hQ)

/-- Settles O56: the start of an owner by `startCol_alone` and `startCol_sends`, a whole chunk by `takeWhole_takes`, the reduction by
`reduceStep_passes`, `finishChunk_delivers` and `mem_finishChunk`. -/
theorem collectivesMoveTheirChunks : Obligations.CollectivesMoveTheirChunks := by
  unfold Obligations.CollectivesMoveTheirChunks
  refine ⟨?_, fun h elems bs s ha => ⟨fun hring => ?_, fun hring hlast hel => ?_, fun d hring hmore hd => ?_, fun hring hmore hd => ?_, ?_, ?_⟩,
    fun s h kind body => ⟨fun hnone => ?_, fun j0 k hj0 hk => ?_⟩, fun s j j1 kind k ps hps hj1 => ?_, ?_⟩
  · intro c data s bs d ms hr hnew hout hfault hbs hd hms
    have hexec := exec_colRun hr hnew hout hfault hbs hd
    refine ⟨fun d0 hf => ?_, fun hsound => ⟨fun hepoch => ?_, fun hepoch r hring => ?_⟩⟩
    · rw [hf] at hexec
      exact endsIn_finish hexec (by decide)
    · rw [hsound] at hexec
      dsimp only at hexec
      rw [colChecked, if_pos (by simpa using hepoch)] at hexec
      exact endsIn_finish hexec (by decide)
    · have hrun := exec_colRun_checked hr hnew hout hfault hbs hd hsound hring
      have hmembers : ms = r.members := by
        rw [hms, hring]
        rfl
      subst hmembers
      refine ⟨fun hb m hm => ?_, fun hb hsame => ?_, fun hb hup hpar => ?_, fun hb hjobs hpar => ⟨fun hsrc hphys => ?_, fun hok hdst hphys => ?_⟩,
        fun hb hjobs hearly hretry hunsent htorn hsrc hdst hup hq hop p src k hp howns hsrc' hk => ⟨fun hn => ?_, fun hn => ?_⟩⟩
      · rw [colChecked_broken hepoch hb hm] at hrun
        exact endsIn_finish hrun (by decide)
      · rw [colChecked_refused hepoch hb (.inl hsame)] at hrun
        exact endsIn_finish hrun (by decide)
      · rw [colChecked_refused hepoch hb (.inr ⟨hup, hpar⟩)] at hrun
        exact endsIn_finish hrun (by decide)
      · rw [colChecked_runs hepoch hb hjobs hpar, if_pos (by simp [hsrc, hphys])] at hrun
        exact endsIn_finish hrun (by decide)
      · rw [colChecked_runs hepoch hb hjobs hpar, if_neg (by simpa using hok), if_pos (by simp [hdst, hphys])] at hrun
        exact endsIn_finish hrun (by decide)
      all_goals
        rw [colChecked_runs hepoch hb hjobs (by simp [hup]), if_neg (by simp [hsrc]), if_neg (by simp [hdst])] at hrun
      · rw [startCol_alone hq htorn hsrc hdst hop hjobs hearly hretry hunsent hp howns hsrc' hk hn] at hrun
        exact endsIn_done hrun
      · obtain ⟨hmem, hhif, hjob, hall, hof⟩ := startCol_sends (c := c) hq htorn hsrc hdst hop hjobs hearly hp howns hsrc' hk hn rfl
        refine ⟨_, hrun, hmem, hhif, hjob.trans ?_, hall, hof⟩
        rw [newCol, hp, hring]
        rfl
  · exact takes_reductionPartial ha (if_pos (by simpa using hring)) rfl
  · refine takes_reductionPartial ha (by rw [if_neg (by simpa using hring), if_pos (by simp [hlast, hel])]) ?_
    exact congrArg (fun m => { noted s h with col := { (noted s h).col with maxima := m ++ [(h.step, h.srcClass)] } }) (maxima_noted s h)
  · refine takes_reductionPartial ha (by
      rw [if_neg (by simpa using hring), if_neg (by rcases hmore with h1 | h1 <;> simp [h1]), factoredTable_noted, hd]) rfl
  · refine takes_reductionPartial ha (by
      rw [if_neg (by simpa using hring), if_neg (by rcases hmore with h1 | h1 <;> simp [h1]), factoredTable_noted, hd]) ⟨rfl, _, mget_mput_self .., rfl⟩
  · exact takes_of_receive ha rfl rfl
  · exact takes_of_receive ha rfl rfl
  · refine takePiece_none kind body ?_
    rw [List.find?_eq_none]
    intro j hj hof
    simp only [ofJob, Bool.and_eq_true, decide_eq_true_eq] at hof
    exact hnone j hj hof.1.1 hof.1.2 hof.2
  · exact takePiece_some body (by rw [ofJob_eq]; exact hj0) hk
  · have hwhole : wholeOf ps = wholeOf (j.pieces.filter (ofChunk kind k)) := by
      rw [hps, ofChunk_eq]
    have hj1' : j1 = chunkTaken j kind k := hj1.trans (chunkTaken_eq j kind k).symm
    rw [hwhole]
    refine ⟨takeWhole_stays, fun xs w hkind hw hc => ?_, fun bs hkind hw hdst hq hos => ?_, fun bs all hkind hw hall hc => ?_,
      fun bs a after hkind hw hdst hq hafter ha => ?_⟩
    · rw [(takeWhole_takes hw hc).1 xs w hkind rfl, hj1']
    · rw [(takeWhole_takes hw (colWaits_of_quiet hq ..)).2.1 bs hkind rfl]
      exact takeChunk_frame hq hdst hos
    · rw [(takeWhole_takes hw hc).2.2.1 bs hkind rfl, hj1']
      exact takeBlock_frame hall
    · rw [(takeWhole_takes hw (colWaits_of_quiet hq ..)).2.2.2 bs hkind rfl]
      exact mem_takePass hq hdst hafter ha
  · intro s j k acc own r tiles hread hr ht
    refine ⟨reduceStep_refused hread hr ht, fun hok => ⟨reduceStep_passes hread hr ht hok, fun hown hup htwin => ?_,
      fun base hd hown hup hdst hbase hq hdread => ⟨fun htag => ?_, fun htag => ?_⟩⟩⟩
    all_goals
      have hnote := onlyCounts_noteCol s j.desc r
      rw [reduceStep_finishes hread hr ht hok hown]
    · have hsends := finishChunk_delivers (s := noteCol s j.desc r) (os := owners j.desc j.ring.length) (k := k) (r := r) ht hup htwin
      rw [hnote.twin_eq] at hsends
      unfold SendsAll at *
      rw [hnote.col_eq] at hsends
      exact hsends
    · exact ⟨_, finishChunk_refused hup hdst hbase ((hnote.colRead_eq ..).trans hdread) htag, hnote.mem_eq⟩
    · rw [mem_finishChunk ht hup hdst hbase ((hnote.colRead_eq ..).trans hdread) (quiet_congr hq hnote.gddr_eq) htag, hnote.mem_eq]
      simp only [hnote.resultTile_eq]

end Sys2Proof.Proofs
end
